-- ==== Sys2Proof/Word.lean ====
section
/-!
DEFINITION. The units of data: a byte and a 64-byte line (Table 2-1; R6: byte n of a line is bits 8n+7 to 8n).
-/

namespace Sys2Proof

/-- A byte of the store. -/
abbrev Byte := BitVec 8

/-- A line of 64 bytes, little-endian: byte n is bits [8n+7:8n] (R6, Table 2-1). -/
abbrev Line := BitVec 512

/-- A line as it is read or carried by a data flit: its bytes and its poison flag (Table 7-4, R410). -/
structure DLine where
  data   : Line
  poison : Bool
deriving DecidableEq, Repr

end Sys2Proof
end

