-- ==== Sys2Proof/Syntax.lean ====
section
/-!
DEFINITION. The commands of the block: one constructor of `Instr` per row of the opcode table, in the table's order,
with the fields the spec gives each. An operand that the outside world or a self-timed unit finds (a reading, a check's
result, a peer's answer) is an operand of the command.
-/

namespace Sys2Proof

/-- Spine half (Table 1-1): REFCLK_SDW serves the west half, REFCLK_SDE the east. -/
inductive Half where
  | west
  | east
deriving DecidableEq, Repr

/-- A request header payload, Table 7-3. Every field is the raw bits the flit carries, reserved bits included. -/
structure Hdr where
  flags    : BitVec 8  := 0x40
  lines    : BitVec 16 := 1
  sword    : BitVec 64 := 0x000000FFFFFF0001
  addr     : BitVec 64 := 0
  srcdev   : BitVec 16 := 0
  dstdev   : BitVec 16 := 0
  stream   : BitVec 32 := 0
  seq      : BitVec 32 := 0
  reqid    : BitVec 32 := 0
  epoch    : BitVec 32 := 0
  tag      : BitVec 16 := 0
  ctr      : BitVec 16 := 0
  part     : BitVec 8  := 0
  etype    : BitVec 8  := 0
  asid     : BitVec 16 := 0
  operand  : BitVec 64 := 0
  operand2 : BitVec 64 := 0
  operand3 : BitVec 64 := 0
deriving DecidableEq, Repr

/-- What the checks of chapter 17 find at one line of a request, where they find anything (R401-R405). -/
inductive Finding where
  /-- an internal path refused the transfer and replayed it this many times (R401) -/
  | pathReplays (line : Nat) (replays : Nat)
  /-- the line check of R402 did not match -/
  | lineCheck (line : Nat)
  /-- words of slice SRAM with bad parity; `rebuilt` says whether the rebuilt line matches its line check (R403) -/
  | sramParity (line : Nat) (words : Nat) (rebuilt : Bool)
  /-- bytes of the HBM4 code word in error (R404, R405); 255 when the extent cannot be counted; row location -/
  | hbmBytes (line : Nat) (bytes : Nat) (row : BitVec 32)
deriving DecidableEq, Repr

/-- Where a coherence request comes from (Table 6-1): a role-2 port with its header, or a core cluster. -/
inductive CohSrc where
  | port (p : Fin 16) (h : Hdr)
  | cluster (k : Fin 8) (addr : BitVec 64)
deriving DecidableEq, Repr

/-- Where a sync or fence operation comes from (R149): an engine chain, a port requester's class S request, or the plinth, whose
operation has the fields of such a request (Table 7-16). -/
inductive SyncSrc where
  | pair (n : Fin 1024)
  | port (p : Fin 16) (h : Hdr)
  | plinth (h : Hdr)
deriving DecidableEq, Repr

/-- A dictionary session (R443): the physical function, a virtual function, an MCTP session, or the test port's at debug level
1 (Table 20-5). -/
inductive Session where
  | pf
  | vf (n : Fin 64)
  | mctp (n : Fin 16)
  | tap
deriving DecidableEq, Repr

/-- Which function of the PCI Express endpoint (R435): 0 is the physical function, n is virtual function n. -/
abbrev Func := Fin 65

/-- A trained unit (R426). -/
inductive TrainUnit where
  | hbm (ch : Fin 256)
  | nand (ch : Fin 32)
  | port (p : Fin 16)
deriving DecidableEq, Repr

/-- The outcome of one training (R426): good, good after a repair, or failed. `lanes` is the lane map of a port
(0x3040:02, R182). -/
structure TrainResult where
  good     : Bool
  repaired : Bool := false
  lanes    : BitVec 8 := 0
  detail   : BitVec 64 := 0
deriving DecidableEq, Repr

/-- What the checks of a bring-up phase found (Tables 18-1, 18-2): the plinth's RAM, the clocks and networks, the speed monitors
at the floor plus 15 mV; physical slices found failing (34 × region + slice), logical clusters found failing; and how many HBM4
channels a warm fast path had to retrain in full (R426). -/
structure PhaseFound where
  plinth    : Bool := true
  network   : Bool := true
  speed     : Bool := true
  slices    : List (Fin 272) := []
  clusters  : List (Fin 8) := []
  retrained : Nat := 0
deriving DecidableEq, Repr

/-- A stream's name at a port: source device, source agent, and the cast group where it is a cast stream (R131, R132). -/
structure StreamId where
  dev   : BitVec 14
  agent : BitVec 16
  cast  : Option (BitVec 12) := none
deriving DecidableEq, Repr

/-- What the board puts into the boot flash before a cold bring-up: firmware copies A and B, each with its signed header,
the configuration image region, and the certificate region (R423, R456, R458). -/
structure BootFlash where
  copyA : List Byte
  copyB : List Byte
  image : List Byte
  cert  : List Byte
deriving DecidableEq, Repr

/-- A completion flit, Table 7-5. -/
structure ComplFlit where
  dstdev : BitVec 16
  status : BitVec 8
  reqid  : BitVec 32
  word   : BitVec 64
  value  : BitVec 64
deriving DecidableEq, Repr

/-- A response data flit: the meta word's fields of Table 7-4 and the line. -/
structure RespFlit where
  dstdev : BitVec 14
  path   : BitVec 2
  reqid  : BitVec 32
  line   : BitVec 10
  data   : DLine
deriving DecidableEq, Repr

/-- A maquette entry, Table 15-1 (16 bytes). -/
structure MaqEntry where
  epoch : BitVec 32 := 0
  home  : BitVec 14 := 0
  twin  : BitVec 14 := 0x3FFF
  state : BitVec 8  := 0
  prot  : Bool      := false
  tier  : BitVec 2  := 0
  part  : BitVec 8  := 0
  gen   : BitVec 16 := 0
deriving DecidableEq, Repr

/-- One row of the device table (R370): role (Table 15-3), twin, keeper duty (0xFFFF none). -/
structure DevRow where
  role : BitVec 4  := 0
  twin : BitVec 14 := 0x3FFF
  duty : BitVec 16 := 0xFFFF
deriving DecidableEq, Repr

/-- A granule whose copy passes are complete, and whether its twin's copy has flipped, where the twin moves one with it (R399). -/
structure FlipItem where
  g : BitVec 41
  twin : Bool
deriving DecidableEq, Repr

/-- What the other keeper of a pair acknowledges (R368, R370): the new entry of an extent, or a device's row of the device table. -/
inductive KeeperItem where
  | entry (e : BitVec 32)
  | row (dev : BitVec 14)
deriving DecidableEq, Repr

/-- One extent of a reclaim list (R430). At the device that reported it: the keeper's answer, which keeps it with an entry or
frees it. At the keeper: the extent and, in `entry`, its protection and partition as reported. -/
structure ReclaimAnswer where
  extent : BitVec 32
  keep   : Bool
  entry  : MaqEntry
deriving DecidableEq, Repr

/-- What another device answers a running proposal: the status code and epoch of the keeper that decides it, or, where this
device decides it, the answer of the device asked for slots or to free them (R371-R373, Table 15-4). -/
structure PropAnswer where
  status : BitVec 4
  epoch  : BitVec 32 := 0
deriving DecidableEq, Repr

/-- The commands: one constructor per row of the opcode table. -/
inductive Instr where
  -- pins, clocks, power and sensors (chapters 1, 4, 21)
  | pwrgoodDeassert
  | coldRst (boot : Option BootFlash)
  | warmRst
  | thermtrip
  | refclkSysLost
  | refclkSdLost (h : Half)
  | refclkSdReturn (h : Half)
  | peRefclkLost
  | speedMonitorSample (ps : Vector Nat 16)
  | speedHoldEnd
  | junctionSensorRead (mC : Vector Int 72)
  | thermalHoldEnd
  | powerSample (vcoreMA : Nat) (mW : Nat)
  | avsbusTransactionFail
  | avsbusRetry (ok : Bool)
  -- bring-up (chapter 18)
  | bringupPhaseDone (found : PhaseFound)
  | bringupPhaseTimeout
  | coldWaitRecheck (mC : Vector Int 72)
  | coldWaitExpire
  | trainingDone (u : TrainUnit) (t : TrainResult)
  | portTrainAttemptExpire (p : Fin 16)
  | katRunDone (n : Fin 1024) (digest : BitVec 256)
  | katPeriodicStart (n : Fin 1024)
  | configImageAnnounce (image : List Byte)
  | reclaimList (reporter : BitVec 14) (answers : List ReclaimAnswer)
  -- the link (chapter 7)
  | flitReceive (p : Fin 16) (flit : BitVec 640) (fecBad : Bool)
  | nak (p : Fin 16) (first : BitVec 12)
  | linkRetrainDone (p : Fin 16) (ns : Nat)
  | creditGrant (p : Fin 16) (words : List (BitVec 32))
  -- memory requests of a port (chapter 7)
  | memLoad (p : Fin 16) (h : Hdr) (found : List Finding)
  | memStore (p : Fin 16) (h : Hdr) (data : List DLine) (found : List Finding)
  | memStorep (p : Fin 16) (h : Hdr) (data : DLine)
  | reduceAdd (p : Fin 16) (h : Hdr) (data : List DLine)
  | reduceMin (p : Fin 16) (h : Hdr) (data : List DLine)
  | reduceMax (p : Fin 16) (h : Hdr) (data : List DLine)
  | reliefWindowExpire (n : Nat)
  | combiningEntryIdle (addr : BitVec 64)
  | castStore (p : Fin 16) (h : Hdr) (data : List DLine)
  | atomicAdd (p : Fin 16) (h : Hdr)
  | atomicMin (p : Fin 16) (h : Hdr)
  | atomicMax (p : Fin 16) (h : Hdr)
  | atomicCas (p : Fin 16) (h : Hdr)
  -- coherence (chapter 6)
  | rds (c : CohSrc)
  | rdx (c : CohSrc)
  | upg (c : CohSrc)
  | evc (c : CohSrc)
  | wbd (c : CohSrc) (data : DLine)
  | rsp (p : Fin 16) (h : Hdr) (data : Option DLine)
  | rspWbp (p : Fin 16) (h : Hdr)
  | snoopRoundExpire (addr : BitVec 64)
  | directorySweepDone (agent : Fin 24)
  | creditWindowLapse (n : Nat)
  -- completions, streams and paths (chapters 5, 7)
  | completionReceive (p : Fin 16) (c : ComplFlit)
  | responseDataReceive (p : Fin 16) (d : RespFlit)
  | streamAck (p : Fin 16) (id : StreamId) (dst : BitVec 14) (seq : BitVec 32)
  | streamAckSend (id : StreamId)
  | streamGapTimeout (id : StreamId)
  | gapReport (p : Fin 16) (id : StreamId) (dst : BitVec 14) (seq : BitVec 32)
  | streamIdleClose (id : StreamId) (dst : BitVec 14)
  | streamClose (p : Fin 16) (id : StreamId)
  | streamReset (p : Fin 16) (id : StreamId) (dst : BitVec 14)
  | pathAckTimeout (id : StreamId) (dst : BitVec 14)
  | pathProbeStart (dst : BitVec 14) (path : Fin 4)
  | pathProbe (p : Fin 16) (h : Hdr)
  | pathProbeTimeout (dst : BitVec 14) (path : Fin 4)
  | deviceUnreachable (dst : BitVec 14)
  | phaseAdvance (n : Fin 1024)
  -- sync counters and fences (chapter 5)
  | syncSet (c : SyncSrc)
  | syncAdd (c : SyncSrc)
  | syncRead (c : SyncSrc)
  | syncArm (c : SyncSrc)
  | syncWait (c : SyncSrc)
  | syncWaitTimeout (n : Fin 1024)
  | orderFence (c : SyncSrc)
  | regionFlushout (n : Fin 1024)
  | regionDiscardin (n : Fin 1024)
  | castDefine (n : Fin 1024)
  -- placement and moves (chapter 2)
  | placeTier (n : Fin 1024)
  | placeExtent (n : Fin 1024)
  | placeAdvisePrefetch (n : Fin 1024)
  | placeAdviseOpen (n : Fin 1024)
  | placeAdviseCold (n : Fin 1024)
  | placeAdviseWriteback (n : Fin 1024)
  | placeDiscard (n : Fin 1024)
  | placeQuery (n : Fin 1024)
  | movePassDone (g : BitVec 41) (failed : List (Fin 32768))
  /-- `twin`: the twin has flipped its copy, where the move takes a protected granule across the T2 boundary (R399) -/
  | granuleFlip (x : FlipItem)
  | extentAllocateDone (e : BitVec 32) (st : BitVec 4)
  | extentFinalPassDone (e : BitVec 32)
  | handover (src : BitVec 14) (e : BitVec 32) (dest : BitVec 14) (epoch : BitVec 32)
  | handoverTold (e : BitVec 32) (entry : MaqEntry) (committed : Bool)
  | granuleOpenDone (g : BitVec 41)
  | granuleClose (g : BitVec 41)
  | backgroundWriteback (block : BitVec 48)
  | flashProgramDone (block : BitVec 48) (ok : Bool) (retired : BitVec 64) (replacement : BitVec 64)
  | fillDone (block : BitVec 48) (step : Fin 4) (loc : BitVec 64)
  | deepRecoveryStepDone (block : BitVec 48) (ok : Bool) (loc : BitVec 64)
  | splitChange (ses : Session) (c : BitVec 64)
  -- translation (chapter 3)
  | walkDone (blk : Fin 8) (asid : BitVec 16) (va : BitVec 57)
  | xlatePinExpire (blk : Fin 8) (asid : BitVec 16) (va : BitVec 57)
  | faultTimeout (fidx : Fin 2048)
  | xlateBind (n : Fin 1024)
  | xlateUnbind (n : Fin 1024)
  | xlateInvalPages (n : Fin 1024)
  | xlateInvalAsid (n : Fin 1024)
  | xlateInvalPartition (n : Fin 1024)
  | xlateInvalDrained (n : Fin 1024)
  | xlateResolveReplay (n : Fin 1024)
  | xlateResolveFail (n : Fin 1024)
  | xlatePrefetch (n : Fin 1024)
  -- chains and engine work (chapters 8 to 12)
  | chainStart (part : BitVec 8) (q : Fin 16) (n : Fin 1024)
  | engineCreditedRetry (n : Fin 1024)
  | descriptorComplete (n : Fin 1024)
  | chainLoop (n : Fin 1024)
  | tileCopy (n : Fin 1024)
  | tileFill (n : Fin 1024)
  | tileReduceAdd (n : Fin 1024)
  | tileReduceMin (n : Fin 1024)
  | tileReduceMax (n : Fin 1024)
  | tileMatmul (n : Fin 1024)
  | tileEwiseAdd (n : Fin 1024)
  | tileEwiseSub (n : Fin 1024)
  | tileEwiseMul (n : Fin 1024)
  | tileEwiseMin (n : Fin 1024)
  | tileEwiseMax (n : Fin 1024)
  | tileEwiseAxpb (n : Fin 1024)
  | tileEwiseExp (n : Fin 1024)
  | tileEwiseRecip (n : Fin 1024)
  | tileEwiseRsqrt (n : Fin 1024)
  | tileEwiseRowsum (n : Fin 1024)
  | tileEwiseRowmax (n : Fin 1024)
  | optStep (n : Fin 1024)
  | wioPack (n : Fin 1024)
  | wioUnpack (n : Fin 1024)
  | ckptWrite (n : Fin 1024)
  | ckptRestore (n : Fin 1024)
  | lookupPool (n : Fin 1024)
  | embUpdate (n : Fin 1024)
  | embPublish (n : Fin 1024)
  | embQuery (n : Fin 1024)
  | vsSearch (n : Fin 1024)
  | vsMerge (n : Fin 1024)
  | vsCast (n : Fin 1024)
  | vsPublish (n : Fin 1024)
  | vsInfo (n : Fin 1024)
  | attendDecode (n : Fin 1024)
  | kvProbe (n : Fin 1024)
  -- host cores (chapter 13)
  | hartLoad (hart : Fin 32) (pa : BitVec 56) (width : Fin 4)
  | hartStore (hart : Fin 32) (pa : BitVec 56) (width : Fin 4) (value : BitVec 64)
  | hartFetch (hart : Fin 32) (pa : BitVec 56)
  | clusterCreditedRetry (k : Fin 8)
  | cboClean (hart : Fin 32) (pa : BitVec 56)
  | cboFlush (hart : Fin 32) (pa : BitVec 56)
  | cboInval (hart : Fin 32) (pa : BitVec 56)
  | counterWindowLoadValue (hart : Fin 32) (ctr : BitVec 15)
  | counterWindowAdd (hart : Fin 32) (ctr : BitVec 15) (value : BitVec 64)
  | counterWindowSet (hart : Fin 32) (ctr : BitVec 15) (value : BitVec 64)
  | counterWindowLoadMode (hart : Fin 32) (ctr : BitVec 15)
  | counterWindowSetMode (hart : Fin 32) (ctr : BitVec 15) (value : BitVec 64)
  | counterWindowArm (hart : Fin 32) (ctr : BitVec 15) (value : BitVec 64)
  | counterWindowLoadThresh (hart : Fin 32) (ctr : BitVec 15)
  | apertureGeneration (ses : Session) (value : BitVec 64)
  -- partitions, resets and ownership (chapter 14)
  | routeWrite (ses : Session) (sub : Fin 21) (value : BitVec 64)
  | partitionActivate (ses : Session)
  | partitionReset (ses : Session)
  | partitionRelease (ses : Session)
  | partitionResetDrained (part : BitVec 8)
  | revokeExtent (ses : Session) (e : BitVec 32)
  | revocationComplete (e : BitVec 32)
  | grantExtent (ses : Session) (e : BitVec 32)
  | counterBlockOwner (ses : Session) (value : BitVec 16)
  | castBlockOwner (ses : Session) (value : BitVec 16)
  | identityPartition (ses : Session) (value : BitVec 16)
  | doorbellCounterWrite (ses : Session) (q : Fin 16) (value : BitVec 16)
  | queueRingBaseWrite (ses : Session) (q : Fin 16) (value : BitVec 64)
  | deviceResetWarm (ses : Session)
  | deviceResetCold (ses : Session) (boot : Option BootFlash)
  | warmResetDrained
  | portReset (p : Fin 16)
  | portRoleWrite (ses : Session) (role : BitVec 8)
  | quarantine (slice : Fin 256) (trigger : Fin 7)
  | clusterReset (k : Fin 8)
  | clusterFailure (k : Fin 8)
  -- the maquette (chapter 15)
  | proposalAssign (ses : Session) (answer : Option PropAnswer)
  | proposalUnassign (ses : Session) (answer : Option PropAnswer)
  | proposalRole (ses : Session) (answer : Option PropAnswer)
  | proposalMarkfail (ses : Session) (answer : Option PropAnswer)
  | markfailProbeTimeout (dev : BitVec 14)
  | assignSlots (keeper : BitVec 14) (e : BitVec 32) (tier : BitVec 2) (prot : Bool) (part : BitVec 8)
  | keeperCommit (x : KeeperItem)
  | keeperFetchReply (e : BitVec 32) (entry : MaqEntry)
  | maquettePinExpire (e : BitVec 32)
  | deviceTableUpdate (dev : BitVec 14) (row : DevRow) (gens : List (Fin 256 × BitVec 16))
  | departedRecordExpire (e : BitVec 32)
  | forwardRecordExpire (dev : BitVec 14) (agent : BitVec 16) (reqid : BitVec 32)
  -- the twin (chapter 16)
  | twinHandshake (p : Fin 16) (dev : BitVec 14)
  | pointingWrite (p : Fin 16) (h : Hdr) (data : DLine)
  | pointingAck (addr : BitVec 64)
  | heartbeat
  | twinSilent
  | twinWarmResetAnnounce
  | takeover
  | twinReturn (copiesLost : Bool)
  | resyncDone
  | pair (ses : Session)
  | detach (ses : Session)
  | yield (ses : Session)
  -- integrity and tests (chapters 17, 18)
  | patinaScrub (addr : BitVec 64) (found : List Finding)
  | flashPatina (block : BitVec 48) (step : Fin 8) (loc : BitVec 64)
  | katnow (ses : Session)
  | scrub (ses : Session) (found : List (BitVec 64 × Finding))
  | memtest (ses : Session) (failed : List (BitVec 32))
  | retrain (ses : Session)
  -- the dictionary and its transports (chapter 19)
  | mailboxGo (f : Func) (irq : Bool) (request : List Byte)
  | doorbellPageWrite (f : Func) (entry : Fin 4096) (value : BitVec 64)
  | mctpMessage (i3c : Bool) (ep : BitVec 8) (body : List Byte)
  | setEndpointId (i3c : Bool) (op : BitVec 2) (eid : BitVec 8)
  | getEndpointId (i3c : Bool)
  | getEndpointUuid (i3c : Bool)
  | getMctpVersionSupport (i3c : Bool) (kind : BitVec 8)
  | getMessageTypeSupport (i3c : Bool)
  | getVendorDefinedMsgSupport (i3c : Bool) (sel : BitVec 8)
  | nyborRead (ses : Session) (index : BitVec 16) (sub : BitVec 8)
  | nyborWrite (ses : Session) (index : BitVec 16) (sub : BitVec 8) (value : List Byte)
  | nyborDescribe (ses : Session) (index : BitVec 16) (sub : BitVec 8)
  | functionLevelReset (f : Func)
  | pcieReset
  | controlFunctionWrite (ses : Session) (value : BitVec 8)
  -- security (chapter 20)
  | reportStart (ses : Session)
  | reportSigned (signature : List Byte)
  | keyLoad (ses : Session)
  | keyClear (ses : Session)
  | debugToken (token : List Byte)
  | debugClose (ses : Session)
  -- the rest of the table
  | hbm4PeriodicCalibration (ch : Fin 256)
  | portLaneAdaptation (p : Fin 16)
  | takeoverReport (twin : BitVec 14) (e : BitVec 32)
  | assignTold (e : BitVec 32) (entry : MaqEntry)
  | preparePointingCopy (home : BitVec 14) (e : BitVec 32) (tier : BitVec 2) (part : BitVec 8)
  | unassignDrained (e : BitVec 32)
  | quarantineCopyDone (slice : Fin 256)
  | msixTableWrite (f : Func) (vec : Fin 2048) (addr : BitVec 64) (data : BitVec 32) (mask : Bool)
  | dynamicAddressAssignment (addr : BitVec 7)
deriving DecidableEq, Repr

end Sys2Proof
end

