-- ==== Sys2Proof/Decode.lean ====
section
/-!
DEFINITION. The words that spell a command. The opcode table gives no row of this block any bits (its commands are pins,
flits, dictionary accesses and events, each with a form of its own), so no word spells one.
-/

namespace Sys2Proof

/-- The command that a word of `nbits` bits spells: none, since the opcode table gives no row bits. -/
def decodeTableWord (_nbits _w : Nat) : Option Instr := none

end Sys2Proof
end

