-- ==== Sys2Proof/Config.lean ====
section
/-!
DEFINITION. What one part fixes and what the spec leaves open. Every constant below is opaque: nothing is known of its
value but its type (and what a bound of the spec says, applied where it is used). Log entry 3 (keyed functions), 4 (fused
values), 5 (cryptography by reference), 2 (fresh draws).
-/

namespace Sys2Proof.Config

/-- P of R13: the keyed pseudo-random function of the hash key, the granule number and the block number. -/
opaque lineHash : (key : BitVec 128) → (g hi : Nat) → BitVec 8
/-- The keyed hash that chooses a line's directory set ("The directory", before R161). -/
opaque dirSet : (key : BitVec 128) → (line : Nat) → BitVec 12
/-- The keyed hash that chooses a block's set of sixteen cache frames ("The cache in front of flash"). -/
opaque cacheSet : (key : BitVec 128) → (block : Nat) → Nat
/-- The keyed hash that pins a stream to one of its paths (R199). -/
opaque pathHash : (srcDev agent dst : Nat) → Nat
/-- The hash key the plinth draws at cold bring-up number `n` (R15). -/
opaque hashKey : (n : Nat) → BitVec 128
/-- The debug challenge drawn at bring-up number `n` (R466). -/
opaque challenge : (n : Nat) → BitVec 64
/-- A free value: the n-th value the spec leaves open. -/
opaque freeNat : (n : Nat) → Nat
/-- Byte `i` of a run of bytes the spec leaves open: draw `n`. -/
opaque freeByte : (n i : Nat) → Byte
/-- The order in which the addends of an unordered sum arrive (R242): a free key for draw `n`, item `i`. -/
opaque orderKey : (n i : Nat) → Nat
/-- A free choice among pairs, frames or ways that the spec leaves to the device: draw `n`. -/
opaque freeChoice : (n : Nat) → Nat

/-- Serial number of the part (R487). -/
opaque serial : BitVec 64
/-- The fused voltage floor is 680 mV plus this many steps of 5 mV (Table 1-3 text, R487). -/
opaque floorStep : Fin 17
/-- NAND capacity fitted, in TiB, up to 128 (R487). -/
opaque nandTiB : Fin 129
/-- The fused repair map of a stack region (R11, R12): the physical slices, in the order of the 32 logical slices that the fuses bind
to them and then of the two that they leave unbound. -/
opaque sliceMap : (region : Nat) → Equiv.Perm (Fin 34)
/-- Is the first or the second unbound slice of a region one that failed at manufacture? At least the 32 bound ones are good (R12). -/
opaque sliceFailed : (region : Nat) → (spare : Fin 2) → Bool
/-- The physical slice of a logical slice, 0-33 within its stack region. -/
def fusedSlice (logical : Fin 256) : Fin 34 := sliceMap (logical.val / 32) ⟨logical.val % 32, by omega⟩
/-- Was physical slice `p` of a region good at manufacture? -/
def goodSlice (region : Nat) (p : Fin 34) : Bool :=
  let i := (sliceMap region).symm p
  if h : i.val < 32 then true else !sliceFailed region ⟨i.val - 32, by omega⟩
/-- The fused repair map: the physical cluster of each logical cluster. -/
opaque fusedCluster : (logical : Fin 8) → Fin 9
/-- The fused floor of security versions (R455). -/
opaque fusedSvn : Nat
/-- The vendor key slots that are revoked, one bit each (R454). -/
opaque vendorRevoked : BitVec 8
/-- Digest of vendor key `slot` (R454). -/
opaque vendorKeyDigest : (slot : Nat) → BitVec 256

/-- SHAKE256 with 32 bytes of output, by reference (FIPS 202). -/
opaque shake256 : List Byte → BitVec 256
/-- SHAKE256 with 64 bytes of output, by reference (FIPS 202). -/
opaque shake512 : List Byte → BitVec 512
/-- SLH-DSA verification, by reference (FIPS 205): key, message, signature. -/
opaque slhVerify : (key msg sig : List Byte) → Bool
/-- ML-KEM decapsulation with the device's key, by reference (FIPS 203): the shared secret of a ciphertext. -/
opaque mlkemDecap : (ciphertext : List Byte) → BitVec 256
/-- AES key unwrap of a wrapped flash key under the shared secret, by reference; none where its check fails. -/
opaque keyUnwrap : (secret : BitVec 256) → (wrapped : List Byte) → Option (BitVec 512)

/-- Has the bank of a DRAM row found failing a spare row left (R425)? By bring-up and row. -/
opaque rowSpare : (boot row : Nat) → Bool
/-- The T1 slots with a line in a DRAM row, and the sets of the cache frames with one: the placing of slots and frames in rows is not
the spec's. -/
opaque rowSlots : (row : Nat) → List Nat
opaque rowFrames : (row : Nat) → List Nat

/-- The header of a firmware copy, whose layout the spec does not give: version, SVN and whether it asks that the fused SVN be
raised (R454, R455); none where it is not well formed. -/
opaque fwHeader : (copy : List Byte) → Option (Nat × Nat × Bool)
/-- The public key, image and signature of a firmware copy (R454). -/
opaque fwKey : (copy : List Byte) → List Byte
opaque fwImage : (copy : List Byte) → List Byte
opaque fwSig : (copy : List Byte) → List Byte
/-- The digest of the known-answer run's outputs that a firmware holds (R427). -/
opaque katDigest : (firmware : List Byte) → BitVec 256
/-- The public keys that the plinth derives from the fused secret and a label (R457): 1 DIK, 2 AK (with M1), 3 KTK. -/
opaque certificate : (kind : Nat) → (firmware : List Byte) → List Byte
/-- M0: a constant of the stepping (Table 20-3). -/
opaque m0 : BitVec 512
/-- The fuse configuration, as M3 measures it (Table 20-3). -/
opaque fuseBytes : List Byte
/-- A debug token (R466), whose layout the spec does not give: LEVEL, SERIAL, challenge, KEYSLOT; none where MAGIC is wrong. -/
opaque tokenFields : (token : List Byte) → Option (Nat × Nat × Nat × Nat)
/-- The public key, signed bytes and signature of a debug token. -/
opaque tokenKey : (token : List Byte) → List Byte
opaque tokenBody : (token : List Byte) → List Byte
opaque tokenSig : (token : List Byte) → List Byte

/-- The MCTP endpoint UUID, and the versions the device answers for a message type (MCTP's own formats, which the spec names but
does not give). -/
opaque uuid : BitVec 128
opaque mctpVersions : (kind : Nat) → List Byte
/-- The command set field of Get Vendor Defined Message Support, which the spec does not give. -/
opaque vendorSet : BitVec 16

/-- The code lengths and exponents an encoder gives a block of raw bytes (R258): entries in header order, then the length of
the escape. It counts only where it is a well-formed code of the least coded size. -/
opaque wioCode : (etype : Nat) → (raw : List Byte) → List (Nat × Nat) × Nat

/-- Sign and payload of the quiet NaN an operation makes of these operands, which IEEE 754 leaves open: a free value. -/
opaque nanBits : (a b : Nat) → Nat
/-- A conversion to or from FP32C by `TILE.COPY`, whose value the spec does not state: element types and source element. -/
opaque pairConv : (from_ to_ x : Nat) → Nat
/-- Scale of an MX block whose elements are a pad or fill pattern, which the spec does not state. -/
opaque padScale : (etype pattern : Nat) → BitVec 8
/-- Scale of an MX block made of values with an infinity among them, which R238 does not state. -/
opaque infScale : (etype : Nat) → (vals : List Nat) → Nat
/-- sq(x) of Table 8-13 for x below zero or not a number, which the spec does not state. -/
opaque sqOpen : (x : Nat) → Nat
/-- The exponential of R240 where the exact result is not representable: a free choice of units in the last place. -/
opaque expUlp : (x : Nat) → Int
/-- The free choice of the reciprocal of R240. -/
opaque recipUlp : (x : Nat) → Int
/-- The free choice of the reciprocal square root of R240. -/
opaque rsqrtUlp : (x : Nat) → Int

end Sys2Proof.Config
end

