-- ==== Sys2Proof/Machine/State.lean ====
section
/-!
DEFINITION. The state of the block: plain data. INVENTORY.md, '## State', lists every piece with the rule that names it.
`State` holds the queue of commands, the three stores of bytes (kept in one canonical form), the poison marks, the record
of what the block sent, the free-value counter, and `Dev`, everything else, chapter by chapter.
Times are picoseconds of the device's own timer (R116, R416).
-/

namespace Sys2Proof.Machine

/-- A stop with a fault: none. The spec gives every command an effect, an error being a completion status (Table 0-2), an
error record or a pin, so no meaning of this model stops (safe). -/
inductive Fault where
deriving DecidableEq, Repr

/-- A refusal. -/
inductive Refusal where
  /-- The command has no meaning yet; raised only by an arm of `exec`. Safe: nothing is claimed of it. -/
  | notModelled (mnemonic : String)
deriving DecidableEq, Repr

/-- A table by number: key and value, keys rising where it is built by `Tab.set`. -/
abbrev Tab (α : Type) := List (Nat × α)

/-- Status codes, Table 0-2. -/
inductive Status where
  | ok | nadm | late | moved | fault | poison | lost | indet | short | busy | denied
deriving DecidableEq, Repr

/-- What a completion carries: status, WORD and VALUE (Table 7-5). -/
structure Compl where
  status : Status
  word   : Nat := 0
  value  : Nat := 0
deriving DecidableEq, Repr

/-- A source of requests (R108, R131, Table 7-8). -/
inductive Src where
  /-- requester identity `id` of compute-attach port `p` -/
  | ident (p id : Nat)
  /-- source agent `agent` of device `dev`, through fabric or twin port `p` -/
  | remote (p dev agent : Nat)
  | pair (n : Nat)
  | cluster (k : Nat)
  /-- descriptor queue `q` of a partition -/
  | queue (part q : Nat)
  | plinth
  | forwarder
  /-- a home slice: its pointing stream (R387) and its combining cache -/
  | slice (s : Nat)
deriving DecidableEq, Repr

/-- Who is told of a request's end. -/
inductive Reply where
  /-- a completion flit on port `p` to device `dev` by path `path`, with the originator's tag -/
  | port (p dev path reqid : Nat)
  | pair (n : Nat)
  | hart (h : Nat)
  | cluster (k : Nat)
  /-- the forwarder answers the originator with MOVED and this epoch and home when the forward ends (R377) -/
  | forwarded (p dev path reqid epoch home : Nat)
  /-- a member copy of cast store `n` (R197) -/
  | cast (n : Nat)
  /-- line `idx` of job `id`, sent to another device -/
  | line (id idx : Nat)
  /-- every contributor of relief entry `n` (R206) -/
  | relief (n : Nat)
  /-- a notification of an arm or an event route, in the name of a partition (R147, R351) -/
  | notify (part word : Nat)
  /-- a probe of a path (R200) -/
  | probe (dst path : Nat)
  /-- a probe of a device by keeper index 0 (R393) -/
  | markfail (dev : Nat)
  /-- the remote home's data for the open transaction on a proxy line (R164) -/
  | proxy (line : Nat)
  /-- a write-back of a region operation of a pair (R154) -/
  | writeback (n : Nat)
  /-- a write-back of a line to its remote home, which no one waits for (R152, R164) -/
  | wb (line : Nat)
  /-- one granule copied to another device (Table 2-10) -/
  | extent (e : Nat)
  | none
deriving DecidableEq, Repr

/-- The element types of Table 7-9. -/
inductive EType where
  | int32 | uint32 | int64 | uint64 | fp32 | fp32c | bf16 | fp16
deriving DecidableEq, Repr

/-- Combining operations of reductions (R192). -/
inductive ROp where
  | add | min | max
deriving DecidableEq, Repr

/-- Atomic operations (R194). -/
inductive AOp where
  | add | min | max | cas
deriving DecidableEq, Repr

/-- What one line request does at the home slice (Table 6-4). -/
inductive HOp where
  /-- `ERD` -/
  | read
  /-- `EWR` -/
  | write (d : DLine)
  /-- `EMOD`: a partial store of the bytes of `mask` -/
  | part (mask : BitVec 64) (d : DLine)
  /-- `EMOD`: a reduction -/
  | reduce (op : ROp) (t : EType) (d : DLine)
  /-- `EMOD`: an atomic on the word at `off` -/
  | atomic (op : AOp) (t : EType) (off : Nat) (operand operand2 : BitVec 64)
deriving DecidableEq, Repr

/-- One line of an admitted request: whether it ended, how, and its data. -/
structure LineRes where
  idx  : Nat
  st   : Compl
  data : DLine
deriving DecidableEq, Repr

/-- An admitted request whose lines are under way: it completes when `left` is 0. -/
structure Job where
  src     : Src
  reply   : Reply
  part    : Option Nat
  code    : Nat
  addr    : Nat
  lines   : Nat
  reduces : Nat := 1
  ctr     : Option Nat := none
  unit    : Bool := true
  fwd     : Option (Nat × Nat × Nat) := none
  left    : Nat
  res     : List LineRes := []
  /-- the stream and sequence number by which it came (R136) -/
  strm    : Option (Nat × Nat) := none
  began   : Nat := 0
  cls     : Nat := 1
  /-- the ASID and virtual address it was translated through (R74) -/
  via     : Option (Nat × Nat) := none
  /-- the granules its lines lie in (R92) -/
  grans   : List Nat := []
deriving DecidableEq, Repr

/-- Directory states, Table 6-3. DI is the absence of an entry. -/
inductive DState where
  | ds | dx | dO
deriving DecidableEq, Repr

/-- A directory entry, Table 6-3; pointers 0-23, 31 is empty. OPEN is the presence of a transaction on the line. -/
structure DirE where
  st    : DState
  ovf   : Bool := false
  proxy : Bool := false
  p0    : Nat := 31
  p1    : Nat := 31
  p2    : Nat := 31
  cnt   : Nat := 1
  used  : Nat := 0
deriving DecidableEq, Repr

/-- Line states at an agent, Table 6-2. -/
inductive LState where
  | m | o | e | s
deriving DecidableEq, Repr

/-- A line held by a core cluster's L2. -/
structure L2E where
  st   : LState
  data : Line
deriving DecidableEq, Repr

/-- Coherence requests of an agent (Table 6-4). -/
inductive CohOp where
  | rds | rdx | upg
deriving DecidableEq, Repr

/-- What an open transaction is for (R170, R173, R386, R414, Table 6-8). -/
inductive TKind where
  /-- an agent's RDS, RDX or UPG -/
  | coh (op : CohOp) (agent : Nat) (reply : Reply) (part : Nat)
  /-- line `idx` of job `job` -/
  | line (job idx : Nat) (op : HOp)
  /-- a snoop round opened for an engine access that will be tried again: read or write intent -/
  | ready (op : HOp)
  /-- a back-invalidation; `counted` where it is one of R173 or R174 -/
  | evict (counted : Bool)
  /-- a change performed at the home that waits for the twin's acknowledgement (R386) -/
  | pointing (job idx : Nat)
  /-- patina found the line uncorrectable (R414) -/
  | patina (unit bytes : Nat) (row : Nat)
  /-- a region operation of pair `n`, or a cache-block operation of hart `n - 1024`, on a remote line; `drop` removes the copies
  (R154, R155, R157) -/
  | region (n : Nat) (drop : Bool)
  /-- settling the line of a failed owner (Table 6-8) -/
  | settle (agent : Nat)
deriving DecidableEq, Repr

/-- An open transaction on a line (R170). -/
structure Txn where
  kind   : TKind
  wait   : List Nat
  round  : Nat := 0
  owner  : Option DLine := none
  backup : Option DLine := none
  wasM   : Bool := false
  began  : Nat := 0
  pair   : Option Nat := none
  failed : List Nat := []
  /-- the remote home's line, for a proxy entry (R164), and whether it has been asked for -/
  mem    : Option DLine := none
  asked  : Bool := false
  /-- snooped with an invalidating or sharing snoop: the operation code of the round -/
  op     : Nat := 0
  /-- the source whose stream carries the requests to the remote home (R131) -/
  src    : Src := .plinth
  /-- the ASID and virtual address the request was translated through (R74) -/
  via    : Option (Nat × Nat) := none
deriving DecidableEq, Repr

/-- The arm of a counter (R147). -/
structure Arm where
  event  : Bool
  notify : Bool
  nctr   : Nat
  ndev   : Nat
  namt   : BitVec 64
  part   : Nat
deriving DecidableEq, Repr

/-- A sync counter (R143): VALUE, MODE (0 bytes, 1 packets, 2 events), THRESH and its pending arm. -/
structure Ctr where
  value  : BitVec 64 := 0
  mode   : Nat := 0
  thresh : BitVec 64 := 0
  arm    : Option Arm := none
deriving DecidableEq, Repr

/-- A `SYNC.WAIT` that holds its pair (R146). -/
structure Wait where
  ctr    : Nat
  target : BitVec 64
  until_ : Option Nat
  result : Nat
  part   : Nat
deriving DecidableEq, Repr

/-- A request as it is kept by a stream or by its originator: its header, operation code and data. -/
structure Req where
  code : Nat
  h    : Hdr
  data : List DLine := []
  /-- the port whose replay store keeps it (R137) -/
  port : Nat := 0
deriving DecidableEq, Repr

/-- A send stream (R137, R138, R199). -/
structure SendS where
  next    : Nat := 0
  port    : Nat := 0
  path    : Nat := 0
  unacked : List (Nat × Req) := []
  lastAck : Nat := 0
  idle    : Nat := 0
  /-- the path and port to which a cast stream is pinned toward each member device (R197, R199) -/
  pins    : Tab (Nat × Nat) := []
deriving DecidableEq, Repr

/-- A receive stream (R133, R134): next to pass, highest performed prefix, performed ahead of it, requests held. -/
structure RecvS where
  next   : Nat := 0
  done   : Nat := 0
  ahead  : List Nat := []
  held   : List (Nat × Nat × Nat × Req) := []
  gap    : Option Nat := none
  port   : Nat := 0
  passAt : Nat := 0
  /-- some request of it has been performed, so that there is a number to acknowledge (R136) -/
  begun  : Bool := false
deriving DecidableEq, Repr

/-- A request this device originated or relays and that has not completed. -/
structure Orig where
  req    : Req
  src    : Src
  dst    : Nat
  reply  : Reply
  strm   : Nat
  got    : List (Nat × DLine) := []
  resent : Bool := false
  part   : Nat := 0
  via    : Option (Nat × Nat) := none
  /-- BUDGET before this device took its part of it, and when its time here began (R117) -/
  budget : Nat := 0xFFFFFF
  began  : Nat := 0
  /-- sent again on a credit -/
  retried : Bool := false
deriving DecidableEq, Repr

/-- A request that waits to leave: for an acknowledgement (R205), or for the slot of its credit. -/
structure After where
  src  : Src
  part : Nat
  dst  : Nat
  req  : Req
  reply : Reply
  at_  : Nat := 0
  retried : Bool := false
  /-- when its time in this device began (R117) -/
  since : Nat := 0
  /-- the number of the cast stream and the sequence number it leaves with (R132) -/
  cast : Option (Nat × Nat) := none
  /-- the ASID and virtual address it was translated through -/
  via  : Option (Nat × Nat) := none
  /-- the credit of this device's own gate on which it leaves -/
  cred : Option Nat := none
deriving DecidableEq, Repr

/-- A fence that waits (R140): the sequence number each stream must acknowledge, the jobs it waits for. -/
structure Fence where
  src   : Src
  part  : Nat
  reply : Reply
  need  : List (Nat × Nat)
  jobs  : List Nat
  /-- SCOPE and its device, the lines of the source's coherence requests, and when it was issued -/
  scope : Nat := 0
  dev   : Nat := 0
  lines : List Nat := []
  began : Nat := 0
deriving DecidableEq, Repr

/-- A counter credit, or a remote `SYNC.ADD`, that waits for earlier requests of its stream or source to be performed (R145): its
source, its place in a stream or the job it came with, the counter and the amount, and the answer a `SYNC.ADD` owes. -/
structure Late where
  src   : Src
  strm  : Option (Nat × Nat)
  job   : Nat
  ctr   : Nat
  amt   : BitVec 64
  reply : Option Reply := none
  part  : Nat := 0
  since : Nat := 0
deriving DecidableEq, Repr

/-- A credit (R108-R113): identified by its source and tag. -/
structure Credit where
  src    : Src
  tag    : Nat
  part   : Nat
  cls    : Nat
  code   : Nat
  addr   : Nat
  asid   : Nat
  start  : Nat
  until_ : Nat
  hint   : Nat
  reason : Nat
  home   : Bool
  loc    : Nat
  /-- lane and service time booked at each gate -/
  booked : List (Nat × Nat)
  /-- the reason of the hold under which it was refused: the slot restarts when that hold ends (R120) -/
  held   : Option Nat := none
deriving DecidableEq, Repr

/-- One part of one lane of a gate (R97): when the work admitted to it ends at worst, the service time booked behind it. -/
structure LanePart where
  busy   : Nat := 0
  booked : Nat := 0
deriving DecidableEq, Repr

/-- An admission or a refusal at a lane in the last 10 microseconds (R98). -/
structure LaneEv where
  at_  : Nat
  part : Nat
  adm  : Bool
deriving DecidableEq, Repr

/-- A granule table entry, Table 2-3. STATE: 0 HOME, 1 MOVING, 2 LOST, 3 OUTBOUND. -/
structure GEnt where
  tier   : Nat
  state  : Nat := 0
  opened : Bool := false
  prot   : Bool := false
  part   : Nat
  slot   : Nat
  jidx   : Nat := 0
deriving DecidableEq, Repr

/-- A cache frame (R32, R33): valid and dirty bit of each of its 256 lines, marked cold, last use. -/
structure Frame where
  valid : BitVec 256 := 0
  dirty : BitVec 256 := 0
  cold  : Bool := false
  used  : Nat := 0
deriving DecidableEq, Repr

/-- The flash log's latest record of a granule (R34-R37). -/
structure FLog where
  slot   : Nat
  opened : Bool
  part   : Nat
  prot   : Bool
  copy   : Bool := false
deriving DecidableEq, Repr

/-- A fill of a block from flash: admitted for a request, or class G; since when (R33, R57). -/
structure Fill where
  began : Nat
  /-- lines that wait: job, index, store address, operation -/
  jobs  : List (Nat × Nat × Nat × HOp) := []
  classG : Bool := true
  /-- it reads the invalid lines of a frame that is then written back (R33) -/
  wb     : Bool := false
deriving DecidableEq, Repr

/-- An open move of one granule (R43). -/
structure Move where
  owner    : Option Nat
  toT      : Nat
  toSlot   : Nat
  passes   : Nat := 0
  copied   : Bool := false
  marked   : List Nat := []
  verified : Bool := false
  quiesced : Bool := false
  /-- when it was quiesced (R46, R112) -/
  quietAt  : Nat := 0
  fails    : Tab Nat := []
  outbound : Bool := false
  /-- the jobs and the lines' transactions admitted to the granule before it entered MOVING (R92) -/
  before   : List Nat := []
  opens    : List Nat := []
  /-- when the copy pass under way was admitted (R488) -/
  admitAt  : Nat := 0
  /-- the twin moves its copy as well, and flips it first (R399) -/
  twinMove : Bool := false
deriving DecidableEq, Repr

/-- An extent that moves to this device (Table 2-10): its tier and partition, the device it comes from, whether it is protected, and the
granules of which a copy has come. -/
structure Coming where
  tier : Nat
  part : Nat
  src  : Nat
  prot : Bool
  came : List Nat := []
deriving DecidableEq, Repr

/-- A placement operation under way on a pair (Table 2-7 result fields, R42). -/
structure PlaceOp where
  code      : Nat
  addr      : Nat
  count     : Nat
  kind      : Nat
  bclass    : Bool
  dest      : Nat
  result    : Nat
  part      : Nat
  tag       : Nat
  todo      : List (Nat × Nat)
  opened    : List Nat := []
  done      : Nat := 0
  already   : Nat := 0
  skiplost  : Nat := 0
  poisoned  : Nat := 0
  abandoned : Nat := 0
  passes    : Nat := 0
  phase     : Nat := 0
  epoch     : Nat := 0
  fail      : Option Status := none
  flight    : List Nat := []
deriving DecidableEq, Repr

/-- An extent move at its source (Table 2-10). -/
structure ExtMove where
  pair  : Option Nat
  dest  : Nat
  tier  : Nat
  phase : Nat
  epoch : Nat
  part  : Nat
  tag   : Nat
  yield : Bool := false
  /-- when its final pass began (R51, R112) -/
  finalAt : Nat := 0
deriving DecidableEq, Repr

/-- A journal record, Table 2-12. -/
structure JRec where
  seq     : Nat
  step    : Nat
  tiers   : Nat
  part    : Nat
  granule : Nat
  from_   : Nat
  to_     : Nat
  optag   : Nat
  crc     : Nat := 0
deriving DecidableEq, Repr

/-- A phase journal record, Table 7-12. -/
structure PRec where
  seq    : Nat
  op     : Nat
  phase  : Nat
  part   : Nat
  target : Nat
  dev    : Nat
  reqid  : Nat
  optag  : Nat
  pair   : Nat
  crc    : Nat := 0
deriving DecidableEq, Repr

/-- A cached translation (Table 3-2 leaf): page size in bits, store address, permissions, pinned until, and the credits for whose
retries it is pinned (R70). -/
structure TlbE where
  asid : Nat
  vpn  : Nat
  bits : Nat
  pa   : Nat
  rd   : Bool
  wr   : Bool
  red  : Bool
  pin  : Option Nat := none
  creds : List Nat := []
deriving DecidableEq, Repr

/-- A refused request that a walk was started for (R70, R71): its credit, address in the page, access, port and hint, and the
fault that its walk ended in: kind, and the coalescing entry it took (2048: none). -/
structure XWait where
  cred   : Nat
  va     : Nat
  access : Nat
  port   : Nat
  hint   : Nat
  done   : Option (Nat × Nat) := none
deriving DecidableEq, Repr

/-- A walk of the page at `va` (R69, R70), which walks for the same page join; it is under way until its waiters know a fault. -/
structure Walk where
  blk    : Nat
  asid   : Nat
  va     : Nat
  part   : Nat
  began  : Nat
  waits  : List XWait
  void   : Bool := false
deriving DecidableEq, Repr

/-- An invalidation that drains (R74): when its entries were dropped and how many, the ASIDs `[lo, hi)` and the virtual addresses
that it covers. -/
structure Inval where
  at_     : Nat
  dropped : Nat
  lo      : Nat
  hi      : Nat
  pages   : Option (Nat × Nat)
deriving DecidableEq, Repr

/-- A request parked on a translation fault (R80): from a port, in the device since a time, or a pair's tile. -/
inductive Parked where
  | port (p : Nat) (code : Nat) (h : Hdr) (data : List DLine) (since : Nat)
  | pair (n : Nat)
deriving DecidableEq, Repr

/-- A request in transit (R113): where it came from, what it asks, and the port it left by. -/
structure Transit where
  src  : Src
  port : Nat
  part : Nat
  cls  : Nat
  code : Nat
  addr : Nat
  lines : Nat
  out  : Nat
deriving DecidableEq, Repr

/-- A coalescing-table entry (R78) and its fault record's place. -/
structure FEnt where
  asid    : Nat
  kind    : Nat
  base    : Nat
  bits    : Nat
  part    : Nat
  frec    : Option Nat
  parked  : Nat
  refused : Nat
  reqs    : List Parked
  began   : Nat
deriving DecidableEq, Repr

/-- What the current descriptor of a pair is doing. -/
inductive DStage where
  /-- fetched, its command not yet run -/
  | ready
  /-- its command ran and it waits for an event: parked, waiting, moving, remote lines under way -/
  | busy
  /-- finished with a status and the two result words of its completion record -/
  | done (st : Status) (word : Nat)
deriving DecidableEq, Repr

/-- A chain running on an engine pair (R217-R230). -/
structure Chain where
  part   : Nat
  queue  : Nat
  start  : Nat
  descs  : List (List Byte)
  pos    : Nat := 0
  stage  : DStage := .ready
  loops  : List (Nat × Nat) := []
  snaps  : List (Nat × List Byte) := []
  began  : Nat := 0
  /-- its partition or the device is being reset: it runs no further and writes no record (R352, R353) -/
  ended  : Bool := false
deriving DecidableEq, Repr

/-- An engine pair: its running chain, its accumulator kept for ACC (KEEP), the remote lines received for its current
descriptor, the jobs it waits for, the phase of a multi-phase operation, whether it is reset out. -/
structure Pair where
  chain  : Option Chain := none
  acc    : List Nat := []
  accRows : Nat := 0
  accCols : Nat := 0
  got    : List (Nat × DLine) := []
  /-- lines read that lie in LOST granules, and bytes read at the descriptor's start, by address (R232, R248) -/
  lostLn : List Nat := []
  kept   : List (Nat × List Byte) := []
  asked  : List Nat := []
  jobs   : List Nat := []
  sent   : Nat := 0
  worst  : Option Compl := none
  parked : List Nat := []
  held   : Option Nat := none
  /-- the pair whose attention operation it works for (R320) -/
  helps  : Option Nat := none
  phase  : Nat := 0
  /-- result buffers to write before the completion record (R226) -/
  outs   : List (Nat × List Byte) := []
  /-- the pages that the current descriptor was translated through: virtual base, size in bits, store address (R74) -/
  xl     : List (Nat × Nat × Nat) := []
  /-- credits on which requests of its tiles were retried and that they have still to be served on (R109, R213) -/
  creds  : List Credit := []
  /-- ports at which its class B tile is admitted (R103) -/
  passed : List Nat := []
deriving DecidableEq, Repr

/-- A version of an embedding table or an index in a slot (R271, R296): `refs` are the pairs whose batches are bound to it,
`nctr` the counter credited when it is free. Version 0 stands for a closing slot's absent current version. -/
structure SlotVer where
  version : Nat
  body    : List Byte
  addr    : Nat
  refs    : List Nat := []
  nctr    : Option Nat := none
deriving DecidableEq, Repr

/-- An embedding or index slot. -/
structure Slot where
  owner    : Nat
  cur      : SlotVer
  retiring : List SlotVer := []
deriving DecidableEq, Repr

/-- A contributor of a relief entry: its source, whom to tell, and the address and ASID of its request (R111). -/
structure Contrib where
  src   : Src
  reply : Reply
  addr  : Nat
  asid  : Nat
deriving DecidableEq, Repr

/-- A relief entry (R204-R207). -/
structure Relief where
  line    : Nat
  op      : ROp
  et      : EType
  part    : Nat
  ctr     : Option Nat
  dst     : Nat
  opener  : Src
  openedAt : Nat
  count   : Nat
  who     : List Contrib
  data    : DLine
  h       : Hdr
  /-- its window has passed or it must leave, and it waits for its contributors' earlier requests (R205) -/
  due     : Bool := false
deriving DecidableEq, Repr

/-- A combining-cache entry (R203). -/
structure Comb where
  data  : DLine
  used  : Nat
deriving DecidableEq, Repr

/-- A cast group (R196). -/
structure CastG where
  part    : Nat
  size    : Nat
  members : List (Nat × Nat)
deriving DecidableEq, Repr

/-- A cast store under way (R197). -/
structure CastOp where
  reply : Reply
  part  : Nat
  left  : Nat
  stats : List Compl := []
  /-- what a refusal binds its credit to (R111) -/
  src   : Src := .plinth
  asid  : Nat := 0
  cls   : Nat := 1
  addr  : Nat := 0
  lines : Nat := 1
deriving DecidableEq, Repr

/-- A cached maquette entry and its pin (R369). -/
structure MaqC where
  entry : MaqEntry
  pin   : Option Nat := none
deriving DecidableEq, Repr

/-- A proposal under way at this device (R371), with its target and the keeper that decides it. -/
structure Prop_ where
  kind   : Nat
  extent : Nat
  device : Nat
  param  : Nat
  expect : Nat
  keeper : Nat
deriving DecidableEq, Repr

/-- A change a keeper has decided and not yet committed (R368). -/
structure KChange where
  entry : MaqEntry
  asker : Nat
  kind  : Nat
  other : Nat
deriving DecidableEq, Repr

/-- A change of a row of the device table that keeper index 0 has decided and not yet committed (R370), and who proposed it. -/
structure TChange where
  row   : DevRow
  asker : Nat
deriving DecidableEq, Repr

/-- A departed record (R377). -/
structure Depart where
  home  : Nat
  epoch : Nat
  at_   : Nat
deriving DecidableEq, Repr

/-- A forward record (R378), keyed by originating device, source agent and REQID. -/
structure FwdRec where
  dev    : Nat
  agent  : Nat
  reqid  : Nat
  st     : Compl
  extent : Nat
  at_    : Nat
deriving DecidableEq, Repr

/-- A revocation (R359-R361). -/
structure Revoke where
  part  : Nat
  jobs  : List Nat
  began : Nat
  bound : Nat
  done  : Bool := false
deriving DecidableEq, Repr

/-- A copy of the twin's granule held here (R384). -/
structure CopyG where
  tier : Nat
  slot : Nat
  part : Nat
deriving DecidableEq, Repr

/-- An error record, Table 17-3. -/
structure ERec where
  seq    : Nat
  kind   : Nat
  sev    : Nat
  unit   : Nat
  loc    : Nat
  part   : Option Nat
  agent  : Nat := 31
  count  : Nat := 1
  addr   : Nat := 0
  time   : Nat
  d0     : Nat := 0
  d1     : Nat := 0
  d2     : Nat := 0
deriving DecidableEq, Repr

/-- A Nybor request (R445). -/
structure NReq where
  opc    : Nat
  tag    : Nat := 0
  index  : Nat
  sub    : Nat
  offset : Nat := 0
  length : Nat := 0
  data   : List Byte := []
  /-- NVER, OPC and the reserved field keep R445 -/
  formed : Bool := true
deriving DecidableEq, Repr

/-- A session's own state (R443, R444, R461): selects, the request that has not completed and those held behind it, nonce words
and report. -/
structure Ses where
  busy   : Option NReq := none
  queue  : List NReq := []
  sel    : Tab Nat := []
  nonce  : Tab Nat := []
  rstate : Nat := 0
  report : List Byte := []
deriving DecidableEq, Repr

/-- A function of the PCI Express endpoint (Table 19-1, R438). -/
structure Fn where
  mbxReq   : List Byte := []
  mbxRsp   : List Byte := []
  mbxState : Nat := 0
  mbxCount : Nat := 0
  irq      : Bool := false
deriving DecidableEq, Repr

/-- A hart's access that has not completed. `kind`: 0 load, 1 fetch, 2 store, 3 `cbo.clean`, 4 `cbo.flush`, 5 `cbo.inval`;
`width` is the logarithm of its bytes; `sa` its store address once the aperture gave it; `asked`: its round was started. -/
structure HAcc where
  kind  : Nat
  pa    : Nat
  width : Nat
  value : Nat := 0
  sa    : Option Nat := none
  asked : Bool := false
deriving DecidableEq, Repr

/-- A core's own state that a command shows: last exception (cause, address), value last loaded, the access that stalls it and
the credit it waits on (R332). -/
structure Hart where
  cause   : Option (Nat × Nat) := none
  loaded  : Nat := 0
  pend    : Option HAcc := none
  credit  : Option Nat := none
deriving DecidableEq, Repr

/-- A token or a report waiting to be signed (R461). -/
structure Report where
  ses   : Nat
  body  : List Byte
deriving DecidableEq, Repr

/-- Messages between plinths (chapters 2, 15, 16, 18): their meaning is the rules', their wire form is not the spec's. -/
inductive PMsg where
  | fetch (e : Nat)
  | fetchReply (e : Nat) (entry : MaqEntry)
  | propose (kind e dev param expect : Nat)
  | proposalDone (st : Status) (epoch : Nat)
  | assignSlots (e tier : Nat) (prot : Bool) (part : Nat)
  | slotsAnswer (e : Nat) (st : Status)
  | prepareCopy (e tier part : Nat)
  | copyAnswer (e : Nat) (st : Status)
  | assignTold (e : Nat) (entry : MaqEntry)
  | unassign (e : Nat)
  | unassigned (e : Nat) (st : Status)
  | pointEntry (e : Nat) (entry : MaqEntry)
  | pointRow (dev : Nat) (row : DevRow)
  | devTable (dev : Nat) (row : DevRow)
  | generation (idx gen : Nat)
  | allocate (e tier part : Nat) (prot : Bool)
  | allocateReply (e : Nat) (st : Status)
  | freeSlots (e : Nat)
  | handover (e dest epoch : Nat)
  | handoverTold (e : Nat) (entry : MaqEntry) (committed : Bool)
  | markfail (dev : Nat)
  | takeoverReport (e : Nat)
  | resynced (e : Nat)
  | reclaim (extents : List Nat)
  | reclaimAnswer (e : Nat) (keep : Bool)
  | heartbeat
  | warmReset
  | copyMove (g toTier : Nat)
  | freeCopy (e : Nat)
  | extentAsk (e : Nat)
  | twinId
  /-- ask for the device table (R429) -/
  | tableAsk
deriving DecidableEq, Repr

/-- What the block sends or drives, newest first in `State.out`. -/
inductive Out where
  | compl (p dev path reqid : Nat) (c : Compl)
  | data (p dev path reqid line : Nat) (d : DLine)
  | req (p path : Nat) (r : Req)
  | snoop (p op addr : Nat) (backup : Bool)
  | grant (p reqid state addr : Nat) (data : Option Line)
  /-- stream control names the stream: its source in `id`, its destination `dst` -/
  | ack (p : Nat) (id : StreamId) (dst seq : Nat)
  | gap (p : Nat) (id : StreamId) (dst seq : Nat)
  | close (p : Nat) (id : StreamId) (dst : Nat)
  | sreset (p : Nat) (id : StreamId) (dst : Nat)
  | reqCredits (p part n : Nat)
  | flitCredits (p cls n : Nat)
  | nak (p lseq : Nat)
  | resend (p lseq : Nat)
  | linkDown (p : Nat)
  | retrain (p : Nat)
  | msix (f vec addr data : Nat)
  | imsic (hart file ident : Nat)
  | plinth (dst : Nat) (m : PMsg)
  | mailbox (f : Nat) (bytes : List Byte)
  | mctp (i3c : Bool) (ep : Nat) (bytes : List Byte)
  | tap (bytes : List Byte)
  /-- an in-band interrupt on I3C (R422) -/
  | ibi
  | avs (mV : Nat)
  | pin (name : String) (level : Bool)
  | nandProgram (block : Nat)
  | nandRead (block : Nat)
  | hart (h value : Nat)
  | hartFault (h cause addr : Nat)
deriving DecidableEq, Repr

/-- A message of a port that waits to be sent (R184, R186): the flits that have still to leave, the class and the partition whose
credits it needs, its source agent. -/
structure TxItem where
  out   : Out
  flits : Nat
  cls   : Option Nat := none
  part  : Option Nat := none
  agent : Option Nat := none
deriving DecidableEq, Repr

/-- A send-side link (R184-R186). -/
structure Link where
  nextOut  : Nat := 0
  oldest   : Nat := 0
  expect   : Nat := 0
  badCount : Nat := 0
  badSeq   : Nat := 0
  nakAt    : List Nat := []
  nakMode  : Bool := false
  flitCr   : Tab Nat := []
  reqCr    : Tab Nat := []
  lastGood : Nat := 0
  adaptAt  : Nat := 0
  /-- messages that wait for room on the link or for credits, in order -/
  txq      : List TxItem := []
deriving DecidableEq, Repr

/-- Pins, supplies, clocks and sensors (R474, R476, R481, R482). `mv` is the AVSBus target last acknowledged, `lowered` when it
was last lowered, `slowAt` and `hotAt` when a monitor or sensor last read above the limit that ends its hold. -/
structure Pins where
  pwrgood  : Bool := true
  thermtrip : Bool := false
  devalert : Bool := false
  refSys   : Bool := true
  refW     : Bool := true
  refE     : Bool := true
  refPe    : Bool := true
  mv       : Nat := 0
  /-- a raised target that the failing bus has not taken yet (R476); 0 is none -/
  want     : Nat := 0
  lowered  : Nat := 0
  busFails : Nat := 0
  slowAt   : Nat := 0
  hotAt    : Nat := 0
  /-- the last readings of the 72 junction sensors in millidegrees, and the power samples of the last 10 ms -/
  temps    : List Int := []
  samples  : List Nat := []
deriving DecidableEq, Repr

/-- Bring-up (R419-R430) and known-answer runs (R433, R434). `upAt` is when the last bring-up began, `phaseAt` when the phase
running began, without the cold wait. -/
structure Bring where
  upAt     : Nat := 0
  phaseAt  : Nat := 0
  /-- when the last cold bring-up began (TIME of Table 20-3) -/
  coldAt   : Nat := 0
  boot     : BootFlash := ⟨[], [], [], []⟩
  firmware : List Byte := []
  image    : Option (List Byte) := none
  /-- the accepted image: the digest of PK of its signature block, and the owner slot it was signed under (R459, R460) -/
  imgKey   : Option (BitVec 256) := none
  imgSlot  : Option Nat := none
  coldWait : Option Nat := none
  /-- rows that the image adds to the repair map (R425), and NAND channels left out -/
  rows     : List Nat := []
  nandBad  : List Nat := []
  /-- pairs fixed as failed; pairs whose run is under way; slices that KATNOW has still to test, and whether a pair failed it -/
  katBad   : List Nat := []
  katRun   : List Nat := []
  katDue   : List Nat := []
  katFail  : Bool := false
  /-- the records of the bring-up report, 32 bytes each (Table 18-4) -/
  report   : List (List Byte) := []
  /-- the phase and cause at which the last cold bring-up failed -/
  coldFail : Option (Nat × Nat) := none
  reclaim  : List Nat := []
  /-- how many extents this bring-up recovered granules of as home (R429), and clusters found failing without a spare -/
  found    : Nat := 0
  noCluster : List Nat := []
  draining : Bool := false
deriving DecidableEq, Repr

/-- The device as a whole: timer, bring-ups, written objects, pins, hash key, repair maps. -/
structure CoreSt where
  now     : Nat := 0
  boots   : Nat := 0
  obj     : Tab Nat := []
  pins    : Pins := {}
  bring   : Bring := {}
  key     : BitVec 128 := 0
  smap    : Tab Nat := []
  cmap    : Tab Nat := []
  badSlices : List Nat := []
deriving DecidableEq, Repr

/-- State of the store (chapter 2). -/
structure StoreSt where
  gran    : Tab GEnt := []
  frames  : Tab Frame := []
  flog    : Tab FLog := []
  opening : Tab Nat := []
  dirtyAt : Tab Nat := []
  fills   : Tab Fill := []
  deep    : Tab Nat := []
  progs   : Tab (BitVec 256) := []
  /-- the flash map: the NAND channel on which a block was last programmed (R494) -/
  fmap    : Tab Nat := []
  retired : List Nat := []
  badSlots : List (Nat × Nat) := []
  /-- cache frames retired for this bring-up, by their set (Table 18-2) -/
  badFrames : List Nat := []
  split   : Option (Nat × Nat) := none
  moves   : Tab Move := []
  places  : Tab PlaceOp := []
  exts    : Tab ExtMove := []
  /-- extents moving to this device, by number (Table 2-10) -/
  inAlloc : Tab Coming := []
  journal : List JRec := []
  jseq    : Nat := 0
  phases  : Tab PRec := []
  pseq    : Nat := 0
deriving DecidableEq, Repr

/-- State of admission (chapter 4). -/
structure AdmitSt where
  lanes   : Tab LanePart := []
  laneEv  : Tab (List LaneEv) := []
  bwin    : Tab Nat := []
  credits : Tab Credit := []
  cnext   : Nat := 0
deriving DecidableEq, Repr

/-- State of coherence (chapter 6). -/
structure CohSt where
  dir     : Tab DirE := []
  txns    : Tab Txn := []
  l2      : Tab L2E := []
  resWay  : Tab (Nat × Nat) := []
  jobs    : Tab Job := []
  jnext   : Nat := 1
  /-- the model's own: lines whose clean round an access waited for has ended, by access number and line -/
  readied : List (Nat × Nat) := []
  /-- lines of admitted requests that wait for the transaction open on their line to end, such as the recovery of an uncorrectable
  line (R170, R405): job, index, store address, operation -/
  recov : List (Nat × Nat × Nat × HOp) := []
deriving DecidableEq, Repr

/-- State of counters, streams, fabric (chapters 5, 7). -/
structure FabricSt where
  ctrs    : Tab Ctr := []
  waits   : Tab Wait := []
  fences  : List Fence := []
  sends   : Tab SendS := []
  recvs   : Tab RecvS := []
  origs   : Tab Orig := []
  onext   : Nat := 1
  paths   : Tab (Nat × Nat × Nat × Nat) := []
  /-- lost paths: since when, and since when the next probe is waited for (R200, R201) -/
  lost    : Tab (Nat × Nat) := []
  unreach : Tab Nat := []
  links   : Tab Link := []
  relief  : Tab Relief := []
  rnext   : Nat := 1
  comb    : Tab Comb := []
  casts   : Tab CastG := []
  castOps : Tab CastOp := []
  identP  : Tab Nat := []
  /-- what the contributors of a relief entry that left are owed -/
  reliefWho : Tab (List Contrib) := []
  /-- requests that leave when a stream's acknowledgement reaches a number (R205) -/
  after   : List After := []
  /-- credits and remote additions to counters that wait for earlier requests, in order (R145) -/
  lates   : List Late := []
  /-- requests in transit, by originating device and REQID (R113) -/
  transit : Tab Transit := []
  /-- answers owed when a maquette entry is fetched (R377) -/
  owed    : List (Nat × Reply) := []
deriving DecidableEq, Repr

/-- State of translation (chapter 3). -/
structure XlateSt where
  roots   : Tab Nat := []
  tlb     : Tab (List TlbE) := []
  /-- pointer entries by block: ASID, level, address above the level, table it points at -/
  ptrs    : Tab (List (Nat × Nat × Nat × Nat)) := []
  walks   : List Walk := []
  fents   : Tab FEnt := []
  fseq    : Tab Nat := []
  inval   : Tab Inval := []
deriving DecidableEq, Repr

/-- State of engines (chapters 8 to 12). -/
structure EngineSt where
  pairs   : Tab Pair := []
  /-- by partition, the queue whose chain the dispatcher last started (R218) -/
  turn    : Tab Nat := []
  qhist   : Tab (List Nat) := []
  /-- object loads of ports that wait for agents or flash (R263): job and header -/
  objWait : List (Nat × Hdr) := []
  /-- replayed requests of ports whose walk waits (R81) -/
  again   : List Parked := []
  emb     : Tab Slot := []
  idx     : Tab Slot := []
deriving DecidableEq, Repr

/-- State of harts (chapter 13). -/
structure HartSt where
  harts   : Tab Hart := []
  imsic   : List (Nat × Nat × Nat) := []
  /-- cached aperture entries, by cluster × 2,048 + window -/
  apert   : Tab Nat := []
  /-- harts with an access translated before the aperture generation was last written (R335) -/
  apDrain : List Nat := []
  /-- core clusters that become active when their sweep ends (R175, R179, R358) -/
  clRst   : List Nat := []
deriving DecidableEq, Repr

/-- State of partitions (chapter 14). -/
structure PartSt where
  /-- partitions whose reset is draining, and whether it is a release (R353, R354) -/
  resets  : Tab Bool := []
  ctrOwn  : Tab Nat := []
  castOwn : Tab Nat := []
  revokes : Tab Revoke := []
  revoked : List Nat := []
  keys    : Tab (BitVec 512) := []
  portRst : Tab (Option Nat) := []
  /-- E grant in effect on a port since its last reset (0x3030:03); 1 where none is listed -/
  egrant  : Tab Nat := []
  quar    : Tab Nat := []
deriving DecidableEq, Repr

/-- State of the maquette (chapter 15). -/
structure MaqSt where
  maq     : Tab MaqC := []
  keeper  : Tab MaqEntry := []
  kpend   : Tab KChange := []
  tpend   : Tab TChange := []
  devs    : Tab DevRow := []
  gens    : Tab Nat := []
  kpairs  : Tab (Nat × Nat) := []
  fetch   : Tab Nat := []
  prop    : Option Prop_ := none
  /-- devices that keeper index 0 probes: who proposed MARKFAIL, and when the probe left (R393) -/
  probing : Tab (Nat × Nat) := []
  /-- keeper indices served here whose table is rebuilt from reclaim lists (R431) -/
  rebuild : List Nat := []
  /-- indices whose generation this bring-up has raised for it -/
  regen   : List Nat := []
  depart  : Tab Depart := []
  fwds    : List FwdRec := []
  assigned : Tab GEnt := []
  unassign : List Nat := []
deriving DecidableEq, Repr

/-- State of the twin (chapter 16). -/
structure TwinSt where
  shakes  : Tab Nat := []
  copies  : Tab CopyG := []
  /-- the pointing buffers, by order of arrival: line number and line (R387, R388) -/
  pbuf    : Tab (Nat × DLine) := []
  exposed : List Nat := []
  resync  : List Nat := []
  /-- the twin announced a warm reset (R393) -/
  twinWarm : Bool := false
  /-- the pair was last PAIRED, and not in RESYNC: the copies held here are current (R394) -/
  whole   : Bool := false
deriving DecidableEq, Repr

/-- State of errors (chapter 17). -/
structure ErrSt where
  ring    : List ERec := []
  eseq    : Nat := 0
  merge   : Tab (Nat × Nat) := []
  sliceEv : Tab (List (Nat × Nat × Nat)) := []
  rowCorr : Tab Nat := []
  /-- the lines that the current patina pass has scrubbed (R415) -/
  patSeen : List Nat := []
  /-- when an HBM4 channel was last calibrated (R432) -/
  calAt   : Tab Nat := []
  /-- when the last burst of the test reserve of a resource began, by gate (R94) -/
  bursts  : Tab Nat := []
deriving DecidableEq, Repr

/-- State of the dictionary and its transports (chapter 19). -/
structure DictSt where
  fns     : Tab Fn := []
  /-- by device vector (R438): address, data, masked, pending; an unlisted vector is masked -/
  msix    : Tab (Nat × Nat × Bool × Bool) := []
  /-- the endpoint's link is up: from the end of phase 2 (R421) -/
  linkPe  : Bool := false
  /-- the source endpoint of each MCTP session, and the sessions from the least recently used on (R443) -/
  eids    : Tab Nat := []
  mctpUse : List Nat := []
  /-- the I3C dynamic address (R484), and the endpoint ID assigned on each binding: 0 PCI Express, 1 I3C (R442) -/
  i3c     : Option Nat := none
  myEid   : Tab Nat := []
  ses     : Tab Ses := []
deriving DecidableEq, Repr

/-- State of security (chapter 20). -/
structure SecSt where
  meas    : Tab (BitVec 512) := []
  chal    : BitVec 64 := 0
  reports : List Report := []
  /-- fuses: the security version number raised so far (R455), owner key digests burnt, owner slots revoked (R460) -/
  svn     : Nat := 0
  owners  : Tab (BitVec 256) := []
  ownRev  : List Nat := []
  warmFlag : Bool := false
  /-- KEYSLOT of the token that opened the debug level (R462) -/
  token   : Nat := 0
  /-- KEYID of each partition's loaded key (0xB020:04) -/
  keyIds  : Tab Nat := []
deriving DecidableEq, Repr

/-- Everything the spec gives the machine but the queue, the bytes, the poison marks and the model's own counters. -/
structure Dev extends CoreSt, StoreSt, AdmitSt, CohSt, FabricSt, XlateSt, EngineSt, HartSt, PartSt, MaqSt, TwinSt, ErrSt, DictSt, SecSt where
deriving DecidableEq, Repr

/-- The state of the block. -/
structure State where
  /-- the commands that wait, first in first out -/
  pending : List Instr
  /-- the bytes of T0 and T1 granules and of valid cache lines, by store address; an unlisted byte reads 0 (R27) -/
  mem     : List Host.Cell
  /-- the bytes programmed in flash, by store address (R32) -/
  flash   : List Host.Cell
  /-- the bytes of the copies held for the twin, by store address (R384) -/
  copy    : List Host.Cell
  /-- lines poisoned in `mem`, in `flash` and in `copy`, by line number (R409) -/
  bad     : List Nat
  fbad    : List Nat
  cbad    : List Nat
  /-- what the block sent or drove, newest first -/
  out     : List Out
  /-- the model's own field: how many free values have been drawn (log entry 2) -/
  fresh   : Nat
  dev     : Dev
deriving DecidableEq, Repr

/-- The block held in cold reset, before its first bring-up (R419): every object at its default, nothing stored. -/
def State.reset : State :=
  { pending := [], mem := [], flash := [], copy := [], bad := [], fbad := [], cbad := [], out := [], fresh := 0, dev := {} }

end Sys2Proof.Machine
end

