-- ==== Sys2Proof/Machine/Objects.lean ====
section
/-!
DEFINITION. The object dictionary's rows: index, subindices, type code (Table 19-2), access bits (Table 19-5), default,
smallest and largest value accepted. Each row is the row of the object table of the chapter named in INVENTORY.md. A
default that depends on the instance or the part is given by `objDefault`.
-/

namespace Sys2Proof.Machine

/-- One row of an object table. -/
structure ORow where
  idx : Nat
  lo  : Nat
  hi  : Nat
  ty  : Nat
  acc : Nat
  dflt : Nat
  min_ : Nat
  max_ : Nat
deriving DecidableEq, Repr

/-- Range 0x1000, identity and bring-up. -/
def oRows1a : List ORow := [
  ⟨0x1000, 0x01, 0x01, 8, 17, 0, 0, 0⟩,
  ⟨0x1000, 0x02, 0x02, 2, 17, 8058, 0, 65535⟩,
  ⟨0x1000, 0x03, 0x03, 2, 17, 150, 0, 65535⟩,
  ⟨0x1000, 0x04, 0x04, 1, 17, 161, 0, 255⟩,
  ⟨0x1000, 0x05, 0x05, 4, 17, 0, 0, 0xffffffffffffffff⟩,
  ⟨0x1000, 0x06, 0x06, 3, 17, 0, 0, 0xffffffff⟩,
  ⟨0x1000, 0x07, 0x07, 1, 17, 1, 0, 255⟩,
  ⟨0x1000, 0x08, 0x08, 3, 17, 0, 0, 0xffffffff⟩,
  ⟨0x1000, 0x09, 0x09, 1, 17, 0, 0, 255⟩,
  ⟨0x1020, 0x01, 0x01, 1, 17, 0, 0, 255⟩,
  ⟨0x1020, 0x02, 0x02, 1, 17, 0, 0, 255⟩,
  ⟨0x1020, 0x03, 0x03, 3, 17, 0, 0, 0xffffffff⟩,
  ⟨0x1020, 0x04, 0x04, 3, 17, 0, 0, 0xffffffff⟩,
  ⟨0x1020, 0x05, 0x05, 1, 17, 0, 0, 255⟩,
  ⟨0x1020, 0x06, 0x06, 3, 17, 0xffffffff, 0, 0xffffffff⟩,
  ⟨0x1020, 0x07, 0x07, 3, 17, 0, 0, 0xffffffff⟩,
  ⟨0x1020, 0x08, 0x08, 1, 17, 8, 0, 255⟩,
  ⟨0x1020, 0x09, 0x09, 3, 17, 0, 0, 0xffffffff⟩,
  ⟨0x1030, 0x01, 0x01, 2, 17, 0, 0, 65535⟩,
  ⟨0x1030, 0x02, 0x02, 2, 19, 0, 0, 1023⟩,
  ⟨0x1030, 0x03, 0x06, 4, 17, 0, 0, 0xffffffffffffffff⟩,
  ⟨0x1040, 0x01, 0x01, 3, 19, 3600, 60, 0x15180⟩,
  ⟨0x1040, 0x02, 0x02, 1, 19, 0, 1, 4⟩,
  ⟨0x1040, 0x03, 0x03, 1, 17, 0, 0, 255⟩,
  ⟨0x1040, 0x04, 0x04, 4, 19, 0, 0, 0xffffffffffffffff⟩,
  ⟨0x1040, 0x05, 0x05, 3, 19, 0, 1, 0x20000⟩]

/-- Range 0x2000, admission and timing. -/
def oRows2a : List ORow := [
  ⟨0x2000, 0x01, 0x01, 1, 1, 0, 0, 255⟩,
  ⟨0x2000, 0x02, 0x02, 3, 1, 2000, 0, 0xffffffff⟩,
  ⟨0x2000, 0x03, 0x03, 3, 1, 100, 0, 0xffffffff⟩,
  ⟨0x2000, 0x04, 0x04, 1, 3, 0, 0, 75⟩,
  ⟨0x2000, 0x05, 0x05, 3, 1, 0, 0, 0xffffffff⟩,
  ⟨0x2010, 0x01, 0x01, 3, 17, 1500, 0, 0xffffffff⟩,
  ⟨0x2010, 0x02, 0x02, 3, 17, 1000, 0, 0xffffffff⟩,
  ⟨0x2010, 0x03, 0x03, 3, 17, 2000, 0, 0xffffffff⟩,
  ⟨0x2010, 0x04, 0x04, 3, 17, 4000, 0, 0xffffffff⟩,
  ⟨0x2010, 0x05, 0x05, 3, 17, 0x249f0, 0, 0xffffffff⟩,
  ⟨0x2010, 0x06, 0x06, 3, 17, 300, 0, 0xffffffff⟩,
  ⟨0x2010, 0x07, 0x07, 3, 17, 800, 0, 0xffffffff⟩,
  ⟨0x2010, 0x08, 0x08, 3, 17, 350, 0, 0xffffffff⟩,
  ⟨0x2010, 0x09, 0x09, 3, 17, 250, 0, 0xffffffff⟩,
  ⟨0x2020, 0x01, 0x0D, 4, 1, 0, 0, 0xffffffffffffffff⟩]

/-- Range 0x3000, ports. -/
def oRows3a : List ORow := [
  ⟨0x3000, 0x00, 0x00, 1, 3, 0, 0, 15⟩,
  ⟨0x3010, 0x01, 0x01, 1, 67, 3, 0, 4⟩,
  ⟨0x3010, 0x02, 0x02, 1, 65, 0, 0, 255⟩,
  ⟨0x3020, 0x01, 0x01, 3, 65, 0x80000, 0, 0xffffffff⟩,
  ⟨0x3020, 0x02, 0x02, 3, 65, 0x400000, 0, 0xffffffff⟩,
  ⟨0x3020, 0x03, 0x03, 3, 65, 20000, 0, 0xffffffff⟩,
  ⟨0x3020, 0x04, 0x04, 4, 65, 0, 0, 0xffffffffffffffff⟩,
  ⟨0x3020, 0x05, 0x05, 4, 65, 0, 0, 0xffffffffffffffff⟩,
  ⟨0x3020, 0x06, 0x06, 3, 65, 0, 0, 0xffffffff⟩,
  ⟨0x3020, 0x07, 0x07, 4, 65, 0, 0, 0xffffffffffffffff⟩,
  ⟨0x3030, 0x01, 0x01, 1, 65, 0, 0, 255⟩,
  ⟨0x3030, 0x02, 0x02, 1, 65, 0, 0, 255⟩,
  ⟨0x3030, 0x03, 0x03, 1, 67, 1, 0, 1⟩,
  ⟨0x3030, 0x04, 0x04, 3, 65, 0, 0, 0xffffffff⟩,
  ⟨0x3040, 0x01, 0x01, 1, 65, 0, 0, 255⟩,
  ⟨0x3040, 0x02, 0x02, 1, 65, 0, 0, 255⟩,
  ⟨0x3040, 0x03, 0x03, 4, 65, 0, 0, 0xffffffffffffffff⟩,
  ⟨0x3040, 0x04, 0x04, 4, 65, 0, 0, 0xffffffffffffffff⟩,
  ⟨0x3040, 0x05, 0x05, 4, 65, 0, 0, 0xffffffffffffffff⟩,
  ⟨0x3040, 0x06, 0x06, 3, 65, 0, 0, 0xffffffff⟩,
  ⟨0x3040, 0x07, 0x07, 1, 67, 0, 0, 1⟩,
  ⟨0x3040, 0x08, 0x08, 4, 65, 0, 0, 0xffffffffffffffff⟩,
  ⟨0x3040, 0x09, 0x09, 4, 65, 0, 0, 0xffffffffffffffff⟩,
  ⟨0x3050, 0x01, 0x01, 1, 67, 0, 0, 127⟩,
  ⟨0x3050, 0x02, 0x02, 2, 67, 65535, 0, 65535⟩,
  ⟨0x3F00, 0x01, 0x01, 2, 3, 500, 0, 4000⟩,
  ⟨0x3F00, 0x02, 0x02, 2, 1, 0, 0, 65535⟩,
  ⟨0x3F00, 0x03, 0x03, 4, 1, 0, 0, 0xffffffffffffffff⟩,
  ⟨0x3F00, 0x04, 0x04, 4, 1, 0, 0, 0xffffffffffffffff⟩,
  ⟨0x3F00, 0x05, 0x05, 4, 1, 0, 0, 0xffffffffffffffff⟩,
  ⟨0x3F00, 0x06, 0x06, 2, 1, 0, 0, 65535⟩,
  ⟨0x3F10, 0x01, 0x01, 2, 3, 0, 0, 16383⟩,
  ⟨0x3F10, 0x02, 0x05, 2, 3, 0, 0, 65535⟩]

/-- Range 0x4000, stacks and tiers. -/
def oRows4a : List ORow := [
  ⟨0x4000, 0x00, 0x00, 1, 3, 0, 0, 7⟩,
  ⟨0x4010, 0x01, 0x01, 3, 65, 0, 0, 0xffffffff⟩,
  ⟨0x4010, 0x02, 0x02, 3, 65, 0, 0, 0xffffffff⟩,
  ⟨0x4010, 0x03, 0x03, 5, 65, 0, 0, 0x7fffffff⟩,
  ⟨0x4080, 0x01, 0x01, 1, 3, 32, 2, 92⟩,
  ⟨0x4080, 0x02, 0x02, 2, 1, 192, 0, 65535⟩,
  ⟨0x4080, 0x03, 0x03, 3, 1, 0x40000, 0, 0xffffffff⟩,
  ⟨0x4080, 0x04, 0x04, 3, 1, 0, 0, 0xffffffff⟩,
  ⟨0x4080, 0x05, 0x05, 3, 1, 0xff0000, 0, 0xffffffff⟩,
  ⟨0x4080, 0x06, 0x06, 4, 1, 0, 0, 0xffffffffffffffff⟩,
  ⟨0x4090, 0x01, 0x01, 3, 11, 0xffffffff, 0, 0xffffffff⟩]

/-- Range 0x5000, slices and clusters. -/
def oRows5a : List ORow := [
  ⟨0x5000, 0x00, 0x00, 2, 3, 0, 0, 263⟩,
  ⟨0x5010, 0x01, 0x01, 1, 67, 0, 0, 1⟩,
  ⟨0x5010, 0x02, 0x02, 2, 65, 0, 0, 65535⟩,
  ⟨0x5010, 0x03, 0x03, 1, 65, 3, 0, 255⟩,
  ⟨0x5010, 0x04, 0x04, 1, 65, 0, 0, 255⟩,
  ⟨0x5030, 0x01, 0x01, 3, 65, 0, 0, 0xffffffff⟩,
  ⟨0x5030, 0x02, 0x02, 3, 65, 0, 0, 0xffffffff⟩,
  ⟨0x5030, 0x03, 0x03, 4, 65, 0, 0, 0xffffffffffffffff⟩,
  ⟨0x5030, 0x04, 0x04, 4, 65, 0, 0, 0xffffffffffffffff⟩,
  ⟨0x5030, 0x05, 0x05, 4, 65, 0, 0, 0xffffffffffffffff⟩,
  ⟨0x5030, 0x06, 0x06, 4, 65, 0, 0, 0xffffffffffffffff⟩,
  ⟨0x5100, 0x01, 0x01, 1, 65, 0, 0, 255⟩,
  ⟨0x5100, 0x02, 0x02, 1, 65, 0, 0, 255⟩,
  ⟨0x5100, 0x03, 0x03, 1, 65, 0, 0, 255⟩,
  ⟨0x5100, 0x04, 0x04, 2, 67, 3000, 1000, 3000⟩,
  ⟨0x5100, 0x05, 0x05, 4, 65, 0, 0, 0xffffffffffffffff⟩,
  ⟨0x5100, 0x06, 0x06, 1, 67, 0, 0, 1⟩,
  ⟨0x5110, 0x01, 0x04, 1, 67, 0, 0, 255⟩,
  ⟨0x5F00, 0x01, 0x01, 4, 3, 0, 0, 0xffffffffffffffff⟩,
  ⟨0x5F00, 0x02, 0x02, 3, 3, 0, 0, 0xffffffff⟩]

/-- Range 0x6000, partitions. -/
def oRows6a : List ORow := [
  ⟨0x6000, 0x00, 0x00, 1, 19, 0, 0, 255⟩,
  ⟨0x6010, 0x01, 0x01, 2, 83, 1, 1, 1000⟩,
  ⟨0x6010, 0x02, 0x02, 1, 83, 0, 0, 75⟩,
  ⟨0x6010, 0x03, 0x03, 3, 83, 0, 0, 0xffffffff⟩,
  ⟨0x6010, 0x04, 0x04, 3, 83, 0, 0, 0xffffffff⟩,
  ⟨0x6010, 0x05, 0x05, 3, 83, 0, 0, 0xffffffff⟩,
  ⟨0x6010, 0x06, 0x06, 3, 83, 0, 0, 0xffffffff⟩,
  ⟨0x6010, 0x07, 0x07, 2, 83, 4096, 256, 4096⟩,
  ⟨0x6010, 0x08, 0x08, 4, 81, 0, 0, 0xffffffffffffffff⟩,
  ⟨0x6010, 0x09, 0x09, 4, 81, 0, 0, 0xffffffffffffffff⟩,
  ⟨0x6020, 0x01, 0x01, 4, 115, 0, 0, 0xffffffffffffffff⟩,
  ⟨0x6020, 0x02, 0x02, 3, 115, 1024, 128, 0x10000⟩,
  ⟨0x6020, 0x03, 0x03, 3, 115, 0x186a0, 1000, 0x989680⟩,
  ⟨0x6020, 0x04, 0x04, 3, 81, 0, 0, 0xffffffff⟩,
  ⟨0x6020, 0x05, 0x05, 3, 115, 0, 0, 0xffffffff⟩,
  ⟨0x6030, 0x01, 0x01, 2, 83, 0, 0, 768⟩,
  ⟨0x6030, 0x02, 0x02, 2, 83, 768, 1, 768⟩,
  ⟨0x6030, 0x03, 0x03, 2, 81, 0, 0, 65535⟩,
  ⟨0x6030, 0x04, 0x04, 4, 81, 0, 0, 0xffffffffffffffff⟩,
  ⟨0x6040, 0x01, 0x01, 4, 115, 0, 0, 0xffffffffffffffff⟩,
  ⟨0x6040, 0x02, 0x02, 3, 115, 256, 64, 0x10000⟩,
  ⟨0x6040, 0x03, 0x03, 4, 115, 0, 0, 0xffffffffffffffff⟩,
  ⟨0x6040, 0x04, 0x04, 2, 115, 0, 0, 65535⟩,
  ⟨0x6040, 0x05, 0x05, 1, 115, 0, 0, 7⟩,
  ⟨0x6040, 0x06, 0x06, 1, 115, 0, 0, 255⟩,
  ⟨0x6040, 0x07, 0x07, 2, 115, 65535, 0, 65535⟩,
  ⟨0x6040, 0x08, 0x08, 4, 115, 0, 0, 0xffffffffffffffff⟩,
  ⟨0x6040, 0x09, 0x09, 3, 115, 0, 0, 0x10000⟩,
  ⟨0x6040, 0x0A, 0x0A, 3, 81, 0, 0, 0xffffffff⟩,
  ⟨0x6040, 0x0B, 0x0B, 3, 81, 0, 0, 0xffffffff⟩,
  ⟨0x6040, 0x0C, 0x0C, 3, 115, 0, 0, 0xffffffff⟩,
  ⟨0x6040, 0x0D, 0x0D, 1, 81, 0, 0, 255⟩,
  ⟨0x6050, 0x01, 0x01, 1, 81, 0, 0, 255⟩,
  ⟨0x6050, 0x02, 0x02, 1, 83, 0, 0, 64⟩,
  ⟨0x6050, 0x03, 0x03, 2, 83, 0, 0, 65535⟩,
  ⟨0x6050, 0x04, 0x04, 3, 83, 0, 0, 0x10000⟩,
  ⟨0x6050, 0x05, 0x05, 2, 83, 192, 0, 192⟩,
  ⟨0x6050, 0x06, 0x06, 3, 83, 0xffffffff, 0, 0xffffffff⟩,
  ⟨0x6050, 0x07, 0x07, 2, 81, 0, 0, 65535⟩,
  ⟨0x6050, 0x08, 0x08, 3, 81, 0, 0, 0xffffffff⟩]

/-- Range 0x6000, partitions. -/
def oRows6b : List ORow := [
  ⟨0x6050, 0x09, 0x09, 3, 81, 0, 0, 0xffffffff⟩,
  ⟨0x6050, 0x0A, 0x0A, 3, 81, 0, 0, 0xffffffff⟩,
  ⟨0x6060, 0x01, 0x10, 4, 115, 0, 0, 0xffffffffffffffff⟩,
  ⟨0x6060, 0x11, 0x11, 4, 115, 0, 0, 0xffffffffffffffff⟩,
  ⟨0x6060, 0x12, 0x12, 4, 115, 0, 0, 0xffffffffffffffff⟩,
  ⟨0x6060, 0x13, 0x13, 4, 115, 0, 0, 0xffffffffffffffff⟩,
  ⟨0x6060, 0x14, 0x14, 4, 115, 0, 0, 0xffffffffffffffff⟩,
  ⟨0x6060, 0x15, 0x15, 4, 115, 0, 0, 0xffffffffffffffff⟩,
  ⟨0x6060, 0x16, 0x16, 4, 81, 0, 0, 0xffffffffffffffff⟩,
  ⟨0x6070, 0x01, 0x01, 1, 115, 0, 1, 3⟩,
  ⟨0x6070, 0x02, 0x02, 3, 83, 0xffffffff, 0, 0xffffffff⟩,
  ⟨0x6070, 0x03, 0x03, 3, 83, 0xffffffff, 0, 0xffffffff⟩,
  ⟨0x6070, 0x04, 0x04, 1, 81, 0, 0, 255⟩,
  ⟨0x6070, 0x05, 0x05, 3, 81, 0, 0, 0xffffffff⟩,
  ⟨0x6070, 0x06, 0x06, 3, 81, 0, 0, 0xffffffff⟩,
  ⟨0x6F00, 0x01, 0x01, 1, 7, 0, 1, 2⟩,
  ⟨0x6F00, 0x02, 0x02, 1, 3, 255, 0, 15⟩,
  ⟨0x6F00, 0x03, 0x03, 4, 1, 0, 0, 0xffffffffffffffff⟩,
  ⟨0x6F10, 0x01, 0x01, 2, 3, 0, 0, 2047⟩,
  ⟨0x6F10, 0x02, 0x02, 2, 3, 0, 0, 65535⟩,
  ⟨0x6F20, 0x01, 0x01, 1, 3, 0, 0, 255⟩,
  ⟨0x6F20, 0x02, 0x02, 2, 3, 0, 0, 65535⟩]

/-- Range 0x7000, maquette. -/
def oRows7a : List ORow := [
  ⟨0x7000, 0x01, 0x01, 2, 11, 0, 0, 16383⟩,
  ⟨0x7000, 0x02, 0x02, 1, 1, 0, 0, 255⟩,
  ⟨0x7000, 0x03, 0x03, 2, 1, 65535, 0, 65535⟩,
  ⟨0x7010, 0x01, 0x01, 2, 11, 0, 1, 256⟩,
  ⟨0x7010, 0x02, 0x02, 1, 3, 0, 0, 255⟩,
  ⟨0x7010, 0x03, 0x03, 3, 11, 0, 0, 0xffffffff⟩,
  ⟨0x7020, 0x01, 0x01, 3, 3, 0, 0, 0xffffffff⟩,
  ⟨0x7020, 0x02, 0x02, 4, 1, 0, 0, 0xffffffffffffffff⟩,
  ⟨0x7020, 0x03, 0x03, 4, 1, 0, 0, 0xffffffffffffffff⟩,
  ⟨0x7030, 0x01, 0x01, 1, 7, 0, 1, 4⟩,
  ⟨0x7030, 0x02, 0x02, 3, 7, 0, 0, 0xffffffff⟩,
  ⟨0x7030, 0x03, 0x03, 2, 7, 0, 0, 16383⟩,
  ⟨0x7030, 0x04, 0x04, 4, 7, 0, 0, 0xffffffffffffffff⟩,
  ⟨0x7030, 0x05, 0x05, 3, 7, 0, 0, 0xffffffff⟩,
  ⟨0x7030, 0x06, 0x06, 1, 7, 0, 1, 1⟩,
  ⟨0x7030, 0x07, 0x07, 1, 1, 0, 0, 255⟩,
  ⟨0x7030, 0x08, 0x08, 3, 1, 0, 0, 0xffffffff⟩,
  ⟨0x7040, 0x01, 0x01, 4, 1, 0, 0, 0xffffffffffffffff⟩,
  ⟨0x7040, 0x02, 0x02, 4, 1, 0, 0, 0xffffffffffffffff⟩,
  ⟨0x7040, 0x03, 0x03, 4, 1, 0, 0, 0xffffffffffffffff⟩,
  ⟨0x7040, 0x04, 0x04, 3, 1, 0, 0, 0xffffffff⟩,
  ⟨0x7040, 0x05, 0x05, 2, 1, 0, 0, 65535⟩,
  ⟨0x7040, 0x06, 0x06, 4, 1, 0, 0, 0xffffffffffffffff⟩]

/-- Range 0x8000, twin. -/
def oRows8a : List ORow := [
  ⟨0x8000, 0x01, 0x01, 2, 11, 0, 0, 16383⟩,
  ⟨0x8000, 0x02, 0x02, 1, 1, 0, 0, 255⟩,
  ⟨0x8000, 0x03, 0x03, 1, 1, 0, 0, 255⟩,
  ⟨0x8000, 0x04, 0x04, 1, 3, 0, 0, 1⟩,
  ⟨0x8000, 0x05, 0x05, 1, 3, 0, 1, 3⟩,
  ⟨0x8000, 0x06, 0x06, 3, 1, 10000, 0, 0xffffffff⟩,
  ⟨0x8000, 0x07, 0x07, 3, 1, 0x186a0, 0, 0xffffffff⟩,
  ⟨0x8010, 0x01, 0x01, 3, 1, 0, 0, 0xffffffff⟩,
  ⟨0x8010, 0x02, 0x02, 3, 1, 0, 0, 0xffffffff⟩,
  ⟨0x8010, 0x03, 0x03, 3, 1, 0, 0, 0xffffffff⟩,
  ⟨0x8010, 0x04, 0x04, 3, 1, 0, 0, 0xffffffff⟩,
  ⟨0x8010, 0x05, 0x05, 3, 1, 0, 0, 0xffffffff⟩,
  ⟨0x8010, 0x06, 0x06, 4, 1, 0, 0, 0xffffffffffffffff⟩,
  ⟨0x8010, 0x07, 0x07, 3, 1, 0, 0, 0xffffffff⟩]

/-- Range 0x9000, errors. -/
def oRows9a : List ORow := [
  ⟨0x9000, 0x01, 0x01, 3, 1, 0, 0, 0xffffffff⟩,
  ⟨0x9000, 0x02, 0x02, 3, 3, 0, 0, 0xffffffff⟩,
  ⟨0x9000, 0x03, 0x03, 4, 1, 0, 0, 0xffffffffffffffff⟩,
  ⟨0x9000, 0x04, 0x04, 4, 1, 0, 0, 0xffffffffffffffff⟩,
  ⟨0x9000, 0x05, 0x05, 4, 1, 0, 0, 0xffffffffffffffff⟩,
  ⟨0x9010, 0x01, 0x01, 3, 3, 0x15180, 60, 0x93a80⟩,
  ⟨0x9010, 0x02, 0x02, 3, 3, 0x93a80, 3600, 0x278d00⟩,
  ⟨0x9010, 0x03, 0x03, 1, 1, 0, 0, 255⟩,
  ⟨0x9010, 0x04, 0x04, 4, 1, 0, 0, 0xffffffffffffffff⟩,
  ⟨0x9010, 0x05, 0x05, 3, 1, 0, 0, 0xffffffff⟩,
  ⟨0x9020, 0x01, 0x01, 3, 51, 0, 0, 0xffffffff⟩,
  ⟨0x9020, 0x02, 0x09, 4, 17, 0, 0, 0xffffffffffffffff⟩,
  ⟨0x9030, 0x01, 0x01, 4, 1, 0, 0, 0xffffffffffffffff⟩,
  ⟨0x9030, 0x02, 0x02, 4, 1, 0, 0, 0xffffffffffffffff⟩,
  ⟨0x9030, 0x03, 0x03, 4, 1, 0, 0, 0xffffffffffffffff⟩,
  ⟨0x9030, 0x04, 0x04, 4, 1, 0, 0, 0xffffffffffffffff⟩,
  ⟨0x9030, 0x05, 0x05, 3, 1, 0, 0, 0xffffffff⟩,
  ⟨0x9030, 0x10, 0x16, 4, 1, 0, 0, 0xffffffffffffffff⟩]

/-- Range 0xA000, power and thermal. -/
def oRowsAa : List ORow := [
  ⟨0xA000, 0x01, 0x01, 2, 1, 0, 0, 65535⟩,
  ⟨0xA000, 0x02, 0x02, 2, 1, 0, 0, 65535⟩,
  ⟨0xA000, 0x03, 0x03, 5, 1, 0, 0, 0x7fffffff⟩,
  ⟨0xA000, 0x04, 0x04, 3, 1, 0, 0, 0xffffffff⟩,
  ⟨0xA000, 0x05, 0x05, 2, 1, 0, 0, 65535⟩,
  ⟨0xA010, 0x01, 0x01, 1, 1, 0, 0, 255⟩,
  ⟨0xA010, 0x02, 0x02, 3, 1, 0, 0, 0xffffffff⟩,
  ⟨0xA010, 0x03, 0x03, 3, 1, 0, 0, 0xffffffff⟩,
  ⟨0xA020, 0x01, 0x01, 4, 1, 0, 0, 0xffffffffffffffff⟩,
  ⟨0xA020, 0x02, 0x02, 4, 1, 0, 0, 0xffffffffffffffff⟩,
  ⟨0xA020, 0x03, 0x03, 2, 11, 0, 0, 65535⟩,
  ⟨0xA030, 0x01, 0x01, 5, 1, 0, 0, 0x7fffffff⟩,
  ⟨0xA030, 0x02, 0x02, 5, 1, 0, 0, 0x7fffffff⟩,
  ⟨0xA030, 0x03, 0x03, 3, 1, 0, 0, 0xffffffff⟩,
  ⟨0xA040, 0x01, 0x01, 4, 1, 0, 0, 0xffffffffffffffff⟩,
  ⟨0xA040, 0x02, 0x02, 3, 1, 0, 0, 0xffffffff⟩]

/-- Range 0xB000, security. -/
def oRowsBa : List ORow := [
  ⟨0xB000, 0x01, 0x01, 1, 1, 0, 0, 255⟩,
  ⟨0xB000, 0x02, 0x02, 1, 1, 0, 0, 255⟩,
  ⟨0xB000, 0x03, 0x03, 3, 1, 0, 0, 0xffffffff⟩,
  ⟨0xB000, 0x04, 0x04, 1, 11, 255, 0, 1⟩,
  ⟨0xB000, 0x05, 0x05, 1, 11, 255, 0, 1⟩,
  ⟨0xB010, 0x01, 0x01, 9, 1, 0, 0, 0⟩,
  ⟨0xB010, 0x02, 0x02, 9, 1, 0, 0, 0⟩,
  ⟨0xB010, 0x03, 0x03, 9, 1, 0, 0, 0⟩,
  ⟨0xB020, 0x01, 0x01, 1, 3, 0, 0, 255⟩,
  ⟨0xB020, 0x02, 0x02, 4, 3, 0, 0, 0xffffffffffffffff⟩,
  ⟨0xB020, 0x03, 0x03, 1, 7, 0, 1, 2⟩,
  ⟨0xB020, 0x04, 0x04, 4, 1, 0, 0, 0xffffffffffffffff⟩,
  ⟨0xB030, 0x01, 0x08, 4, 3, 0, 0, 0xffffffffffffffff⟩,
  ⟨0xB030, 0x09, 0x09, 1, 3, 0, 1, 1⟩,
  ⟨0xB030, 0x0A, 0x0A, 1, 1, 0, 0, 255⟩,
  ⟨0xB030, 0x0B, 0x0B, 9, 1, 0, 0, 0⟩,
  ⟨0xB040, 0x01, 0x01, 1, 1, 0, 0, 255⟩,
  ⟨0xB040, 0x02, 0x02, 4, 1, 0, 0, 0xffffffffffffffff⟩,
  ⟨0xB040, 0x03, 0x03, 1, 7, 0, 0, 0⟩,
  ⟨0xB040, 0x04, 0x04, 3, 1, 0, 0, 0xffffffff⟩]

/-- Range 0xC000, engines and tables. -/
def oRowsCa : List ORow := [
  ⟨0xC000, 0x01, 0x01, 2, 1, 0, 0, 65535⟩,
  ⟨0xC000, 0x02, 0x02, 4, 1, 0, 0, 0xffffffffffffffff⟩,
  ⟨0xC000, 0x03, 0x03, 4, 1, 0, 0, 0xffffffffffffffff⟩,
  ⟨0xC000, 0x04, 0x04, 4, 1, 0, 0, 0xffffffffffffffff⟩,
  ⟨0xC000, 0x05, 0x05, 4, 1, 0, 0, 0xffffffffffffffff⟩,
  ⟨0xC010, 0x01, 0x01, 4, 1, 0, 0, 0xffffffffffffffff⟩,
  ⟨0xC010, 0x02, 0x02, 4, 1, 0, 0, 0xffffffffffffffff⟩,
  ⟨0xC010, 0x03, 0x03, 4, 1, 0, 0, 0xffffffffffffffff⟩,
  ⟨0xC010, 0x04, 0x04, 4, 1, 0, 0, 0xffffffffffffffff⟩,
  ⟨0xC010, 0x05, 0x05, 4, 1, 0, 0, 0xffffffffffffffff⟩,
  ⟨0xC020, 0x01, 0x01, 2, 1, 0, 0, 65535⟩,
  ⟨0xC020, 0x02, 0x02, 4, 1, 0, 0, 0xffffffffffffffff⟩,
  ⟨0xC020, 0x03, 0x03, 4, 1, 0, 0, 0xffffffffffffffff⟩,
  ⟨0xC020, 0x04, 0x04, 4, 1, 0, 0, 0xffffffffffffffff⟩,
  ⟨0xC020, 0x05, 0x05, 4, 1, 0, 0, 0xffffffffffffffff⟩,
  ⟨0xC020, 0x06, 0x06, 4, 1, 0, 0, 0xffffffffffffffff⟩,
  ⟨0xC020, 0x07, 0x07, 4, 1, 0, 0, 0xffffffffffffffff⟩,
  ⟨0xC020, 0x08, 0x08, 4, 1, 0, 0, 0xffffffffffffffff⟩,
  ⟨0xC030, 0x01, 0x01, 2, 1, 0, 0, 65535⟩,
  ⟨0xC030, 0x02, 0x02, 4, 1, 0, 0, 0xffffffffffffffff⟩,
  ⟨0xC030, 0x03, 0x03, 4, 1, 0, 0, 0xffffffffffffffff⟩,
  ⟨0xC030, 0x04, 0x04, 4, 1, 0, 0, 0xffffffffffffffff⟩,
  ⟨0xC030, 0x05, 0x05, 4, 1, 0, 0, 0xffffffffffffffff⟩,
  ⟨0xC030, 0x06, 0x06, 4, 1, 0, 0, 0xffffffffffffffff⟩,
  ⟨0xC030, 0x07, 0x07, 4, 1, 0, 0, 0xffffffffffffffff⟩,
  ⟨0xC030, 0x08, 0x08, 4, 1, 0, 0, 0xffffffffffffffff⟩,
  ⟨0xC030, 0x09, 0x09, 4, 1, 0, 0, 0xffffffffffffffff⟩,
  ⟨0xC040, 0x01, 0x01, 4, 1, 0, 0, 0xffffffffffffffff⟩,
  ⟨0xC040, 0x02, 0x02, 4, 1, 0, 0, 0xffffffffffffffff⟩,
  ⟨0xC040, 0x03, 0x03, 4, 1, 0, 0, 0xffffffffffffffff⟩,
  ⟨0xC040, 0x04, 0x04, 4, 1, 0, 0, 0xffffffffffffffff⟩,
  ⟨0xC040, 0x05, 0x05, 4, 1, 0, 0, 0xffffffffffffffff⟩,
  ⟨0xC040, 0x06, 0x06, 4, 1, 0, 0, 0xffffffffffffffff⟩,
  ⟨0xC040, 0x07, 0x07, 4, 1, 0, 0, 0xffffffffffffffff⟩]

/-- Every object but the selects. -/
def oRows : List ORow :=
  oRows1a ++ oRows2a ++ oRows3a ++ oRows4a ++ oRows5a ++ oRows6a ++ oRows6b ++ oRows7a ++ oRows8a ++ oRows9a ++ oRowsAa ++ oRowsBa ++ oRowsCa

/-- The row of an object; the sixteen queues of a partition share the rows of 0x6040. -/
def oRow? (idx sub : Nat) : Option ORow :=
  let i := if 0x6040 ≤ idx && idx ≤ 0x604F then 0x6040 else idx
  oRows.find? (fun r => r.idx == i && r.lo ≤ sub && sub ≤ r.hi)

/-- The default of an object for instance `inst`: its row's, or the one its table gives per instance or per part. -/
def objDefault (inst idx sub : Nat) : Nat :=
  if idx == 0x3010 then (if sub ≤ 2 then (if inst ≤ 13 then 3 else 4) else 0)
  else if idx == 0x3030 && sub == 1 then 8 + inst
  else if idx == 0x5100 && sub == 2 then inst % 256
  else if idx == 0x6050 && sub == 1 then (if inst == 0 then 1 else 0)
  else if idx == 0x6050 && sub == 4 then (if inst == 0 then 65536 else 0)
  else match oRow? idx sub with
    | some r => r.dflt
    | none => 0

end Sys2Proof.Machine
end

