-- ==== Sys2Proof/Machine/Ops.lean ====
section
/-!
DEFINITION. The named operations over the state: bit fields and bytes (R6), tables, the stores of bytes, poison marks,
dictionary objects, and `Run`, the one way a meaning changes the state. Every change a command makes is a sequence of the
primitive changes `Prim`; a `Run` carries the proof (its `reach`), so what every primitive keeps, every command keeps.
-/

namespace Sys2Proof.Machine

/-! ### Bits and bytes -/

/-- The field of `n` bits at bit `lo`. -/
def bits (w lo n : Nat) : Nat := w / 2 ^ lo % 2 ^ n

/-- One bit. -/
def bit (w i : Nat) : Bool := w / 2 ^ i % 2 == 1

/-- A flag as a number. -/
def b2n (b : Bool) : Nat := if b then 1 else 0

/-- Little-endian bytes as a number (R6). -/
def leNat : List Byte → Nat
  | [] => 0
  | b :: t => b.toNat + 256 * leNat t

/-- The low `n` bytes of a number, little-endian (R6). -/
def leBytes : Nat → Nat → List Byte
  | 0, _ => []
  | n + 1, w => BitVec.ofNat 8 w :: leBytes n (w / 256)

/-- The little-endian field of `n` bytes at offset `off` of a structure. -/
def fld (bs : List Byte) (off n : Nat) : Nat := leNat ((bs.drop off).take n)

/-- The bytes of a structure with the field at `off` replaced. -/
def putFld (bs : List Byte) (off n v : Nat) : List Byte := bs.take off ++ leBytes n v ++ bs.drop (off + n)

/-- `n` zero bytes. -/
def zeros (n : Nat) : List Byte := List.replicate n 0

/-- The bytes of a line. -/
def lineBytes (l : Line) : List Byte := leBytes 64 l.toNat

/-- The line of 64 bytes. -/
def lineOf (bs : List Byte) : Line := BitVec.ofNat 512 (leNat bs)

/-- Cut bytes into lines of 64. -/
def linesOf : Nat → List Byte → List Line
  | 0, _ => []
  | n + 1, bs => lineOf (bs.take 64) :: linesOf n (bs.drop 64)

/-- A good line. -/
def good (l : Line) : DLine := ⟨l, false⟩

/-- A poisoned line: its data is zero (R410, Table 7-4). -/
def bad : DLine := ⟨0, true⟩

/-- Signed value of a number of `n` bits. -/
def sval (n w : Nat) : Int := (BitVec.ofNat n w).toInt

/-- Rounding up division. -/
def cdiv (a b : Nat) : Nat := (a + b - 1) / b

/-- One bit step of CRC-32C, reflected polynomial 0x82F63B78. -/
def crcBit (c : Nat) : Nat := if c % 2 == 1 then (c / 2) ^^^ 0x82F63B78 else c / 2

/-- One byte of CRC-32C. -/
def crcByte (c : Nat) (b : Byte) : Nat :=
  crcBit (crcBit (crcBit (crcBit (crcBit (crcBit (crcBit (crcBit (c ^^^ b.toNat))))))))

/-- CRC-32C of a list of bytes. -/
def crc32c (bs : List Byte) : Nat := bs.foldl crcByte 0xFFFFFFFF ^^^ 0xFFFFFFFF

/-- The line check of R402: CRC-32C over the 64 data bytes, then the store address as 8 bytes. -/
def lineCheck (l : Line) (addr : Nat) : Nat := crc32c (lineBytes l ++ leBytes 8 addr)

/-! ### Tables -/

/-- The value at key `k`, if there is one. -/
def Tab.get? {α : Type} : Tab α → Nat → Option α
  | [], _ => none
  | (j, v) :: t, k => if j = k then some v else Tab.get? t k

/-- The value at key `k`, or `d`. -/
def Tab.getD {α : Type} (t : Tab α) (k : Nat) (d : α) : α := (t.get? k).getD d

/-- Put `v` at key `k`, keys rising. -/
def Tab.set {α : Type} : Tab α → Nat → α → Tab α
  | [], k, v => [(k, v)]
  | (j, w) :: t, k, v =>
    if j = k then (k, v) :: t else if k < j then (k, v) :: (j, w) :: t else (j, w) :: Tab.set t k v

/-- Remove key `k`. -/
def Tab.del {α : Type} (t : Tab α) (k : Nat) : Tab α := t.filter (fun e => e.1 != k)

/-- Is there a value at key `k`? -/
def Tab.has {α : Type} (t : Tab α) (k : Nat) : Bool := (t.get? k).isSome

/-- Change the value at key `k` if there is one. -/
def Tab.upd {α : Type} (t : Tab α) (k : Nat) (f : α → α) : Tab α :=
  match t.get? k with
  | some v => t.set k (f v)
  | none => t

/-- Keep the entries that satisfy `f`. -/
def Tab.keep {α : Type} (t : Tab α) (f : Nat → α → Bool) : Tab α := t.filter (fun e => f e.1 e.2)

/-- The smallest number from `lo` below `lo + n` that is no key of `t`. -/
def Tab.free {α : Type} (t : Tab α) (lo : Nat) : Nat → Option Nat
  | 0 => none
  | n + 1 => if t.has lo then Tab.free t (lo + 1) n else some lo

/-! ### Stores of bytes -/

/-- The byte at an address; an address that is not listed reads 0 (R27). -/
def Mem.get : List Host.Cell → Nat → Byte
  | [], _ => 0
  | (k, b) :: t, a => if k = a then b else Mem.get t a

/-- Put a byte, addresses rising. -/
def Mem.put : List Host.Cell → Nat → Byte → List Host.Cell
  | [], a, b => [(a, b)]
  | (k, c) :: t, a, b =>
    if k = a then (a, b) :: t else if a < k then (a, b) :: (k, c) :: t else (k, c) :: Mem.put t a b

/-- Write a byte; writing 0 removes the entry, so that equal stores are equal lists. -/
def Mem.set (m : List Host.Cell) (a : Nat) (b : Byte) : List Host.Cell :=
  if b = 0 then m.filter (fun c => c.1 != a) else Mem.put m a b

/-- Write bytes from address `a` up. -/
def Mem.write : List Host.Cell → Nat → List Byte → List Host.Cell
  | m, _, [] => m
  | m, a, b :: bs => Mem.write (Mem.set m a b) (a + 1) bs

/-- Read `n` bytes from address `a` up. -/
def Mem.read (m : List Host.Cell) : Nat → Nat → List Byte
  | _, 0 => []
  | a, n + 1 => Mem.get m a :: Mem.read m (a + 1) n

/-- Set every byte of `[lo, hi)` to 0. -/
def Mem.clear (m : List Host.Cell) (lo hi : Nat) : List Host.Cell := m.filter (fun c => c.1 < lo || hi ≤ c.1)

/-- Canonical form: addresses strictly rising, no entry equal to what an unlisted address reads as. -/
abbrev Mem.wf (m : List Host.Cell) : Prop := m.Pairwise (fun x y => x.1 < y.1) ∧ ∀ c ∈ m, c.2 ≠ 0

/-- Add a line number to a rising list. -/
def Marks.add : List Nat → Nat → List Nat
  | [], l => [l]
  | k :: t, l => if k = l then k :: t else if l < k then l :: k :: t else k :: Marks.add t l

/-- Remove a line number. -/
def Marks.del (m : List Nat) (l : Nat) : List Nat := m.filter (· != l)

/-- Set or clear a mark. -/
def Marks.put (m : List Nat) (l : Nat) (on : Bool) : List Nat := if on then Marks.add m l else Marks.del m l

/-- Remove the marks of lines `[lo, hi)`. -/
def Marks.clear (m : List Nat) (lo hi : Nat) : List Nat := m.filter (fun l => l < lo || hi ≤ l)

/-! ### The primitive changes -/

/-- Which store of bytes: the store itself, flash, the copies held for the twin. -/
inductive Store where
  | mem | flash | copy
deriving DecidableEq, Repr

/-- Write bytes into a store. -/
def State.writeTo (s : State) (w : Store) (a : Nat) (bs : List Byte) : State :=
  match w with
  | .mem => { s with mem := Mem.write s.mem a bs }
  | .flash => { s with flash := Mem.write s.flash a bs }
  | .copy => { s with copy := Mem.write s.copy a bs }

/-- Zero a range of a store, with its poison marks. -/
def State.clearIn (s : State) (w : Store) (lo hi : Nat) : State :=
  match w with
  | .mem => { s with mem := Mem.clear s.mem lo hi, bad := Marks.clear s.bad (lo / 64) (hi / 64) }
  | .flash => { s with flash := Mem.clear s.flash lo hi, fbad := Marks.clear s.fbad (lo / 64) (hi / 64) }
  | .copy => { s with copy := Mem.clear s.copy lo hi, cbad := Marks.clear s.cbad (lo / 64) (hi / 64) }

/-- Set or clear the poison mark of a line of a store (R409, R411). -/
def State.mark (s : State) (w : Store) (line : Nat) (on : Bool) : State :=
  match w with
  | .mem => { s with bad := Marks.put s.bad line on }
  | .flash => { s with fbad := Marks.put s.fbad line on }
  | .copy => { s with cbad := Marks.put s.cbad line on }

/-- One primitive change of the state. The queue is never one of them: a command's effect leaves it alone. -/
inductive Prim : State → State → Prop where
  | dev (s : State) (d : Dev) : Prim s { s with dev := d }
  | write (s : State) (w : Store) (a : Nat) (bs : List Byte) : Prim s (s.writeTo w a bs)
  | clear (s : State) (w : Store) (lo hi : Nat) : Prim s (s.clearIn w lo hi)
  | mark (s : State) (w : Store) (line : Nat) (on : Bool) : Prim s (s.mark w line on)
  | emit (s : State) (o : Out) : Prim s { s with out := o :: s.out }
  | draw (s : State) : Prim s { s with fresh := s.fresh + 1 }

/-- States reached by primitive changes. -/
inductive Reach : State → State → Prop where
  | refl (s : State) : Reach s s
  | tail {a b c : State} : Reach a b → Prim b c → Reach a c

/-- A state on its way from `s₀`, with the proof that primitive changes lead to it. -/
structure Run (s₀ : State) where
  cur   : State
  reach : Reach s₀ cur

/-- The start of a command. -/
def Run.start (s : State) : Run s := ⟨s, .refl s⟩

section
variable {s₀ : State}

/-- Everything but the bytes, marks and counters. -/
abbrev Run.d (r : Run s₀) : Dev := r.cur.dev

/-- Change `Dev`. -/
def Run.mod (r : Run s₀) (f : Dev → Dev) : Run s₀ := ⟨{ r.cur with dev := f r.cur.dev }, .tail r.reach (.dev _ _)⟩

/-- Write bytes. -/
def Run.write (r : Run s₀) (w : Store) (a : Nat) (bs : List Byte) : Run s₀ :=
  ⟨r.cur.writeTo w a bs, .tail r.reach (.write _ w a bs)⟩

/-- Zero a range, and its poison marks. -/
def Run.clear (r : Run s₀) (w : Store) (lo hi : Nat) : Run s₀ := ⟨r.cur.clearIn w lo hi, .tail r.reach (.clear _ w lo hi)⟩

/-- Mark or clear the poison of a line. -/
def Run.mark (r : Run s₀) (w : Store) (line : Nat) (on : Bool) : Run s₀ :=
  ⟨r.cur.mark w line on, .tail r.reach (.mark _ w line on)⟩

/-- Send. -/
def Run.emit (r : Run s₀) (o : Out) : Run s₀ := ⟨{ r.cur with out := o :: r.cur.out }, .tail r.reach (.emit _ o)⟩

/-- Draw the next free value: its number, and the state with the counter advanced. -/
def Run.draw (r : Run s₀) : Nat × Run s₀ :=
  (r.cur.fresh, ⟨{ r.cur with fresh := r.cur.fresh + 1 }, .tail r.reach (.draw _)⟩)

/-- The local timer, in picoseconds. -/
def Run.now (r : Run s₀) : Nat := r.d.now

/-! ### Lines of the three stores -/

/-- The bytes of a store. -/
def State.cells (s : State) (w : Store) : List Host.Cell :=
  match w with
  | .mem => s.mem
  | .flash => s.flash
  | .copy => s.copy

/-- The poison marks of a store. -/
def State.marks (s : State) (w : Store) : List Nat :=
  match w with
  | .mem => s.bad
  | .flash => s.fbad
  | .copy => s.cbad

/-- The line with this number in a store; a poisoned line's data is never read (R410). -/
def Run.line (r : Run s₀) (w : Store) (l : Nat) : DLine :=
  if (r.cur.marks w).contains l then bad else good (lineOf (Mem.read (r.cur.cells w) (64 * l) 64))

/-- Write a whole line with its poison mark (R409, R411). -/
def Run.setLine (r : Run s₀) (w : Store) (l : Nat) (x : DLine) : Run s₀ :=
  (r.write w (64 * l) (if x.poison then zeros 64 else lineBytes x.data)).mark w l x.poison

/-- Do `f` for every element. -/
def Run.each {α : Type} (r : Run s₀) (xs : List α) (f : Run s₀ → α → Run s₀) : Run s₀ := xs.foldl f r

/-! ### Dictionary objects -/

/-- The key of object `idx`:`sub` of instance `inst`. -/
def okey (inst idx sub : Nat) : Nat := inst * 16777216 + idx * 256 + sub

/-- The value held for an object: what was last stored, else its default. -/
def Dev.o (d : Dev) (inst idx sub : Nat) : Nat :=
  match d.obj.get? (okey inst idx sub) with
  | some v => v
  | none => objDefault inst idx sub

/-- Store an object's value. -/
def Run.setO (r : Run s₀) (inst idx sub v : Nat) : Run s₀ := r.mod fun d => { d with obj := d.obj.set (okey inst idx sub) v }

/-- The width of an object's value in bits. -/
def oWidth (idx sub : Nat) : Nat :=
  match oRow? idx sub with
  | some r => if r.ty == 1 then 8 else if r.ty == 2 then 16 else if r.ty == 3 || r.ty == 5 then 32 else 64
  | none => 64

/-- Raise a counting object, modulo its width. -/
def Run.bumpBy (r : Run s₀) (inst idx sub n : Nat) : Run s₀ :=
  r.setO inst idx sub ((r.d.o inst idx sub + n) % 2 ^ oWidth idx sub)

/-- Raise a counting object by one. -/
def Run.bump (r : Run s₀) (inst idx sub : Nat) : Run s₀ := r.bumpBy inst idx sub 1

end

/-! ### Numbers of the device -/

/-- The bring-up phase object reads 7 in READY (Table 18-6). -/
def Dev.ready (d : Dev) : Bool := d.o 0 0x1020 1 == 7

/-- Does the device admit no new work: a warm reset drains (R352), or REFCLK_SYS is lost (R481)? -/
def Dev.noAdmit (d : Dev) : Bool := d.bring.draining || !d.pins.refSys

/-- This device's number (0x7000:01). -/
def Dev.self (d : Dev) : Nat := d.o 0 0x7000 1

/-- The role in effect on a port (0x3010:02, R20). -/
def Dev.role (d : Dev) (p : Nat) : Nat := d.o p 0x3010 2

/-- The home slice of a store address, R13. -/
def Dev.homeSlice (d : Dev) (a : Nat) : Nat :=
  ((BitVec.ofNat 8 (bits a 6 8)) ^^^ Config.lineHash d.key (bits a 21 41) (bits a 14 7)).toNat

/-- Nanoseconds and microseconds in picoseconds. -/
def ns (n : Nat) : Nat := n * 1000
def us (n : Nat) : Nat := n * 1000000

/-- The code of a status (Table 7-5). -/
def Status.code : Status → Nat
  | .ok => 0 | .nadm => 1 | .late => 2 | .moved => 3 | .fault => 4 | .poison => 5 | .lost => 6
  | .indet => 7 | .short => 8 | .busy => 9 | .denied => 10

/-- The status of a code. -/
def Status.ofCode (n : Nat) : Status :=
  match n with
  | 0 => .ok | 1 => .nadm | 2 => .late | 3 => .moved | 4 => .fault | 5 => .poison | 6 => .lost
  | 7 => .indet | 8 => .short | 9 => .busy | 10 => .denied | _ => .fault

/-- The place of a status in the order of R492: `FAULT`, `DENIED`, `MOVED`, `LATE`, `LOST`, `INDET`, `POISON`, `NADM`,
`BUSY`, `SHORT`, `OK`. -/
def Status.rank : Status → Nat
  | .fault => 0 | .denied => 1 | .moved => 2 | .late => 3 | .lost => 4 | .indet => 5 | .poison => 6
  | .nadm => 7 | .busy => 8 | .short => 9 | .ok => 10

/-- The completion that R492 chooses of two. -/
def Compl.worse (a b : Compl) : Compl := if b.status.rank < a.status.rank then b else a

/-- A completion with no word. -/
def Compl.of (s : Status) : Compl := ⟨s, 0, 0⟩

end Sys2Proof.Machine
end

