-- ==== Sys2Proof/Machine/Operands.lean ====
section
/-!
DEFINITION. The operand forms: the service word (Table 4-8), the request header (Tables 7-3, 7-16), source agents
(Table 7-8), refusal and late words (Tables 4-6, 2-11) and the descriptor's common fields.
-/

namespace Sys2Proof

open Sys2Proof.Machine

/-! ### The service word (Table 4-8) -/

/-- CLASS: 0 S, 1 L, 2 B, 3 G. -/
def Hdr.cls (h : Hdr) : Nat := bits h.sword.toNat 0 2
/-- DL: BUDGET is a deadline. -/
def Hdr.dl (h : Hdr) : Bool := bit h.sword.toNat 2
/-- NOFILL (R57). -/
def Hdr.nofill (h : Hdr) : Bool := bit h.sword.toNat 3
/-- NOPARK (R77). -/
def Hdr.nopark (h : Hdr) : Bool := bit h.sword.toNat 4
/-- CRED: CREDIT holds a tag. -/
def Hdr.cred (h : Hdr) : Bool := bit h.sword.toNat 5
/-- HOPS (R119). -/
def Hdr.hops (h : Hdr) : Nat := bits h.sword.toNat 8 8
/-- BUDGET in units of 8 ns; 0xFFFFFF is none. -/
def Hdr.budget (h : Hdr) : Nat := bits h.sword.toNat 16 24
/-- The credit tag. -/
def Hdr.credit (h : Hdr) : Nat := bits h.sword.toNat 40 16
/-- The service word's reserved bits are zero. -/
def Hdr.swordOk (h : Hdr) : Bool := bits h.sword.toNat 6 2 == 0 && bits h.sword.toNat 56 8 == 0

/-- A service word of its fields. -/
def mkSword (cls : Nat) (dl nofill nopark cred : Bool) (hops budget credit : Nat) : BitVec 64 :=
  BitVec.ofNat 64 (cls % 4 + 4 * b2n dl + 8 * b2n nofill + 16 * b2n nopark + 32 * b2n cred
    + 256 * (hops % 256) + 65536 * (budget % 2 ^ 24) + 2 ^ 40 * (credit % 65536))

/-- No budget. -/
def noBudget : Nat := 0xFFFFFF

/-- The service word of class `cls` with no deadline, no credit and no budget. -/
def plainSword (cls : Nat) : BitVec 64 := mkSword cls false false false false 0 noBudget 0

/-- The header with BUDGET replaced. -/
def Hdr.setBudget (h : Hdr) (b : Nat) : Hdr :=
  { h with sword := mkSword h.cls h.dl h.nofill h.nopark h.cred h.hops b h.credit }

/-- The header with its credit cleared: it is handled as a first try (R110, R111). -/
def Hdr.noCredit (h : Hdr) : Hdr :=
  { h with sword := mkSword h.cls h.dl h.nofill h.nopark false h.hops h.budget 0 }

/-! ### The request header (Table 7-3) -/

/-- LINES. -/
def Hdr.n (h : Hdr) : Nat := h.lines.toNat
/-- ADDR. -/
def Hdr.a (h : Hdr) : Nat := h.addr.toNat
/-- FLAGS[n]. -/
def Hdr.flag (h : Hdr) (n : Nat) : Bool := bit h.flags.toNat n
/-- The source agent, STREAM[15:0]. -/
def Hdr.agent (h : Hdr) : Nat := bits h.stream.toNat 0 16
/-- The cast group, STREAM[27:16], when CASTS is set. -/
def Hdr.cast (h : Hdr) : Option Nat := if bit h.stream.toNat 28 then some (bits h.stream.toNat 16 12) else none
/-- The originating device. -/
def Hdr.src (h : Hdr) : Nat := bits h.srcdev.toNat 0 14
/-- The destination device. -/
def Hdr.dst (h : Hdr) : Nat := bits h.dstdev.toNat 0 14
/-- The path index. -/
def Hdr.path (h : Hdr) : Nat := bits h.dstdev.toNat 14 2
/-- The counter named, when CTRV is set. -/
def Hdr.counter (h : Hdr) : Option Nat := if bit h.ctr.toNat 15 then some (bits h.ctr.toNat 0 15) else none

/-- UNIT, FLAGS[6] (R144). -/
def Hdr.unit (h : Hdr) : Bool := h.flag 6

end Sys2Proof

namespace Sys2Proof.Machine

/-- Number of a source agent, Table 7-8. -/
def Src.agent : Src → Nat
  | .ident p i => 0x800 + p * 128 + i
  | .remote _ _ a => a
  | .pair n => n
  | .cluster k => 0x400 + k
  | .queue _ _ => 0x1000
  | .plinth => 0x1000
  | .forwarder => 0x1001
  | .slice s => 0x1100 + s

/-- A source as a number, for tables keyed by source (credit tags are per source, R108). -/
def Src.key : Src → Nat
  | .ident p i => p * 128 + i
  | .remote p dev a => 2 ^ 20 + (p * 16384 + dev) * 65536 + a
  | .pair n => 2 ^ 12 + n
  | .cluster k => 2 ^ 13 + k
  | .queue pa q => 2 ^ 14 + pa * 16 + q
  | .plinth => 2 ^ 13 + 16
  | .forwarder => 2 ^ 13 + 17
  | .slice s => 2 ^ 13 + 256 + s

/-- Is this a caching agent's number that Table 7-8 lists as a requester's agent? -/
def agentListed (a : Nat) : Bool :=
  a ≤ 0x3FF || (0x400 ≤ a && a ≤ 0x407) || (0x800 ≤ a && a ≤ 0xFFF) || a == 0x1000 || a == 0x1001 || a == 0x1002
    || (0x1100 ≤ a && a ≤ 0x11FF)

/-! ### Element types (Table 7-9) -/

/-- The element type of a code. -/
def EType.of? : Nat → Option EType
  | 1 => some .int32 | 2 => some .uint32 | 3 => some .int64 | 4 => some .uint64
  | 8 => some .fp32 | 9 => some .fp32c | 10 => some .bf16 | 11 => some .fp16
  | _ => none

/-- Bytes of one element. -/
def EType.bytes : EType → Nat
  | .int32 | .uint32 | .fp32 => 4
  | .int64 | .uint64 | .fp32c => 8
  | .bf16 | .fp16 => 2

/-- The combinations of Table 7-9 for reductions: FP32C takes ADD alone. -/
def EType.reduces (t : EType) (op : ROp) : Bool := t != .fp32c || op == .add

/-- The types an atomic takes (Table 7-9). -/
def EType.atomic : EType → Bool
  | .int32 | .uint32 | .int64 | .uint64 => true
  | _ => false

/-! ### Operation codes (Table 7-7) -/

/-- Codes that carry store data back or forth to lines: loads, stores, reductions, cast stores and atomics. -/
def isMemOp (code : Nat) : Bool :=
  code == 0x01 || code == 0x02 || code == 0x03 || code == 0x08 || code == 0x09 || code == 0x0A || code == 0x0C
    || (0x10 ≤ code && code ≤ 0x13)

/-- Codes that write. -/
def isWriteOp (code : Nat) : Bool := isMemOp code && code != 0x01

/-- Reductions and cast stores and atomics need RED (R190). -/
def needsRed (code : Nat) : Bool := code == 0x08 || code == 0x09 || code == 0x0A || code == 0x0C || (0x10 ≤ code && code ≤ 0x13)

/-- Atomics. -/
def isAtomic (code : Nat) : Bool := 0x10 ≤ code && code ≤ 0x13

/-- Reductions. -/
def isReduce (code : Nat) : Bool := code == 0x08 || code == 0x09 || code == 0x0A

/-- Coherence operations, 0x20-0x34. -/
def isCoh (code : Nat) : Bool := 0x20 ≤ code && code ≤ 0x34

/-- Sync and fence operations that may be sent as requests (R490): not `SYNC.WAIT`, not the region operations. -/
def isSync (code : Nat) : Bool := (0x50 ≤ code && code ≤ 0x53) || code == 0x58

/-- The reduction of a code. -/
def ropOf (code : Nat) : ROp := if code == 0x09 then .min else if code == 0x0A then .max else .add

/-- The atomic of a code. -/
def aopOf (code : Nat) : AOp := if code == 0x11 then .min else if code == 0x12 then .max else if code == 0x13 then .cas else .add

/-- Data lines a request of `code` with LINES `n` carries. -/
def dataLines (code n : Nat) : Nat :=
  if code == 0x02 || isReduce code || code == 0x0C then n else if code == 0x03 then 1 else 0

/-! ### Refusal and late words -/

/-- The refusal word, Table 4-6. `hint` is in picoseconds. In units of 64 ns (HINTX 0) it is rounded up, so that no retry comes before
its slot; the spec gives a rounding, down, for HINTX 1 alone (DESIGN CHOICE, log entry 184). -/
def refusalWord (hint tag reason : Nat) (hold home : Bool) (cls loc : Nat) : Nat :=
  let small := cdiv hint 64000
  let x := 65535 < small
  let h := if x then min 65535 (hint / 4096000) else small
  h + 65536 * (tag % 65536) + 2 ^ 32 * (reason % 16) + 2 ^ 36 * b2n hold + 2 ^ 37 * b2n home
    + 2 ^ 38 * (cls % 4) + 2 ^ 40 * (loc % 512) + 2 ^ 49 * b2n x

/-- HINT of a refusal word, in picoseconds. -/
def wordHint (w : Nat) : Nat := bits w 0 16 * (if bit w 49 then 4096000 else 64000)

/-- The late word, Table 2-11. -/
def lateWord (tier : Nat) (cached fill closed moving : Bool) : Nat :=
  tier % 4 + 4 * b2n cached + 8 * b2n fill + 16 * b2n closed + 32 * b2n moving

/-- The MOVED word: new epoch and new home (Table 7-5). -/
def movedWord (epoch home : Nat) : Nat := epoch % 2 ^ 32 + 2 ^ 32 * (home % 2 ^ 14)

/-! ### Maquette entries and journal records as bytes -/

/-- The sixteen bytes of an entry, Table 15-1. -/
def maqBytes (e : MaqEntry) : List Byte :=
  leBytes 4 e.epoch.toNat ++ leBytes 2 e.home.toNat ++ leBytes 2 e.twin.toNat ++ leBytes 1 e.state.toNat
    ++ leBytes 1 (b2n e.prot + 2 * e.tier.toNat) ++ leBytes 1 e.part.toNat ++ [0] ++ leBytes 2 e.gen.toNat ++ zeros 2

/-- The granule table entry's eight bytes, Table 2-3. -/
def gentWord (g : GEnt) : Nat :=
  g.tier % 4 + 4 * (g.state % 4) + 16 * b2n g.opened + 32 * b2n g.prot + 256 * (g.part % 256)
    + 65536 * (g.slot % 2 ^ 32) + 2 ^ 48 * (g.jidx % 65536)

/-- The directory entry's 32 bits, Table 6-3. -/
def dirWord (e : DirE) (open_ : Bool) : Nat :=
  (match e.st with | .ds => 1 | .dx => 2 | .dO => 3) + 4 * b2n e.ovf + 8 * b2n e.proxy + 16 * b2n open_
    + 64 * e.p0 + 2048 * e.p1 + 65536 * e.p2 + 2097152 * e.cnt

/-! ### The common descriptor header (Table 8-2) is read in `Machine/Chain.lean` -/

/-- A 62-bit store address in a 64-bit field (R24). -/
def storeAddrOk (a : Nat) : Bool := a < 2 ^ 62

/-- A 57-bit virtual address in a 64-bit field (R62). -/
def virtAddrOk (a : Nat) : Bool := a < 2 ^ 57

/-- The extent, granule, block and line number of a store address (Table 2-1). -/
def extentOf (a : Nat) : Nat := bits a 30 32
def granuleOf (a : Nat) : Nat := bits a 21 41
def blockOf (a : Nat) : Nat := bits a 14 48
def lineNo (a : Nat) : Nat := bits a 6 56

end Sys2Proof.Machine
end

