-- ==== Sys2Proof/Machine/Send.lean ====
section
/-!
DEFINITION. What leaves the device: completions and response data of requests it received, and its own requests in streams
(R131-R138, R198-R201): sequence numbers, the path a stream is pinned to, the replay store, the budget rewritten (R117).
-/

namespace Sys2Proof.Machine

section
variable {s₀ : State}

/-! ### Paths (R198-R201) -/

/-- Path entry `i` of device `dst`. -/
def Dev.pathEnt (d : Dev) (dst i : Nat) : Nat :=
  match d.paths.get? dst with
  | none => 0
  | some (a, b, c, e) => if i == 0 then a else if i == 1 then b else if i == 2 then c else e

/-- The paths of `dst` that are valid: VALID is bit 6. -/
def Dev.validPaths (d : Dev) (dst : Nat) : List Nat := [0, 1, 2, 3].filter (fun i => bit (d.pathEnt dst i) 6)

/-- The valid paths that are not lost. -/
def Dev.livePaths (d : Dev) (dst : Nat) : List Nat := (d.validPaths dst).filter (fun i => !d.lost.has (dst * 4 + i))

/-- A device is unreachable when the table holds no path for it, or every path has been lost for 100 µs (R198, R201). -/
def Dev.unreachable (d : Dev) (dst : Nat) : Bool := (d.validPaths dst).isEmpty || d.unreach.has dst

/-- The port and the stages of a path. -/
def Dev.pathPort (d : Dev) (dst i : Nat) : Nat := bits (d.pathEnt dst i) 0 4
def Dev.pathStages (d : Dev) (dst i : Nat) : Nat := bits (d.pathEnt dst i) 4 2

/-- The stages of the longest path a request to `dst` may use (R117). -/
def Dev.maxStages (d : Dev) (dst : Nat) : Nat := ((d.validPaths dst).map (d.pathStages dst)).foldl max 0

/-- The path a stream is pinned to when it opens: a keyed hash over the live paths (R199). -/
def Dev.pickPath (d : Dev) (agent dst : Nat) : Option Nat :=
  match d.livePaths dst with
  | [] => none
  | [p] => some p
  | ps => ps[Config.pathHash d.self agent dst % ps.length]?

/-! ### Streams -/

/-- The key of a send stream: source agent and destination, or source agent and cast group (R131, R132). -/
def sKey (agent dst : Nat) (cast : Option Nat) : Nat :=
  match cast with
  | none => agent * 16384 + dst
  | some g => 2 ^ 40 + agent * 4096 + g

/-- The key of a receive stream: source device, source agent, cast group. -/
def rKey (dev agent : Nat) (cast : Option Nat) : Nat :=
  dev * 65536 + agent + (match cast with | none => 0 | some g => 2 ^ 32 * (g + 1))

/-- Is `a` before `b` among 32-bit sequence numbers? -/
def seqBefore (a b : Nat) : Bool := a != b && (b + 2 ^ 32 - a) % 2 ^ 32 < 2 ^ 31

/-- Bytes a request takes in the replay store: 80 per flit (R137, R183). -/
def Req.size (q : Req) : Nat := 80 * (1 + q.data.length)

/-- Bytes in the replay store of port `p`: requests stay in the store of the port they first left by (R137). -/
def Dev.replayUsed (d : Dev) (p : Nat) : Nat :=
  (d.sends.map (fun e => ((e.2.unacked.filter fun u => u.2.port == p).map (fun u => u.2.size)).sum)).sum

/-- The requests of a source agent that no acknowledgement covers yet. -/
def Dev.unackedOf (d : Dev) (agent : Nat) : List (Nat × Req) :=
  d.sends.flatMap fun e => e.2.unacked.filter fun u => u.2.h.agent == agent

/-- The path, and its port, of a stream toward a device: the one it is pinned to, else the one it would be pinned to now (R199).
A cast stream is pinned for each of its destinations. -/
def Dev.streamPath (d : Dev) (agent dst : Nat) (cast : Option Nat) : Option (Nat × Nat) :=
  let pinned := (d.sends.get? (sKey agent dst cast)).bind fun s => if cast.isSome then s.pins.get? dst else some (s.path, s.port)
  match pinned with
  | some x => some x
  | none => (d.pickPath agent dst).map fun i => (i, d.pathPort dst i)

/-- The port by which a request of an agent leaves for a device, if there is one. -/
def Dev.egress (d : Dev) (agent dst : Nat) (cast : Option Nat := none) : Option Nat := (d.streamPath agent dst cast).map (·.2)

/-- BUDGET as it leaves for `dst` (R117): less the device's measured time (`spent`, in ps, rounded up to 8 ns), the transit
bound of the return direction, and two stage bounds for each switch stage of the longest path. -/
def Dev.outBudget (d : Dev) (budget spent dst : Nat) : Nat :=
  if budget == noBudget then noBudget
  else budget - (cdiv spent 8000 + 38 + 200 * d.maxStages dst)

/-- Why a request could not be sent: refused with reason LANE and this hint in ps (R137, R138, R201). -/
inductive SendNo where
  | hint (ps : Nat)
deriving DecidableEq, Repr

/-- May a request of `size` bytes be sent by `agent` to `dst`? (R137, R138, R201) -/
def Dev.maySend (d : Dev) (agent dst size : Nat) (cast : Option Nat) : Option SendNo :=
  if d.unreachable dst then some (.hint (us 1000))
  else
    if !d.sends.has (sKey agent dst cast) && 65536 ≤ d.sends.length then some (.hint (us 100))
    else match d.egress agent dst cast with
      | some p => if 4194304 < d.replayUsed p + size then some (.hint (us 1)) else none
      | none => none

/-! ### What waits at a port for the link (R184, R186) -/

/-- The link of a port. -/
def Dev.link (d : Dev) (p : Nat) : Link := d.links.getD p {}

/-- Change the link of a port. -/
def Run.updLink (r : Run s₀) (p : Nat) (f : Link → Link) : Run s₀ := r.mod fun d => { d with links := d.links.set p (f (d.link p)) }

/-- The sequence number of the next flit that port `p` sends: the flits sent since the link came up, modulo 4,096. -/
def Dev.nextOut (d : Dev) (p : Nat) : Nat := (d.o p 0x3040 8 + 2 ^ 64 - (d.link p).nextOut) % 4096

/-- How many more flits may be sent before a LACK covers some: never more than 2,047 are outstanding (R184). -/
def Dev.lackRoom (d : Dev) (p : Nat) : Nat := 2047 - (d.nextOut p + 4096 - (d.link p).oldest) % 4096

/-- How many flits of a message may leave now: within the room, with a flit credit of its class for each, and with a request
credit of its partition for a header (R186). -/
def Dev.mayLeave (d : Dev) (p : Nat) (x : TxItem) : Nat :=
  let l := d.link p
  let n := min x.flits (d.lackRoom p)
  let n := match x.cls with | some c => min n (l.flitCr.getD c 0) | none => n
  match x.part with
  | some a => if l.reqCr.getD a 0 == 0 then 0 else n
  | none => n

/-- Some flits of a message leave: counted at 0x3040:08, their credits spent; a message whose last flit has left is sent. -/
def Run.leave (r : Run s₀) (p : Nat) (x : TxItem) (n : Nat) : Run s₀ :=
  let r := if x.cls.isNone && x.part.isNone then r else r.updLink p fun l => { l with
    flitCr := match x.cls with | some c => l.flitCr.upd c fun m => m - n | none => l.flitCr
    reqCr := match x.part with | some a => l.reqCr.upd a fun m => m - 1 | none => l.reqCr }
  let r := if n == x.flits then r.emit x.out else r
  r.bumpBy p 0x3040 8 n

/-- Send what may leave of a port's waiting messages: those of one class in their order, and those of one source agent. -/
def Run.drain (r : Run s₀) (p : Nat) : List TxItem → List TxItem → Run s₀
  | [], kept => if (r.d.link p).txq == kept then r else r.updLink p fun l => { l with txq := kept }
  | x :: t, kept =>
    let n := if kept.any fun y => y.cls == x.cls || (x.agent.isSome && y.agent == x.agent) then 0 else r.d.mayLeave p x
    if n == 0 then Run.drain r p t (kept ++ [x])
    else if n == x.flits then Run.drain (r.leave p x n) p t kept
    else Run.drain (r.leave p x n) p t (kept ++ [{ x with flits := x.flits - n, part := none }])

/-- What waits at a port may leave now: a LACK or credits have come. -/
def Run.pump (r : Run s₀) (p : Nat) : Run s₀ := r.drain p (r.d.link p).txq []

/-- Hand a message of `n` flits to a port's link: it leaves at once, or waits for room or credits (R184, R186). `cls` and `part`
name the credits it needs; a completion, response data and control flits carry no class (Tables 7-2 to 7-5; log entry 176). -/
def Run.wire (r : Run s₀) (p : Nat) (o : Out) (n : Nat := 1) (cls part agent : Option Nat := none) : Run s₀ :=
  r.drain p ((r.d.link p).txq ++ [{ out := o, flits := n, cls := cls, part := part, agent := agent }]) []

/-- Send request flits on a port (R186): a header and a data flit for each line. -/
def Run.flits (r : Run s₀) (p : Nat) (path : Nat) (q : Req) : Run s₀ :=
  r.wire p (.req p path { q with port := 0 }) (1 + q.data.length) (some q.h.cls) (some q.h.part.toNat) (some q.h.agent)

/-- The epoch of the cached entry of an extent. -/
def Dev.cachedEpoch (d : Dev) (e : Nat) : Nat :=
  match d.maq.get? e with
  | some c => c.entry.epoch.toNat
  | none => 0

/-- Send a request of source agent `agent` to device `dst` in its stream; `reqid` is kept where the request has one.
`spent` is the device's measured time. The request is kept in the replay store, and as an originated request until its
completion. -/
def Run.send (r : Run s₀) (src : Src) (dst : Nat) (q : Req) (reply : Reply) (part spent : Nat) (cast : Option Nat := none)
    (reqid : Option Nat := none) (seqOf : Option Nat := none) : Run s₀ :=
  let agent := src.agent
  let key := sKey agent dst cast
  let (pa, pt) := match r.d.streamPath agent dst cast with
    | some x => x
    | none => match r.d.validPaths dst with
      | i :: _ => (i, r.d.pathPort dst i)
      | [] => (0, 0)
  let st := r.d.sends.getD key { next := 0, port := pt, path := pa, idle := r.now, lastAck := r.now }
  let isNew := if cast.isSome then !st.pins.has dst else !r.d.sends.has key
  let seq := seqOf.getD st.next
  let id := reqid.getD r.d.onext
  let h : Hdr := { q.h with
    flags := (q.h.flags &&& 0xFE) ||| (if isNew && seq == 0 then 1 else 0)
    sword := mkSword q.h.cls q.h.dl q.h.nofill q.h.nopark q.h.cred (q.h.hops + 1) (r.d.outBudget q.h.budget spent dst) q.h.credit
    srcdev := BitVec.ofNat 16 r.d.self
    dstdev := BitVec.ofNat 16 (dst + 16384 * pa)
    stream := BitVec.ofNat 32 (agent + (match cast with | some g => 65536 * g + 2 ^ 28 | none => 0))
    seq := BitVec.ofNat 32 seq
    reqid := BitVec.ofNat 32 id
    epoch := if isSync q.code then 0 else BitVec.ofNat 32 (r.d.cachedEpoch (extentOf q.h.a))
    tag := BitVec.ofNat 16 (id % 4096)
    part := BitVec.ofNat 8 part
    asid := 0 }
  let q' : Req := { q with h := h, port := pt }
  let st' : SendS := { st with
    next := if seqOf.isSome then st.next else (st.next + 1) % 2 ^ 32
    pins := if cast.isSome then st.pins.set dst (pa, pt) else st.pins
    unacked := st.unacked ++ [(seq, q')]
    lastAck := if st.unacked.isEmpty then r.now else st.lastAck }
  let r := r.mod fun d => { d with
    sends := d.sends.set key st'
    origs := d.origs.set id { req := q', src := src, dst := dst, reply := reply, strm := key, part := part, budget := q.h.budget, began := d.now - spent }
    onext := if reqid.isSome then d.onext else (d.onext + 1) % 2 ^ 32 }
  if r.d.lost.has (dst * 4 + pa) then r else r.flits pt pa q'

/-- Send a request, or keep it until it can be sent: its stream, the replay store or the way to its device is not free now
(R137, R138, R201). -/
def Run.sendOrWait (r : Run s₀) (src : Src) (dst : Nat) (q : Req) (reply : Reply) (part : Nat) : Run s₀ :=
  match r.d.maySend src.agent dst q.size none with
  | none => r.send src dst q reply part 0
  | some (.hint ps) => r.mod fun d => { d with after := d.after ++
      [{ src := src, part := part, dst := dst, req := q, reply := reply, at_ := d.now + ps, since := d.now }] }

/-- Send again every unacknowledged request of stream `key`, from number `from_` on where one is given, on the stream's path
(R135, R137). -/
def Run.replay (r : Run s₀) (key : Nat) (from_ : Option Nat) : Run s₀ :=
  match r.d.sends.get? key with
  | none => r
  | some s =>
    let late (n : Nat) : Bool := match from_ with | some f => !seqBefore n f | none => true
    r.each (s.unacked.filter (fun u => late u.1)) fun r u => r.flits s.port s.path u.2

/-- Move a stream to a live path and replay it there (R137, R200). -/
def Run.repin (r : Run s₀) (key dst agent : Nat) (from_ : Option Nat) : Run s₀ :=
  match r.d.pickPath agent dst with
  | none => r
  | some i =>
    let r := r.mod fun d => { d with sends := d.sends.upd key fun s =>
      { s with path := i, port := d.pathPort dst i, lastAck := d.now
               unacked := s.unacked.map fun u =>
                 (u.1, { u.2 with h := { u.2.h with dstdev := BitVec.ofNat 16 (dst + 16384 * i) } }) } }
    r.replay key from_

/-- A message of the plinth to another device (chapters 2, 15, 16, 18). -/
def Run.tell (r : Run s₀) (dst : Nat) (m : PMsg) : Run s₀ := r.emit (.plinth dst m)

/-! ### Answers to requests received -/

/-- One completion flit on a port (Table 7-5). -/
def Run.completePort (r : Run s₀) (p dev path reqid : Nat) (c : Compl) : Run s₀ :=
  let r := if c.status == .moved then r.bump 0 0x7040 2 else r
  r.wire p (.compl p dev path reqid c)

/-- One response data flit on a port (Table 7-4): a poisoned line carries zero data. -/
def Run.dataPort (r : Run s₀) (p dev path reqid line : Nat) (x : DLine) : Run s₀ :=
  r.wire p (.data p dev path reqid line (if x.poison then bad else x))

end

end Sys2Proof.Machine
end

