-- ==== Sys2Proof/Machine/Flags.lean ====
section
/-!
DEFINITION. What the block raises: events and their routes (R349-R351), sync counters with their waits and arms
(R143-R148), error records (R416, R417) and the error pins. A counter's arm can raise an event, and an event's route can add
to a counter, so both are one list of actions done in order.
-/

namespace Sys2Proof.Machine

/-! ### Partitions' ownership (R346) -/

/-- The owner of a counter's block; 0xFFFF is none. Blocks not given away belong to partition 0. -/
def Dev.ctrOwner (d : Dev) (n : Nat) : Nat := d.ctrOwn.getD (n / 16) 0

/-- The owner of a cast group's block. -/
def Dev.castOwner (d : Dev) (g : Nat) : Nat := d.castOwn.getD (g / 16) 0

/-- The counters at a cold bring-up and a warm reset: VALUE 0, no arm, and MODE events where a queue names the counter as its
doorbell counter (R143); an unlisted counter is in bytes mode. -/
def Dev.ctrs0 (d : Dev) : Tab Ctr :=
  d.obj.foldl (fun t e => if bits e.1 12 12 == 0x604 && bits e.1 0 8 == 7 && e.2 < 32768 then t.set e.2 { mode := 2 } else t) []

/-- Counter `n`. -/
def Dev.ctr (d : Dev) (n : Nat) : Ctr := d.ctrs.getD n {}

/-- The 64-byte result record of Table 5-3: VALUE at 0x00, THRESH at 0x08, MODE at 0x10, the rest zero. -/
def Ctr.result (c : Ctr) : List Byte :=
  leBytes 8 c.value.toNat ++ leBytes 8 c.thresh.toNat ++ leBytes 1 c.mode ++ zeros 47

/-- Has `value` reached `target`: VALUE − target, signed modulo 2^64, is zero or more (R146, R147). -/
def reached (value target : BitVec 64) : Bool := 0 ≤ (value - target).toInt

section
variable {s₀ : State}

/-- Change an engine pair. -/
def Run.updPair (r : Run s₀) (n : Nat) (f : Pair → Pair) : Run s₀ :=
  r.mod fun d => { d with pairs := d.pairs.set n (f (d.pairs.getD n {})) }

/-- The pair. -/
def Dev.pair (d : Dev) (n : Nat) : Pair := d.pairs.getD n {}

/-- Pair `n`'s current descriptor is finished: its status, result word and result buffers. For `OK` the word is the bytes
written (Table 8-5): `word` of them elsewhere, and those of the result buffers; or `word` alone where the operation's chapter
gives its own result word (`own`). -/
def Run.finish (r : Run s₀) (n : Nat) (st : Status) (word : Nat) (outs : List (Nat × List Byte) := []) (own : Bool := false) :
    Run s₀ :=
  let word := if st == .ok && !own then word + (outs.map fun (x : Nat × List Byte) => x.2.length).sum else word
  r.updPair n fun p => { p with
    chain := p.chain.map fun c => { c with stage := .done st word }
    outs := p.outs ++ outs }

/-- Set or clear the IMSIC pending bit of a hart's file (R351). -/
def Run.imsicSet (r : Run s₀) (hart file ident : Nat) : Run s₀ :=
  (r.mod fun d => { d with imsic := if d.imsic.contains (hart, file, ident) then d.imsic else (hart, file, ident) :: d.imsic }).emit
    (.imsic hart file ident)

/-- The function that holds a device vector (R438): 0 is the physical function. -/
def vecFunc (v : Nat) : Nat := if v < 64 then 0 else (v - 64) / 31 + 1

/-- Raise an MSI-X vector: a message, or its pending bit where it is masked (R351, as PCI Express defines them). -/
def Run.msixRaise (r : Run s₀) (v : Nat) : Run s₀ :=
  match r.d.msix.get? v with
  | some (a, x, false, _) => if !r.d.linkPe then r else r.emit (.msix (vecFunc v) v a x)
  | some (a, x, true, _) => r.mod fun d => { d with msix := d.msix.set v (a, x, true, true) }
  | none => r.mod fun d => { d with msix := d.msix.set v (0, 0, true, true) }

/-- An action that follows a change: add to a counter of this device, look at a counter again, or raise a partition's event
whose route is object 0x6060:`sub`. -/
inductive Act where
  | add (n : Nat) (amt : BitVec 64)
  | look (n : Nat)
  | event (part sub : Nat)
  | record (e : ERec)

/-- Write one error record into the ring of the newest 4,096 (R416, R417). -/
def Run.putRecord (r : Run s₀) (e : ERec) : Run s₀ :=
  let e := { e with seq := r.d.eseq, time := (r.now - r.d.bring.upAt) / 8000 }
  let r := if 4096 ≤ r.d.ring.length && r.d.o 0 0x9000 2 ≤ r.d.eseq - 4096 then r.bump 0 0x9000 3 else r
  let r := r.mod fun d => { d with ring := (e :: d.ring).take 4096, eseq := d.eseq + 1 }
  r.setO 0 0x9000 1 (r.d.eseq % 2 ^ 32)

/-- The header of a class S `SYNC.ADD` to counter `c` of device `dev` (Table 7-16). -/
def syncAddHdr (c dev : Nat) (amt : BitVec 64) : Hdr :=
  { sword := plainSword 0, ctr := BitVec.ofNat 16 (32768 + c), operand := amt, operand2 := BitVec.ofNat 64 (dev * 256) }

/-- A SYNC.ADD of the plinth to a counter of another device, in the name of a partition; `word` is the route word of an
event, 0 for a notification (R147, R351). It waits while the device or its stream takes none. -/
def Run.notify (r : Run s₀) (part dev c : Nat) (amt : BitVec 64) (word : Nat) : Run s₀ :=
  r.sendOrWait .plinth dev { code := 0x51, h := syncAddHdr c dev amt } (.notify part word) part

/-- Look at a counter: release the waits that its value satisfies (R146), fire its arm if the value has reached THRESH
(R147). Answers the actions that follow. -/
def Run.look (r : Run s₀) (n : Nat) : List Act × Run s₀ :=
  let c := r.d.ctr n
  let ws := r.d.waits.filter (fun e => e.2.ctr == n && reached c.value e.2.target)
  let r := r.each ws fun r w =>
    (r.mod fun d => { d with waits := d.waits.del w.1 }).finish w.1 .ok 0 (if w.2.result == 0 then [] else [(w.2.result, c.result)])
  match c.arm with
  | none => ([], r)
  | some a =>
    if reached c.value c.thresh then
      let r := r.mod fun d => { d with ctrs := d.ctrs.set n { d.ctr n with arm := none } }
      let ev := if a.event then [Act.event a.part 0x12] else []
      if a.notify then
        if a.ndev == r.d.self then (ev ++ [Act.add a.nctr a.namt], r)
        else (ev, r.notify a.part a.ndev a.nctr a.namt 0)
      else (ev, r)
    else ([], r)

/-- The queues, as partition and queue, whose doorbell counter is `n` (0x604q:07). -/
def Dev.doorbells (d : Dev) (n : Nat) : List (Nat × Nat) :=
  (d.obj.filter (fun e => bits e.1 12 12 == 0x604 && bits e.1 0 8 == 7 && e.2 == n)).map fun e => (e.1 / 16777216, bits e.1 8 4)

/-- Descriptors pending in queue `q` of a partition: VALUE − descriptor head, modulo 2^32 (R216). -/
def Dev.qPending (d : Dev) (part q : Nat) : Nat :=
  let c := d.o part (0x6040 + q) 7
  if 32768 ≤ c then 0 else ((d.ctr c).value.toNat + 2 ^ 64 - d.o part (0x6040 + q) 0x0A) % 2 ^ 32

/-- A running queue with more descriptors pending than its ring has entries stops in state 2, and a QOVERRUN record, which
raises its partition's error event, is written (R216, R417). -/
def Run.overrun (r : Run s₀) (n : Nat) : List Act × Run s₀ :=
  let qs := (r.d.doorbells n).filter fun q =>
    r.d.o q.1 (0x6040 + q.2) 0x0D == 1 && r.d.o q.1 (0x6040 + q.2) 2 < r.d.qPending q.1 q.2
  (qs.map (fun q => Act.record { seq := 0, kind := 0x16, sev := 4, unit := 7, loc := 0, part := some q.1, time := 0, d0 := q.2, d1 := r.d.qPending q.1 q.2 }), r.each qs fun r q => r.setO q.1 (0x6040 + q.2) 0x0D 2)

/-- Do actions in order, those that follow after them. `fuel` bounds the chain of arms and routes; `Run.act` gives one unit
for each arm pending and each action. -/
def Run.acts : Nat → List Act → Run s₀ → Run s₀
  | 0, _, r => r
  | _ + 1, [], r => r
  | f + 1, .add n amt :: t, r =>
    let c := r.d.ctr n
    let r := r.mod fun d => { d with ctrs := d.ctrs.set n { c with value := c.value + amt } }
    let (more, r) := r.look n
    let (over_, r) := r.overrun n
    Run.acts f (t ++ more ++ over_) r
  | f + 1, .look n :: t, r =>
    let (more, r) := r.look n
    let (over_, r) := r.overrun n
    Run.acts f (t ++ more ++ over_) r
  | f + 1, .record e :: t, r =>
    let more := match e.part with | some p => [Act.event p 0x13] | none => []
    Run.acts f (t ++ more) (r.putRecord e)
  | f + 1, .event part sub :: t, r =>
    let w := r.d.o part 0x6060 sub
    let kind := bits w 0 2
    if kind == 0 then Run.acts f t (r.bump part 0x6060 0x16)
    else if kind == 1 then Run.acts f t (r.msixRaise (bits w 2 11))
    else if kind == 2 then Run.acts f t (r.imsicSet (bits w 13 5) (bits w 18 3) (bits w 21 8))
    else
      let c := bits w 29 15
      let dev := bits w 44 14
      if dev == r.d.self then
        if r.d.ctrOwner c == part then Run.acts f (t ++ [.add c 1]) r
        else Run.acts f (t ++ [.record { seq := 0, kind := 0x13, sev := 4, unit := 5, loc := 0, part := some part, time := 0, d0 := w, d1 := 10 }]) r
      else Run.acts f t (r.notify part dev c 1 w)

/-- Do actions and all that follows from them. -/
def Run.act (r : Run s₀) (as : List Act) : Run s₀ :=
  Run.acts (4 * (as.length + (r.d.ctrs.filter (fun e => e.2.arm.isSome)).length) + 4) as r

/-- Raise a partition's event (R349). -/
def Run.event (r : Run s₀) (part sub : Nat) : Run s₀ := r.act [.event part sub]

/-- Add to a counter of this device. -/
def Run.addCtr (r : Run s₀) (n : Nat) (amt : BitVec 64) : Run s₀ := r.act [.add n amt]

/-- Set a counter and look at its waits (R148). -/
def Run.setCtr (r : Run s₀) (n : Nat) (c : Ctr) : Run s₀ :=
  (r.mod fun d => { d with ctrs := d.ctrs.set n c }).act [.look n]

/-- Write an error record (R416). A corrected event (SEV 0) is written at most once a second per unit and kind, its COUNT
the events merged since. -/
def Run.error (r : Run s₀) (e : ERec) : Run s₀ :=
  if e.sev == 0 then
    let k := (e.unit * 65536 + e.loc) * 65536 + e.kind
    match r.d.merge.get? k with
    | some (at_, n) =>
      if r.now < at_ + us 1000000 then r.mod fun d => { d with merge := d.merge.set k (at_, n + 1) }
      else (r.mod fun d => { d with merge := d.merge.set k (d.now, 0) }).act [.record { e with count := min 255 (n + 1) }]
    | none => (r.mod fun d => { d with merge := d.merge.set k (d.now, 0) }).act [.record e]
  else r.act [.record e]

/-- The short form of an error record: its time and number are filled in when it is written. -/
def mkErr (kind sev unit loc : Nat) (part : Option Nat) (addr d0 d1 : Nat) : ERec :=
  { seq := 0, kind := kind, sev := sev, unit := unit, loc := loc, part := part, addr := addr, time := 0, d0 := d0, d1 := d1 }

/-- Assert or release DEVALERT_N. -/
def Run.devalert (r : Run s₀) (on : Bool) : Run s₀ :=
  (r.mod fun d => { d with pins := { d.pins with devalert := on } }).emit (.pin "DEVALERT_N" on)

end

end Sys2Proof.Machine
end

