-- ==== Sys2Proof/Machine/Admission.lean ====
section
/-!
DEFINITION. Admission (chapter 4): the lanes of each gate and their parts (R96, R97), the weighted share (R98), B and flash
windows (R103-R106), refusals with their credits (R107-R113), holds (R120).
-/

namespace Sys2Proof.Machine

/-- The gated resources of Table 4-4: a port's ingress and egress direction, a slice's SRAM, an HBM4 channel. -/
inductive Gate where
  | portIn (p : Nat)
  | portOut (p : Nat)
  | sram (s : Nat)
  | hbm (s : Nat)
deriving DecidableEq, Repr

/-- A gate as a number. -/
def Gate.key : Gate → Nat
  | .portIn p => p
  | .portOut p => 256 + p
  | .sram s => 512 + s
  | .hbm s => 768 + s

/-- Worst-case service time of one line or flit in lane `cls` (0 S, 1 L) at its share of the floor rate, Table 4-4, rounded
up to a picosecond. -/
def Gate.service (g : Gate) (cls : Nat) : Nat :=
  match g with
  | .sram _ => if cls == 0 then 12500 else 2778
  | .hbm _ => if cls == 0 then 15625 else 3473
  | _ => if cls == 0 then 16000 else 2000

/-- Wait allowance of the lane, Tables 4-4 and 4-12. -/
def Gate.allow (g : Gate) (cls : Nat) : Nat :=
  match g with
  | .sram _ => if cls == 0 then ns 1030 else ns 180
  | .hbm _ => if cls == 0 then ns 430 else ns 600
  | _ => ns 40

/-- The key of one lane of a gate, and of one part of it: 0 is the common part, 1 + p partition p's reserved part. -/
def laneKey (g : Gate) (cls : Nat) : Nat := g.key * 4 + cls
def partKey (g : Gate) (cls part : Nat) : Nat := laneKey g cls * 512 + part

/-- The reserved fraction of a partition, in percent (0x6010:02). -/
def Dev.reserved (d : Dev) (part : Nat) : Nat := d.o part 0x6010 2

/-- The percent of each S and L lane left to the common part. -/
def Dev.commonPct (d : Dev) : Nat :=
  100 - ((d.obj.filter (fun e => e.1 % 16777216 == 0x6010 * 256 + 2)).map (·.2)).sum

/-- The horizon of a part (R97): the time to finish the work admitted to it and the service booked in it for credited retries, so
that first tries leave booked slots free and a retry in its slot finds room (R99, R109, R124; log entry 174). -/
def Dev.horizon (d : Dev) (k : Nat) : Nat :=
  let l := d.lanes.getD k {}
  (l.busy - d.now) + l.booked

/-- The partitions admitted or refused at a lane in the last 10 µs. -/
def Dev.recent (d : Dev) (lk : Nat) : List LaneEv := (d.laneEv.getD lk []).filter (fun e => d.now ≤ e.at_ + us 10)

/-- Is the partition within its weighted share of the common part (R98)? -/
def Dev.withinShare (d : Dev) (lk part : Nat) : Bool :=
  let ev := d.recent lk
  if !ev.any (fun e => !e.adm && e.part != part) then true
  else
    let parts := (ev.map (·.part)).dedup
    let w := (parts.map (fun p => d.o p 0x6010 1)).sum
    let mine := (ev.filter (fun e => e.adm && e.part == part)).length
    let all := (ev.filter (·.adm)).length
    (mine - 1) * w ≤ all * d.o part 0x6010 1

section
variable {s₀ : State}

/-- Note an admission or a refusal at a lane (R98). -/
def Run.laneNote (r : Run s₀) (lk part : Nat) (adm : Bool) : Run s₀ :=
  r.mod fun d => { d with laneEv := d.laneEv.set lk (⟨d.now, part, adm⟩ :: d.recent lk) }

/-- Put service time into a part of a lane. -/
def Run.laneAdd (r : Run s₀) (k t : Nat) : Run s₀ :=
  r.mod fun d => { d with lanes := d.lanes.set k { d.lanes.getD k {} with busy := max d.now (d.lanes.getD k {}).busy + t } }

/-- Time admitted to the window of a rate is added behind what is unfinished. -/
def Run.winAdd (r : Run s₀) (k t : Nat) : Run s₀ :=
  r.mod fun d => { d with bwin := d.bwin.set k (max d.now (d.bwin.getD k 0) + t) }

/-- The key by which a credit books time in window `k` of a rate, apart from every part of a lane. -/
def winBook (k : Nat) : Nat := 2 ^ 40 + k

/-- Service enters a part of a lane, noted where it is the common part (R98), or the window of a rate. -/
def Run.takeAt (r : Run s₀) (part : Nat) (b : Nat × Nat) : Run s₀ :=
  if 2 ^ 40 ≤ b.1 then r.winAdd (b.1 - 2 ^ 40) b.2
  else
    let r := r.laneAdd b.1 b.2
    if b.1 % 512 == 0 then r.laneNote (b.1 / 512) part true else r

/-- Is the booking one of a home lane, of SRAM or HBM4? -/
def homeLane (b : Nat × Nat) : Bool := 512 * 2048 ≤ b.1 && b.1 < 2 ^ 40

/-- Book service time behind a part of a lane (R108), or give it back. A window admits by its unfinished admitted bytes alone
(R103, R105), so what is booked in it takes no room before it is admitted. -/
def Run.book (r : Run s₀) (k t : Nat) (on : Bool) : Run s₀ :=
  if 2 ^ 40 ≤ k then r else
  r.mod fun d =>
    let l := d.lanes.getD k {}
    { d with lanes := d.lanes.set k { l with booked := if on then l.booked + t else l.booked - t } }

/-- The decision of a gate on `n` units of a request (R97): the part it is admitted to with its service time there, or the
reason it is refused. -/
inductive Fit where
  | part (k t : Nat)
  | no (reason : Nat)
deriving DecidableEq, Repr

/-- The admission check of R97 for `n` units of class `cls` at gate `g`, with wait allowance `a`. -/
def Dev.fit (d : Dev) (g : Gate) (cls part n a : Nat) : Fit :=
  let s := n * g.service cls
  let own := partKey g cls (1 + part)
  let com := partKey g cls 0
  let rp := d.reserved part
  let cp := d.commonPct
  if 0 < rp && d.horizon own + cdiv (s * 100) rp ≤ a then .part own (cdiv (s * 100) rp)
  else if cp == 0 then .no 1
  else if !d.withinShare (laneKey g cls) part then .no 2
  else if d.horizon com + cdiv (s * 100) cp ≤ a then .part com (cdiv (s * 100) cp)
  else .no 1

/-- The part a credited retry's service is booked in, and its time there. -/
def Dev.bookAt (d : Dev) (g : Gate) (cls part n : Nat) : Nat × Nat :=
  let s := n * g.service cls
  if 0 < d.reserved part then (partKey g cls (1 + part), cdiv (s * 100) (d.reserved part))
  else (partKey g cls 0, cdiv (s * 100) (max 1 d.commonPct))

/-- How long until the work admitted and booked in a part ends: the next free slot. -/
def Dev.slotAt (d : Dev) (k : Nat) : Nat := if 2 ^ 40 ≤ k then 0 else d.horizon k

/-! ### Refusals and credits -/

/-- What a refusal names: the source, partition, class, operation, address and ASID that the credit binds to (R111). -/
structure Asked where
  src  : Src
  part : Nat
  cls  : Nat
  code : Nat
  addr : Nat
  asid : Nat := 0
deriving DecidableEq, Repr

/-- A free credit tag of a source: the lowest from 1 up that it does not hold (R108: never 0). -/
def Dev.freeTag (d : Dev) (src : Src) : Nat :=
  let held := (d.credits.filter (fun e => e.2.src == src)).map (fun e => e.2.tag)
  ((List.range (held.length + 1)).map (· + 1)).find? (fun t => !held.contains t) |>.getD 1

/-- The bits of a hold that cover a class (Table 4-9): thermal and speed cover all, the power throttle covers G (and the
common part of B, which no B request of this model uses: R103 admits B by guaranteed rates alone). -/
def Dev.holdReason (d : Dev) (cls : Nat) : Option Nat :=
  let h := d.o 0 0x2000 1
  if bit h 0 then some 11 else if bit h 1 then some 12 else if bit h 2 && cls == 3 then some 13 else none

/-- The window of a credit: 4 × HINT or 4 µs after the refusal, whichever is later (R109). -/
def windowEnd (now hint : Nat) : Nat := now + max (4 * hint) (us 4)

/-- Refuse with `NADM`: the credit, the refusal word, the counts of 0x2020 and 0x6010:08 (R107, R108). `tag` keeps an old
credit's tag (R110). `booked` are the lanes booked. -/
def Run.refuse (r : Run s₀) (q : Asked) (hint reason : Nat) (home : Bool) (loc : Nat) (booked : List (Nat × Nat))
    (hold : Bool := false) : Compl × Run s₀ :=
  let tag := r.d.freeTag q.src
  let n := r.d.cnext
  let c : Credit := {
    src := q.src, tag := tag, part := q.part, cls := q.cls, code := q.code, addr := q.addr, asid := q.asid
    start := r.now + hint, until_ := windowEnd r.now hint, hint := hint, reason := reason, home := home, loc := loc
    booked := booked, held := if hold then some reason else none }
  let r := r.mod fun d => { d with credits := d.credits.set n c, cnext := d.cnext + 1 }
  let r := r.each booked fun r b => r.book b.1 b.2 true
  let r := (r.bump 0 0x2020 reason).bump q.part 0x6010 8
  (⟨.nadm, refusalWord hint tag reason hold home q.cls loc, 0⟩, r)

/-- Refuse again on the same credit, the slot unchanged (R110), or deferred by a hold (R120). -/
def Run.refuseAgain (r : Run s₀) (n : Nat) (c : Credit) (hint : Nat) (hold : Option Nat) : Compl × Run s₀ :=
  let reason := hold.getD c.reason
  let r := r.mod fun d => { d with credits := d.credits.upd n fun c => { c with held := match hold with | some x => some x | none => c.held } }
  let r := (r.bump 0 0x2020 reason).bump c.part 0x6010 8
  (⟨.nadm, refusalWord hint c.tag reason hold.isSome c.home c.cls c.loc, 0⟩, r)

/-- The walks without the request of a credit whose fault is known: no retry of it comes (R71). -/
def dropWait (ws : List Walk) (n : Nat) : List Walk :=
  ws.filterMap fun w =>
    let left := w.waits.filter fun x => !(x.cred == n && x.done.isSome)
    if left.isEmpty && !w.waits.isEmpty then none else some { w with waits := left }

/-- Drop a credit, the service booked for it, the directory way reserved with it (R174), and the fault its walk ended in. -/
def Run.dropCredit (r : Run s₀) (n : Nat) : Run s₀ :=
  match r.d.credits.get? n with
  | none => r
  | some c =>
    let r := r.each c.booked fun r b => r.book b.1 b.2 false
    r.mod fun d => { d with credits := d.credits.del n, resWay := d.resWay.del n, walks := if d.walks.isEmpty then [] else dropWait d.walks n }

/-- The credit that a retry names: same source and tag, same partition, class, operation and address (R108, R111). -/
def Dev.creditOf (d : Dev) (q : Asked) (tag : Nat) : Option (Nat × Credit) :=
  d.credits.find? fun e =>
    e.2.src == q.src && e.2.tag == tag && e.2.part == q.part && e.2.cls == q.cls && e.2.code == q.code
      && e.2.addr == q.addr && e.2.asid == q.asid

/-- How a request stands with the gates: a first try, a credited retry in its window (the credit's number), or already
answered. -/
inductive Entry where
  | first
  | credited (n : Nat) (c : Credit)
  | refused (c : Compl)
deriving DecidableEq, Repr

/-- Holds and credits at a gate's door (R97, R109, R110, R120): a hold refuses, keeping a credit; a retry before its slot is
refused again; one after its window is a first try; one within it is admitted at every booked gate. `books` is the service that a
retry will need at the gates it passes (R108). -/
def Run.door (r : Run s₀) (q : Asked) (cred : Bool) (tag : Nat) (home : Bool) (loc : Nat) (books : List (Nat × Nat)) :
    Entry × Run s₀ :=
  let held := if q.src == .plinth then none else r.d.holdReason q.cls
  match (if cred then r.d.creditOf q tag else none) with
  | some (n, c) =>
    match held with
    | some reason =>
      let (x, r) := r.refuseAgain n c (us 100) (some reason)
      (.refused x, r)
    | none =>
      if r.now < c.start then
        let (x, r) := r.refuseAgain n c (c.start - r.now) none
        (.refused x, r)
      else if c.until_ < r.now then (.first, r.dropCredit n)
      else (.credited n c, r)
  | none =>
    match held with
    | some reason =>
      let (x, r) := r.refuse q (us 100) reason home loc books true
      (.refused x, r)
    | none => (.first, r)

/-- A credited retry is admitted at every gate that its credit booked: the bookings become admitted work, and it is counted
(R109, 0x6010:09). The credit itself is already dropped. -/
def Run.admitOn (r : Run s₀) (c : Credit) : Run s₀ := (r.each c.booked fun r b => r.takeAt c.part b).bump c.part 0x6010 9

/-- A credited retry spends its credit and is admitted. -/
def Run.useCredit (r : Run s₀) (n : Nat) (c : Credit) : Run s₀ := (r.dropCredit n).admitOn c

/-- The hold of this reason ends: the slots and windows of the credits it deferred start again (R120). -/
def Run.restartCredits (r : Run s₀) (reason : Nat) : Run s₀ :=
  r.mod fun d => { d with credits := d.credits.map fun e =>
    (e.1, if e.2.held == some reason then { e.2 with held := none, start := d.now + e.2.hint, until_ := windowEnd d.now e.2.hint }
          else e.2) }

/-! ### B and flash windows (R103, R105, R106) -/

/-- Keys of a partition's windows: the engine rate, the per-port rate at a port, flash reads, flash writes. -/
def winEngine (part : Nat) : Nat := part
def winPort (p part : Nat) : Nat := (1 + p) * 256 + part
def winFlashRead (part : Nat) : Nat := 32 * 256 + part
def winFlashWrite (part : Nat) : Nat := 33 * 256 + part

/-! ### The test reserve (R94) -/

/-- The key of the bursts of speed-monitor sampling, beside those of the gates. -/
def speedBurst : Nat := 1024

/-- May a burst of a resource's test reserve begin: none did in the last 2 µs (R94)? -/
def Dev.mayBurst (d : Dev) (k : Nat) : Bool := match d.bursts.get? k with | some t => t + us 2 ≤ d.now | none => true

/-- A burst of a resource's test reserve, of at most 0.10 µs, begins. -/
def Run.burst (r : Run s₀) (k : Nat) : Run s₀ := r.mod fun d => { d with bursts := d.bursts.set k d.now }

/-- The time `bytes` take at `rate` MB/s, in picoseconds. -/
def rateTime (bytes rate : Nat) : Nat := cdiv (bytes * 1000000) rate

/-- Unfinished admitted time of a window. -/
def Dev.winLeft (d : Dev) (k : Nat) : Nat := d.bwin.getD k 0 - d.now

/-- The verdict of a rate's window. -/
inductive Win where
  | fits
  | denied
  | full (hint : Nat)
deriving DecidableEq, Repr

/-- R103: unfinished bytes divided by the rate come to no more than 2.5 µs; a rate of 0 is `DENIED`. -/
def Dev.winB (d : Dev) (k rate : Nat) : Win :=
  if rate == 0 then .denied else if d.winLeft k ≤ ns 2500 then .fits else .full (d.winLeft k - ns 2500)

/-- R105: unfinished flash bytes divided by F come to no more than 60 µs. -/
def Dev.winFlash (d : Dev) (part : Nat) : Win :=
  if d.o part 0x6010 5 == 0 then .denied
  else if d.winLeft (winFlashRead part) ≤ us 60 then .fits else .full (d.winLeft (winFlashRead part) - us 60)

/-- R106: a token window of 10 µs of the flash write rate; 64 B for each of the `n` clean lines that a request makes dirty. A
request of more lines than the window ever holds is taken by a full window (log entry 175). -/
def Dev.winDirty (d : Dev) (part n : Nat) : Win :=
  let rate := d.o part 0x6010 6
  let left := d.winLeft (winFlashWrite part)
  if rate == 0 then .denied
  else
    let t := left + rateTime (64 * n) rate
    if t ≤ us 10 || left == 0 then .fits else .full (min left (t - us 10))

/-! ### The port gate -/

/-- The port that a source's requests come through. -/
def srcPort : Src → Option Nat
  | .ident p _ => some p
  | .remote p _ _ => some p
  | _ => none

/-- A request of a port has left the partition's cap: one request credit is granted again (R114, R186). -/
def Run.grantReq {s₀ : State} (r : Run s₀) (src : Src) (part : Nat) : Run s₀ :=
  match srcPort src with
  | some p => r.wire p (.reqCredits p part 1)
  | none => r

/-- Does a completion answer a whole request of the port: not one copy of a cast store, nor one line of a request? -/
def Reply.whole : Reply → Bool
  | .cast _ | .line _ _ => false
  | _ => true

/-- Requests a port holds for a partition, admitted and credited together (R114): live credits, jobs, requests on their way to
other devices, in relief entries or waiting to leave, fences, cast stores and parked requests whose source came through the port. -/
def Dev.outstanding (d : Dev) (p part : Nat) : Nat :=
  let here (src : Src) : Bool := srcPort src == some p
  let who (ws : List Contrib) : Nat := (ws.filter fun w => here w.src).length
  (d.credits.filter (fun e => here e.2.src && e.2.part == part)).length
    + (d.jobs.filter (fun e => here e.2.src && e.2.part == some part && e.2.reply.whole)).length
    + ((d.origs.filter (fun e => e.2.part == part)).map fun e => match e.2.reply with
        | .relief n => who (d.reliefWho.getD n [])
        | x => b2n (here e.2.src && x.whole)).sum
    + ((d.relief.filter (fun e => e.2.part == part)).map fun e => who e.2.who).sum
    + (d.after.filter (fun x => here x.src && x.part == part && x.reply.whole)).length
    + (d.fences.filter (fun f => here f.src && f.part == part)).length
    + (d.castOps.filter (fun e => e.2.part == part && (match e.2.reply with | .port p' _ _ _ => p' == p | _ => false))).length
    + (d.transit.filter (fun e => here e.2.src && e.2.part == part)).length
    + (d.again.filter fun q => match q with
        | .port p' _ h _ _ => p' == p && d.identP.get? (p * 128 + bits h.stream.toNat 0 7) == some part
        | .pair _ => false).length
    + ((d.fents.filter (fun e => e.2.part == part)).map (fun e => (e.2.reqs.filter fun q =>
        match q with | .port p' _ _ _ _ => p' == p | .pair _ => false).length)).sum

/-- The verdict of a gate. -/
inductive Verdict where
  | go
  | stop (c : Compl)
deriving DecidableEq, Repr

/-- Decide `flits` of an S or L request at each of some gates (R97): the parts it is admitted to, or none. -/
def Dev.fitAll (d : Dev) (q : Asked) (gates : List (Gate × Nat)) : List Fit :=
  gates.map fun g => d.fit g.1 q.cls q.part g.2 (g.1.allow q.cls)

/-- Put admitted work into the lanes. -/
def Run.takeLanes (r : Run s₀) (q : Asked) (gates : List (Gate × Nat)) : Run s₀ :=
  r.each gates fun r g =>
    match r.d.fit g.1 q.cls q.part g.2 (g.1.allow q.cls) with
    | .part k t => r.takeAt q.part (k, t)
    | .no _ => r

/-- Ask the S lane of the slice that holds a counter (R486): the operation is admitted, or refused with the bookings of its retry
there and at the gates before (`more`). -/
def Run.askS (r : Run s₀) (q : Asked) (slice : Nat) (more : List (Nat × Nat)) : Option Compl × Run s₀ :=
  match r.d.fit (.sram slice) 0 q.part 1 (Gate.allow (.sram slice) 0) with
  | .part k t => (none, r.takeAt q.part (k, t))
  | .no reason =>
    let books := r.d.bookAt (.sram slice) 0 q.part 1 :: more
    let hint := (books.map fun b => r.d.slotAt b.1).foldl max 0
    let r := r.laneNote (laneKey (.sram slice) 0) q.part false
    let (c, r) := r.refuse q hint reason true slice books
    (some c, r)

/-- The number of a gate's port or slice. -/
def Gate.loc : Gate → Nat
  | .portIn p => p
  | .portOut p => p
  | .sram s => s
  | .hbm s => s

/-- What a request needs of this device's port gates (R96): flits at each gate it and its answer cross (Table 7-7), and for a B
request the ports it crosses and its bytes (R103). -/
structure Pass where
  gates : List (Gate × Nat) := []
  ports : List Nat := []
  bytes : Nat := 0
deriving DecidableEq, Repr

/-- What a credit books of it: service in the lanes of an S or L request, bytes in the windows of a B request (R108). -/
def Dev.passBooks (d : Dev) (q : Asked) (x : Pass) : List (Nat × Nat) :=
  if q.cls ≤ 1 then x.gates.map fun g => d.bookAt g.1 q.cls q.part g.2
  else if q.cls == 2 && 0 < d.o q.part 0x6010 4 then
    x.ports.map fun p => (winBook (winPort p q.part), rateTime x.bytes (d.o q.part 0x6010 4))
  else []

/-- Ask port gates for an S or L request; nothing is admitted yet. `homeBook` are the home lanes that a refusal books as well
(R108). -/
def Run.askLanes (r : Run s₀) (q : Asked) (gates : List (Gate × Nat)) (homeBook : List (Nat × Nat)) : Verdict × Run s₀ :=
  match (gates.zip (r.d.fitAll q gates)).find? (fun f => match f.2 with | .no _ => true | _ => false) with
  | none => (.go, r)
  | some (g, f) =>
    let reason := match f with | .no x => x | .part _ _ => 1
    let books := gates.map (fun g => r.d.bookAt g.1 q.cls q.part g.2) ++ homeBook
    let hint := (books.map (fun k => r.d.slotAt k.1)).foldl max 0
    let r := r.laneNote (laneKey g.1 q.cls) q.part false
    let (c, r) := r.refuse q hint reason false g.1.loc books
    (.stop c, r)

/-- Ask for a B request at each port it crosses: the partition's per-port rate (R103). -/
def Run.askB (r : Run s₀) (q : Asked) (x : Pass) (homeBook : List (Nat × Nat)) : Verdict × Run s₀ :=
  let rate := r.d.o q.part 0x6010 4
  let stops := x.ports.filterMap fun p => match r.d.winB (winPort p q.part) rate with
    | .fits => none
    | .denied => some (p, none)
    | .full h => some (p, some h)
  match stops with
  | [] => (.go, r)
  | (_, none) :: _ => (.stop (Compl.of .denied), r)
  | (p, some _) :: _ =>
    let hint := (stops.map fun s => s.2.getD 0).foldl max 0
    let (c, r) := r.refuse q hint 3 false p (r.d.passBooks q x ++ homeBook)
    (.stop c, r)

/-- Ask the port gates of a request by its class (R97, R103); class G is asked nothing. -/
def Run.askPass (r : Run s₀) (q : Asked) (x : Pass) (homeBook : List (Nat × Nat)) : Verdict × Run s₀ :=
  if q.cls ≤ 1 then r.askLanes q x.gates homeBook else if q.cls == 2 then r.askB q x homeBook else (.go, r)

/-- A request is admitted at the port gates it was asked at. -/
def Run.takePass (r : Run s₀) (q : Asked) (x : Pass) : Run s₀ :=
  if q.cls ≤ 1 then r.takeLanes q x.gates
  else if q.cls == 2 then r.each (r.d.passBooks q x) fun r b => r.takeAt q.part b
  else r

end

end Sys2Proof.Machine
end

