-- ==== Sys2Proof/Machine/Numerics.lean ====
section
/-!
DEFINITION. The arithmetic of the reductions, atomics, engines and tables: exact values, one rounding to nearest even at the
end (R192, R237-R240). A finite number is a sign, a magnitude and a power of two; the exact result of an operation is such a
number, and a format rounds it.
-/

namespace Sys2Proof.Machine

/-- An exact value, or what a format has beside them. `fin neg m e` is (−1)^neg · m · 2^e; a zero keeps its sign. -/
inductive FV where
  | fin (neg : Bool) (m : Nat) (e : Int)
  | inf (neg : Bool)
  | nan (neg : Bool) (pay : Nat)
deriving DecidableEq, Repr

/-- Families of formats: IEEE 754 interchange; E4M3, whose only special is one NaN; formats with neither NaN nor infinity. -/
inductive FKind where
  | ieee | e4m3 | plain
deriving DecidableEq, Repr

/-- A binary format: exponent bits, fraction bits, family. -/
structure Fmt where
  eb   : Nat
  mb   : Nat
  kind : FKind := .ieee
deriving DecidableEq, Repr

def F32 : Fmt := ⟨8, 23, .ieee⟩
def BF16 : Fmt := ⟨8, 7, .ieee⟩
def F16 : Fmt := ⟨5, 10, .ieee⟩
def E4M3 : Fmt := ⟨4, 3, .e4m3⟩
def E5M2 : Fmt := ⟨5, 2, .ieee⟩
def E3M2 : Fmt := ⟨3, 2, .plain⟩
def E2M3 : Fmt := ⟨2, 3, .plain⟩
def E2M1 : Fmt := ⟨2, 1, .plain⟩

/-- Exponent bias. -/
def Fmt.bias (f : Fmt) : Nat := 2 ^ (f.eb - 1) - 1
/-- Bits in all. -/
def Fmt.width (f : Fmt) : Nat := 1 + f.eb + f.mb
/-- Encoding of the largest finite magnitude. -/
def Fmt.maxFin (f : Fmt) : Nat :=
  match f.kind with
  | .ieee => (2 ^ f.eb - 1) * 2 ^ f.mb - 1
  | .e4m3 => 2 ^ (f.eb + f.mb) - 2
  | .plain => 2 ^ (f.eb + f.mb) - 1

/-- The value of an encoding. -/
def Fmt.dec (f : Fmt) (w : Nat) : FV :=
  let neg := bit w (f.eb + f.mb)
  let m := bits w 0 f.mb
  let e := bits w f.mb f.eb
  let special := match f.kind with
    | .ieee => e == 2 ^ f.eb - 1
    | .e4m3 => e == 2 ^ f.eb - 1 && m == 2 ^ f.mb - 1
    | .plain => false
  if special then
    if f.kind == .ieee && m == 0 then .inf neg else .nan neg m
  else if e == 0 then .fin neg m (1 - (f.bias : Int) - (f.mb : Int))
  else .fin neg (2 ^ f.mb + m) ((e : Int) - (f.bias : Int) - (f.mb : Int))

/-- Shift a magnitude right by `k` bits, rounding to nearest, ties to even. `sticky` says that the exact value lies above
`m` by less than one unit of its last place. -/
def rneShift (m k : Nat) (sticky : Bool := false) : Nat :=
  if k == 0 then m else
  let q := m / 2 ^ k
  let r := m % 2 ^ k
  let half := 2 ^ (k - 1)
  if r < half then q else if half < r || sticky then q + 1 else if q % 2 == 1 then q + 1 else q

/-- The magnitude of m · 2^e in a format, before overflow: its encoding without the sign. -/
def Fmt.round (f : Fmt) (m : Nat) (e : Int) (sticky : Bool := false) : Nat :=
  if m == 0 then 0 else
  let emin : Int := 1 - (f.bias : Int)
  let top : Int := (Nat.log2 m : Int) + e
  let ex := max top emin
  let q := ex - (f.mb : Int)
  let sig := if q ≤ e then m * 2 ^ (e - q).toNat else rneShift m (q - e).toNat sticky
  ((ex + (f.bias : Int)).toNat * 2 ^ f.mb + sig) - 2 ^ f.mb

/-- A quiet NaN of a format with this sign; its payload is free (Config). -/
def Fmt.qnan (f : Fmt) (neg : Bool) (pay : Nat) : Nat :=
  b2n neg * 2 ^ (f.eb + f.mb) +
    match f.kind with
    | .ieee => (2 ^ f.eb - 1) * 2 ^ f.mb + 2 ^ (f.mb - 1) + pay % 2 ^ (f.mb - 1)
    | .e4m3 => 2 ^ (f.eb + f.mb) - 1
    | .plain => 0

/-- Encode: the result of arithmetic overflows to infinity (IEEE 754); a conversion (`sat`) saturates (R237). -/
def Fmt.enc (f : Fmt) (sat : Bool) : FV → Nat
  | .nan neg pay => f.qnan neg pay
  | .inf neg => b2n neg * 2 ^ (f.eb + f.mb) + (if f.kind == .ieee then (2 ^ f.eb - 1) * 2 ^ f.mb else f.maxFin)
  | .fin neg m e =>
    let r := f.round m e
    b2n neg * 2 ^ (f.eb + f.mb) +
      (if r ≤ f.maxFin then r else if sat || f.kind != .ieee then f.maxFin else (2 ^ f.eb - 1) * 2 ^ f.mb)

/-- The signed integer m · 2^(e − lo) of a finite value, for an exponent `lo` no larger than `e`. -/
def FV.scaled (lo : Int) : FV → Int
  | .fin neg m e => (if neg then -1 else 1) * (m * 2 ^ (e - lo).toNat : Nat)
  | _ => 0

/-- The exact value of a signed integer times 2^e; an exact zero takes sign `zneg`. -/
def FV.ofInt (i : Int) (e : Int) (zneg : Bool) : FV :=
  if i == 0 then .fin zneg 0 e else .fin (i < 0) i.natAbs e

/-- Negate. -/
def FV.neg : FV → FV
  | .fin n m e => .fin (!n) m e
  | .inf n => .inf (!n)
  | .nan n p => .nan (!n) p

/-- A NaN made of operands `a` and `b`: its sign and payload are free. -/
def freeNan (a b : Nat) : FV := .nan (bit (Config.nanBits a b) 0) (Config.nanBits a b / 2)

/-- Exact addition. An exact zero sum of unlike signs is +0 under round to nearest (IEEE 754). `k` names the operands. -/
def FV.add (k : Nat × Nat) : FV → FV → FV
  | .fin n1 m1 e1, .fin n2 m2 e2 =>
    let lo := min e1 e2
    FV.ofInt (FV.scaled lo (.fin n1 m1 e1) + FV.scaled lo (.fin n2 m2 e2)) lo (n1 && n2)
  | .inf n1, .inf n2 => if n1 == n2 then .inf n1 else freeNan k.1 k.2
  | .inf n1, .fin .. => .inf n1
  | .fin .., .inf n2 => .inf n2
  | _, _ => freeNan k.1 k.2

/-- Exact multiplication. -/
def FV.mul (k : Nat × Nat) : FV → FV → FV
  | .fin n1 m1 e1, .fin n2 m2 e2 => .fin (n1 != n2) (m1 * m2) (e1 + e2)
  | .inf n1, .inf n2 => .inf (n1 != n2)
  | .inf n1, .fin n2 m2 _ => if m2 == 0 then freeNan k.1 k.2 else .inf (n1 != n2)
  | .fin n1 m1 _, .inf n2 => if m1 == 0 then freeNan k.1 k.2 else .inf (n1 != n2)
  | _, _ => freeNan k.1 k.2

/-- Compare: is `a` below `b`? −0 and +0 are equal here; a NaN is below nothing. -/
def FV.lt : FV → FV → Bool
  | .fin n1 m1 e1, .fin n2 m2 e2 =>
    let lo := min e1 e2
    FV.scaled lo (.fin n1 m1 e1) < FV.scaled lo (.fin n2 m2 e2)
  | .inf n1, .inf n2 => n1 && !n2
  | .inf n1, .fin .. => n1
  | .fin .., .inf n2 => !n2
  | _, _ => false

/-- Is it a NaN? -/
def FV.isNan : FV → Bool
  | .nan .. => true
  | _ => false

/-- Is it a zero? -/
def FV.isZero : FV → Bool
  | .fin _ m _ => m == 0
  | _ => false

/-- The sign. -/
def FV.sign : FV → Bool
  | .fin n _ _ => n
  | .inf n => n
  | .nan n _ => n

/-- `a` below `b` in the order of minimumNumber: −0 is below +0 (IEEE 754-2019). -/
def FV.below (a b : FV) : Bool := a.lt b || (a.isZero && b.isZero && a.sign && !b.sign)

/-- minimumNumber of two encodings (IEEE 754-2019): a NaN is returned only if both are NaN. -/
def Fmt.minNum (f : Fmt) (a b : Nat) : Nat :=
  let x := f.dec a; let y := f.dec b
  if x.isNan then (if y.isNan then f.enc false (freeNan a b) else b)
  else if y.isNan then a else if y.below x then b else a

/-- maximumNumber of two encodings. -/
def Fmt.maxNum (f : Fmt) (a b : Nat) : Nat :=
  let x := f.dec a; let y := f.dec b
  if x.isNan then (if y.isNan then f.enc false (freeNan a b) else b)
  else if y.isNan then a else if x.below y then b else a

/-- minimum and maximum of two encodings as IEEE 754-2019 names them: a NaN operand gives a NaN (R240). -/
def Fmt.minimum (f : Fmt) (a b : Nat) : Nat :=
  let x := f.dec a; let y := f.dec b
  if x.isNan || y.isNan then f.enc false (freeNan a b) else if y.below x then b else a
@[inherit_doc Fmt.minimum]
def Fmt.maximum (f : Fmt) (a b : Nat) : Nat :=
  let x := f.dec a; let y := f.dec b
  if x.isNan || y.isNan then f.enc false (freeNan a b) else if x.below y then b else a

/-- Addition in a format, one rounding to nearest even. -/
def Fmt.add (f : Fmt) (a b : Nat) : Nat := f.enc false (FV.add (a, b) (f.dec a) (f.dec b))
/-- Negation flips the sign. -/
def Fmt.neg (f : Fmt) (a : Nat) : Nat := if bit a (f.eb + f.mb) then a - 2 ^ (f.eb + f.mb) else a + 2 ^ (f.eb + f.mb)
/-- Subtraction. -/
def Fmt.sub (f : Fmt) (a b : Nat) : Nat := f.add a (f.neg b)
/-- Multiplication. -/
def Fmt.mul (f : Fmt) (a b : Nat) : Nat := f.enc false (FV.mul (a, b) (f.dec a) (f.dec b))
/-- Fused a × b + c. -/
def Fmt.fma (f : Fmt) (a b c : Nat) : Nat :=
  f.enc false (FV.add (a, b) (FV.mul (a, b) (f.dec a) (f.dec b)) (f.dec c))
/-- Convert between formats: exact where the target is wider, else rounded and saturating (R237). -/
def Fmt.conv (f g : Fmt) (a : Nat) : Nat :=
  match f.dec a with
  | .nan n p => g.qnan n (if f.mb ≤ g.mb then p * 2 ^ (g.mb - f.mb) else Config.nanBits a g.width)
  | v => g.enc true v

/-- Quotient of two finite magnitudes as (m, e, sticky) with more than the bits a format keeps. -/
def quotient (m1 : Nat) (e1 : Int) (m2 : Nat) (e2 : Int) (keep : Nat) : Nat × Int × Bool :=
  let sh := keep + Nat.log2 m2 + 2
  let n := m1 * 2 ^ sh
  (n / m2, e1 - e2 - (sh : Int), n % m2 != 0)

/-- Division in a format, rounded to nearest even. -/
def Fmt.div (f : Fmt) (a b : Nat) : Nat :=
  match f.dec a, f.dec b with
  | .fin n1 m1 e1, .fin n2 m2 e2 =>
    let n := n1 != n2
    if m2 == 0 then (if m1 == 0 then f.enc false (freeNan a b) else f.enc false (.inf n))
    else if m1 == 0 then f.enc false (.fin n 0 0)
    else
      let (q, e, st) := quotient m1 e1 m2 e2 (f.mb + 2)
      let r := f.round (2 * q + b2n st) (e - 1)
      b2n n * 2 ^ (f.eb + f.mb) + (if r ≤ f.maxFin then r else (2 ^ f.eb - 1) * 2 ^ f.mb)
  | .inf n1, .fin n2 _ _ => f.enc false (.inf (n1 != n2))
  | .fin n1 _ _, .inf n2 => f.enc false (.fin (n1 != n2) 0 0)
  | _, _ => f.enc false (freeNan a b)

/-- Integer square root by bits from the top: `k` is the number of bits still to try. -/
def isqrt : Nat → Nat → Nat → Nat
  | 0, _, r => r
  | k + 1, n, r => if (r + 2 ^ k) * (r + 2 ^ k) ≤ n then isqrt k n (r + 2 ^ k) else isqrt k n r

/-- Square root in a format, rounded to nearest even (IEEE 754). -/
def Fmt.sqrt (f : Fmt) (a : Nat) : Nat :=
  match f.dec a with
  | .nan n p => f.qnan n p
  | .inf false => f.enc false (.inf false)
  | .inf true => f.enc false (freeNan a 0)
  | .fin n m e =>
    if m == 0 then f.enc false (.fin n 0 0)
    else if n then f.enc false (freeNan a 0)
    else
      let sh := 2 * (f.mb + 3) + (if e % 2 == 0 then 0 else 1)
      let n' := m * 2 ^ sh
      let r := isqrt (Nat.log2 n' / 2 + 1) n' 0
      f.enc false (.fin false (2 * r + b2n (r * r != n')) ((e - (sh : Int)) / 2 - 1))

/-- The encoding `k` units in the last place above `a` on the line of the format's magnitudes; it stays on a's side of
zero and finite. -/
def Fmt.nudge (f : Fmt) (a : Nat) (k : Int) : Nat :=
  let s := a / 2 ^ (f.eb + f.mb) % 2
  let m : Int := (a % 2 ^ (f.eb + f.mb) : Nat)
  s * 2 ^ (f.eb + f.mb) + (min (max (m + k) 0) (f.maxFin : Int)).toNat

/-- A free choice clamped to within `n` units in the last place. -/
def clampUlp (n : Nat) (i : Int) : Int := max (-(n : Int)) (min (n : Int) i)

/-- Signed or unsigned integer of `w` bits as a value. -/
def intVal (signed : Bool) (w x : Nat) : Int := if signed then sval w x else (x % 2 ^ w : Nat)

/-- Saturate an integer into `w` bits (R237). -/
def satInt (signed : Bool) (w : Nat) (i : Int) : Nat :=
  let lo : Int := if signed then -(2 ^ (w - 1) : Nat) else 0
  let hi : Int := if signed then (2 ^ (w - 1) : Nat) - 1 else (2 ^ w : Nat) - 1
  (BitVec.ofInt w (max lo (min hi i))).toNat

/-- Round a value to an integer, to nearest even. -/
def FV.toInt : FV → Int
  | .fin n m e =>
    let q : Nat := if 0 ≤ e then m * 2 ^ e.toNat else rneShift m (-e).toNat
    if n then -(q : Int) else q
  | _ => 0

/-- Convert a value to an integer type (R237): a NaN gives 0, an infinity saturates. -/
def toIntType (signed : Bool) (w : Nat) : FV → Nat
  | .nan .. => 0
  | .inf n => if n then satInt signed w (-(2 ^ 70 : Nat)) else satInt signed w (2 ^ 70 : Nat)
  | v => satInt signed w v.toInt

/-! ### Reductions and atomics (R192-R194) -/

/-- The format of a floating element type. -/
def EType.fmt : EType → Fmt
  | .bf16 => BF16
  | .fp16 => F16
  | _ => F32

/-- One addend applied to a compensated pair (R193). -/
def fp32cStep (vc : Nat × Nat) (a : Nat) : Nat × Nat :=
  let (v, c) := vc
  let s := F32.add v a
  let t := F32.sub s v
  let e := F32.add (F32.sub v (F32.sub s t)) (F32.sub a t)
  (s, F32.add c e)

/-- A pair (x, y) applied to a compensated pair, then renormalised (R193). -/
def fp32cAdd (v c x y : Nat) : Nat × Nat :=
  let (v, c) := fp32cStep (fp32cStep (v, c) x) y
  let s := F32.add v c
  let c := F32.sub c (F32.sub s v)
  match F32.dec s with
  | .fin .. => (s, c)
  | _ => (s, 0)

/-- Combine one element `x` of the data into element `t` of the target (Table 7-9, R192). -/
def combine (op : ROp) (et : EType) (t x : Nat) : Nat :=
  match et, op with
  | .fp32c, _ =>
    let (v, c) := fp32cAdd (bits t 0 32) (bits t 32 32) (bits x 0 32) (bits x 32 32)
    v + 2 ^ 32 * c
  | .int32, .add | .uint32, .add => (t + x) % 2 ^ 32
  | .int64, .add | .uint64, .add => (t + x) % 2 ^ 64
  | .int32, .min => if sval 32 x < sval 32 t then x else t
  | .int32, .max => if sval 32 t < sval 32 x then x else t
  | .int64, .min => if sval 64 x < sval 64 t then x else t
  | .int64, .max => if sval 64 t < sval 64 x then x else t
  | .uint32, .min | .uint64, .min => min t x
  | .uint32, .max | .uint64, .max => max t x
  | .fp32, .add => F32.add t x
  | .bf16, .add => BF16.add t x
  | .fp16, .add => F16.add t x
  | .fp32, .min => F32.minNum t x
  | .bf16, .min => BF16.minNum t x
  | .fp16, .min => F16.minNum t x
  | .fp32, .max => F32.maxNum t x
  | .bf16, .max => BF16.maxNum t x
  | .fp16, .max => F16.maxNum t x

/-- Combine `n` elements of `w` bits from the low end of two lines. -/
def combineN (op : ROp) (et : EType) (w : Nat) : Nat → Nat → Nat → Nat
  | 0, _, _ => 0
  | n + 1, t, x => combine op et (t % 2 ^ w) (x % 2 ^ w) % 2 ^ w + 2 ^ w * combineN op et w n (t / 2 ^ w) (x / 2 ^ w)

/-- A reduction of a line into a line (R192): every element combined with the element in the same place. -/
def reduceLine (op : ROp) (et : EType) (t x : Line) : Line :=
  BitVec.ofNat 512 (combineN op et (8 * et.bytes) (64 / et.bytes) t.toNat x.toNat)

/-- The new value of an atomic's word (R194). -/
def atomicNew (op : AOp) (et : EType) (old x y : Nat) : Nat :=
  match op with
  | .add => combine .add et old x
  | .min => combine .min et old x
  | .max => combine .max et old x
  | .cas => if old == y then x else old

/-- Bytes in an element, used by `EType.bytes`. -/
def wordMask (n : Nat) : Nat := 2 ^ (8 * n) - 1

/-- An atomic on the word at byte `off` of a line: the line after it, and the word's old value (R194). -/
def atomicLine (op : AOp) (et : EType) (off : Nat) (x y : BitVec 64) (l : Line) : Line × Nat :=
  let w := 8 * et.bytes
  let old := bits l.toNat (8 * off) w
  let new := atomicNew op et old (x.toNat % 2 ^ w) (y.toNat % 2 ^ w) % 2 ^ w
  (BitVec.ofNat 512 (l.toNat - old * 2 ^ (8 * off) + new * 2 ^ (8 * off)), old)

/-- A partial store: the bytes whose mask bit is set are taken from the data (OPERAND of `MEM.STOREP`). -/
def mergeLine (mask : BitVec 64) (old new : Line) : Line :=
  lineOf ((List.range 64).map fun i => if mask.getLsbD i then (lineBytes new).getD i 0 else (lineBytes old).getD i 0)

/-! ### The elementwise functions (R240) -/

/-- A finite encoding `k` units in the last place away: it may reach infinity, and stays on its side of zero. -/
def Fmt.near (f : Fmt) (a : Nat) (k : Int) : Nat :=
  let s := a / 2 ^ (f.eb + f.mb) % 2
  let m : Int := (a % 2 ^ (f.eb + f.mb) : Nat)
  s * 2 ^ (f.eb + f.mb) + (min (max (m + k) 0) ((f.maxFin : Int) + 1)).toNat

/-- RECIP of an FP32 encoding: within 1 ulp; exact specials (R240). -/
def recip32 (x : Nat) : Nat :=
  let y := F32.div 0x3F800000 x
  match F32.dec x, F32.dec y with
  | .fin _ m _, .fin .. => if m == 0 then y else F32.near y (clampUlp 1 (Config.recipUlp x))
  | _, _ => y

/-- RSQRT of an FP32 encoding: within 1 ulp; exact specials (R240). -/
def rsqrt32 (x : Nat) : Nat :=
  match F32.dec x with
  | .nan n p => F32.qnan n p
  | .inf false => 0
  | .inf true => F32.enc false (freeNan x 0)
  | .fin n m e =>
    if m == 0 then F32.enc false (.inf n)
    else if n then F32.enc false (freeNan x 0)
    else
      let odd := e % 2 != 0
      let m' := if odd then 2 * m else m
      let h := (if odd then e - 1 else e) / 2
      let q := 2 ^ 120 / m'
      let r := isqrt 61 q 0
      let y := F32.enc false (.fin false (2 * r + 1) (-61 - h))
      F32.near y (clampUlp 1 (Config.rsqrtUlp x))

/-- ln 2 in units of 2^-256, from its series. -/
def ln2Fix : Nat := ((List.range 256).map fun k => 2 ^ (256 - (k + 1)) / (k + 1)).sum

/-- e^(t/2^256) in units of 2^-256 for 0 ≤ t < 2^256, from its series: `n` further terms. -/
def expSeries (t : Nat) : Nat → Nat → Nat → Nat
  | 0, _, _ => 0
  | n + 1, k, term => term + expSeries t n (k + 1) (term * t / 2 ^ 256 / (k + 1))

/-- EXP of an FP32 encoding: within 2 ulp; exact specials (R240). -/
def exp32 (x : Nat) : Nat :=
  match F32.dec x with
  | .nan n p => F32.qnan n p
  | .inf false => F32.enc false (.inf false)
  | .inf true => 0
  | .fin n m e =>
    if m == 0 then 0x3F800000
    else if 8 < (Nat.log2 m : Int) + e then (if n then 0 else F32.enc false (.inf false))
    else
      let fix : Nat := if -256 ≤ e then m * 2 ^ (e + 256).toNat else m / 2 ^ (-(e + 256)).toNat
      let q := fix / ln2Fix
      let t := fix % ln2Fix
      let (q, t) : Int × Nat := if n then (if t == 0 then (-(q : Int), 0) else (-(q : Int) - 1, ln2Fix - t)) else ((q : Int), t)
      let y := F32.enc false (.fin false (2 * expSeries t 64 0 (2 ^ 256) + 1) (q - 257))
      match F32.dec y with
      | .fin .. => F32.near y (clampUlp 2 (Config.expUlp x))
      | _ => y

/-- b^t as one rounded step (Table 8-13). -/
def pow32 (b t : Nat) : Nat :=
  match F32.dec b with
  | .fin n m e => F32.enc false (.fin (n && t % 2 == 1) (m ^ t) (e * t))
  | .inf n => F32.enc false (.inf (n && t % 2 == 1))
  | .nan .. => F32.enc false (freeNan b t)

/-- sq(x) of Table 8-13. -/
def sq32 (x : Nat) : Nat :=
  match F32.dec x with
  | .fin n m _ => if m == 0 then 0 else if n then Config.sqOpen x % 2 ^ 32 else F32.mul x (rsqrt32 x)
  | .inf false => F32.mul x (rsqrt32 x)
  | _ => Config.sqOpen x % 2 ^ 32

end Sys2Proof.Machine
end

