-- ==== Sys2Proof/Machine/Home.lean ====
section
/-!
DEFINITION. The home slice (R10): where a line stands in its tier, the flash cache, what a request does to a line, the
directory's rounds and transitions (Tables 6-5 to 6-8), pointing of protected lines (R385-R387), and the end of a request.
-/

namespace Sys2Proof.Machine

/-! ### Where a line stands -/

/-- The granule table entry of a store address. -/
def Dev.g? (d : Dev) (a : Nat) : Option GEnt := d.gran.get? (granuleOf a)

/-- Where a line is served from: SRAM, placed DRAM, a valid cache line, or flash (Table 2-2, R33). -/
inductive Place where
  | t0 | t1 | hit | miss
deriving DecidableEq, Repr

/-- Is the line valid in its cache frame? -/
def Dev.lineValid (d : Dev) (a : Nat) : Bool :=
  match d.frames.get? (blockOf a) with
  | some f => f.valid.getLsbD (bits a 6 8)
  | none => false

/-- The place of a line of granule `g`. -/
def Dev.place (d : Dev) (g : GEnt) (a : Nat) : Place :=
  if g.tier == 0 then .t0 else if g.tier == 1 then .t1 else if d.lineValid a then .hit else .miss

/-- The pair state (0x8000:02). -/
def Dev.pairState (d : Dev) : Nat := d.o 0 0x8000 2

/-- The state of an agent (Tables 6-11, 13-?): 0 inactive, 1 active, 2 failed, 3 sweeping. -/
def Dev.agentState (d : Dev) (a : Nat) : Nat := if a < 8 then d.o (256 + a) 0x5100 1 else d.o (a - 8) 0x3030 2

/-- The active agents. -/
def Dev.activeAgents (d : Dev) : List Nat := (List.range 24).filter (fun a => d.agentState a == 1)

/-- Extent `e` is homed here: some granule of it is in the table. -/
def Dev.homed (d : Dev) (e : Nat) : Bool := d.gran.any (fun x => x.1 / 512 == e)

section
variable {s₀ : State}

/-! ### The flash cache (R30-R33) -/

/-- Cache frames of the device: 8·C GiB less the device reserve (and a keeper's table), in frames of 16 KiB (R30, R368). -/
def Dev.frameCount (d : Dev) : Nat :=
  (8 * d.o 0 0x4080 1 - 1 - (b2n (d.kpairs.any fun k => k.2.1 == d.self || k.2.2 == d.self))) * 65536

/-- The set of a block. -/
def Dev.setOf (d : Dev) (block : Nat) : Nat := Config.cacheSet d.key block % (d.frameCount / 16)

/-- Frames that the set of a block still has: sixteen less those retired for this bring-up (Table 18-2). -/
def Dev.ways (d : Dev) (block : Nat) : Nat :=
  max 1 (16 - d.badFrames.countP fun x => x % (d.frameCount / 16) == d.setOf block)

/-- The NAND channels in service. -/
def Dev.nandUp (d : Dev) : List Nat := (List.range 32).filter fun c => !d.bring.nandBad.contains c

/-- A block is programmed on a channel in service of the device's own choosing, which the flash map records (R494). Which one is a free
value (log entry 190). -/
def Run.placeBlock (r : Run s₀) (block : Nat) : Run s₀ :=
  let up := r.d.nandUp
  let (n, r) := r.draw
  r.mod fun d => { d with fmap := d.fmap.set block (up.getD (Config.freeChoice n % max 1 up.length) 0) }

/-- A program of some lines of a block has been read back and matched: they are in flash, with their poison, and those not written since
are clean (R32, R412, R494). When the granule's last line stopped being dirty counts for R35. -/
def Run.programmed (r : Run s₀) (block : Nat) (f : Frame) (mask : BitVec 256) : Run s₀ :=
  let r := r.each ((List.range 256).filter (fun i => mask.getLsbD i)) fun r i =>
    r.setLine .flash (block * 256 + i) (r.line .mem (block * 256 + i))
  (r.placeBlock block).mod fun d => { d with
    frames := d.frames.set block { f with dirty := f.dirty &&& ~~~mask }, progs := d.progs.del block
    dirtyAt := d.dirtyAt.set (block / 128) d.now }

/-- Read the lines of a block that its frame does not hold valid from flash into the frame (R33). -/
def Run.readInvalid (r : Run s₀) (block : Nat) (f : Frame) : Run s₀ :=
  r.each ((List.range 256).filter (fun i => !f.valid.getLsbD i)) fun r i =>
    r.setLine .mem (block * 256 + i) (r.line .flash (block * 256 + i))

/-- Write a dirty frame back whose program the device must have ended by now: its invalid lines are read from flash first (R33), which is
counted as a read that ended at step 0, and the program has matched (log entry 191). -/
def Run.flushBlock (r : Run s₀) (block : Nat) : Run s₀ :=
  match r.d.frames.get? block with
  | none => r
  | some f =>
    let whole := BitVec.allOnes 256
    let r := if f.valid == whole then r else ((r.emit (.nandRead block)).bump 0 0x9030 0x10).readInvalid block f
    (r.programmed block { f with valid := whole } f.dirty).emit (.nandProgram block)

/-- Drop a frame without write-back. -/
def Run.dropFrame (r : Run s₀) (block : Nat) : Run s₀ :=
  (r.clear .mem (block * 16384) ((block + 1) * 16384)).mod fun d =>
    { d with frames := d.frames.del block, progs := d.progs.del block }

/-- The frame of two that leaves first: a cold one, else the least recently used. -/
def olderFrame (x y : Nat × Frame) : Nat × Frame :=
  if x.2.cold && !y.2.cold then x else if y.2.cold && !x.2.cold then y else if y.2.used < x.2.used then y else x

/-- The other frames of a block's set, where its frames may all be in use; else none. -/
def Dev.mates (d : Dev) (block : Nat) : List (Nat × Frame) :=
  if d.frames.length < d.ways block then [] else d.frames.filter fun e => e.1 != block && d.setOf e.1 == d.setOf block

/-- Give a block a frame: where its set holds as many others as it has frames, the victim is a cold clean frame or else the least recently
used clean one (R32). -/
def Run.takeFrame (r : Run s₀) (block : Nat) : Run s₀ :=
  if r.d.frames.has block then r
  else
    let mates := r.d.mates block
    let r :=
      if mates.length < r.d.ways block then r
      else
        let clean := mates.filter (fun e => e.2.dirty == 0)
        match if clean.isEmpty then mates else clean with
        | [] => r
        | v :: vs => let v := vs.foldl olderFrame v; (if v.2.dirty == 0 then r else r.flushBlock v.1).dropFrame v.1
    r.mod fun d => { d with frames := d.frames.set block { used := d.now } }

/-- Start the program of a block's dirty lines (R494). -/
def Run.startProgram (r : Run s₀) (block : Nat) : Run s₀ :=
  match r.d.frames.get? block with
  | none => r
  | some f => if f.dirty == 0 || r.d.progs.has block then r else (r.mod fun d => { d with progs := d.progs.set block f.dirty }).emit (.nandProgram block)

/-- Start to write a dirty frame back (R33): its invalid lines are read from flash first, and the program follows that read. -/
def Run.startBack (r : Run s₀) (block : Nat) : Run s₀ :=
  match r.d.frames.get? block with
  | none => r
  | some f =>
    if f.dirty == 0 || r.d.progs.has block then r
    else if f.valid == BitVec.allOnes 256 then r.startProgram block
    else if r.d.deep.has block then r
    else if r.d.fills.has block then r.mod fun d => { d with fills := d.fills.upd block fun x => { x with wb := true } }
    else (r.mod fun d => { d with fills := d.fills.set block { began := d.now, wb := true } }).emit (.nandRead block)

/-- Keep a frame of a full set clean once `block` is dirty in it (R32): where one clean frame is left, background write-back of the dirty frame
that would leave first starts; where none is, that frame's write-back has ended (log entry 191). -/
def Run.keepClean (r : Run s₀) (block : Nat) : Run s₀ :=
  let mates := r.d.mates block
  if mates.length + 1 < r.d.ways block || r.d.ways block ≤ 1 then r
  else
    let clean := mates.countP fun e => e.2.dirty == 0
    match (mates.filter fun e => e.2.dirty != 0) with
    | [] => r
    | v :: vs =>
      let v := (vs.foldl olderFrame v).1
      if clean == 0 then r.flushBlock v else if clean == 1 then r.startBack v else r

/-- Install every line of a block that its frame does not hold valid, from flash (R33). -/
def Run.installBlock (r : Run s₀) (block : Nat) (dirty : Bool) : Run s₀ :=
  let r := r.takeFrame block
  let f := r.d.frames.getD block {}
  let r := r.readInvalid block f
  let f' : Frame := { f with valid := BitVec.allOnes 256, dirty := if dirty then BitVec.allOnes 256 else f.dirty, used := r.now }
  let r := r.mod fun d => { d with frames := d.frames.set block f' }
  if dirty then r.keepClean block else r

/-- Start a fill of a block (R57: no second fill). -/
def Run.startFill (r : Run s₀) (block : Nat) (classG : Bool) : Run s₀ :=
  if r.d.fills.has block || r.d.deep.has block then r
  else (r.mod fun d => { d with fills := d.fills.set block { began := d.now, classG := classG } }).emit (.nandRead block)

/-- Start the opening of a closed granule (R34). -/
def Run.startOpen (r : Run s₀) (g : Nat) : Run s₀ :=
  if r.d.opening.has g then r else r.mod fun d => { d with opening := d.opening.set g d.now }

/-! ### Reading and writing a line at its home -/

/-- The line as the home tier holds it. -/
def Run.home (r : Run s₀) (a : Nat) : DLine := r.line .mem (lineNo a)

/-- Mark a line of a moving granule as written since its copy (R44). -/
def markMove (m : Tab Move) (a : Nat) : Tab Move := m.upd (granuleOf a) fun x => { x with marked := Marks.add x.marked (bits a 6 15) }

/-- Write a line of a granule of tier `tier`: a T2 line becomes valid and dirty in a frame (R33). -/
def Run.putTier (r : Run s₀) (tier a : Nat) (x : DLine) : Run s₀ :=
  if tier != 2 then r.setLine .mem (lineNo a) x
  else
    let r := ((r.takeFrame (blockOf a)).setLine .mem (lineNo a) x).mod fun d =>
      let f := d.frames.getD (blockOf a) {}
      let one := BitVec.ofNat 256 (2 ^ bits a 6 8)
      { d with
        frames := d.frames.set (blockOf a) { f with valid := f.valid ||| one, dirty := f.dirty ||| one, used := d.now, cold := false }
        progs := d.progs.upd (blockOf a) (fun m => m &&& ~~~one)
        dirtyAt := d.dirtyAt.set (granuleOf a) d.now }
    r.keepClean (blockOf a)

/-- Write a line in its home tier; a moving granule's line is marked (R44). -/
def Run.put (r : Run s₀) (a : Nat) (x : DLine) : Run s₀ :=
  match r.d.g? a with
  | none => r
  | some g =>
    let r := r.putTier g.tier a x
    if g.state == 1 || g.state == 3 then r.mod fun d => { d with moves := markMove d.moves a } else r

/-- The twin ports that are up: role 4 and link up. -/
def Dev.twinPorts (d : Dev) : List Nat := (List.range 16).filter (fun p => d.role p == 4 && d.o p 0x3040 1 == 2)

/-- Send a pointing write of a line in its home slice's pointing stream (R387). -/
def Run.pointSend (r : Run s₀) (a part cls : Nat) (x : DLine) : Run s₀ :=
  let twin := r.d.o 0 0x8000 1
  let agent := 0x1100 + r.d.homeSlice a
  let key := sKey agent twin none
  let port := r.d.twinPorts.headD 14
  let st := r.d.sends.getD key { port := port, lastAck := r.now }
  let h : Hdr := {
    flags := BitVec.ofNat 8 (0x40 + b2n (!r.d.sends.has key))
    sword := plainSword cls, addr := BitVec.ofNat 64 (a / 64 * 64)
    srcdev := BitVec.ofNat 16 r.d.self, dstdev := BitVec.ofNat 16 twin, stream := BitVec.ofNat 32 agent
    seq := BitVec.ofNat 32 st.next, part := BitVec.ofNat 8 part }
  let q : Req := { code := 0x02, h := h, data := [x] }
  let st' : SendS := { st with next := (st.next + 1) % 2 ^ 32, unacked := st.unacked ++ [(st.next, q)], port := port }
  (r.mod fun d => { d with sends := d.sends.set key st' }).flits port 0 q

/-- Is a change of a line of this granule pointed (R385: protected, pair in RESYNC or PAIRED)? -/
def Dev.points (d : Dev) (g : GEnt) : Bool := g.prot && (d.pairState == 1 || d.pairState == 2)

/-- Perform a change of a line: the home tier, then the twin or the exposed map (R385, R386, R396). Answers whether the
line waits for the twin. -/
def Run.change (r : Run s₀) (a : Nat) (x : DLine) (cls : Nat) (k : TKind) (pair : Option Nat := none) : Bool × Run s₀ :=
  match r.d.g? a with
  | none => (false, r)
  | some g =>
    let r := r.put a x
    if r.d.points g then
      let r := r.pointSend a g.part cls x
      if r.d.txns.has (lineNo a) then (false, r) else
      (true, r.mod fun d => { d with txns := d.txns.set (lineNo a) { kind := k, wait := [], began := d.now, pair := pair } })
    else if g.prot then (false, r.mod fun d => { d with exposed := Marks.add d.exposed (granuleOf a) })
    else (false, r)

/-- Would a write turn a clean T2 cache line dirty (R106)? -/
def Dev.dirties (d : Dev) (g : GEnt) (a : Nat) : Bool :=
  g.tier == 2 && !(match d.frames.get? (blockOf a) with | some f => f.dirty.getLsbD (bits a 6 8) | none => false)

/-- A dirty line reaches its home: a change like any other, which no request waits for (R385). Where it turns a clean T2 line
dirty it spends the flash write rate of the granule's partition; having no completion, it is not refused (R106; log entry 54). -/
def Run.putHome (r : Run s₀) (a : Nat) (x : DLine) : Run s₀ :=
  let r := match r.d.g? a with
    | some g => if r.d.dirties g a && 0 < r.d.o g.part 0x6010 6 then
        r.winAdd (winFlashWrite g.part) (rateTime 64 (r.d.o g.part 0x6010 6)) else r
    | none => r
  (r.change a x 1 (.pointing 0 0)).2

/-- Poison a line at its home (R409). -/
def Run.poisonLine (r : Run s₀) (a : Nat) : Run s₀ := r.put a bad

/-- Merge the combining-cache entry of a line into it (R203). -/
def Run.mergeComb (r : Run s₀) (a : Nat) : Run s₀ :=
  match r.d.comb.get? (lineNo a) with
  | none => r
  | some c => (r.mod fun d => { d with comb := d.comb.del (lineNo a) }).put a c.data

/-! ### What an operation does to a line -/

/-- Perform an operation on the line's present value: its completion, the new line where it changes one, the data returned
(R191, R410, R411, Table 6-6). -/
def perform (op : HOp) (cur : DLine) : Compl × Option DLine × DLine :=
  match op with
  | .read => if cur.poison then (Compl.of .poison, none, bad) else (Compl.of .ok, none, cur)
  | .write d => (Compl.of .ok, some (if d.poison then bad else d), bad)
  | .part m d =>
    if cur.poison then (Compl.of .poison, none, bad)
    else if d.poison then (Compl.of .ok, some bad, bad)
    else (Compl.of .ok, some (good (mergeLine m cur.data d.data)), bad)
  | .reduce o t d =>
    if cur.poison then (Compl.of .poison, none, bad)
    else if d.poison then (Compl.of .ok, some bad, bad)
    else (Compl.of .ok, some (good (reduceLine o t cur.data d.data)), bad)
  | .atomic o t off x y =>
    if cur.poison then (Compl.of .poison, none, bad)
    else
      let (l, old) := atomicLine o t off x y cur.data
      (⟨.ok, 0, old⟩, some (good l), bad)

/-- Does the operation need the line's present data? -/
def HOp.needsData : HOp → Bool
  | .write _ => false
  | _ => true

/-- Would the operation change the line (R34)? -/
def HOp.writes : HOp → Bool
  | .read => false
  | _ => true

/-! ### The end of a request -/

/-- A number in a receive stream is performed: the acknowledged prefix grows over it, modulo 2^32 (R136). -/
def Run.performed (r : Run s₀) (strm : Option (Nat × Nat)) : Run s₀ :=
  match strm with
  | none => r
  | some (k, seq) =>
    r.mod fun d => { d with recvs := d.recvs.upd k fun s =>
      let ahead := Marks.add s.ahead seq
      let n := (List.range (ahead.length + 1)).foldl (fun n _ => if ahead.contains n then (n + 1) % 2 ^ 32 else n) s.done
      { s with done := n, ahead := ahead.filter (fun x => !seqBefore x n), begun := s.begun || n != s.done } }

/-- Answer a request with a status, or with the data of its lines. A load answers one response data flit a line where it
ends `OK` or `POISON`; everything else is one completion flit (R189). -/
def Run.reply (r : Run s₀) (dest : Reply) (load : Bool) (c : Compl) (lines : List DLine) : Run s₀ :=
  match dest with
  | .port p dev path id =>
    if load && (c.status == .ok || c.status == .poison) then
      r.each lines.zipIdx fun r x => r.dataPort p dev path id x.2 x.1
    else r.completePort p dev path id c
  | .forwarded p dev path id epoch home =>
    r.completePort p dev path id (if c.status == .moved then c else ⟨.moved, movedWord epoch home, 0⟩)
  | .pair n => r.updPair n fun x => { x with sent := x.sent - 1, worst := some (match x.worst with | some w => w.worse c | none => c) }
  | .cast n => r.mod fun d => { d with castOps := d.castOps.upd n fun x => { x with left := x.left - 1, stats := c :: x.stats } }
  | .hart h => r.mod fun d => { d with harts := d.harts.set h { d.harts.getD h {} with pend := none } }
  | _ => r

/-- Is every earlier request of the same stream, or of the same on-die source, performed (R145)? `job` is the number of the request
that credits, `since` when it began here. -/
def Dev.allBefore (d : Dev) (x : Late) : Bool :=
  match x.strm with
  | some (k, seq) => match d.recvs.get? k with
    | some s => s.done == seq || seqBefore seq s.done
    | none => true
  | none =>
    !(d.jobs.any fun j => j.1 < x.job && j.2.src == x.src && j.2.strm.isNone)
      && !(d.fents.any fun e => e.2.reqs.any fun q => match q with
        | .port p _ h _ t => t ≤ x.since && Src.ident p (bits h.stream.toNat 0 7) == x.src
        | .pair _ => false)

/-- A credit is made, or waits for the requests before its own (R145). -/
def Run.creditBy (r : Run s₀) (x : Late) : Run s₀ :=
  if r.d.allBefore x then r.addCtr x.ctr x.amt else r.mod fun d => { d with lates := d.lates ++ [x] }

/-- The counter credit of a performed request (R144, R145, R206). -/
def Run.credit (r : Run s₀) (id : Nat) (j : Job) (bytes : Nat) : Run s₀ :=
  match j.ctr with
  | none => r
  | some n =>
    let x (amt : Nat) : Late := { src := j.src, strm := j.strm, job := id, ctr := n, amt := BitVec.ofNat 64 amt, since := j.began }
    match (r.d.ctr n).mode with
    | 0 => if bytes == 0 then r else r.creditBy (x (bytes * j.reduces))
    | 1 => if j.unit then r.creditBy (x j.reduces) else r
    | _ => r

/-- Bytes an operation code performs on one line. -/
def opBytes (op : HOp) : Nat :=
  match op with
  | .part m _ => ((List.range 64).filter (fun i => m.getLsbD i)).length
  | .atomic _ t _ _ _ => t.bytes
  | _ => 64

/-- Every line of a job has ended: its completion by R492, its counter credit, its place in the stream, and its forward
record where a forwarder sent it (R378). -/
def Run.finishJob (r : Run s₀) (id : Nat) : Run s₀ :=
  match r.d.jobs.get? id with
  | none => r
  | some j =>
    if j.left != 0 then r
    else
      let c : Compl := (j.res.map LineRes.st).foldl Compl.worse (Compl.of .ok)
      let c : Compl := { c with value := (j.res.map fun x : LineRes => x.st.value).foldl (· + ·) 0 }
      let lines := (List.range j.lines).map fun i => ((j.res.find? (fun x => x.idx == i)).map (·.data)).getD bad
      let r := r.mod fun d => { d with
        jobs := d.jobs.del id
        fences := d.fences.map fun f => { f with jobs := f.jobs.filter (· != id) }
        revokes := d.revokes.map fun e => (e.1, { e.2 with jobs := e.2.jobs.filter (· != id) }) }
      let bytes : Nat := ((j.res.filter (fun x : LineRes => x.st.status == .ok)).map fun x : LineRes => x.st.word).sum
      let c : Compl := if c.status == .ok then { c with word := 0 } else c
      let r := match j.src with
        | .remote _ dev ag =>
          if c.status == Status.denied && j.code == 0x02 && (ag == 0x1000 || ag / 8 == 0x80) then
            r.error (mkErr 0x14 3 0 (r.d.homeSlice j.addr) j.part j.addr dev (j.part.getD 0))
          else r
        | _ => r
      let r := r.credit id j bytes
      let r := match j.fwd with
        | some (dev, agent, reqid) => r.mod fun d => { d with fwds := ⟨dev, agent, reqid, c, extentOf j.addr, d.now⟩ :: d.fwds }
        | none => r
      let r := if c.status == Status.nadm || !j.reply.whole then r else r.grantReq j.src (j.part.getD 0)
      (r.reply j.reply (j.code == 0x01) c lines).performed j.strm

/-- Line `idx` of job `id` has ended. `bytes` is what it performed. -/
def Run.lineDone (r : Run s₀) (id idx : Nat) (c : Compl) (data : DLine) (bytes : Nat) : Run s₀ :=
  let c := if c.status == .ok then { c with word := bytes } else c
  (r.mod fun d => { d with jobs := d.jobs.upd id fun j =>
    { j with left := j.left - 1, res := ⟨idx, c, data⟩ :: j.res } }).finishJob id

/-- Perform an operation whose base value is known, for line `idx` of job `id`: change, pointing, result. -/
def Run.performAt (r : Run s₀) (id idx a : Nat) (op : HOp) (base : DLine) (cls : Nat) : Run s₀ :=
  match perform op base with
  | (c, none, data) => r.lineDone id idx c data (if c.status == .ok then opBytes op else 0)
  | (c, some x, data) =>
    let (waits, r) := r.change a x cls (.pointing id idx)
    if waits then
      r.mod fun d => { d with jobs := d.jobs.upd id fun j => { j with res := ⟨idx, { c with word := opBytes op }, data⟩ :: j.res } }
    else r.lineDone id idx c data (opBytes op)

/-- A read of line `idx` of job `id` that brings an owner's data home ends when that change does (R386). -/
def Run.readAt (r : Run s₀) (id idx a : Nat) (x : DLine) (cls : Nat) : Run s₀ :=
  let (waits, r) := r.change a x cls (.pointing id idx)
  if waits then r.mod fun d => { d with jobs := d.jobs.upd id fun j => { j with res := ⟨idx, { Compl.of .ok with word := 64 }, x⟩ :: j.res } }
  else r.performAt id idx a .read x cls

/-! ### Agents' copies (Tables 6-2, 6-5) -/

/-- Key of a cluster's line. -/
def l2Key (k line : Nat) : Nat := line * 8 + k

/-- What an agent's copy in state `st` does on a snoop (Table 6-5): the new state, and whether it sends its data.
Snoops: 0x28 SHARE, 0x29 INV, 0x2A CLEAN, 0x2B COPY. -/
def snoopStep (op : Nat) (backup : Bool) (st : LState) : Option LState × Bool :=
  match op, st with
  | 0x28, .m => (some .o, true)
  | 0x28, .o => (some .o, true)
  | 0x28, .e => (some .s, false)
  | 0x28, .s => (some .s, false)
  | 0x29, .m => (none, true)
  | 0x29, .o => (none, true)
  | 0x29, .e => (none, false)
  | 0x29, .s => (none, backup)
  | 0x2A, .m => (some .e, true)
  | 0x2A, .o => (some .s, true)
  | 0x2A, x => (some x, false)
  | _, .s => (some .s, true)
  | _, x => (some x, false)

/-- The holders an entry names. -/
def DirE.named (e : DirE) : List Nat := [e.p0, e.p1, e.p2].filter (· != 31)

/-- Add a holder; with the three pointers in use, set OVF and keep them (R163). -/
def DirE.add (e : DirE) (a : Nat) : DirE :=
  if e.named.contains a then e
  else
    let e := { e with cnt := e.cnt + 1 }
    if e.p0 == 31 then { e with p0 := a } else if e.p1 == 31 then { e with p1 := a } else if e.p2 == 31 then { e with p2 := a }
    else { e with ovf := true }

/-- Remove a holder: clear its pointer if it is named; CNT − 1 (Table 6-6). -/
def DirE.drop (e : DirE) (a : Nat) : DirE :=
  let e := { e with cnt := e.cnt - 1 }
  if e.p0 == a then { e with p0 := 31 } else if e.p1 == a then { e with p1 := 31 } else if e.p2 == a then { e with p2 := 31 } else e

/-- Was the line held in DX or DO, in a T2 granule? -/
def Dev.heldX (d : Dev) (line : Nat) : Bool :=
  (d.dir.any fun e => e.1 == line && e.2.st != .ds) && (match d.g? (line * 64) with | some g => g.tier == 2 | none => false)

/-- Store an entry, or free it when CNT is 0 (R162). When a T2 granule's line was last held in DX or DO counts for R35. -/
def Run.setDir (r : Run s₀) (line : Nat) (e : Option DirE) : Run s₀ :=
  let r := if r.d.heldX line then r.mod fun d => { d with dirtyAt := d.dirtyAt.set (granuleOf (line * 64)) d.now } else r
  r.mod fun d => { d with dir := match e with
    | some e => if e.cnt == 0 then d.dir.del line else d.dir.set line { e with used := d.now }
    | none => d.dir.del line }

/-- One holder in DX. -/
def dx1 (a : Nat) (proxy : Bool) : DirE := { st := .dx, p0 := a, cnt := 1, proxy := proxy }

/-- The snoops of a round: agent, operation, backup flag. Failed agents are sent none (R176). `x` is the requester, who is not
snooped but where its own shared copy backs the owner's data (R167: every named sharer, or every active agent but the owner). -/
def Dev.round (d : Dev) (e : DirE) (x : Nat) (op : Nat) (backups : Bool) : List (Nat × Nat × Bool) :=
  let ok (a : Nat) : Bool := (backups || a != x) && d.agentState a == 1
  let everyone := d.activeAgents.filter fun a => backups || a != x
  match op with
  | 0x29 =>
    if e.ovf then everyone.map fun a => (a, 0x29, backups && !(e.st == .dO && a == e.p0))
    else (e.named.filter ok).map fun a => (a, 0x29, backups && e.st == .dO && a != e.p0)
  | _ =>
    let first := if ok e.p0 then [(e.p0, op, false)] else []
    let rest := if !backups then []
      else if e.ovf then (everyone.filter (· != e.p0)).map fun a => (a, 0x2B, true)
      else ([e.p1, e.p2].filter (fun a => a != 31 && ok a)).map fun a => (a, 0x2B, true)
    first ++ rest

/-- One agent's answer to a snoop of the open transaction on `line`: an owner's data, or the first backup data (R167). -/
def Run.answer (r : Run s₀) (line agent : Nat) (data : Option DLine) : Run s₀ :=
  match r.d.txns.get? line with
  | none => r
  | some t =>
    let isOwner : Bool := match r.d.dir.get? line with
      | some e => e.p0 == agent && e.st != .ds
      | none => false
    let t := { t with wait := t.wait.filter (· != agent) }
    let t := match data with
      | none => t
      | some x => if isOwner then { t with owner := some x } else if t.backup.isNone then { t with backup := some x } else t
    r.mod fun d => { d with txns := d.txns.set line t }

/-- A cluster answers a snoop from its L2 at once (Table 6-5). -/
def Run.clusterSnoop (r : Run s₀) (line k op : Nat) (backup : Bool) : Run s₀ :=
  match r.d.l2.get? (l2Key k line) with
  | none => r.answer line k none
  | some c =>
    let (st, sends) := snoopStep op backup c.st
    let r := r.mod fun d => { d with l2 := match st with
      | some st => d.l2.set (l2Key k line) { c with st := st }
      | none => d.l2.del (l2Key k line) }
    let held := match r.d.txns.get? line with | some t => t.wasM | none => false
    let r := r.answer line k (if sends then some (good c.data) else none)
    if c.st == .m && !held then
      r.mod fun d => { d with txns := d.txns.upd line fun t => { t with wasM := true } }
    else r

/-- Open a transaction on a line and send its round (R170): clusters answer at once, port agents by `RSP`. -/
def Run.openTxn (r : Run s₀) (line : Nat) (k : TKind) (round : List (Nat × Nat × Bool)) (op : Nat) (pair : Option Nat := none)
    (src : Src := .plinth) : Run s₀ :=
  let t : Txn := { kind := k, wait := round.map (·.1), began := r.now, pair := pair, op := op, src := src }
  let r := r.mod fun d => { d with txns := d.txns.set line t }
  let r := match r.d.dir.get? line with
    | some e => if e.ovf && round.any (fun s => s.2.1 == 0x29 || s.2.2) then r.bump (r.d.homeSlice (line * 64)) 0x5030 3 else r
    | none => r
  r.each round fun r s =>
    if s.1 < 8 then r.clusterSnoop line s.1 s.2.1 s.2.2 else r.wire (s.1 - 8) (.snoop (s.1 - 8) s.2.1 (line * 64) s.2.2) 1 (some 1)

/-! ### The home of a line: here, or another device's for a proxy entry (R164) -/

/-- The home device and the partition of a remote line, by the cached maquette entry. -/
def Dev.remoteOf (d : Dev) (line : Nat) : Nat × Nat :=
  match d.maq.get? (extentOf (line * 64)) with
  | some c => (c.entry.home.toNat, c.entry.part.toNat)
  | none => (0, 0)

/-- The source in whose stream an agent's dirty line goes to its remote home where no request of the agent's carries it: the
cluster's own; the plinth's for an agent on a port, whose snoop responses name no requester identity (R131; log entry 177). -/
def agentSrc (ag : Nat) : Src := if ag < 8 then .cluster ag else .plinth

/-- Write a line home: the home tier, or the remote home of a proxy line by a class L remote store (R164). -/
def Run.writeHome (r : Run s₀) (src : Src) (line : Nat) (proxy : Bool) (x : DLine) : Run s₀ :=
  if proxy then
    let (dst, part) := r.d.remoteOf line
    r.sendOrWait src dst { code := 0x02, h := { sword := plainSword 1, addr := BitVec.ofNat 64 (line * 64) }, data := [x] } (.wb line) part
  else r.putHome (line * 64) x

/-- Is a write-back of a remote line on its way to its home? -/
def Dev.wbPending (d : Dev) (line : Nat) : Bool :=
  let here (q : Req) : Bool := q.code == 0x02 && lineNo q.h.a == line
  let wb (x : Reply) : Bool := match x with | .wb _ => true | .writeback _ => true | .hart _ => true | _ => false
  d.origs.any (fun o => wb o.2.reply && here o.2.req) || d.after.any (fun o => wb o.reply && here o.req)

/-- The line is poisoned because agent `f` failed (Table 6-8, R178): at its home, here or elsewhere (R164); an open transaction
on a proxy line then answers `POISON` (R180). -/
def Run.agentPoison (r : Run s₀) (line f : Nat) (e : DirE) : Run s₀ :=
  let a := line * 64
  let word := dirWord e (r.d.txns.has line)
  let r := if e.proxy then (r.writeHome .plinth line true bad).mod fun d => { d with txns := d.txns.upd line fun t => { t with mem := some bad } }
    else r.poisonLine a
  let r := (r.setDir line none).bump (r.d.homeSlice a) 0x5030 6
  r.error { mkErr 0x0B 2 0 (r.d.homeSlice a) ((r.d.g? a).map (·.part)) a word 0 with agent := f }

/-- Settle what a failed agent leaves behind on a line that needs no round (Table 6-8): a sharer is cleared, a DX line is
poisoned. A failed owner in DO is settled by the round of the request itself (R177). -/
def Run.settle (r : Run s₀) (line : Nat) : Run s₀ :=
  match r.d.dir.get? line with
  | none => r
  | some e =>
    let gone (a : Nat) : Bool := a != 31 && 2 ≤ r.d.agentState a
    if e.st == .dx then (if gone e.p0 then r.agentPoison line e.p0 e else r)
    else
      let bad := (if e.st == .ds then e.named else [e.p1, e.p2]).filter gone
      if bad.isEmpty then r else r.setDir line (some (bad.foldl DirE.drop e))

/-- Is an entry's DO owner failed? -/
def Dev.ownerFailed (d : Dev) (e : DirE) : Bool := e.st == .dO && 2 ≤ d.agentState e.p0

/-! ### Grants -/

/-- Give a line to an agent (R166): a core cluster's L2, or a grant on its port. `st` as in OPERAND[2:0] of `GNT`. -/
def Run.grantTo (r : Run s₀) (agent line : Nat) (st : LState) (reply : Reply) (data : Option Line) : Run s₀ :=
  if agent < 8 then
    r.mod fun d =>
      let old := ((d.l2.get? (l2Key agent line)).map (·.data)).getD 0
      { d with l2 := d.l2.set (l2Key agent line) ⟨st, data.getD old⟩ }
  else
    let code := match st with | .s => 1 | .e => 2 | .o => 3 | .m => 4
    match reply with
    | .port p _ _ id => r.wire p (.grant p id code (line * 64) data) (if data.isSome then 2 else 1) (some 1)
    | _ => r

/-- A coherence request ends with a status and no grant (R178, R410); what a core sees is Table 13-1. -/
def Run.cohStatus (r : Run s₀) (reply : Reply) (c : Compl) : Run s₀ :=
  match reply with
  | .port p dev path id => r.completePort p dev path id c
  | .hart h =>
    match (r.d.harts.getD h {}).pend with
    | none => r
    | some x =>
      let fault (r : Run s₀) (cause : Nat) : Run s₀ :=
        (r.mod fun d => { d with harts := d.harts.set h { d.harts.getD h {} with pend := none, credit := none, cause := some (cause, x.pa) } }).emit
          (.hartFault h cause x.pa)
      match c.status with
      | .poison | .lost | .indet => fault (r.setO (256 + h / 4) 0x5100 5 (c.status.code + 256 * h)) 19
      | .fault | .denied | .moved => fault r (if x.kind == 0 then 5 else if x.kind == 1 then 1 else 7)
      | _ => r
  | _ => r

/-! ### The end of a round (Table 6-6) -/

/-- Memory for a transaction: the home tier, or the remote home of a proxy line (R164). -/
def Run.txnMem (r : Run s₀) (line : Nat) (t : Txn) (proxy : Bool) : Option DLine :=
  if proxy then t.mem else some (r.home (line * 64))

/-- Ask the remote home of a proxy line for it: a class L remote load in the requester's stream and partition (R131, R164). It
waits for write-backs of the line that are on their way. -/
def Run.askProxy (r : Run s₀) (line part : Nat) (src : Src) : Run s₀ :=
  if r.d.wbPending line then r
  else
    let r := r.mod fun d => { d with txns := d.txns.upd line fun t => { t with asked := true } }
    r.sendOrWait src (r.d.remoteOf line).1 { code := 0x01, h := { sword := plainSword 1, addr := BitVec.ofNat 64 (line * 64) } } (.proxy line) part

/-- What a round returned as the line's data: the owner's, else the first backup, else none. -/
def Txn.got (t : Txn) : Option DLine := match t.owner with | some x => some x | none => t.backup

/-- The new entry and data of a finished round for an agent's request, Table 6-6: the entry, the state granted, the data
(`none`: no data wanted), what is written home. `m` is memory. -/
structure CohEnd where
  entry : Option DirE
  state : LState
  data  : Option DLine
  home  : Option DLine := none
  dead  : Option Nat := none

/-- The end of an `RDS` of agent `a` on entry `e` (Table 6-6, Table 6-8). `egrant` is the E grant setting (R169). -/
def cohRds (e : Option DirE) (a : Nat) (egrant proxy : Bool) (t : Txn) (failedOwner : Bool) (m : DLine) : CohEnd :=
  match e with
  | none => { entry := some (if egrant then dx1 a proxy else { dx1 a proxy with st := .ds })
              state := if egrant then .e else .s, data := some m }
  | some e =>
    match e.st with
    | .ds => { entry := some (e.add a), state := .s, data := some m }
    | .dx =>
      match t.owner with
      | some x => { entry := some ({ e with st := .dO }.add a), state := .s, data := some x }
      | none => { entry := some ({ e with st := .ds }.add a), state := .s, data := some m }
    | .dO =>
      if failedOwner then
        match t.got with
        | some x => { entry := some ({ e.drop e.p0 with st := .ds }.add a), state := .s, data := some x, home := some x }
        | none => { entry := none, state := .s, data := some bad, dead := some e.p0 }
      else { entry := some (e.add a), state := .s, data := some (t.got.getD m) }

/-- The end of an `RDX` of agent `a`: every other copy is gone, `a` gets M with the latest data. -/
def cohRdx (e : Option DirE) (a : Nat) (proxy : Bool) (t : Txn) (m : DLine) : CohEnd :=
  let base := match e with
    | some e =>
      match e.st with
      | .ds => some m
      | .dx => some (t.owner.getD m)
      | .dO => t.got
    | none => some m
  match base with
  | some x => { entry := some (dx1 a proxy), state := .m, data := some x }
  | none => { entry := none, state := .m, data := some bad, dead := e.map (·.p0) }

/-- What remains of a line whose requester failed during its round: no grant (R159, R176). The round's snoops have had their
effect; dirty data that came back is written home, and an owner lost with its only data poisons the line (Table 6-8). -/
def cohOrphan (e : Option DirE) (op : CohOp) (a : Nat) (t : Txn) (failedOwner : Bool) : CohEnd :=
  match e with
  | none => { entry := none, state := .s, data := none }
  | some e =>
    let gone (e : DirE) : Option DirE := some (if e.named.contains a then e.drop a else e)
    match op, e.st with
    | .rds, .ds => { entry := gone e, state := .s, data := none }
    | .rds, .dx => { entry := some { e with st := if t.owner.isSome then .dO else .ds }, state := .s, data := none }
    | .rds, .dO =>
      if failedOwner then
        match t.got with
        | some x => { entry := some { e.drop e.p0 with st := .ds }, state := .s, data := none, home := some x }
        | none => { entry := none, state := .s, data := none, dead := some e.p0 }
      else { entry := gone e, state := .s, data := none }
    | _, .ds => { entry := none, state := .s, data := none }
    | _, .dx => { entry := none, state := .s, data := none, home := t.owner }
    | _, .dO =>
      match t.got with
      | some x => { entry := none, state := .s, data := none, home := some x }
      | none => { entry := none, state := .s, data := none, dead := some e.p0 }

/-- Close the open transaction on a line whose round is answered, by its kind (R170). -/
def Run.closeTxn (r : Run s₀) (line : Nat) : Run s₀ :=
  match r.d.txns.get? line with
  | none => r
  | some t =>
    if !t.wait.isEmpty then r
    else
      let r := if t.failed.isEmpty then r else r.settle line
      let a := line * 64
      let e := r.d.dir.get? line
      let t := (r.d.txns.get? line).getD t
      let proxy := match e with | some e => e.proxy | none => (r.d.g? a).isNone
      let shut (r : Run s₀) : Run s₀ := r.mod fun d => { d with txns := d.txns.del line }
      let failedOwner := match e with | some e => r.d.ownerFailed e | none => false
      match t.kind with
      | .pointing _ _ => r
      | .coh op ag reply part =>
        let needMem := match op with
          | .upg => false
          | _ => t.owner.isNone && t.backup.isNone && !(failedOwner)
        if r.d.agentState ag != 1 then
          let r := shut r
          let ce := cohOrphan e op ag t failedOwner
          match ce.dead, e with
          | some f, some e => r.agentPoison line f e
          | _, _ => (match ce.home with | some x => r.writeHome (agentSrc ag) line proxy x | none => r).setDir line ce.entry
        else if proxy && needMem && t.mem.isNone then (if t.asked then r else r.askProxy line part t.src)
        else
          let m := (r.txnMem line t proxy).getD bad
          let r := shut r
          let ce : CohEnd := match op with
            | .rds => cohRds e ag (ag < 8 || r.d.egrant.getD (ag - 8) 1 == 1) proxy t failedOwner m
            | .rdx => cohRdx e ag proxy t m
            | .upg => { entry := some (dx1 ag proxy), state := .m, data := none }
          match ce.dead, e with
          | some f, some e => ((r.agentPoison line f e)).cohStatus reply (Compl.of .poison)
          | _, _ =>
            let r := match ce.home with | some x => r.writeHome t.src line proxy x | none => r
            match ce.data with
            | some x =>
              if x.poison then
                (r.setDir line (match op with | .rdx => none | _ => e)).cohStatus reply (Compl.of .poison)
              else (r.setDir line ce.entry).grantTo ag line ce.state reply (some x.data)
            | none => (r.setDir line ce.entry).grantTo ag line ce.state reply none
      | .line job idx op =>
        let cls := match r.d.jobs.get? job with | some j => j.cls | none => 1
        let r := shut r
        match e, op with
        | none, _ => r.performAt job idx a op (r.home a) cls
        | some e, .read =>
          match e.st with
          | .ds => r.performAt job idx a .read (r.home a) cls
          | .dx =>
            match t.owner with
            | some x => r.readAt job idx a x cls
            | none => r.performAt job idx a .read (r.home a) cls
          | .dO =>
            match t.got with
            | some x =>
              let e' := if failedOwner then e.drop e.p0 else e
              (r.setDir line (some { e' with st := .ds })).readAt job idx a x cls
            | none => (r.agentPoison line e.p0 e).performAt job idx a .read bad cls
        | some e, op =>
          let base := match e.st with
            | .ds => some (r.home a)
            | .dx => some (t.owner.getD (r.home a))
            | .dO => t.got
          match base with
          | some x =>
            let r := r.setDir line none
            let r := if op.needsData && (t.owner.isSome || e.st == .dO) then r.put a x else r
            r.performAt job idx a op x cls
          | none =>
            if op.needsData then (r.agentPoison line e.p0 e).performAt job idx a op bad cls
            else (r.setDir line none).performAt job idx a op bad cls
      | .ready op =>
        let r := shut r
        let r := match op, t.pair with
          | .read, some n => r.mod fun d => { d with readied := (n, line) :: d.readied }
          | _, _ => r
        match e with
        | none => r
        | some e =>
          match op with
          | .read =>
            match e.st with
            | .ds => r
            | .dx => match t.owner with | some x => r.putHome a x | none => r
            | .dO =>
              match t.got with
              | some x =>
                let e' := if failedOwner then e.drop e.p0 else e
                (r.putHome a x).setDir line (some { e' with st := .ds })
              | none => r.agentPoison line e.p0 e
          | _ =>
            let r := match e.st with
              | .ds => r
              | .dx => match t.owner with | some x => r.putHome a x | none => r
              | .dO => match t.got with | some x => r.putHome a x | none => r.agentPoison line e.p0 e
            r.setDir line none
      | .evict counted =>
        let r := shut r
        let r := match e with
          | none => r
          | some e => match t.got with
            | some x => if e.st == DState.ds then r else (r.writeHome (agentSrc e.p0) line proxy x).setDir line none
            | none => if failedOwner then r.agentPoison line e.p0 e else r.setDir line none
        let r := r.setDir line none
        if counted then r.bump (r.d.homeSlice a) 0x5030 4 else r
      | .patina unit bytes row =>
        let r := shut r
        let sev (r : Run s₀) (n : Nat) : Run s₀ :=
          r.error { mkErr (if unit == 0 then 3 else 5) n unit (r.d.homeSlice a) ((r.d.g? a).map (·.part)) a bytes row with d2 := 1 }
        match e with
        | none => sev (r.poisonLine a) 2
        | some e =>
          match e.st with
          | .dx => match t.owner with
            | some x => (sev (r.putHome a x) 1).bump 0 0x9010 4
            | none =>
              let r := r.mod fun d => { d with l2 := d.l2.del (l2Key e.p0 line) }
              let r := if 8 ≤ e.p0 then r.wire (e.p0 - 8) (.snoop (e.p0 - 8) 0x29 a false) 1 (some 1) else r
              sev ((r.poisonLine a).setDir line none) 2
          | .ds => match t.backup with
            | some x => (sev (r.putHome a x) 1).bump 0 0x9010 4
            | none => sev (r.poisonLine a) 2
          | .dO => match t.got with
            | some x =>
              let e' := if failedOwner then e.drop e.p0 else e
              (sev ((r.putHome a x).setDir line (some { e' with st := .ds })) 1).bump 0 0x9010 4
            | none => sev ((r.poisonLine a).setDir line none) 2
      | .region n drop =>
        let r := shut r
        match e with
        | none => r
        | some e =>
          let x := if e.st == DState.ds then none else t.got
          let r := r.setDir line (if drop then none else if e.st == DState.dO then some { (if failedOwner then e.drop e.p0 else e) with st := .ds } else some e)
          match x with
          | none => if e.st == DState.dO && failedOwner then r.agentPoison line e.p0 e else r
          | some x =>
            let (dst, part) := r.d.remoteOf line
            let r := if n < 1024 then r.updPair n fun p => { p with sent := p.sent + 1, jobs := line :: p.jobs } else r
            r.sendOrWait (if n < 1024 then .pair n else .cluster ((n - 1024) / 4)) dst
              { code := 0x02, h := { sword := plainSword 1, addr := BitVec.ofNat 64 a }, data := [x] }
              (if n < 1024 then .writeback n else .hart (n - 1024)) part
      | .settle f =>
        let r := shut r
        match e with
        | none => r
        | some e => match t.got with
          | some x => (r.writeHome (agentSrc f) line proxy x).setDir line (some { e.drop f with st := .ds })
          | none => r.agentPoison line f e

/-- Open a round and close it at once if every agent asked has answered. -/
def Run.roundOf (r : Run s₀) (line : Nat) (k : TKind) (round : List (Nat × Nat × Bool)) (op : Nat) (pair : Option Nat := none)
    (src : Src := .plinth) : Run s₀ :=
  (r.openTxn line k round op pair src).closeTxn line

/-- How long after its start a transaction ends at worst (R93, R164, R386): a pointing round, or a snoop round, with the bound of a
remote request where the remote home stands in for memory. -/
def Dev.txnBound (d : Dev) (line : Nat) (t : Txn) : Nat :=
  match t.kind with
  | .pointing _ _ => ns 1200
  | _ => if (d.g? (line * 64)).isNone then ns 2950 + ns 1600 * d.maxStages (d.remoteOf line).1 else ns 350

/-- The snoops that an uncached operation needs on an entry (Table 6-6): none for a read of a DS line. -/
def Dev.opRound (d : Dev) (e : DirE) (op : HOp) : Option (List (Nat × Nat × Bool) × Nat) :=
  match op, e.st with
  | .read, .ds => none
  | .read, .dx => some (d.round e 31 0x2A false, 0x2A)
  | .read, .dO => some (d.round e 31 0x2A true, 0x2A)
  | .write _, _ => some (d.round e 31 0x29 false, 0x29)
  | _, .dO => some (d.round e 31 0x29 true, 0x29)
  | _, _ => some (d.round e 31 0x29 false, 0x29)

end

end Sys2Proof.Machine
end

