-- ==== Sys2Proof/Machine/Serve.lean ====
section
/-!
DEFINITION. Serving one line at its home slice: the checks before anything is performed, in the order of the rules (revoked,
owned, key, LOST, deadline, closed, open line, quiesced, flash and dirty windows, lane), the findings of chapter 17's checks,
and the service itself.
-/

namespace Sys2Proof.Machine

/-- What a request brings to the home slice. `dl` is the remaining budget in picoseconds when DL is set; `port` is the port
whose per-port B rate applies, none on the engine path (R103). `owned` answers `FAULT` for a range not owned (R344). -/
structure Ctx where
  q      : Asked
  dl     : Option Nat := none
  nofill : Bool := false
  port   : Option Nat := none
  notOwned : Status := .denied
  /-- a plinth request: not checked against PART (R344) -/
  plinth : Bool := false
  /-- the home lanes are asked: not by a retry whose credit booked them (R109) -/
  lanes  : Bool := true
  /-- the flash read window is asked: not by a retry whose credit booked it (R105, R109) -/
  flash  : Bool := true
  /-- a credited retry: a state of Table 4-7 that it finds again has only its remaining bound as hint (R112) -/
  again  : Bool := false
  /-- what a refusal books at the port gates that it passes on its way out (R108) -/
  books  : List (Nat × Nat) := []
  /-- how many clean T2 lines the request makes dirty, up to the line checked (R106) -/
  dirt   : Nat := 1
  /-- an agent's request for a copy: it changes no line yet, so it spends nothing of the flash write rate (R106) -/
  coh    : Bool := false
  /-- lines that are not this device's: extent and their completion (R377) -/
  moved  : List (Nat × Compl) := []
  /-- extents whose lines the caller sends to their homes -/
  away   : List Nat := []
deriving DecidableEq, Repr

/-- The verdict on one line before anything is performed. `opening` starts the opening of its granule, `fill` a class G fill
of its block. -/
inductive LineChk where
  | go
  | ends (c : Compl)
  | late (word : Nat) (fill opening : Bool)
  | nadm (hint reason : Nat) (opening : Bool)
deriving DecidableEq, Repr

/-- Open bound of R34. -/
def openBound : Nat := us 80

/-- Does the partition hold a flash key, so that its T2 data can be served (R465)? -/
def Dev.keyOk (d : Dev) (part : Nat) : Bool := d.keys.has part

/-- The B rate that applies to a request (R103). -/
def Dev.bRate (d : Dev) (part : Nat) (port : Option Nat) : Nat :=
  match port with
  | none => d.o part 0x6010 3
  | some _ => d.o part 0x6010 4

/-- The home bound of R55 for a line of granule `g` in place `pl`; none for class G. -/
def Dev.homeBound (d : Dev) (g : GEnt) (pl : Place) (wr : Bool) (q : Asked) (port : Option Nat) : Option Nat :=
  if q.cls == 3 then none
  else if q.cls == 2 then
    if pl == .miss then some (ns 149800)
    else if wr && g.prot then some (ns 5000 + rateTime 64 (max 1 (min (d.bRate q.part port) (2 * d.o q.part 0x6010 4))))
    else some (ns 3800 + rateTime 64 (max 1 (d.bRate q.part port)))
  else if pl == .miss then some (ns 149800)
  else if pl == .t0 && !(wr && g.prot) && g.state == 0 then some (ns 800)
  else some (ns 1800)

/-- The wait allowance of an L request at the home lane (Table 4-4 as R91 and R389 adjust it). -/
def lAllow (g : GEnt) (pl : Place) (wr : Bool) : Nat :=
  let moving := g.state == 1 || g.state == 3
  if wr && g.prot then (if moving then ns 100 else ns 350)
  else if pl == .t0 then ns 180
  else if moving then ns 350 else ns 600

/-- The gate of a line's tier at its home slice. -/
def Dev.homeGate (d : Dev) (pl : Place) (a : Nat) : Gate :=
  if pl == .t0 then .sram (d.homeSlice a) else .hbm (d.homeSlice a)

/-- The phase of an extent move of the extent, at its source: writes are refused from phase 3 on (R51). -/
def Dev.finalPass (d : Dev) (e : Nat) : Bool :=
  match d.exts.get? e with
  | some x => 3 ≤ x.phase
  | none => false

/-- The SRAM or HBM4 lane in which a line of an L request is served: a reduction of a line in the combining cache is served in
SRAM (R203). -/
def Dev.lineGate (d : Dev) (g : GEnt) (a : Nat) (op : HOp) : Gate :=
  if d.comb.has (lineNo a) && (match op with | .reduce .. => true | _ => false) then .sram (d.homeSlice a) else d.homeGate (d.place g a) a

/-- The gates that a line of an L request passes from its home slice on, with their wait allowances: its lane, and the twin-port
gate of its pointing write (R390). -/
def Dev.homeGates (d : Dev) (g : GEnt) (a : Nat) (op : HOp) : List (Gate × Nat × Nat) :=
  (d.lineGate g a op, 1, lAllow g (d.place g a) op.writes)
    :: (if op.writes && d.points g then [(Gate.portOut (d.twinPorts.headD 14), 2, Gate.allow (.portOut 14) 1)] else [])

/-- The hint of a state of Table 4-7 (R112): its bound for a first refusal, what is left of it for a credited retry. -/
def Dev.boundLeft (d : Dev) (again : Bool) (began bound : Nat) : Nat := if again then (began + bound) - d.now else bound

/-- The checks on one line, in order; nothing is changed. -/
def Dev.check (d : Dev) (x : Ctx) (g : GEnt) (a : Nat) (op : HOp) : LineChk :=
  let q := x.q
  let wr := op.writes
  let e := extentOf a
  let pl := d.place g a
  let revoking := match d.revokes.get? e with | some v => !v.done && v.part == q.part | none => false
  if revoking || d.revoked.contains e then .ends (Compl.of .fault)
  else if !x.plinth && g.part != q.part then .ends (Compl.of x.notOwned)
  else if g.tier == 2 && !d.keyOk g.part then .ends (Compl.of .denied)
  else if g.state == 2 then .ends (Compl.of .lost)
  else
    let closed := wr && g.tier == 2 && !g.opened
    let word (f c : Bool) := lateWord g.tier (g.tier == 2 && pl == .hit) f c (g.state == 1 || g.state == 3)
    let dead := match q.cls with
      | 1 => true
      | _ => match x.dl with | some b => b < openBound | none => false
    let missRead := pl == .miss && !(match op with | .write _ => true | _ => false)
    let place' := if missRead then Place.miss else if pl == .miss then Place.hit else pl
    let lateBound := match d.homeBound g place' wr q x.port, x.dl with
      | some b, some t => t < b
      | _, _ => false
    let lateMiss := q.cls == 1 && missRead
    let quiet := match d.moves.get? (granuleOf a) with | some m => if m.quiesced then some m.quietAt else none | none => none
    if (closed && dead) || lateBound || lateMiss then
      .late (word (d.fills.has (blockOf a) || (missRead && !x.nofill)) closed) (missRead && !x.nofill) closed
    else if closed then
      .nadm (match d.opening.get? (granuleOf a) with | some t => d.boundLeft x.again t openBound | none => openBound) 5 true
    else if wr && g.prot && (d.pairState == 0 || d.pairState == 3) then .nadm (us 1000) 1 false
    else if d.assigned.has e then .nadm (us 20) 7 false
    else if wr && d.finalPass e then
      .nadm (match d.exts.get? e with | some y => d.boundLeft x.again y.finalAt (us 20) | none => us 20) 7 false
    else if wr && quiet.isSome then .nadm (d.boundLeft x.again (quiet.getD 0) (us 4)) 6 false
    else if d.quar.has (d.homeSlice a) then
      .nadm ((d.quar.getD (d.homeSlice a) 0 + us 250) - d.now) 8 false
    else match d.txns.get? (lineNo a) with
      | some t =>
        .nadm ((t.began + d.txnBound (lineNo a) t) - d.now) 1 false
      | none =>
        if missRead && d.deep.has (blockOf a) then .nadm (us 2000) 1 false
        else
          let flash := if missRead && q.cls == 2 && x.flash then d.winFlash q.part else .fits
          match flash with
          | .denied => .ends (Compl.of .denied)
          | .full h => .nadm h 3 false
          | .fits =>
            let dirty := if wr && d.dirties g a && !x.plinth && !x.coh then d.winDirty q.part x.dirt else .fits
            match dirty with
            | .denied => .ends (Compl.of .denied)
            | .full h => .nadm h 10 false
            | .fits =>
              if x.lanes && q.cls == 1 then
                match (d.homeGates g a op).findSome? fun h => match d.fit h.1 1 q.part h.2.1 h.2.2 with | .no reason => some reason | _ => none with
                | none => .go
                | some reason => .nadm ((d.homeGates g a op).foldl (fun m h => max m (d.slotAt (d.bookAt h.1 1 q.part h.2.1).1)) 0) reason false
              else .go

section
variable {s₀ : State}

/-- What a verdict sets going whatever the answer: an opening, a class G fill (R34, R57). -/
def Run.chkEffects (r : Run s₀) (a : Nat) : LineChk → Run s₀
  | .late _ fill opening =>
    let r := if opening then r.startOpen (granuleOf a) else r
    if fill then r.startFill (blockOf a) true else r
  | .nadm _ _ true => r.startOpen (granuleOf a)
  | _ => r

/-- The charges of an admitted line: its home lane, the dirty window. -/
def Run.chargeLine (r : Run s₀) (x : Ctx) (g : GEnt) (a : Nat) (op : HOp) : Run s₀ :=
  let r := if x.lanes && x.q.cls == 1 then
      r.each (r.d.homeGates g a op) fun r h => match r.d.fit h.1 1 x.q.part h.2.1 h.2.2 with
        | .part k t => r.takeAt x.q.part (k, t)
        | .no _ => r
    else r
  if op.writes && r.d.dirties g a && !x.plinth && 0 < r.d.o x.q.part 0x6010 6 then
    r.winAdd (winFlashWrite x.q.part) (rateTime 64 (r.d.o x.q.part 0x6010 6))
  else r

/-- What a refusal books from the home slice on (R108): the lanes of an L request, the flash read window of a class B line that
misses the cache. -/
def Dev.homeBooks (d : Dev) (q : Asked) (g : GEnt) (a : Nat) (op : HOp) : List (Nat × Nat) :=
  if q.cls == 1 then (d.homeGates g a op).map fun h => d.bookAt h.1 1 q.part h.2.1
  else if q.cls == 2 && d.place g a == .miss && op.needsData && 0 < d.o q.part 0x6010 5 then
    [(winBook (winFlashRead q.part), rateTime 16384 (d.o q.part 0x6010 5))]
  else []

/-- Refuse a request at its home gate (R107, R108, R171): counted where it met an open line, noted where its lane was full,
booked at the home lanes and at the port gates that the refusal passes on its way out. -/
def Run.refuseHome (r : Run s₀) (x : Ctx) (a : Nat) (op : HOp) (hint reason : Nat) : Compl × Run s₀ :=
  let r := if reason == 1 && r.d.txns.has (lineNo a) then r.bump (r.d.homeSlice a) 0x5030 5 else r
  match r.d.g? a with
  | none => r.refuse x.q hint reason true (r.d.homeSlice a) x.books
  | some g =>
    let r := if reason ≤ 2 then r.laneNote (laneKey (r.d.lineGate g a op) 1) x.q.part false else r
    r.refuse x.q hint reason true (r.d.homeSlice a) (r.d.homeBooks x.q g a op ++ x.books)

/-! ### Findings of the checks (R401-R405) -/

/-- SRAMUNC or HBMUNC: the line is recovered from its holders where it has any, else poisoned (R403, R405, R414). -/
def Run.uncorrectable (r : Run s₀) (a unit n row : Nat) (patina : Bool) : Run s₀ :=
  let r := r.bump 0 0x9030 4
  let r := if unit == 1 then
      r.error (mkErr 0x06 4 1 (r.d.homeSlice a) none a 0 row)
    else r
  let line := lineNo a
  let r := if r.d.txns.has line then r else r.settle line
  match r.d.dir.get? line with
  | some e =>
    if r.d.txns.has line then r
    else
      let round := match e.st with
        | .ds => if e.ovf then r.d.activeAgents.map (fun a => (a, 0x2B, true))
                 else (e.named.filter (fun a => r.d.agentState a == 1)).map (fun a => (a, 0x2B, true))
        | .dx => r.d.round e 31 0x2A false
        | .dO => r.d.round e 31 0x2A true
      r.roundOf line (.patina unit n row) round 0x2A
  | none =>
    let r := r.poisonLine a
    r.error { mkErr (if unit == 0 then 3 else 5) 2 unit (r.d.homeSlice a) ((r.d.g? a).map (·.part)) a n row with d2 := b2n patina }

/-! ### Slice quarantine: its start (R357, R418) -/

/-- The physical slice that serves a logical slice, within its stack region: as fused, or the spare that took its place (R11, R12). -/
def Dev.physSlice (d : Dev) (s : Nat) : Nat := d.smap.getD s (if h : s < 256 then (Config.fusedSlice ⟨s, h⟩).val else 34)

/-- The physical slice of a logical one, numbered over the device (R7, R11). -/
def Dev.physSliceNo (d : Dev) (s : Nat) : Nat := s / 32 * 34 + d.physSlice s

/-- Physical slices of a logical slice's stack region that serve no logical slice, were good at manufacture and never found bad
since (R12). -/
def Dev.spares (d : Dev) (s : Nat) : List Nat :=
  let region := s / 32
  let used := (List.range 32).map fun i => d.physSlice (region * 32 + i)
  (List.range 34).filter fun p => !used.contains p && !d.badSlices.contains (region * 34 + p)
    && (if h : p < 34 then Config.goodSlice region ⟨p, h⟩ else false)

/-- Start the quarantine of slice `s`: its gate refuses, its combining cache is written back, chains on its pairs end
`INDET`. Answers whether a spare was free; without one the record alone is written. -/
def Run.quarantine (r : Run s₀) (s trigger : Nat) : Bool × Run s₀ :=
  if r.d.quar.has s then (false, r)
  else
    match r.d.spares s with
    | [] => (false, r.error (mkErr 0x17 4 0 s none 0 trigger 0xFFFF))
    | p :: _ =>
      let r := r.error (mkErr 0x17 4 0 s none 0 trigger (s / 32 * 34 + p))
      let r := (r.mod fun d => { d with quar := d.quar.set s d.now }).setO s 0x5010 1 1
      let r := r.each (r.d.comb.filter fun e => r.d.homeSlice (e.1 * 64) == s) fun r e => r.mergeComb (e.1 * 64)
      let r := r.each ((List.range 4).map (4 * s + ·)) fun r n =>
        if (r.d.pair n).chain.isSome then r.finish n .indet 0 else r
      (true, r)

/-- Keep the events R418 counts within any 1 s, per slice: kind, line, time; the plinth quarantines a slice that shows too
many. -/
def Run.sliceEvent (r : Run s₀) (s kind line : Nat) : Run s₀ :=
  let old := (r.d.sliceEv.getD s []).filter (fun e => r.now ≤ e.2.2 + us 1000000)
  let ev := (kind, line, r.now) :: old
  let r := r.mod fun d => { d with sliceEv := d.sliceEv.set s ev }
  let replays := (ev.filter fun e => e.1 == 1).length
  let unc := ((ev.filter fun e => e.1 == 3).map (·.2.1)).dedup.length
  let built := (ev.filter fun e => e.1 == 2).length
  if 3 ≤ replays then (r.quarantine s 4).2 else if 2 ≤ unc then (r.quarantine s 5).2
  else if 1000 ≤ built then (r.quarantine s 6).2 else r

/-- The line of its request that a finding names. -/
def findLine : Finding → Nat
  | .pathReplays i _ => i
  | .lineCheck i => i
  | .sramParity i _ _ => i
  | .hbmBytes i _ _ => i

/-- A line of a DRAM row has been corrected: the row is reported when patina corrects its seventeenth of one pass (R406). -/
def Run.rowCorrected (r : Run s₀) (a row : Nat) (patina : Bool) : Run s₀ :=
  let r := r.mod fun d => { d with rowCorr := d.rowCorr.set row (d.rowCorr.getD row 0 + b2n patina) }
  if r.d.rowCorr.getD row 0 == 17 && patina then r.error (mkErr 0x06 4 1 (r.d.homeSlice a) none a 1 row) else r

/-- What a finding does to the line at `a` before it is read (R401-R406). -/
def Run.found (r : Run s₀) (a : Nat) (f : Finding) (patina : Bool) : Run s₀ :=
  let s := r.d.homeSlice a
  match f with
  | .pathReplays _ n =>
    let r := r.bumpBy 0 0x9030 1 n
    if 3 < n then
      let r := (r.poisonLine a).sliceEvent s 1 (lineNo a)
      r.error (mkErr 0x01 2 6 0 ((r.d.g? a).map (·.part)) a 0 1)
    else r
  | .lineCheck _ =>
    let r := (r.poisonLine a).sliceEvent s 1 (lineNo a)
    r.error (mkErr 0x01 2 6 0 ((r.d.g? a).map (·.part)) a 0 1)
  | .sramParity _ words rebuilt =>
    if words == 0 then r
    else if words == 1 && rebuilt then
      let r := (r.bump 0 0x9030 2).sliceEvent s 2 (lineNo a)
      let r := if patina then r.bump 0 0x9010 4 else r
      r.error (mkErr 0x02 0 0 s ((r.d.g? a).map (·.part)) a 0 0)
    else (r.sliceEvent s 3 (lineNo a)).uncorrectable a 0 words 0 patina
  | .hbmBytes _ n row =>
    if n == 0 then r
    else if n ≤ 2 then
      let r := r.bump 0 0x9030 3
      let r := if patina then r.bump 0 0x9010 4 else r
      let r := r.rowCorrected a row.toNat patina
      r.error (mkErr 0x04 0 1 s ((r.d.g? a).map (·.part)) a n row.toNat)
    else r.uncorrectable a 1 n row.toNat patina

/-! ### Serving the lines of a job -/

/-- Apply a reduction to the combining cache (R203); the line is unprotected and held by no agent. The entry's line is read
at the first reduction; where the slice's 256 entries are in use, the least recently used is written back. -/
def Run.combine (r : Run s₀) (id idx a : Nat) (op : HOp) : Run s₀ :=
  let line := lineNo a
  let hit := r.d.comb.has line
  let r := if hit then r.bump 0 0x3F00 4 else r
  let base := match r.d.comb.get? line with | some c => c.data | none => r.home a
  match perform op base with
  | (c, none, data) => r.lineDone id idx c data 0
  | (c, some y, data) =>
    let mates := if r.d.comb.length < 256 then []
      else r.d.comb.filter (fun e => r.d.homeSlice (e.1 * 64) == r.d.homeSlice a)
    let r := if hit || mates.length < 256 then r
      else match mates with
        | [] => r
        | m :: ms =>
          let v := ms.foldl (fun x y => if y.2.used < x.2.used then y else x) m
          r.mergeComb (v.1 * 64)
    (r.mod fun d => { d with comb := d.comb.set line ⟨y, d.now⟩ }).lineDone id idx c data 64

/-- Does a request of the job's source wait for a fill at this line? The later one is then performed after it (R128). -/
def Dev.behind (d : Dev) (id a : Nat) : Bool :=
  match d.fills.get? (blockOf a), d.jobs.get? id with
  | some f, some j => f.jobs.any fun w => lineNo w.2.2.1 == lineNo a && (match d.jobs.get? w.1 with | some y => y.src == j.src | none => false)
  | _, _ => false

/-- Serve line `idx` of job `id` at store address `a`: wait for the transaction open on the line (R170), settle what a failed
agent left, merge the combining cache, wait for a fill, snoop, perform (Table 6-6). -/
def Run.serve (r : Run s₀) (id idx a : Nat) (op : HOp) : Run s₀ :=
  if r.d.txns.has (lineNo a) then r.mod fun d => { d with recov := d.recov ++ [(id, idx, a, op)] }
  else match r.d.g? a with
  | none => r.lineDone id idx (Compl.of .fault) bad 0
  | some g =>
    let line := lineNo a
    let r := r.settle line
    let isRed := match op with | .reduce .. => true | _ => false
    let r := if isRed && !g.prot then r else r.mergeComb a
    let cls := match r.d.jobs.get? id with | some j => j.cls | none => 1
    let miss := r.d.place g a == .miss && op.needsData && !r.d.comb.has line
    if miss && r.d.deep.has (blockOf a) then r.lineDone id idx (Compl.of .poison) bad 0
    else if miss || r.d.behind id a then
      let r := r.startFill (blockOf a) false
      r.mod fun d => { d with fills := d.fills.upd (blockOf a) fun f => { f with jobs := (id, idx, a, op) :: f.jobs, classG := false } }
    else
      match r.d.dir.get? line with
      | none => if isRed && !g.prot then r.combine id idx a op else r.performAt id idx a op (r.home a) cls
      | some e =>
        match r.d.opRound e op with
        | none => r.performAt id idx a op (r.home a) cls
        | some (round, code) => r.roundOf line (.line id idx op) round code

/-- The operation of line `i` of a request (R191). -/
def lineOp (code : Nat) (h : Hdr) (data : List DLine) (i : Nat) : HOp :=
  let d := data.getD i bad
  if code == 0x02 || code == 0x0C then .write d
  else if code == 0x03 then .part h.operand d
  else if isReduce code then
    match EType.of? h.etype.toNat with
    | some t => .reduce (ropOf code) t d
    | none => .read
  else if isAtomic code then
    match EType.of? h.etype.toNat with
    | some t => .atomic (aopOf code) t (bits h.a 0 6) h.operand h.operand2
    | none => .read
  else .read

/-- The first verdict that refuses or answers late among lines, if any: no line is performed then (R107). -/
def firstStop (cs : List (Nat × LineChk)) : Option (Nat × LineChk) :=
  match cs.find? (fun c => match c.2 with | .late .. => true | _ => false) with
  | some c => some c
  | none => cs.find? (fun c => match c.2 with | .nadm .. => true | _ => false)

/-- Serve every line of an admitted request of this device's own lines. `tos` gives the store address of each line. Answers
the completion of a request refused as a whole; otherwise a job does the rest. `found` are the findings of the checks at the
lines it reads: a line whose recovery runs is served after it (R405). -/
def Run.serveAll (r : Run s₀) (x : Ctx) (j : Job) (h : Hdr) (data : List DLine) (tos : List Nat) (found : List Finding := []) :
    Option Compl × Run s₀ :=
  let ops := tos.zipIdx.map fun t => (t.1, t.2, lineOp j.code h data t.2)
  let fresh (a : Nat) : Bool := match r.d.g? a with | some g => r.d.dirties g a | none => false
  let cs := ops.map fun o => (o.1, match r.d.g? o.1 with
    | some g => r.d.check (if o.2.2.writes then { x with dirt := (tos.take (o.2.1 + 1)).countP fresh } else x) g o.1 o.2.2
    | none => if x.away.contains (extentOf o.1) then .go else .ends (match x.moved.find? (fun m => m.1 == extentOf o.1) with | some m => m.2 | none => Compl.of .fault))
  match firstStop cs with
  | some (a, v) =>
    let r := r.each cs fun r c => r.chkEffects c.1 c.2
    let other := cs.foldl (fun o c => match c.2 with
      | .ends c => (match o with | some w => some (Compl.worse w c) | none => some c)
      | _ => o) (none : Option Compl)
    let higher (s : Status) : Option Compl := match other with
      | some c => if c.status.rank < s.rank then some c else none
      | none => none
    match v with
    | .late w _ _ => match higher .late with
      | some c => (some c, r)
      | none => (some ⟨.late, w, 0⟩, r)
    | .nadm hint reason _ =>
      match higher .nadm with
      | some c => (some c, r)
      | none =>
      let op := ((ops.find? fun o => o.1 == a).map fun o => o.2.2).getD .read
      let (c, r) := r.refuseHome x a op hint reason
      (some c, r)
    | _ => (none, r)
  | none =>
    let id := r.d.jnext
    let j := { j with left := tos.length, lines := tos.length, began := r.now, cls := x.q.cls, grans := (tos.map granuleOf).dedup }
    let r := r.mod fun d => { d with jobs := d.jobs.set id j, jnext := d.jnext + 1 }
    let r := r.each (ops.zip cs) fun r o =>
      let (a, idx, op) := o.1
      match o.2.2 with
      | .ends c => r.lineDone id idx c bad 0
      | _ =>
        if (r.d.g? a).isNone then r
        else
        let r := match r.d.g? a with | some g => r.chargeLine x g a op | none => r
        let r := if r.d.place ((r.d.g? a).getD ⟨0, 0, false, false, 0, 0, 0⟩) a == .miss && op.needsData && x.flash
              && !r.d.fills.has (blockOf a) then
            r.winAdd (winFlashRead x.q.part) (rateTime 16384 (max 1 (r.d.o x.q.part 0x6010 5)))
          else r
        (r.each (found.filter fun f => findLine f == idx) fun r f => r.found a f false).serve id idx a op
    (none, r)

/-- Lines that waited for a transaction on them to end are served, in the order in which they came (R170, R405). -/
def Run.recovered (r : Run s₀) : Run s₀ :=
  let go := r.d.recov.filter fun w => !r.d.txns.has (lineNo w.2.2.1)
  if go.isEmpty then r
  else
    let r := r.mod fun d => { d with recov := d.recov.filter fun w => !go.contains w }
    r.each go fun r w => r.serve w.1 w.2.1 w.2.2.1 w.2.2.2

/-! ### The engine path: a command's own accesses -/

/-- Forget which lines access `n` has had cleaned. -/
def Run.unready (r : Run s₀) (n : Nat) : Run s₀ := r.mod fun d => { d with readied := d.readied.filter fun x => x.1 != n }

/-- Is line `a` free for an access of this intent, so that it is performed at once? Where a port agent must be snooped first,
the round is opened and the access is tried again by the next command (`false`); the round of a read is not repeated for the
same access. `n` names the access: a pair, or a number from 1,024 on. -/
def Run.ready (r : Run s₀) (a : Nat) (op : HOp) (n : Nat) : Bool × Run s₀ :=
  let line := lineNo a
  if r.d.txns.has line then (false, r)
  else
    let r := (r.settle line).mergeComb a
    if op == .read && r.d.readied.contains (n, line) then (true, r)
    else match r.d.dir.get? line with
    | none => (true, r)
    | some e =>
      match r.d.opRound e op with
      | none => (true, r)
      | some (round, code) =>
        let r := r.roundOf line (.ready op) round code (some n)
        if r.d.txns.has line then (false, r) else (true, r.mod fun d => { d with readied := d.readied.filter (· != (n, line)) })

end

end Sys2Proof.Machine
end

