-- ==== Sys2Proof/Machine/Xlate.lean ====
section
/-!
DEFINITION. The device's own reads and writes of the store (R489, R83, R226), and translation: walks (R64-R67), the
translation and pointer caches, faults and the coalescing table (R77-R84).
-/

namespace Sys2Proof.Machine

section
variable {s₀ : State}

/-! ### The device's own accesses -/

/-- What a read on the device's own behalf gives: the bytes, a wait for agents or flash, or the status it ends in (R489). -/
inductive Own where
  | bytes (bs : List Byte)
  | wait
  | fails (st : Status)
deriving DecidableEq, Repr

/-- Read one line of this device on its own behalf, for partition `part` (none: the plinth). `n` names the pair. -/
def Run.ownLine (r : Run s₀) (n : Nat) (part : Option Nat) (a : Nat) : Own × Run s₀ :=
  match r.d.g? a with
  | none => (.fails .fault, r)
  | some g =>
    let revoking := match r.d.revokes.get? (extentOf a) with | some v => !v.done && some v.part == part | none => false
    if revoking || r.d.revoked.contains (extentOf a) then (.fails .fault, r)
    else if part.isSome && some g.part != part then (.fails .denied, r)
    else if g.tier == 2 && !r.d.keyOk g.part then (.fails .denied, r)
    else if g.state == 2 then (.fails .lost, r)
    else if r.d.place g a == .miss then (.wait, r.startFill (blockOf a) false)
    else
      match r.ready a .read n with
      | (false, r) => (.wait, r)
      | (true, r) =>
        let l := r.home a
        if l.poison then (.fails .poison, r) else (.bytes (lineBytes l.data), r)

/-- Read `k` lines from line address `a` on. -/
def Run.ownLines (r : Run s₀) (n : Nat) (part : Option Nat) : Nat → Nat → Own × Run s₀
  | 0, _ => (.bytes [], r)
  | k + 1, a =>
    match r.ownLine n part a with
    | (.bytes b, r') =>
      match Run.ownLines r' n part k (a + 64) with
      | (.bytes bs, r'') => (.bytes (b ++ bs), r'')
      | x => x
    | x => x

/-- Read `len` bytes at `a` on the device's own behalf. -/
def Run.ownRead (r : Run s₀) (n : Nat) (part : Option Nat) (a len : Nat) : Own × Run s₀ :=
  match r.ownLines n part ((a % 64 + len + 63) / 64) (a / 64 * 64) with
  | (.bytes bs, r) => (.bytes ((bs.drop (a % 64)).take len), r)
  | x => x

/-- The lines a run of bytes at `a` touches: line address, mask, line data. -/
def cutLines : Nat → Nat → List Byte → List (Nat × BitVec 64 × Line)
  | 0, _, _ => []
  | k + 1, a, bs =>
    if bs.isEmpty then []
    else
      let off := a % 64
      let now := bs.take (64 - off)
      (a / 64 * 64, BitVec.ofNat 64 ((2 ^ now.length - 1) * 2 ^ off), lineOf (zeros off ++ now ++ zeros (64 - off - now.length)))
        :: cutLines k (a / 64 * 64 + 64) (bs.drop (64 - off))

/-- Write bytes of this device's store for partition `part` (none: the plinth) through the engine path; each line is a
request of its own, which waits for agents where it must. Lines of another device go there as stores of `src`'s stream, which wait
where it takes none now. A line the partition may not write is left out. -/
def Run.ownWrite (r : Run s₀) (src : Src) (part : Option Nat) (a : Nat) (bs : List Byte) (cls : Nat := 2) : Run s₀ :=
  r.each (cutLines (bs.length / 64 + 2) a bs) fun r x =>
    let (la, mask, l) := x
    let op : HOp := if mask == BitVec.allOnes 64 then .write (good l) else .part mask (good l)
    match r.d.g? la with
    | some g =>
      if (part.isSome && some g.part != part) || g.state == 2 || r.d.revoked.contains (extentOf la) then r
      else
        let id := r.d.jnext
        let j : Job := { src := src, reply := .none, part := part, code := 0x03, addr := la, lines := 1, left := 1, began := r.now, cls := cls, unit := false, grans := [granuleOf la] }
        (r.mod fun d => { d with jobs := d.jobs.set id j, jnext := d.jnext + 1 }).serve id 0 la op
    | none =>
      match r.d.maq.get? (extentOf la) with
      | none => r
      | some c =>
        let dst := c.entry.home.toNat
        let full := mask == BitVec.allOnes 64
        r.sendOrWait src dst { code := if full then 0x02 else 0x03, h := { sword := plainSword cls, addr := BitVec.ofNat 64 la, operand := if full then 0 else mask, flags := 0 }, data := [good l] } .none (part.getD 0)

/-! ### Table walks (R64-R67) -/

/-- The end of a walk. -/
inductive WalkR where
  | leaf (e : TlbE)
  | fault (kind level base bits : Nat)
  | wait
deriving DecidableEq, Repr

/-- Bits of address below level `l`: the region of one entry (Table 3-1). -/
def levelBits (l : Nat) : Nat := match l with | 4 => 48 | 3 => 39 | 2 => 30 | 1 => 21 | _ => 16

/-- Index of `va` in the table of level `l`. -/
def levelIdx (l va : Nat) : Nat := bits va (levelBits l) (if l == 0 then 5 else 9)

/-- A malformed entry with V = 1 (R65). -/
def malformed (l w : Nat) : Bool :=
  let leaf := bit w 1
  let addr := bits w 8 54 * 256
  bits w 5 3 != 0 || bits w 62 2 != 0
    || (leaf && (l == 4 || l == 3)) || (!leaf && l == 0)
    || (!leaf && bits w 2 3 != 0)
    || (leaf && bit w 4 && !bit w 3)
    || (if leaf then addr % 2 ^ levelBits l != 0 else if l == 1 then addr % 256 != 0 else addr % 4096 != 0)

/-- One table entry: its word, a fault kind (4 TABLETIER, 6 TABLEPOISON), or a wait. A table line must lie in an extent
homed here, in T0 or T1 (R66), and is read through the engine path (R69). The spec names no kind for a line of a revoked extent, or
one that no partition may read for another reason, nor which kind comes first for a line that is both in T2 and LOST: both are
kind 4 here, with its fault record (DESIGN CHOICE, log entry 179). -/
inductive EntR where
  | word (w : Nat)
  | bad (kind : Nat)
  | wait

def Run.tableEnt (r : Run s₀) (n a : Nat) : EntR × Run s₀ :=
  match r.d.g? a with
  | none => (.bad 4, r)
  | some g =>
    if g.tier == 2 then (.bad 4, r)
    else
      match r.ownRead n none a 8 with
      | (.bytes bs, r) => (.word (leNat bs), r)
      | (.wait, r) => (.wait, r)
      | (.fails .poison, r) => (.bad 6, r)
      | (.fails .lost, r) => (.bad 6, r)
      | (.fails _, r) => (.bad 4, r)

/-- Remember a pointer entry in block `blk`: at most 256. Which one makes room is not the spec's: the model keeps the 256 newest
(DESIGN CHOICE, log entry 180). -/
def Run.rememberPtr (r : Run s₀) (blk asid level va table : Nat) : Run s₀ :=
  let p := (asid, level, va / 2 ^ levelBits level, table)
  r.mod fun d => { d with ptrs := d.ptrs.set blk ((p :: (d.ptrs.getD blk []).filter (· != p)).take 256) }

/-- Walk from the table of level `l`. -/
def Run.walkFrom (r : Run s₀) (blk n asid va : Nat) : Nat → Nat → WalkR × Run s₀
  | l, table =>
    match r.tableEnt n (table + 8 * levelIdx l va) with
    | (.wait, r) => (.wait, r)
    | (.bad k, r) => (.fault k l (va / 2 ^ levelBits l * 2 ^ levelBits l) (levelBits l), r)
    | (.word w, r) =>
      let base := va / 2 ^ levelBits l * 2 ^ levelBits l
      if !bit w 0 then (.fault 1 l base (levelBits l), r)
      else if malformed l w then (.fault 3 l base (levelBits l), r)
      else if bit w 1 then
        (.leaf { asid := asid, vpn := va / 2 ^ levelBits l, bits := levelBits l, pa := bits w 8 54 * 256, rd := bit w 2, wr := bit w 3, red := bit w 4 }, r)
      else
        match l with
        | 0 => (.fault 3 0 base 16, r)
        | l' + 1 =>
          let r := if 2 ≤ l then r.rememberPtr blk asid l va (bits w 8 54 * 256) else r
          Run.walkFrom r blk n asid va l' (bits w 8 54 * 256)

/-- Walk from the deepest pointer entry that block `blk` caches. A NOROOT fault reaches no level: its record names level 4 and the
256 TiB region of the address (DESIGN CHOICE, log entry 181). -/
def Run.walkOnce (r : Run s₀) (blk n asid va : Nat) : WalkR × Run s₀ :=
  match r.d.roots.get? asid with
  | none => (.fault 5 4 (va / 2 ^ 48 * 2 ^ 48) 48, r)
  | some root =>
    let ps := r.d.ptrs.getD blk []
    let at_ (l : Nat) := ps.find? fun p => p.1 == asid && p.2.1 == l && p.2.2.1 == va / 2 ^ levelBits l
    match at_ 2 with
    | some p => r.walkFrom blk n asid va 1 p.2.2.2
    | none => match at_ 3 with
      | some p => r.walkFrom blk n asid va 2 p.2.2.2
      | none => match at_ 4 with
        | some p => r.walkFrom blk n asid va 3 p.2.2.2
        | none => r.walkFrom blk n asid va 4 root

/-- Walk a page of an ASID in block `blk`. -/
def Run.walk (r : Run s₀) (blk n asid va : Nat) : WalkR × Run s₀ :=
  match r.walkOnce blk n asid va with
  | (.wait, r) => (.wait, r)
  | (x, r) => (x, if n < 1024 then r else r.unready n)

/-- The cached entry of a page, in block `blk`. -/
def Dev.hit? (d : Dev) (blk asid va : Nat) : Option TlbE :=
  (d.tlb.getD blk []).find? fun e => e.asid == asid && e.vpn == va / 2 ^ e.bits

/-- Put an entry in front of block `blk`, in place of what stands there for its page: at most 4,096, the least recently used unpinned
one leaves. The spec lets the order be approximated per set of 8; the model keeps it exactly over the block (DESIGN CHOICE, log
entry 182). -/
def Run.putTlb (r : Run s₀) (blk : Nat) (e : TlbE) : Run s₀ :=
  let es := e :: (r.d.tlb.getD blk []).filter (fun x => !(x.asid == e.asid && x.vpn == e.vpn && x.bits == e.bits))
  let es := if es.length ≤ 4096 then es
    else match es.reverse.find? (fun x => x.pin.isNone) with
      | some v => es.filter (· != v)
      | none => es.take 4096
  r.mod fun d => { d with tlb := d.tlb.set blk es }

/-- Install a walked entry in block `blk`: a pin that the page has there stays (R70). -/
def Run.install (r : Run s₀) (blk : Nat) (e : TlbE) : Run s₀ :=
  r.putTlb blk (match (r.d.tlb.getD blk []).find? (fun x => x.asid == e.asid && x.vpn == e.vpn && x.bits == e.bits) with
    | some x => { e with pin := (match x.pin, e.pin with | some s, some t => some (max s t) | some s, none => some s | none, p => p)
                         creds := x.creds ++ e.creds }
    | none => e)

/-- Drop the entries of block `blk` that satisfy `f`: how many, and the state. -/
def Run.dropTlb (r : Run s₀) (blk : Nat) (f : TlbE → Bool) : Nat × Run s₀ :=
  let es := r.d.tlb.getD blk []
  ((es.filter f).length, r.mod fun d => { d with tlb := d.tlb.set blk (es.filter fun e => !f e) })

/-- Access rights an access needs: 0 read, 1 write, 2 reduction, cast store or atomic (Table 3-2); 3 stands for none. -/
def TlbE.allows (e : TlbE) (access : Nat) : Bool :=
  if access == 0 then e.rd else if access == 1 then e.wr else if access == 2 then e.wr && e.red else true

/-- The store address of `va` in an entry. -/
def TlbE.addr (e : TlbE) (va : Nat) : Nat := e.pa + va % 2 ^ e.bits

/-! ### Faults (R77-R84) -/

/-- A fault to be reported: its kind, level and region, the access bits, the source and slice bytes of Table 3-5. -/
structure FaultAt where
  part   : Nat
  asid   : Nat
  va     : Nat
  kind   : Nat
  level  : Nat
  base   : Nat
  bits   : Nat
  access : Nat
  source : Nat
  slice  : Nat
deriving DecidableEq, Repr

/-- The 32 bytes of a fault record, Table 3-5. -/
def faultBytes (f : FaultAt) (seq fidx parked refused : Nat) (overflow : Bool) : List Byte :=
  leBytes 4 seq ++ leBytes 2 fidx ++ leBytes 2 f.asid ++ leBytes 8 f.va ++ leBytes 1 f.kind ++ leBytes 1 f.level
    ++ leBytes 1 (f.access + 32 * b2n overflow) ++ leBytes 1 f.source ++ leBytes 2 f.slice ++ zeros 2
    ++ leBytes 4 parked ++ leBytes 4 refused

/-- The address of record number `i` of a partition's fault ring. -/
def Dev.faultSlot (d : Dev) (part i : Nat) : Nat := d.o part 0x6020 1 + 32 * (i % max 1 (d.o part 0x6020 2))

/-- Is the partition's fault ring absent or full (R84, 0x6020:01)? -/
def Dev.ringFull (d : Dev) (part : Nat) : Bool :=
  d.o part 0x6020 1 == 0 || d.o part 0x6020 2 ≤ (d.o part 0x6020 4 + 2 ^ 32 - d.o part 0x6020 5) % 2 ^ 32

/-- Write a new fault record and raise the fault event (R83): the record's place, or none when the ring is absent or full
(R84). Head and tail count freely modulo 2^32, and a record's place is its number modulo the size of the ring; the spec does not say
whether they wrap at that size (DESIGN CHOICE, log entry 183). -/
def Run.putFault (r : Run s₀) (f : FaultAt) (fidx parked : Nat) (overflow : Bool) : Option Nat × Run s₀ :=
  if r.d.ringFull f.part then
    (none, if r.d.o f.part 0x6020 1 == 0 then r else r.bump 0 0x9000 4)
  else
    let head := r.d.o f.part 0x6020 4
    let a := r.d.faultSlot f.part head
    let seq := r.d.fseq.getD f.part 0
    let r := r.ownWrite .plinth (some f.part) a (faultBytes f seq fidx parked 0 overflow)
    let r := r.mod fun d => { d with fseq := d.fseq.set f.part ((seq + 1) % 2 ^ 32) }
    ((some a), (r.setO f.part 0x6020 4 ((head + 1) % 2 ^ 32)).event f.part 0x11)

/-- Rewrite PARKED and REFUSED of an entry's record in place (R83). -/
def Run.recount (r : Run s₀) (idx : Nat) : Run s₀ :=
  match r.d.fents.get? idx with
  | none => r
  | some e => match e.frec with
    | none => r
    | some a => r.ownWrite .plinth (some e.part) (a + 24) (leBytes 4 e.parked ++ leBytes 4 e.refused)

/-- The entry of an ASID whose region contains an address (R78). -/
def Dev.fentAt (d : Dev) (asid va : Nat) : Option (Nat × FEnt) :=
  d.fents.find? fun e => e.2.asid == asid && e.2.base ≤ va && va < e.2.base + 2 ^ e.2.bits

/-- Requests parked by port `p`, and the tile parked by pair `n` (R80). -/
def Dev.parkedAtPort (d : Dev) (p : Nat) : Nat :=
  (d.fents.map fun e => (e.2.reqs.filter fun q => match q with | .port p' _ _ _ _ => p' == p | .pair _ => false).length).sum

/-- Where a fault of a parking kind ends: an entry it takes or finds (its index), or none (R78, R80, R84). `count` says
whether a request parks on it now. -/
def Run.takeEntry (r : Run s₀) (f : FaultAt) (count : Nat) (who : List Parked) : Option Nat × Run s₀ :=
  match r.d.fentAt f.asid f.va with
  | some (i, _) =>
    let r := r.mod fun d => { d with fents := d.fents.upd i fun e => { e with parked := e.parked + count, reqs := e.reqs ++ who } }
    (some i, if count == 0 then r else r.recount i)
  | none =>
    match r.d.fents.free 0 2048 with
    | none => (none, (r.putFault f 0x0FFF 0 true).2)
    | some i =>
      match r.putFault f i count false with
      | (none, r) => (none, r)
      | (some a, r) =>
        let e : FEnt := {
          asid := f.asid, kind := f.kind, base := f.base, bits := f.bits, part := f.part, frec := some a, parked := count
          refused := 0, reqs := who, began := r.now }
        (some i, r.mod fun d => { d with fents := d.fents.set i e })

/-- A fault that does not park writes its record, with no entry (R77). -/
def Run.reportFault (r : Run s₀) (f : FaultAt) : Run s₀ := (r.putFault f 0x0FFF 0 false).2

/-- A request could not park on an entry: it is counted in REFUSED (R80). -/
def Run.refused1 (r : Run s₀) (i : Nat) : Run s₀ :=
  (r.mod fun d => { d with fents := d.fents.upd i fun e => { e with refused := e.refused + 1 } }).recount i

/-- A fault of a parking kind whose request cannot park (R80): counted in REFUSED of the entry of its region where there is one;
otherwise its record takes no entry, with OVERFLOW set where the table is full (R77, R80). -/
def Run.cannotPark (r : Run s₀) (f : FaultAt) : Run s₀ :=
  match r.d.fentAt f.asid f.va with
  | some (i, _) => r.refused1 i
  | none => (r.putFault f 0x0FFF 0 (r.d.fents.free 0 2048).isNone).2

/-- The completion of a fault: its kind in WORD[7:0] (Table 7-5). -/
def faultC (kind : Nat) : Compl := ⟨.fault, kind, 0⟩

end

end Sys2Proof.Machine
end

