-- ==== Sys2Proof/Machine/Fabric.lean ====
section
/-!
DEFINITION. Requests that this device originates for another device's lines: the relief window (R204-R207), cast groups
(R196, R197), and the maquette entry they are routed by (R366, R369, R382).
-/

namespace Sys2Proof.Machine

/-- Where the lines of an extent go. -/
inductive Route where
  | here
  | to (dst : Nat)
  /-- answered at the originating device, with this status (R366, R373) -/
  | ends (st : Status)
  /-- refused with reason LANE or FINALPASS and this hint (R369, R372, R382) -/
  | nadm (hint reason : Nat) (fetch : Bool)
deriving DecidableEq, Repr

/-- The route of an extent by the cached entry (R366, R369, R382). An extent that this device homes is served here whatever
the entry says (R376). -/
def Dev.route (d : Dev) (e : Nat) : Route :=
  if d.homed e then .here
  else match d.maq.get? e with
    | none => .nadm (us 7) 1 true
    | some c =>
      if c.entry.state == 2 then .ends .lost
      else if c.entry.state == 0 then .ends .fault
      else if c.entry.home.toNat == d.self then .nadm (us 20) 7 false
      else if (d.devs.getD c.entry.home.toNat {}).role == 5 then .nadm (us 1000) 1 false
      else if d.unreachable c.entry.home.toNat then .nadm (us 1000) 1 false
      else .to c.entry.home.toNat

/-- The keeper index of an extent (R367): ⌊((E × 0x9E3779B1) mod 2^32) × NK ÷ 2^32⌋. -/
def keeperIdx (nk e : Nat) : Nat := (e * 0x9E3779B1) % 2 ^ 32 * nk / 2 ^ 32

/-- The device that serves a keeper index: the first of its pair, or the second where the first is FAILED (R367). -/
def Dev.keeperOf (d : Dev) (i : Nat) : Nat :=
  let (a, b) := d.kpairs.getD i (0, 0)
  if (d.devs.getD a {}).role == 5 then b else a

/-- The keeper device of an extent. -/
def Dev.keeperFor (d : Dev) (e : Nat) : Nat := d.keeperOf (keeperIdx (d.o 0 0x7010 1) e)

section
variable {s₀ : State}

/-- Fetch an entry from its keeper (R369), once. -/
def Run.fetchEntry (r : Run s₀) (e : Nat) : Run s₀ :=
  if r.d.fetch.has e then r
  else ((r.mod fun d => { d with fetch := d.fetch.set e d.now }).bump 0 0x7040 1).tell (r.d.keeperFor e) (.fetch e)

/-- A fetched entry is pinned until the credited retry arrives (R369). -/
def Run.unpinMaq (r : Run s₀) (e : Nat) : Run s₀ := r.mod fun d => { d with maq := d.maq.upd e fun c => { c with pin := none } }

/-! ### The relief window -/

/-- The contributors of a relief entry that are sources of this agent. -/
def byAgent (who : List Contrib) (agent : Nat) : Bool := who.any fun w => w.src.agent == agent

/-- The relief entries that left with a contribution of an agent and are not acknowledged: their destinations. -/
def Dev.reliefSent (d : Dev) (agent : Nat) : List Nat :=
  d.origs.filterMap fun o => match o.2.reply with
    | .relief n => if byAgent (d.reliefWho.getD n []) agent
        && ((d.sends.getD o.2.strm {}).unacked.any fun u => u.1 == o.2.req.h.seq.toNat) then some o.2.dst else none
    | _ => none

/-- Requests of an agent to a device that wait here for an acknowledgement, in the order in which they were issued (R205). -/
def Dev.queued (d : Dev) (agent dst : Nat) : Bool :=
  d.after.any fun x => x.src.agent == agent && x.dst == dst && !x.retried && x.cast.isNone

/-- Has every earlier request of a contributing agent to `dst` been acknowledged, as entry `n` with a counter waits for (R205)? They
are the requests it sent, and its reductions in entries that left or that opened before this one. -/
def Dev.clearTo (d : Dev) (n : Nat) (src : Src) (dst : Nat) : Bool :=
  !((d.unackedOf src.agent).any fun u => u.2.h.dst == dst) && !(d.reliefSent src.agent).contains dst
    && !(d.relief.any fun e => e.1 < n && e.2.dst == dst && byAgent e.2.who src.agent)

/-- A relief entry leaves as one reduction of the agent that opened it (R205), with RELIEF set and the number of requests
combined in OPERAND[31:0]. It waits if it carries a counter and a contributor has an unacknowledged request there, and behind an
older entry for its line (R206). Where its stream takes no request now, the contributors are refused, each on a credit of its own
(R137, R201); but a pair's data is in the entry alone, so that an entry with a pair among its contributors waits. -/
def Run.releaseRelief (r : Run s₀) (n : Nat) : Run s₀ :=
  match r.d.relief.get? n with
  | none => r
  | some e =>
    let wait : Run s₀ := r.mod fun d => { d with relief := d.relief.upd n fun e => { e with due := true } }
    if (e.ctr.isSome && !(e.who.all fun w => r.d.clearTo n w.src e.dst))
        || r.d.relief.any (fun x => x.1 < n && x.2.dst == e.dst && x.2.line == e.line) then wait
    else
      let code := match e.op with | .add => 0x08 | .min => 0x09 | .max => 0x0A
      let h : Hdr := { e.h.noCredit with
        flags := (e.h.flags &&& 0xFE) ||| 0x02, lines := 1, addr := BitVec.ofNat 64 (e.line * 64)
        operand := BitVec.ofNat 64 e.count }
      match r.d.maySend e.opener.agent e.dst 160 none with
      | some (.hint ps) =>
        if e.who.any fun w => match w.src with | .pair _ => true | _ => false then wait
        else
          let r := r.mod fun d => { d with relief := d.relief.del n }
          r.each e.who fun r w =>
            let (c, r) := r.refuse { src := w.src, part := e.part, cls := h.cls, code := code, addr := w.addr, asid := w.asid } ps 1 false
              ((srcPort w.src).getD 0) []
            r.reply w.reply false c []
      | none =>
        let r := r.mod fun d => { d with relief := d.relief.del n, reliefWho := d.reliefWho.set n e.who }
        r.send e.opener e.dst { code := code, h := h, data := [e.data] } (.relief n) e.part (r.now - e.openedAt)

/-- Does an entry match a reduction (R204)? -/
def Relief.matches (e : Relief) (line : Nat) (op : ROp) (t : EType) (part : Nat) (ctr : Option Nat) : Bool :=
  e.line == line && e.op == op && e.et == t && e.part == part && e.ctr == ctr && !e.due

/-- Combine a reduction into an open entry (R204, R206, R412: poisoned if any contributor was). -/
def Relief.join (e : Relief) (w : Contrib) (x : DLine) : Relief :=
  { e with
    count := e.count + 1, who := w :: e.who
    data := if e.data.poison || x.poison then bad else good (reduceLine e.op e.et e.data.data x.data) }

/-- May a reduction of an agent be held (R204)? The agent has no unacknowledged request but reductions held for the same line. -/
def Dev.mayHold (d : Dev) (agent line : Nat) : Bool :=
  (d.unackedOf agent).isEmpty && (d.reliefSent agent).isEmpty
    && !(d.after.any fun x => x.src.agent == agent && !x.retried)
    && !(d.relief.any fun e => e.2.line != line && byAgent e.2.who agent)

/-- Send a request of one of this device's agents to another device, `via` being the ASID and virtual address it was translated
through and `spent` its time here: held in the relief store where R204 holds it; a request that must follow an entry of its agent
waits for that entry's acknowledgement, and so do the agent's later requests to the device (R128, R129, R205). -/
def Run.originate (r : Run s₀) (src : Src) (part dst : Nat) (q : Req) (reply : Reply) (spent : Nat := 0)
    (via : Option (Nat × Nat) := none) : Run s₀ :=
  let line := lineNo q.h.a
  let agent := src.agent
  let red : Option (ROp × EType × DLine) := match isReduce q.code && q.h.n == 1 && r.d.o 0 0x3F00 1 != 0 && !q.h.dl,
      EType.of? q.h.etype.toNat, q.data with
    | true, some t, [x] => if r.d.mayHold agent line then some (ropOf q.code, t, x) else none
    | _, _, _ => none
  let w : Contrib := { src := src, reply := reply, addr := (via.map (·.2)).getD q.h.a, asid := (via.map (·.1)).getD 0 }
  let m := match red with
    | some (op, t, _) => r.d.relief.find? fun (e : Nat × Relief) => e.2.dst == dst && e.2.matches line op t part q.h.counter
    | none => none
  match red, m with
  | some (_, _, x), some (n, e) =>
    let r := r.mod fun d => { d with relief := d.relief.set n (e.join w x) }
    let r := r.bump 0 0x3F00 3
    if 65535 ≤ e.count + 1 then r.releaseRelief n else r
  | red, _ =>
    match (if r.d.relief.length < 8192 then red else none) with
    | some (op, t, x) =>
      let older := r.d.relief.filter fun (e : Nat × Relief) => e.2.dst == dst && e.2.line == line && !e.2.due
      let r := r.each older fun r e => r.releaseRelief e.1
      let n := r.d.rnext
      let h := if q.h.budget == noBudget then q.h else q.h.setBudget (q.h.budget - cdiv spent 8000)
      let e : Relief := {
        line := line, op := op, et := t, part := part, ctr := q.h.counter, dst := dst, opener := src, openedAt := r.now
        count := 1, who := [w], data := x, h := h }
      r.mod fun d => { d with relief := d.relief.set n e, rnext := d.rnext + 1 }
    | none =>
      let covers (l : Nat) : Bool := line ≤ l && l < line + max 1 q.h.n
      let must := r.d.relief.filter fun (e : Nat × Relief) => e.2.dst == dst && byAgent e.2.who agent
        && (q.h.counter.isSome || (!isReduce q.code && covers e.2.line))
      let behind := r.d.queued agent dst
      if must.isEmpty && !behind then
        let id := r.d.onext
        let r := r.send src dst q reply part spent
        if via.isNone then r else r.mod fun d => { d with origs := d.origs.upd id fun o => { o with via := via } }
      else
        let r := r.each must fun r e => r.releaseRelief e.1
        r.mod fun d => { d with after := d.after ++ [{ src := src, part := part, dst := dst, req := q, reply := reply, since := d.now - spent, via := via }] }

/-- Does a relief entry with a contribution of an agent to `dst` wait to leave, or for its acknowledgement? -/
def Dev.reliefOpen (d : Dev) (agent dst : Nat) : Bool :=
  d.relief.any (fun e => e.2.due && e.2.dst == dst && byAgent e.2.who agent) || (d.reliefSent agent).contains dst

/-! ### Cast stores (R196, R197) -/

/-- Has a cast group an open cast stream? -/
def Dev.castStream (d : Dev) (g : Nat) : Bool :=
  d.sends.any fun e => e.1 / 2 ^ 40 == 1 && e.1 % 4096 == g

/-- The status a `CAST.STORE` is checked to before any copy leaves (R196). -/
def Dev.castCheck (d : Dev) (g part off lines : Nat) : Option Status :=
  match d.casts.get? g with
  | none => some .fault
  | some c => if c.part != part then some .denied else if c.size < off + 64 * lines || off % 64 != 0 then some .fault else none

/-- The completion of a cast store of its copies' (R197): `OK` if all are; else the first of `FAULT`, `DENIED`, `LOST`, `INDET`
and `NADM` that any returned, or, where none of these was, the first in the order of R492. -/
def castEnd (cs : List Compl) : Compl :=
  if cs.all fun c => c.status == .ok then Compl.of .ok
  else match [Status.fault, .denied, .lost, .indet, .nadm].findSome? (fun s => cs.find? fun c => c.status == s) with
    | some c => c
    | none => cs.foldl Compl.worse (Compl.of .ok)

/-- A copy of a cast store has ended. -/
def Run.castCopyEnd (r : Run s₀) (reply : Reply) (c : Compl) : Run s₀ := r.reply reply false c []

/-- The counter a request names is this partition's and takes credits (R144). -/
def Dev.ctrCheck (d : Dev) (part : Nat) (c : Option Nat) : Option Status :=
  match c with
  | none => none
  | some n => if d.ctrOwner n != part then some .denied else if (d.ctr n).mode == 2 then some .fault else none

/-- The copy of a cast store whose member is this device, checked and performed here (R144, R197): its completion where it ends at
once. `lanes` says that the home lane is asked: not by a retry whose credit booked it. -/
def Run.castHere (r : Run s₀) (src : Src) (part : Nat) (q : Req) (reply : Reply) (lanes : Bool) : Option Compl × Run s₀ :=
  match r.d.ctrCheck part q.h.counter with
  | some st => (some (Compl.of st), r)
  | none =>
    let x : Ctx := { q := { src := src, part := part, cls := q.h.cls, code := 0x0C, addr := q.h.a }, lanes := lanes, flash := lanes, again := !lanes }
    let j : Job := { src := src, reply := reply, part := some part, code := 0x0C, addr := q.h.a, lines := q.h.n, left := 0,
                     ctr := q.h.counter, unit := q.h.unit }
    r.serveAll x j q.h q.data ((List.range q.h.n).map fun i => q.h.a + 64 * i)

/-- A copy waits for the slot of credit `n`, or, without one, until `at_`; it is retried once (R197). -/
def Run.castWait (r : Run s₀) (src : Src) (part g seq dst : Nat) (q : Req) (reply : Reply) (n : Option Nat) (at_ : Nat) : Run s₀ :=
  r.mod fun d => { d with after := d.after ++
    [{ src := src, part := part, dst := dst, req := q, reply := reply, at_ := at_, since := d.now, cast := some (g, seq), cred := n }] }

/-- When the slot of credit `n` begins. -/
def Dev.slotOf (d : Dev) (n : Nat) : Nat := match d.credits.get? n with | some c => c.start | none => d.now

/-- One copy of a cast store leaves for its member, or is performed here. It is charged at the port gate it leaves by (R197); refused
there, at the home slice here, or for want of a way to its member, it waits for its retry, as it does behind an earlier copy of its
stream to the member that waits. -/
def Run.castCopy (r : Run s₀) (src : Src) (part g seq dst : Nat) (q : Req) (reply : Reply) : Run s₀ :=
  if r.d.after.any fun x => x.src.agent == src.agent && x.dst == dst && (match x.cast with | some (g', _) => g' == g | none => false) then
    r.castWait src part g seq dst q reply none r.now
  else if dst == r.d.self then
    match r.castHere src part q reply true with
    | (some c, r') => if c.status == .nadm then r'.castWait src part g seq dst q reply (some r.d.cnext) (r'.d.slotOf r.d.cnext) else r'.castCopyEnd reply c
    | (none, r) => r
  else
    match r.d.maySend src.agent dst q.size (some g) with
    | some (.hint ps) => r.castWait src part g seq dst q reply none (r.now + ps)
    | none =>
      let ports := match r.d.egress src.agent dst (some g) with | some p => [p] | none => []
      let x : Pass := { gates := ports.map fun p => (Gate.portOut p, 1 + q.data.length), ports := ports, bytes := 64 * q.h.n }
      let asked : Asked := { src := src, part := part, cls := q.h.cls, code := 0x0C, addr := q.h.a }
      match r.askPass asked x [] with
      | (.go, r) => (r.takePass asked x).send src dst q reply part 0 (some g) none (some seq)
      | (.stop c, r') =>
        if c.status == .nadm then r'.castWait src part g seq dst q reply (some r.d.cnext) (r'.d.slotOf r.d.cnext) else r'.castCopyEnd reply c

/-- Send every copy of a checked cast store: each in the cast stream of the agent with one sequence number, to BASE + offset
of its member; a member that is this device performs its copy here (R197). -/
def Run.castCopies (r : Run s₀) (src : Src) (part g off : Nat) (h : Hdr) (data : List DLine) (reply : Reply) : Nat × Run s₀ :=
  match r.d.casts.get? g with
  | none => (0, r)
  | some c =>
    let n := r.d.jnext
    let o : CastOp := { reply := reply, part := part, left := c.members.length, src := src, asid := h.asid.toNat, cls := h.cls, addr := off, lines := h.n }
    let r := r.mod fun d => { d with castOps := d.castOps.set n o, jnext := d.jnext + 1 }
    let key := sKey src.agent 0 (some g)
    let away := c.members.any fun m => m.1 != r.d.self
    let seq := match r.d.sends.get? key with | some s => s.next | none => 0
    let r := if !away then r else r.mod fun d =>
      let st := d.sends.getD key { idle := d.now, lastAck := d.now }
      { d with sends := d.sends.set key { st with next := (seq + 1) % 2 ^ 32 } }
    let r := r.each c.members fun r m =>
      let (dev, base) := m
      let hm : Hdr := { h.noCredit with flags := h.flags ||| 0x04, addr := BitVec.ofNat 64 (base + off) }
      r.castCopy src part g seq dev { code := 0x0C, h := hm, data := data } (.cast n)
    (n, r)

/-- A cast store whose copies have all completed answers its requester (R197). Where that is `NADM`, its refusal word carries the
hint and reason of the copy's refusal and a credit of the store's own (R107, R108). -/
def Run.castPoke (r : Run s₀) (n : Nat) : Run s₀ :=
  match r.d.castOps.get? n with
  | some o =>
    if o.left == 0 then
      let r := r.mod fun d => { d with castOps := d.castOps.del n }
      let c := castEnd o.stats
      if c.status == .nadm then
        let q : Asked := { src := o.src, part := o.part, cls := o.cls, code := 0x0C, addr := o.addr, asid := o.asid }
        let p := (srcPort o.src).getD 0
        let books := match srcPort o.src with
          | some p => r.d.passBooks q { gates := [(.portIn p, 1 + o.lines), (.portOut p, 1)], ports := [p], bytes := 64 * o.lines }
          | none => []
        let (c, r) := r.refuse q (wordHint c.word) (bits c.word 32 4) false p books
        r.reply o.reply false c []
      else (r.grantReq o.src o.part).reply o.reply false c []
    else r
  | none => r

/-! ### What waits to leave -/

/-- A request that waited leaves: on its credit where it has one, with the time it spent here taken off its budget (R117). A copy of
a cast store that is refused again completes with `NADM` (R197). -/
def Run.leaveAfter (r : Run s₀) (x : After) : Run s₀ :=
  let r := match x.cred.bind fun n => (r.d.credits.get? n).map fun c => (n, c) with
    | some (n, c) => r.useCredit n c
    | none => r
  match x.cast with
  | some (g, seq) =>
    if x.dst == r.d.self then
      match r.castHere x.src x.part x.req x.reply (x.cred.isNone) with
      | (some c, r) => r.castCopyEnd x.reply c
      | (none, r) => r
    else match r.d.maySend x.src.agent x.dst x.req.size (some g) with
      | some (.hint ps) => r.castCopyEnd x.reply ⟨.nadm, refusalWord ps 0 1 false false x.req.h.cls ((srcPort x.src).getD 0), 0⟩
      | none => r.send x.src x.dst x.req x.reply x.part (r.now - x.since) (some g) none (some seq)
  | none =>
    let id := r.d.onext
    let r := r.send x.src x.dst x.req x.reply x.part (r.now - x.since)
    if x.retried || x.via.isSome then
      r.mod fun d => { d with origs := d.origs.upd id fun o => { o with retried := x.retried, via := x.via } }
    else r

/-- May a waiting request leave now: its slot has come, no entry of its agent that it must follow is open, its stream takes it? A
cast copy has its number in the stream already, so only a device that is unreachable turns it away. -/
def Dev.afterReady (d : Dev) (x : After) : Bool :=
  x.at_ ≤ d.now && (match x.cast with
    | some (g, _) => x.dst == d.self || d.unreachable x.dst || (d.maySend x.src.agent x.dst x.req.size (some g)).isNone
    | none => !(d.reliefOpen x.src.agent x.dst) && (d.maySend x.src.agent x.dst x.req.size none).isNone)

/-- Let what waits leave, in order; one that waits holds back what its agent issued after it to the same device, or in the same cast
stream. `mine` chooses the requests this is for. -/
def Run.leaveAll (r : Run s₀) (mine : After → Bool) : List After → List After → Run s₀
  | [], kept => r.mod fun d => { d with after := kept ++ d.after }
  | x :: t, kept =>
    let held := kept.any fun y => y.src.agent == x.src.agent && y.dst == x.dst
      && (match x.cast, y.cast with | some (g, _), some (g', _) => g == g' | none, none => !x.retried && !y.retried | _, _ => false)
    if mine x && !held && r.d.afterReady x then Run.leaveAll (r.leaveAfter x) mine t kept
    else Run.leaveAll r mine t (kept ++ [x])

/-- Entries that waited for an acknowledgement leave, and so do requests that waited for an entry (R205) or for the slot of their
credit; those of pair `pairs`, or those of no pair. -/
def Run.afterAck (r : Run s₀) (pairs : Option Nat := none) : Run s₀ :=
  let r := r.each (r.d.relief.filter (fun e => e.2.due)) fun r e => r.releaseRelief e.1
  if r.d.after.isEmpty then r
  else (r.mod fun d => { d with after := [] }).leaveAll (fun x => pairs == match x.src with | .pair n => some n | _ => none) r.d.after []

end

end Sys2Proof.Machine
end

