-- ==== Sys2Proof/Machine/SyncOps.lean ====
section
/-!
DEFINITION. The sync operations and fences themselves (R140-R149, R490): fields of a request header (Table 7-16) and of a
descriptor (Table 5-3), the operation on a counter of this device, the request that carries it to another device, fences,
and what every finished request may release.
-/

namespace Sys2Proof.Machine

/-- The fields of a sync or fence operation, Table 5-3. A device of `none` is this device (0xFFFF, SELF, NSELF). -/
structure SyncF where
  ctr    : Nat := 0
  mode   : Nat := 0
  event  : Bool := false
  notify : Bool := false
  dev    : Option Nat := none
  nctr   : Nat := 0
  ndev   : Option Nat := none
  value  : BitVec 64 := 0
  namt   : BitVec 64 := 0
deriving DecidableEq, Repr

/-- The fields of a sync or fence request (Table 7-16). -/
def syncFOf (h : Hdr) : SyncF :=
  let w := h.operand2.toNat
  { ctr := bits h.ctr.toNat 0 15, mode := bits w 0 2, event := bit w 2, notify := bit w 3
    dev := if bit w 4 then none else some (bits w 8 14), nctr := bits w 40 15
    ndev := if bit w 5 then none else some (bits w 24 14), value := h.operand, namt := h.operand3 }

/-- Does a sync or fence request keep Table 7-16? `fabric` says whether it came on a port of role 3 or 4, where DEV equals
DSTDEV and SELF is clear; on a compute-attach port exactly one of SELF and DEV names the device, so DEV is 0 beside SELF. -/
def syncHdrOk (h : Hdr) (code : Nat) (fabric : Bool) : Bool :=
  let w := h.operand2.toNat
  let fence := code == 0x58
  let arm := code == 0x53
  let self_ := bit w 4
  let nself := bit w 5
  h.n == 1 && h.a == 0 && h.etype == 0 && h.asid == 0 && h.epoch == 0 && h.flags &&& 0x3C == 0
    && bits w 6 2 == 0 && bits w 22 2 == 0 && bits w 38 2 == 0 && bits w 55 9 == 0
    && (if fence then h.ctr == 0 else bit h.ctr.toNat 15)
    && (if code == 0x50 then bits w 0 2 ≤ 2 else if fence then bits w 0 2 ≤ 2 else bits w 0 2 == 0)
    && (if arm then true else !bit w 2 && !bit w 3)
    && (if code == 0x52 || fence then h.operand == 0 else true)
    && (if fence && bits w 0 2 != 1 then !self_ && bits w 8 14 == 0
        else if fabric then !self_ && bits w 8 14 == h.dst else !self_ || bits w 8 14 == 0)
    && (if arm && bit w 3 then (!nself || bits w 24 14 == 0)
        else !nself && bits w 24 14 == 0 && bits w 40 15 == 0 && h.operand3 == 0)

/-- The header of a class S sync request to a device, `SELF` clear. -/
def SyncF.hdr (f : SyncF) (code dst self : Nat) : Hdr :=
  { sword := plainSword 0, ctr := BitVec.ofNat 16 (32768 + f.ctr), operand := f.value
    operand2 := BitVec.ofNat 64 (f.mode + 4 * b2n f.event + 8 * b2n f.notify + 256 * dst
      + (if f.notify && code == 0x53 then 2 ^ 24 * f.ndev.getD self + 2 ^ 40 * f.nctr else 0))
    operand3 := if f.notify then f.namt else 0 }

section
variable {s₀ : State}

/-- A counter operation on this device in the name of a partition (R143-R148): its completion, and the result record of
`SYNC.READ`. -/
def Run.syncLocal (r : Run s₀) (part code : Nat) (f : SyncF) : Compl × Option (List Byte) × Run s₀ :=
  let c := r.d.ctr f.ctr
  if r.d.ctrOwner f.ctr != part then (Compl.of .denied, none, r)
  else if code == 0x50 then (Compl.of .ok, none, r.setCtr f.ctr { c with value := f.value, mode := f.mode, arm := none })
  else if code == 0x51 then (Compl.of .ok, none, r.addCtr f.ctr f.value)
  else if code == 0x52 then (Compl.of .ok, some c.result, r)
  else
    let nd := f.ndev.getD r.d.self
    if f.notify && nd == r.d.self && r.d.ctrOwner f.nctr != part then (Compl.of .denied, none, r)
    else
      let a : Arm := { event := f.event, notify := f.notify, nctr := f.nctr, ndev := nd, namt := f.namt, part := part }
      (Compl.of .ok, none, r.setCtr f.ctr { c with thresh := f.value, arm := some a })

/-! ### Fences (R140-R142, R205) -/

/-- Is a send stream key one of this agent's? -/
def keyOfAgent (key agent : Nat) : Bool :=
  if key < 2 ^ 40 then key / 16384 == agent else (key - 2 ^ 40) / 4096 == agent

/-- Does a fence of this scope cover requests to device `dst`: all devices (0), device `dev` (1), this device (2)? -/
def inScope (scope dev self dst : Nat) : Bool := scope == 0 || (if scope == 1 then dst == dev else dst == self)

/-- Requests of a fence's source, within its scope, that still wait at this device without being jobs: held in the relief store,
waiting to leave, or parked on a translation fault; a parked request may yet turn out to be for any device (log entry 185). -/
def Dev.waitingOf (d : Dev) (f : Fence) : Bool :=
  d.relief.any (fun e => inScope f.scope f.dev d.self e.2.dst && e.2.who.any fun w => w.src == f.src)
    || d.after.any (fun x => x.src == f.src && x.since ≤ f.began && inScope f.scope f.dev d.self x.dst)
    || d.fents.any (fun e => e.2.reqs.any fun q => match q with
        | .port p _ h _ _ => Src.ident p (bits h.stream.toNat 0 7) == f.src
        | .pair n => Src.pair n == f.src)
    || d.again.any (fun q => match q with
        | .port p _ h _ _ => Src.ident p (bits h.stream.toNat 0 7) == f.src
        | .pair _ => false)

/-- Does a fence hold back no more: its streams are acknowledged toward the devices it covers, its jobs and coherence requests are
done, nothing of its source waits. -/
def Dev.fenceDone (d : Dev) (f : Fence) : Bool :=
  f.jobs.isEmpty && !d.waitingOf f
    && !(f.lines.any fun l => match d.txns.get? l with | some t => t.src == f.src && t.began ≤ f.began | none => false)
    && f.need.all fun k => match d.sends.get? k.1 with
        | some s => s.unacked.all fun u => seqBefore k.2 u.1 || !inScope f.scope f.dev d.self u.2.h.dst
        | none => true

/-- The fence's end at its issuer. -/
def Run.fenceEnd (r : Run s₀) (f : Fence) : Run s₀ :=
  match f.reply with
  | .port p dev path id => (r.grantReq f.src f.part).completePort p dev path id (Compl.of .ok)
  | .pair n => r.finish n .ok 0
  | _ => r

/-- Complete every fence that holds back no more. -/
def Run.fencesPoke (r : Run s₀) : Run s₀ :=
  let fs := r.d.fences.filter r.d.fenceDone
  let r := r.mod fun d => { d with fences := d.fences.filter fun f => !d.fenceDone f }
  r.each fs Run.fenceEnd

/-- Start a fence of a source: its relief entries leave (R205), and it waits for the last request of each stream in scope
and for the source's requests on this device. -/
def Run.fence (r : Run s₀) (src : Src) (part : Nat) (reply : Reply) (scope dev : Nat) : Run s₀ :=
  let covers (dst : Nat) : Bool := inScope scope dev r.d.self dst
  let r := r.each (r.d.relief.filter fun e => e.2.who.any fun w => w.src == src) fun r e => r.releaseRelief e.1
  let need := (r.d.sends.filter fun e => keyOfAgent e.1 src.agent).filterMap fun e =>
    ((e.2.unacked.filter fun u => covers u.2.h.dst).getLast?).map fun u => (e.1, u.1)
  let left := r.d.origs.filter fun o => match o.2.reply with
    | .relief n => covers o.2.dst && (r.d.reliefWho.getD n []).any (fun w => w.src == src)
    | _ => false
  let need := need ++ left.map fun o => (o.2.strm, o.2.req.h.seq.toNat)
  let here := covers r.d.self
  let jobs := if here then (r.d.jobs.filter fun j => j.2.src == src).map (·.1) else []
  let lines := (r.d.txns.filter fun t => t.2.src == src && covers ((r.d.g? (t.1 * 64)).elim (r.d.remoteOf t.1).1 fun _ => r.d.self)).map (·.1)
  let f : Fence := {
    src := src, part := part, reply := reply, need := need, jobs := jobs, scope := scope, dev := dev, lines := lines, began := r.now }
  (r.mod fun d => { d with fences := f :: d.fences }).fencesPoke

/-- The credits and the remote `SYNC.ADD`s whose earlier requests are all performed take effect, in order (R145): one whose stream
has reached its number lets the next one follow. -/
def Run.credits (r : Run s₀) : Nat → Run s₀
  | 0 => r
  | n + 1 =>
    match r.d.lates.find? fun x => r.d.allBefore x with
    | none => r
    | some x =>
      let r := (r.mod fun d => { d with lates := d.lates.erase x }).addCtr x.ctr x.amt
      let r := match x.reply with
        | some reply => ((r.grantReq x.src x.part).reply reply false (Compl.of .ok) []).performed x.strm
        | none => r
      Run.credits r n

/-- What a command may have let go on: lines that waited for a round, credits, requests that waited to leave, cast stores whose
copies are done, fences. -/
def Run.poke (r : Run s₀) : Run s₀ :=
  let r := r.recovered
  let r := (r.credits r.d.lates.length).afterAck
  let done := (r.d.castOps.filter fun e => e.2.left == 0).map (·.1)
  (r.each done Run.castPoke).fencesPoke

/-- Finish a command whose effect may release others. -/
def Run.close (r : Run s₀) : Host.Outcome State Fault Refusal := .next r.poke.cur

end

end Sys2Proof.Machine
end

