-- ==== Sys2Proof/Machine/CohOps.lean ====
section
/-!
DEFINITION. An agent's request for a copy of a line at its home slice (R158-R174): the checks before a transaction, free ways
of its directory set, the round that Table 6-6 asks for.
-/

namespace Sys2Proof.Machine

/-- The directory set of a line, over the whole device: its home slice and its set there. -/
def Dev.setNo (d : Dev) (line : Nat) : Nat := d.homeSlice (line * 64) * 4096 + (Config.dirSet d.key line).toNat

/-- The entries of a line's set. -/
def Dev.setMates (d : Dev) (line : Nat) : List (Nat × DirE) :=
  if d.dir.length < 14 then [] else d.dir.filter fun e => d.setNo e.1 == d.setNo line

/-- Ways of a set that are neither used nor reserved for a credited retry (R174). -/
def Dev.freeWays (d : Dev) (line : Nat) : Nat :=
  16 - (d.setMates line).length - (d.resWay.filter fun w => w.2.1 == d.setNo line).length

section
variable {s₀ : State}

/-- Back-invalidate one line: what a failed agent left is settled first (R177); `counted` where it is one of R173 or R174, and not of
a revocation or a warm reset (R361, R360). -/
def Run.evictLine (r : Run s₀) (line : Nat) (counted : Bool) : Run s₀ :=
  if r.d.txns.has line then r
  else
    let r := r.settle line
    match r.d.dir.get? line with
    | some e => r.roundOf line (.evict counted) (r.d.round e 31 0x29 (e.st == DState.dO)) 0x29
    | none => r

/-- Back-invalidate the least recently used entry of a line's set that has no transaction open (R173). -/
def Run.backInvalidate (r : Run s₀) (line : Nat) : Run s₀ :=
  match (r.d.setMates line).filter fun e => !r.d.txns.has e.1 with
  | [] => r
  | m :: ms => r.evictLine (ms.foldl (fun x y => if y.2.used < x.2.used then y else x) m).1 true

/-- Ways of a line's set that its open back-invalidations will free. -/
def Dev.evicting (d : Dev) (line : Nat) : Nat :=
  ((d.setMates line).filter fun e => match d.txns.get? e.1 with | some t => (match t.kind with | .evict _ => true | _ => false) | none => false).length

/-- Keep two free ways in a line's set (R173). -/
def Run.keepWays (r : Run s₀) (line : Nat) : Run s₀ :=
  r.each (List.range 2) fun r _ => if r.d.freeWays line + r.d.evicting line < 2 then r.backInvalidate line else r

/-- What a refused or late line answers: the completion, with what the verdict sets going. -/
def Run.stopLine (r : Run s₀) (x : Ctx) (a : Nat) (op : HOp) (v : LineChk) : Option Compl × Run s₀ :=
  let r := r.chkEffects a v
  match v with
  | .go => (none, r)
  | .ends c => (some c, r)
  | .late w _ _ => (some ⟨.late, w, 0⟩, r)
  | .nadm hint reason _ =>
    let (c, r) := r.refuseHome x a op hint reason
    (some c, r)

/-- What a request does to its line, as the checks see it: `RDX` and `UPG` make a writer; `UPG` of a holder wants no data. -/
def CohOp.asOp (op : CohOp) (named : Bool) : HOp :=
  match op with
  | .rds => .read
  | .rdx => .part 0 bad
  | .upg => if named then .write bad else .part 0 bad

/-- The snoops of Table 6-6 for a request of agent `ag` on an entry: operation and round. -/
def Dev.cohRound (d : Dev) (e : Option DirE) (op : CohOp) (ag : Nat) : Nat × List (Nat × Nat × Bool) :=
  match e, op with
  | none, _ => (0, [])
  | some e, .rds =>
    match e.st with
    | .ds => (0, [])
    | .dx => (0x28, d.round e ag 0x28 false)
    | .dO => (0x28, d.round e ag 0x28 true)
  | some e, .rdx => (0x29, d.round e ag 0x29 (e.st == DState.dO))
  | some e, .upg => (0x29, d.round e ag 0x29 false)

/-- The request at a home slice, or at the local slice of a proxy line, whose partition the cached maquette entry gives (R164, R168,
R344). Answers the completion of a request that ends without a transaction. A credited retry claims the way reserved with its credit,
which was dropped with it (R174). `via` is what it was translated through. -/
def Run.coh (r : Run s₀) (x : Ctx) (reply : Reply) (ag : Nat) (op : CohOp) (a : Nat) (via : Option (Nat × Nat) := none) :
    Option Compl × Run s₀ :=
  let line := lineNo a
  let x := { x with coh := true }
  let r := if r.d.txns.has line then r else r.settle line
  let named := match r.d.dir.get? line with | some e => e.named.contains ag | none => false
  let op := match op, r.d.dir.get? line with
    | .upg, some e => if named && e.st != DState.dx then CohOp.upg else .rdx
    | .upg, none => .rdx
    | o, _ => o
  let (stop, r) := match r.d.g? a with
    | some g =>
      let v := r.d.check x g a (op.asOp named)
      let (c, r) := r.stopLine x a (op.asOp named) v
      match c with
      | some c => (some c, r)
      | none => (none, r.chargeLine { x with plinth := true } g a (op.asOp named))
    | none =>
      match r.d.route (extentOf a) with
      | .ends st => (some (Compl.of st), r)
      | .nadm hint reason fetch =>
        let r := if fetch then r.fetchEntry (extentOf a) else r
        let (c, r) := r.refuse x.q hint reason true (r.d.homeSlice a) x.books
        (some c, r)
      | .here => (some (Compl.of .fault), r)
      | .to _ =>
        if (r.d.remoteOf line).2 != x.q.part then (some (Compl.of x.notOwned), r)
        else match r.d.txns.get? line with
        | some t =>
          let (c, r) := r.refuseHome x a (op.asOp named) ((t.began + r.d.txnBound line t) - r.now) 1
          (some c, r)
        | none => (none, r)
  match stop with
  | some c => (some c, r)
  | none =>
    if !r.d.dir.has line && r.d.freeWays line == 0 then
      let n := r.d.cnext
      let (c, r) := r.refuseHome x a (op.asOp named) (ns 350) 1
      let r := r.mod fun d => { d with resWay := d.resWay.set n (d.setNo line, d.now) }
      (some c, r.backInvalidate line)
    else
      let r := r.mergeComb a
      let part := x.q.part
      let self_ : Bool := match r.d.dir.get? line, op with | some _, .upg => false | some e, _ => e.st != DState.ds && e.p0 == ag | _, _ => false
      let (code, round) := r.d.cohRound (r.d.dir.get? line) op (if self_ then 31 else ag)
      let r := r.roundOf line (.coh op ag reply part) round code none x.q.src
      let r := if via.isNone then r else r.mod fun d => { d with txns := d.txns.upd line fun t => { t with via := via } }
      (none, r.keepWays line)

end

end Sys2Proof.Machine
end

