-- ==== Sys2Proof/Machine/HartOps.lean ====
section
/-!
DEFINITION. The accesses of the harts (chapter 13): the physical address map, the store aperture, requests of a cluster to its
home slices, the counter window, the interrupt files, cache-block operations (R157). A hart has one access under way; it
stalls until the access completes or takes an exception.
-/

namespace Sys2Proof.Machine

section
variable {s₀ : State}

/-! ### Requests of a core cluster (R331-R333) -/

/-- The partition of a core of cluster `k` (0x5110). -/
def Dev.corePart (d : Dev) (k core : Nat) : Nat := d.o (256 + k) 0x5110 (1 + core)

/-- The fill of a class B miss of a cluster, with the partition's flash rate (R105): its completion, or `none` where it waits. -/
def Run.clusterFill (r : Run s₀) (q : Asked) (lanes : Bool) : Option Compl × Run s₀ :=
  let b := blockOf q.addr
  if r.d.fills.has b || r.d.deep.has b then (none, r)
  else match (if lanes then r.d.winFlash q.part else .fits) with
    | .denied => (some (Compl.of .denied), r)
    | .full h =>
      let t := rateTime 16384 (max 1 (r.d.o q.part 0x6010 5))
      let (c, r) := r.refuse q h 3 true (r.d.homeSlice q.addr) [(winBook (winFlashRead q.part), t)]
      (some c, r)
    | .fits =>
      let r := if lanes then r.winAdd (winFlashRead q.part) (rateTime 16384 (max 1 (r.d.o q.part 0x6010 5))) else r
      (none, r.startFill b false)

/-- Send a coherence request of cluster `k` for a store address to its home slice: class L, again as class B where it is
answered `LATE` (R331-R333). Answers the completion of a request that ends without a transaction. A class B request for a
line that flash alone holds starts its fill and waits (`none`). -/
def Run.clusterCoh (r : Run s₀) (k part : Nat) (reply : Reply) (op : CohOp) (a : Nat) (cred : Option (Nat × Credit)) :
    Option Compl × Run s₀ :=
  let code := match op with | .rds => 0x20 | .rdx => 0x21 | .upg => 0x22
  let go (r : Run s₀) (cls : Nat) : Option Compl × Run s₀ :=
    let q : Asked := { src := .cluster k, part := part, cls := cls, code := code, addr := a }
    let booked (f : Nat × Nat → Bool) : Bool := match cred with | some (_, c) => c.booked.any f | none => false
    let flash := !booked fun b => b.1 == winBook (winFlashRead part)
    let x : Ctx := { q := q, lanes := !booked homeLane, flash := flash, again := cred.isSome }
    let books := match r.d.g? a with | some g => r.d.homeBooks q g a (op.asOp false) | none => []
    let (e, r) := match cred with
      | some (n, c) => (Entry.credited n c, r)
      | none => r.door q false 0 true (r.d.homeSlice a) books
    match e with
    | .refused c => (some c, r)
    | _ =>
      let r := match cred with | some (n, _) => r.dropCredit n | none => r
      let miss := cls == 2 && (match r.d.g? a with
        | some g => g.part == part && r.d.place g a == .miss && !(r.d.txns.has (lineNo a)) && g.state != 2 && r.d.keyOk part
        | none => false)
      match if miss then r.clusterFill q flash else r.coh x reply k op a, cred with
      | (none, r), some (_, c) => (none, r.admitOn c)
      | y, _ => y
  match cred with
  | some (_, c) => go r c.cls
  | none =>
    match go r 1 with
    | (some c, r) => if c.status == Status.late then go r 2 else (some c, r)
    | x => x

/-! ### The end of an access -/

/-- Change a hart. -/
def Run.updHart (r : Run s₀) (h : Nat) (f : Hart → Hart) : Run s₀ := r.mod fun d => { d with harts := d.harts.set h (f (d.harts.getD h {})) }

/-- An access completes with a value. -/
def Run.hartEnd (r : Run s₀) (h value : Nat) : Run s₀ :=
  (r.updHart h fun x => { x with pend := none, credit := none, loaded := value }).emit (.hart h value)

/-- An access takes an access fault (Table 13-1: cause 1, 5 or 7). -/
def Run.hartFault (r : Run s₀) (h : Nat) : Run s₀ := r.cohStatus (.hart h) (Compl.of .fault)

/-- A cluster's request of an access ended with a completion: a refusal leaves it on its credit (R332). -/
def Run.hartAnswer (r : Run s₀) (h : Nat) (c : Compl) : Run s₀ :=
  if c.status == .nadm then r.updHart h fun x => { x with credit := some (r.d.cnext - 1) } else r.cohStatus (.hart h) c

/-! ### Addresses (Tables 13-2 and 13-3) -/

/-- The aperture entry of window `i` as cluster `k` sees it: its word, a wait, or none where the table cannot be read (R334,
R335). -/
inductive Apert where
  | word (w : Nat)
  | wait
  | none

/-- Read an aperture entry, and cache it. -/
def Run.apertEnt (r : Run s₀) (k i : Nat) : Apert × Run s₀ :=
  match r.d.apert.get? (k * 2048 + i) with
  | some w => (.word w, r)
  | none =>
    let base := r.d.o 0 0x5F00 1
    if base == 0 || !(match r.d.g? (base + 8 * i) with | some g => g.tier != 2 | none => false) then (.none, r)
    else match r.ownRead 1025 none (base + 8 * i) 8 with
      | (.bytes bs, r) => (.word (leNat bs), (r.unready 1025).mod fun d => { d with apert := d.apert.set (k * 2048 + i) (leNat bs) })
      | (.wait, r) => (.wait, r)
      | (.fails _, r) => (.none, r)

/-! ### Through the aperture -/

/-- The lines an access touches. -/
def HAcc.lines (x : HAcc) (sa : Nat) : List Nat := [lineNo sa, lineNo (sa + 2 ^ x.width - 1)].dedup

/-- Does the L2 of cluster `k` hold a line so that the access can use it? -/
def Dev.hartHolds (d : Dev) (k : Nat) (x : HAcc) (line : Nat) : Bool :=
  match d.l2.get? (l2Key k line) with
  | none => false
  | some e => x.kind != 2 || e.st == .m || e.st == .e

/-- Perform a load, fetch or store in the lines that the L2 holds. -/
def Run.hartDo (r : Run s₀) (h : Nat) (x : HAcc) (sa : Nat) : Run s₀ :=
  let k := h / 4
  let n := 2 ^ x.width
  let line (l : Nat) : List Byte := match r.d.l2.get? (l2Key k l) with | some e => lineBytes e.data | none => zeros 64
  if x.kind != 2 then
    let bs := (x.lines sa).flatMap line
    r.hartEnd h (leNat ((bs.drop (sa % 64)).take n))
  else
    let r := r.each (cutLines 2 sa (leBytes n x.value)) fun r w =>
      r.mod fun d => { d with l2 := d.l2.upd (l2Key k (lineNo w.1)) fun e => { st := .m, data := mergeLine w.2.1 e.data w.2.2 } }
    r.hartEnd h 0

/-- The request that an access makes for a line its L2 does not hold as it needs. -/
def Dev.hartWants (d : Dev) (k : Nat) (x : HAcc) (line : Nat) : CohOp :=
  if x.kind != 2 then .rds else if d.l2.has (l2Key k line) then .upg else .rdx

/-- A load, fetch or store whose store address is known: performed, or asked for. -/
def Run.hartMem (r : Run s₀) (h : Nat) (x : HAcc) (sa : Nat) : Nat → Run s₀
  | 0 => r
  | f + 1 =>
    let k := h / 4
    match (x.lines sa).filter fun l => !r.d.hartHolds k x l with
    | [] => r.hartDo h x sa
    | l :: _ =>
      if r.d.txns.has l && (match r.d.txns.get? l with | some t => (match t.kind with | .coh _ ag _ _ => ag == k | _ => false) | none => false) then r
      else
        match r.clusterCoh k (r.d.corePart k (h % 4)) (.hart h) (r.d.hartWants k x l) (l * 64) none with
        | (some c, r) => r.hartAnswer h c
        | (none, r) => if r.d.hartHolds k x l && (r.d.harts.getD h {}).pend == some x then Run.hartMem r h x sa f else r

/-! ### Cache-block operations (R157) -/

/-- A cache-block operation: of a remote line a one-line `REGION.FLUSHOUT`, or `REGION.DISCARDIN` for `cbo.inval`; of a local
line its data is written back, and `cbo.flush` and `cbo.inval` drop every copy. It completes when its round and its
write-back, with the twin's acknowledgement where the line is protected, are done. -/
def Run.hartCbo (r : Run s₀) (h : Nat) (x : HAcc) (sa : Nat) : Run s₀ :=
  let line := lineNo sa
  let a := line * 64
  if x.asked then
    let busy := r.d.txns.any fun t => t.1 == line && (match t.2.kind with
      | .region n _ => n == 1024 + h | .ready _ => true | .pointing _ _ => true | _ => false)
    let away := r.d.origs.any (fun o => o.2.reply == .hart h) || r.d.after.any fun o => o.reply == .hart h
    if busy || away then r else r.hartEnd h 0
  else if r.d.txns.has line then r
  else
    let r := r.updHart h fun y => { y with pend := some { x with asked := true } }
    let r := (r.settle line).mergeComb a
    let denied : Bool := match r.d.g? a with
      | some g => g.part != r.d.corePart (h / 4) (h % 4)
      | none => match r.d.maq.get? (extentOf a) with | some c => c.entry.part.toNat != r.d.corePart (h / 4) (h % 4) | none => false
    let r := if denied then r.cohStatus (.hart h) (Compl.of .denied)
      else match r.d.dir.get? line with
        | none => r
        | some e =>
          if e.proxy then
            let drop := x.kind == 5
            let code := if drop then 0x29 else 0x2A
            if !drop && e.st == .ds then r
            else r.roundOf line (.region (1024 + h) drop) (r.d.round e 31 code (e.st == .dO)) code
          else
            let op : HOp := if x.kind == 3 then .read else .part 0 bad
            match r.d.opRound e op with
            | none => r
            | some (round, code) => r.roundOf line (.ready op) round code none
    let busy := r.d.txns.has line || r.d.origs.any fun o => o.2.reply == .hart h
    if busy || (r.d.harts.getD h {}).pend.isNone then r else r.hartEnd h 0

/-! ### The counter window (R338, R339) -/

/-- What a window access does (Table 13-4): the sync operation code, or 0 for a load of VALUE, 1 of MODE, 2 of THRESH. -/
def windowOp (kind off : Nat) : Option Nat :=
  if kind == 0 then (if off == 0 then some 0 else if off == 0x18 then some 1 else if off == 0x28 then some 2 else none)
  else if kind == 2 then (if off == 8 then some 0x51 else if off == 0x10 || off == 0x18 then some 0x50 else if off == 0x20 then some 0x53 else none)
  else none

/-- An access to counter `n` at offset `off`: a class S operation at the counter's slice. -/
def Run.hartWindow (r : Run s₀) (h : Nat) (x : HAcc) (n off : Nat) (cred : Option (Nat × Credit)) : Run s₀ :=
  let part := r.d.corePart (h / 4) (h % 4)
  match windowOp x.kind off with
  | none => r.hartFault h
  | some w =>
    if x.width != 3 || (off == 0x18 && w == 0x50 && 2 < x.value) || r.d.ctrOwner n != part then r.hartFault h
    else
      let slice := n / 128
      let q : Asked := { src := .cluster (h / 4), part := part, cls := 0, code := if w < 3 then 0x52 else w, addr := n }
      let (e, r) := match cred with
        | some (i, c) => (Entry.credited i c, r)
        | none => r.door q false 0 true slice [r.d.bookAt (.sram slice) 0 part 1]
      let perform (r : Run s₀) : Run s₀ :=
        let c := r.d.ctr n
        let v := BitVec.ofNat 64 x.value
        if w == 0 then r.hartEnd h c.value.toNat
        else if w == 1 then r.hartEnd h (c.mode % 4 + 4 * b2n c.arm.isSome)
        else if w == 2 then r.hartEnd h c.thresh.toNat
        else
          let f : SyncF := if w == 0x51 then { ctr := n, value := v }
            else if w == 0x53 then { ctr := n, value := v, event := true }
            else if off == 0x18 then { ctr := n, mode := x.value } else { ctr := n, mode := c.mode, value := v }
          ((r.syncLocal part w f).2.2).hartEnd h 0
      match e with
      | .refused c => r.hartAnswer h c
      | .credited i c => perform (r.useCredit i c)
      | .first =>
        match r.askS q slice [] with
        | (none, r) => perform r
        | (some c, r) => r.hartAnswer h c

/-- An access above the store aperture (Table 13-2). An interrupt file takes an identity by an aligned 4-byte store at its
offset 0; its other words read 0 and ignore stores. -/
def Run.hartIo (r : Run s₀) (h : Nat) (x : HAcc) (cred : Option (Nat × Credit)) : Run s₀ :=
  let y := x.pa - 2 ^ 55
  let file (r : Run s₀) (hart file off : Nat) : Run s₀ :=
    if x.kind == 1 || x.width != 2 || off % 4 != 0 then r.hartFault h
    else
      let r := if x.kind == 2 && off == 0 && 1 ≤ x.value && x.value ≤ 255 then r.imsicSet hart file x.value else r
      r.hartEnd h 0
  if 3 ≤ x.kind || x.pa % 2 ^ x.width != 0 then r.hartFault h
  else if y < 2 ^ 21 then r.hartWindow h x (y / 64) (y % 64) cred
  else if 2 ^ 32 ≤ y && y < 2 ^ 32 + 2 ^ 20 then file r ((y - 2 ^ 32) / 32768) (y % 32768 / 4096) (y % 4096)
  else if 2 ^ 33 ≤ y && y < 2 ^ 33 + 2 ^ 17 then file r ((y - 2 ^ 33) / 4096) 8 (y % 4096)
  else r.hartFault h

/-! ### One access -/

/-- Go on with a hart's access: nothing while it waits on a credit, its cluster is not active or the device not in READY. -/
def Run.hartTry (r : Run s₀) (h : Nat) : Run s₀ :=
  let y := r.d.harts.getD h {}
  let k := h / 4
  match y.pend with
  | none => r
  | some x =>
    if y.credit.isSome || r.d.agentState k != 1 || !r.d.ready || r.d.noAdmit then r
    else if r.d.o (r.d.corePart k (h % 4)) 0x6050 1 != 1 then r.cohStatus (.hart h) (Compl.of .denied)
    else if 2 ^ 55 ≤ x.pa then r.hartIo h x none
    else match x.sa with
      | some sa => if 3 ≤ x.kind then r.hartCbo h x sa else r.hartMem h x sa 3
      | none =>
        match r.apertEnt k (bits x.pa 44 11) with
        | (.wait, r) => r
        | (.none, r) => r.hartFault h
        | (.word w, r) =>
          if !bit w 0 || (x.kind == 2 && bit w 1) then r.hartFault h
          else
            let sa := bits w 44 18 * 2 ^ 44 + x.pa % 2 ^ 44
            let x := { x with sa := some sa }
            let r := r.updHart h fun y => { y with pend := some x }
            if 3 ≤ x.kind then r.hartCbo h x sa else r.hartMem h x sa 3

/-- A hart starts an access; a hart that stalls starts none. -/
def Run.hartStart (r : Run s₀) (h : Nat) (x : HAcc) : Run s₀ :=
  if (r.d.harts.getD h {}).pend.isSome || r.d.agentState (h / 4) != 1 || !r.d.ready || r.d.noAdmit then r
  else
    let r := r.mod fun d => { d with apDrain := d.apDrain.filter (· != h) }
    (r.updHart h fun y => { y with pend := some x }).hartTry h

/-- Accesses that wait for a line, a fill or a round go on. -/
def Run.hartsPoke (r : Run s₀) : Run s₀ := r.each (r.d.harts.map (·.1)) Run.hartTry

/-- A cluster retries the refused access of a hart on its credit (R109, R110, R332). -/
def Run.hartRetry (r : Run s₀) (h : Nat) : Run s₀ :=
  let y := r.d.harts.getD h {}
  match y.pend, y.credit with
  | some x, some i =>
    let first (r : Run s₀) : Run s₀ := (r.updHart h fun y => { y with credit := none }).hartTry h
    match r.d.credits.get? i with
    | none => first r
    | some c =>
      match r.d.holdReason c.cls with
      | some reason => (r.refuseAgain i c (us 100) (some reason)).2
      | none =>
        if r.now < c.start then (r.refuseAgain i c (c.start - r.now) none).2
        else if c.until_ < r.now || r.d.agentState (h / 4) != 1 then first (r.dropCredit i)
        else
          let r := r.updHart h fun y => { y with credit := none }
          if c.cls == 0 then r.hartIo h x (some (i, c))
          else
            let op := if c.code == 0x20 then CohOp.rds else if c.code == 0x21 then .rdx else .upg
            match r.clusterCoh (h / 4) c.part (.hart h) op c.addr (some (i, c)) with
            | (some a, r) => r.hartAnswer h a
            | (none, r) => r
  | _, _ => r

end

end Sys2Proof.Machine
end

