-- ==== Sys2Proof/Machine/Wiotte.lean ====
section
/-!
DEFINITION. The Wiotte block and object format (R250-R258): decoding a block with the conditions of R256, encoding one, the
object header and index.
-/

namespace Sys2Proof.Machine.Wio

/-- An element type of Table 9-1: bytes of an element, exponent bits, mantissa bits. -/
structure Ty where
  bytes : Nat
  eb    : Nat
  mb    : Nat

/-- The element type of a code; 0x00, opaque bytes, has no exponent. -/
def ty? : Nat → Option Ty
  | 0x0A => some ⟨2, 8, 7⟩
  | 0x0B => some ⟨2, 5, 10⟩
  | 0x08 => some ⟨4, 8, 23⟩
  | 0x00 => some ⟨1, 0, 0⟩
  | _ => none

/-- SMLEN of R251: n for BF16, 3n for FP32, ⌈11n ÷ 8⌉ for FP16. -/
def smLen (t : Ty) (n : Nat) : Nat := if t.mb == 7 then n else if t.mb == 23 then 3 * n else (11 * n + 7) / 8

/-- Round up. -/
def up (n k : Nat) : Nat := (n + k - 1) / k * k

/-- Elements of substream `s` of `n` elements (R253). -/
def subCount (n s : Nat) : Nat := (n + 15 - s) / 16

/-! ### The code (R254, R255) -/

/-- One used entry: its index (15 is the escape), its symbol (256 sorts the escape last of its length), its length. -/
structure Ent where
  j   : Nat
  sym : Nat
  len : Nat
deriving DecidableEq, Repr

/-- Insert in the order of R255: by length, then by symbol. -/
def insEnt (e : Ent) : List Ent → List Ent
  | [] => [e]
  | x :: t => if e.len < x.len || (e.len == x.len && e.sym < x.sym) then e :: x :: t else x :: insEnt e t

/-- The canonical code of used entries: entry and code (R255), walked in order with the running code of the present length. -/
def assign : List Ent → Nat → Nat → List (Ent × Nat)
  | [], _, _ => []
  | e :: t, len, code =>
    let c := code * 2 ^ (e.len - len)
    (e, c) :: assign t e.len (c + 1)

/-- The codes of a block's used entries. -/
def codes (es : List Ent) : List (Ent × Nat) := assign (es.foldl (fun l e => insEnt e l) []) 0 0

/-- The used entries of a header. -/
def usedOf (hd : List Byte) : List Ent :=
  let clen := fld hd 0x20 8
  ((List.range 16).map fun j => (⟨j, if j == 15 then 256 else fld hd (0x28 + j) 1, bits clen (4 * j) 4⟩ : Ent)).filter fun e => e.len != 0

/-! ### Decoding -/

/-- `n` bits at bit position `pos` from the top of a substream of `total` bits. -/
def topBits (w total pos n : Nat) : Nat := w / 2 ^ (total - pos - n) % 2 ^ n

/-- A substream as one number, its first word the most significant. -/
def subNat (words : Nat) (bs : List Byte) : Nat :=
  (List.range words).foldl (fun a k => a * 2 ^ 32 + fld bs (4 * k) 4) 0

/-- Read one exponent at `pos`: the exponent and the next position. -/
def readOne (cs : List (Ent × Nat)) (eb w total pos : Nat) : Option (Nat × Nat) :=
  match cs.find? fun c => pos + c.1.len ≤ total && topBits w total pos c.1.len == c.2 with
  | none => none
  | some (e, _) =>
    if e.j == 15 then
      if pos + e.len + eb ≤ total then some (topBits w total (pos + e.len) eb, pos + e.len + eb) else none
    else some (e.sym, pos + e.len)

/-- Read `n` exponents, then at most 31 zero bits. -/
def readSub (cs : List (Ent × Nat)) (eb w total : Nat) : Nat → Nat → Option (List Nat)
  | 0, pos => if total - pos ≤ 31 && w % 2 ^ (total - pos) == 0 then some [] else none
  | n + 1, pos =>
    match readOne cs eb w total pos with
    | none => none
    | some (x, pos) => (readSub cs eb w total n pos).map (x :: ·)

/-- Read all substreams in order. -/
def readSubs (cs : List (Ent × Nat)) (eb n : Nat) (hd : List Byte) : List Nat → List Byte → Option (List (List Nat))
  | [], _ => some []
  | s :: ss, bs =>
    let words := fld hd (0x10 + s) 1
    match readSub cs eb (subNat words bs) (32 * words) (subCount n s) 0 with
    | none => none
    | some x => (readSubs cs eb n hd ss (bs.drop (4 * words))).map (x :: ·)

/-- The sign-mantissa field of element `i` (R252). -/
def smOf (t : Ty) (area : List Byte) (i : Nat) : Nat :=
  if t.mb == 7 then fld area i 1 else if t.mb == 23 then fld area (3 * i) 3
  else bits (fld area (11 * i / 8) 3) (11 * i % 8) 11

/-- An element of its exponent and its sign-mantissa field. -/
def join (t : Ty) (ex sm : Nat) : List Byte :=
  leBytes t.bytes (sm % 2 ^ t.mb + ex * 2 ^ t.mb + sm / 2 ^ t.mb * 2 ^ (t.mb + t.eb))

/-- What a decoder finds of a block: its raw bytes, or the first condition of R256 it breaks, 1-7 in list order. -/
inductive Dec where
  | raw (bs : List Byte)
  | fails (cond : Nat)
deriving DecidableEq, Repr

/-- BLKLEN of R251. -/
def blkLen (t : Ty) (raw : Bool) (rawLen : Nat) (hd : List Byte) : Nat :=
  if raw then 64 + up rawLen 64
  else up (0x40 + up (smLen t (rawLen / t.bytes)) 4 + 4 * ((List.range 16).map fun s => fld hd (0x10 + s) 1).sum) 64

/-- Do the used entries make a complete prefix code (R256)? -/
def codeOk (t : Ty) (es : List Ent) : Bool :=
  es.all (fun e => e.len ≤ 12) && es.any (fun e => e.j == 15) && (es.map (·.sym)).dedup.length == es.length
    && es.all (fun e => e.j == 15 || t.eb != 5 || e.sym < 32) && (es.map fun e => 2 ^ (12 - e.len)).sum == 4096

/-- Decode a block (R251-R256). -/
def decode (b : List Byte) : Dec :=
  match ty? (fld b 3 1) with
  | none => .fails 1
  | some t =>
    let raw := bit (fld b 4 1) 0
    let rawLen := fld b 6 2
    let len := fld b 8 2
    if fld b 0 2 != 0x5749 || fld b 2 1 != 1 then .fails 1
    else if fld b 4 1 / 2 != 0 || fld b 5 1 != 0 || fld b 0x0A 2 != 0 || fld b 0x37 9 != 0 then .fails 2
    else if fld b 3 1 == 0 && !raw then .fails 3
    else if rawLen == 0 || 4096 < rawLen || rawLen % t.bytes != 0 || len != blkLen t raw rawLen b || b.length < len then .fails 4
    else
      let es := usedOf b
      let n := rawLen / t.bytes
      if raw then
        if fld b 0x10 16 != 0 || fld b 0x20 8 != 0 || fld b 0x28 15 != 0 then .fails 5
        else if fld b 0x0C 4 != crc32c (putFld (b.take len) 0x0C 4 0) then .fails 7
        else .raw ((b.drop 64).take rawLen)
      else if !codeOk t es then .fails 5
      else
        match readSubs (codes es) t.eb n b (List.range 16) (b.drop (0x40 + up (smLen t n) 4)) with
        | none => .fails 6
        | some xs =>
          if fld b 0x0C 4 != crc32c (putFld (b.take len) 0x0C 4 0) then .fails 7
          else .raw (((List.range n).map fun i => join t ((xs.getD (i % 16) []).getD (i / 16) 0) (smOf t (b.drop 0x40) i)).flatten)

/-! ### Encoding (R258) -/

/-- The exponent of element `i` of raw bytes. -/
def expOf (t : Ty) (raw : List Byte) (i : Nat) : Nat := bits (fld raw (t.bytes * i) t.bytes) t.mb t.eb

/-- The sign-mantissa field of element `i`. -/
def smRaw (t : Ty) (raw : List Byte) (i : Nat) : Nat :=
  let w := fld raw (t.bytes * i) t.bytes
  w % 2 ^ t.mb + w / 2 ^ (t.mb + t.eb) * 2 ^ t.mb

/-- Count the exponents of a block: symbol and count, most frequent first. -/
def histogram (t : Ty) (raw : List Byte) : List (Nat × Nat) :=
  let xs := (List.range (raw.length / t.bytes)).map (expOf t raw)
  let add (l : List (Nat × Nat)) (x : Nat) : List (Nat × Nat) :=
    if l.any (fun e => e.1 == x) then l.map fun e => if e.1 == x then (e.1, e.2 + 1) else e else (x, 1) :: l
  let rec ins (e : Nat × Nat) : List (Nat × Nat) → List (Nat × Nat)
    | [] => [e]
    | y :: ys => if y.2 < e.2 then e :: y :: ys else y :: ins e ys
  (xs.foldl add []).foldl (fun l e => ins e l) []

/-- A package of the length-limited code: weight, and the leaves in it. -/
abbrev Pack := Nat × List Nat

/-- Insert a package by weight. -/
def insPack (p : Pack) : List Pack → List Pack
  | [] => [p]
  | q :: t => if p.1 < q.1 then p :: q :: t else q :: insPack p t

/-- Pair neighbours. -/
def pairUp : List Pack → List Pack
  | a :: b :: t => (a.1 + b.1, a.2 ++ b.2) :: pairUp t
  | _ => []

/-- The lengths of at most 12 bits with the least weighted sum (package-merge): leaves by number. -/
def lengths (ws : List Nat) : List Nat :=
  let leaves : List Pack := (ws.zipIdx.map fun w => (w.1, [w.2])).foldl (fun l p => insPack p l) []
  let all := (List.range 11).foldl (fun (l : List Pack) _ => (pairUp l).foldl (fun m p => insPack p m) leaves) leaves
  let used := ((all.take (2 * ws.length - 2)).map (·.2)).flatten
  (List.range ws.length).map fun i => used.count i

/-- Coded bits of a block under a code: entries and the escape's length. -/
def costOf (eb : Nat) (h : List (Nat × Nat)) (c : List (Nat × Nat) × Nat) : Nat :=
  (h.map fun e => e.2 * (match c.1.find? (fun x => x.1 == e.1) with | some x => x.2 | none => c.2 + eb)).sum

/-- The best code that gives entries to the `k` most frequent exponents. -/
def codeFor (h : List (Nat × Nat)) (k : Nat) : List (Nat × Nat) × Nat :=
  let ws := (h.take k).map (·.2) ++ [((h.drop k).map (·.2)).sum]
  let ls := lengths ws
  (((h.take k).map (·.1)).zip ls, ls.getD k 1)

/-- A code of the least coded size over 1 to 15 entries. -/
def bestCode (eb : Nat) (h : List (Nat × Nat)) : List (Nat × Nat) × Nat :=
  ((List.range 15).map (fun k => codeFor h (k + 1))).foldl (fun b c => if costOf eb h c < costOf eb h b then c else b) (codeFor h 1)

/-- The header's used entries of a code. -/
def entsOf (c : List (Nat × Nat) × Nat) : List Ent :=
  c.1.zipIdx.map (fun e => (⟨e.2, e.1.1, e.1.2⟩ : Ent)) ++ [⟨15, 256, c.2⟩]

/-- Append the code bits of one exponent. -/
def putExp (cs : List (Ent × Nat)) (eb : Nat) (a : Nat × Nat) (x : Nat) : Nat × Nat :=
  match cs.find? fun c => c.1.j != 15 && c.1.sym == x with
  | some (e, c) => (a.1 * 2 ^ e.len + c, a.2 + e.len)
  | none =>
    match cs.find? fun c => c.1.j == 15 with
    | some (e, c) => ((a.1 * 2 ^ e.len + c) * 2 ^ eb + x, a.2 + e.len + eb)
    | none => a

/-- The bytes of a substream: its bits from the top of each word down, zero-filled (R253). -/
def subBytes (a : Nat × Nat) : Nat × List Byte :=
  let words := (a.2 + 31) / 32
  let w := a.1 * 2 ^ (32 * words - a.2)
  (words, ((List.range words).map fun k => leBytes 4 (w / 2 ^ (32 * (words - 1 - k)))).flatten)

/-- The sign-mantissa area (R252). -/
def smArea (t : Ty) (raw : List Byte) (n : Nat) : List Byte :=
  if t.mb == 7 then (List.range n).map fun i => BitVec.ofNat 8 (smRaw t raw i)
  else if t.mb == 23 then ((List.range n).map fun i => leBytes 3 (smRaw t raw i)).flatten
  else leBytes (smLen t n) (((List.range n).map fun i => smRaw t raw i * 2 ^ (11 * i)).sum)

/-- Pad with zeros to a length. -/
def padTo (bs : List Byte) (n : Nat) : List Byte := bs ++ zeros (n - bs.length)

/-- A block in raw mode. -/
def rawBlock (etype : Nat) (raw : List Byte) : List Byte :=
  let len := 64 + up raw.length 64
  let b := padTo (leBytes 2 0x5749 ++ [1] ++ leBytes 1 etype ++ [1, 0] ++ leBytes 2 raw.length ++ leBytes 2 len ++ zeros 54 ++ raw) len
  putFld b 0x0C 4 (crc32c b)

/-- A block in compressed mode under a code; none where a substream does not fit its SUBLEN. -/
def blockWith (etype : Nat) (t : Ty) (raw : List Byte) (c : List (Nat × Nat) × Nat) : Option (List Byte) :=
  let n := raw.length / t.bytes
  let es := entsOf c
  let cs := codes es
  let subs := (List.range 16).map fun s =>
    subBytes (((List.range (subCount n s)).map fun k => expOf t raw (s + 16 * k)).foldl (putExp cs t.eb) (0, 0))
  let clen := (es.map fun e => e.len * 2 ^ (4 * e.j)).sum
  let syms := (List.range 15).map fun j => match es.find? (fun e => e.j == j) with | some e => BitVec.ofNat 8 e.sym | none => 0
  let hd := leBytes 2 0x5749 ++ [1] ++ leBytes 1 etype ++ [0, 0] ++ leBytes 2 raw.length ++ zeros 8
    ++ subs.map (fun s => BitVec.ofNat 8 s.1) ++ leBytes 8 clen ++ syms ++ zeros 9
  let body := padTo (smArea t raw n) (up (smLen t n) 4) ++ (subs.map (·.2)).flatten
  let len := up (64 + body.length) 64
  if subs.any (fun s => 255 < s.1) then none
  else
    let b := putFld (padTo (hd ++ body) len) 0x08 2 len
    some (putFld b 0x0C 4 (crc32c b))

/-- Is the encoder's free choice a well-formed code with entries only for the most frequent exponents, whose block is no
longer than that of a code of the fewest bits (R258: the block's coded size, which is BLKLEN)? -/
def choiceOk (etype : Nat) (t : Ty) (raw : List Byte) (c : List (Nat × Nat) × Nat) : Bool :=
  let h := histogram t raw
  c.1.length ≤ 15 && c.1.all (fun e => 1 ≤ e.2 && e.1 < 2 ^ t.eb) && 1 ≤ c.2 && codeOk t (entsOf c)
    && h.all (fun x => c.1.any (fun e => e.1 == x.1) || h.all fun y => !c.1.any (fun e => e.1 == y.1) || x.2 ≤ y.2)
    && match blockWith etype t raw c, blockWith etype t raw (bestCode t.eb h) with
      | some b, some m => b.length ≤ m.length
      | some _, none => true
      | none, _ => false

/-- The code an encoder uses for a block: the part's own choice where it satisfies R258. -/
def codeUsed (etype : Nat) (t : Ty) (raw : List Byte) : List (Nat × Nat) × Nat :=
  if choiceOk etype t raw (Config.wioCode etype raw) then Config.wioCode etype raw else bestCode t.eb (histogram t raw)

/-- Encode the raw bytes of a block (R258): raw where compressing does not make it smaller. -/
def encode (etype : Nat) (forceRaw : Bool) (raw : List Byte) : List Byte :=
  match ty? etype with
  | none => rawBlock etype raw
  | some t =>
    if forceRaw || etype == 0 then rawBlock etype raw
    else
      match blockWith etype t raw (codeUsed etype t raw) with
      | some b => if b.length < 64 + up raw.length 64 then b else rawBlock etype raw
      | none => rawBlock etype raw

/-- Was a block stored raw? -/
def isRaw (b : List Byte) : Bool := bit (fld b 4 1) 0

/-! ### Objects (R257) -/

/-- The fields of an object header. -/
structure Obj where
  etype : Nat
  rawLen : Nat
  nblk  : Nat
  data  : Nat
deriving DecidableEq, Repr

/-- An object header that keeps Table 9-3. -/
def objOf (b : List Byte) : Option Obj :=
  let o : Obj := ⟨fld b 3 1, fld b 8 8, fld b 0x10 4, fld b 0x18 8⟩
  if fld b 0 2 == 0x574F && fld b 2 1 == 1 && (ty? o.etype).isSome && fld b 4 4 == 0 && 1 ≤ o.rawLen && o.rawLen ≤ 2 ^ 40
      && o.nblk == cdiv o.rawLen 4096 && fld b 0x14 4 == 0 && o.data == 64 + up (8 * o.nblk) 64 && fld b 0x20 32 == 0 then some o
  else none

/-- RAWLEN of block `k` of an object. -/
def Obj.blkRaw (o : Obj) (k : Nat) : Nat := if k + 1 == o.nblk then o.rawLen - 4096 * (o.nblk - 1) else 4096

/-- An index entry: offset in lines and lines, where it keeps Table 9-4. -/
def idxOf (o : Obj) (w : Nat) : Option (Nat × Nat) :=
  let off := bits w 0 40
  let n := bits w 40 7
  if bits w 47 17 == 0 && 2 ≤ n && n ≤ 65 && o.data ≤ 64 * off then some (off, n) else none

/-- Do two runs of lines, each a first line and a number of lines, overlap (R257)? -/
def overlap : List (Nat × Nat) → Bool
  | [] => false
  | x :: xs => xs.any (fun y => x.1 < y.1 + y.2 && y.1 < x.1 + x.2) || overlap xs

/-- A decoded block that is block `k` of the object: its RAWLEN and ETYPE are the object's, its BLKLEN the index entry's; a mismatch
breaks condition 4 or 1. -/
def decodeIn (o : Obj) (k : Nat) (b : List Byte) : Dec :=
  match decode b with
  | .fails c => .fails c
  | .raw bs => if fld b 3 1 != o.etype then .fails 1 else if bs.length != o.blkRaw k || fld b 8 2 != b.length then .fails 4 else .raw bs

/-- An object of raw bytes: header, index, blocks. -/
def pack (etype : Nat) (forceRaw : Bool) (raw : List Byte) : List Byte × List (List Byte) :=
  let nblk := cdiv raw.length 4096
  let data := 64 + up (8 * nblk) 64
  let blocks := (List.range nblk).map fun k => encode etype forceRaw ((raw.drop (4096 * k)).take 4096)
  let idx := blocks.foldl (fun (a : List Byte × Nat) b =>
    (a.1 ++ leBytes 8 (a.2 / 64 + 2 ^ 40 * (b.length / 64)), a.2 + b.length)) ([], data)
  let hd := leBytes 2 0x574F ++ [1] ++ leBytes 1 etype ++ zeros 4 ++ leBytes 8 raw.length ++ leBytes 4 nblk ++ zeros 4
    ++ leBytes 8 data ++ zeros 32
  (padTo (hd ++ idx.1) data, blocks)

end Sys2Proof.Machine.Wio
end

