-- ==== Sys2Proof/Machine/Requests.lean ====
section
/-!
DEFINITION. A request at a port (R131-R139, R187-R197, R490-R493): link and role, transit, the stream layer, the header rules,
partition, credits and holds, translation, routing by the maquette, the port's gates, and its service here or its way to
another device.
-/

namespace Sys2Proof.Machine

/-- A request as it stands at a port: its operation code, header, data, its place in a stream, whether it is replayed after a
fault (R81), and what the checks find at its lines. -/
structure Arr where
  p     : Nat
  code  : Nat
  h     : Hdr
  data  : List DLine := []
  strm  : Option (Nat × Nat) := none
  again : Bool := false
  found : List Finding := []
  /-- when its time in this device began (R117, R118) -/
  since : Nat := 0
deriving DecidableEq, Repr

/-- A port of role 3 or 4. -/
def Dev.fabric (d : Dev) (p : Nat) : Bool := d.role p == 3 || d.role p == 4

/-- Where the answer goes: the originating device by the path the request named, with its tag. -/
def Arr.reply (a : Arr) : Reply := .port a.p a.h.src a.h.path a.h.reqid.toNat

/-- The source of a request (R108, R131). -/
def Arr.src (a : Arr) (fabric : Bool) : Src :=
  if fabric then .remote a.p a.h.src a.h.agent else .ident a.p (bits a.h.stream.toNat 0 7)

/-! ### Header rules (R187, R190, R192, R194, R493) -/

/-- The classes an operation may carry (Tables 4-1 and 7-7). -/
def classOk (code cls : Nat) : Bool :=
  if isSync code then cls == 0 else if isCoh code || isAtomic code then cls == 1 else cls != 0

/-- The element type field of a request: reductions and atomics as Table 7-9, object loads as R263, else 0. -/
def etypeOk (code : Nat) (h : Hdr) : Bool :=
  if isReduce code then match EType.of? h.etype.toNat with | some t => t.reduces (ropOf code) | none => false
  else if isAtomic code then match EType.of? h.etype.toNat with | some t => t.atomic | none => false
  else if code == 0x01 then
    (h.etype == 0 && !h.flag 4)
      || ((h.etype == 8 || h.etype == 10 || h.etype == 11) && h.cls == 2 && h.n % 64 == 0 && h.operand.toNat % 4096 == 0)
  else h.etype == 0

/-- The address of a request: aligned, and within its kind of address (R24, R62, R190, R194). -/
def addrOk (code : Nat) (h : Hdr) (virt : Bool) : Bool :=
  (if virt then virtAddrOk h.a else storeAddrOk h.a)
    && (if isAtomic code then match EType.of? h.etype.toNat with | some t => h.a % t.bytes == 0 | none => false else h.a % 64 == 0)

/-- Does the header keep the rules of the port's role? A `SYNC.WAIT` keeps none: it belongs in a chain (R149). -/
def headerOk (role code : Nat) (h : Hdr) : Bool :=
  let fabric := role == 3 || role == 4
  let coh := isCoh code
  let virt := !fabric && !(coh && !(0x20 ≤ code && code ≤ 0x22))
  h.swordOk && code != 0x54 && !h.flag 7 && h.hops ≤ 7 && classOk code h.cls
    && 1 ≤ h.n && h.n ≤ 1024 && (h.cls != 1 || h.n == 1) && (h.n == 1 || !(code == 0x03 || isAtomic code || coh))
    && bits h.srcdev.toNat 14 2 == 0 && bits h.stream.toNat 29 3 == 0 && bits h.tag.toNat 12 4 == 0
    && (h.flag 1 == false || isReduce code)
    && (if fabric then h.asid == 0 && agentListed h.agent && h.agent < 0x1100 && (h.agent != 0x1002 || code == 0x52)
          && code != 0x58 && !coh && (code != 0x0C || h.flag 2)
        else h.srcdev == 0 && h.dstdev == 0 && h.epoch == 0 && bits h.stream.toNat 7 9 == 0 && (role == 2 || !coh)
          && (virt || h.asid == 0))
    && (if isSync code then syncHdrOk h code fabric
        else addrOk code h virt && etypeOk code h && (code == 0x13 || h.operand2 == 0)
          && (h.operand3 == 0 || (fabric && h.agent == 0x1001)))

/-- The partition of a request (R343, R345): the binding of its identity, or PART. -/
def Dev.partOf (d : Dev) (fabric : Bool) (a : Arr) : Option Nat :=
  if fabric then some a.h.part.toNat else d.identP.get? (a.p * 128 + bits a.h.stream.toNat 0 7)

/-- A partition's state (0x6050:01): 0 free, 1 active, 2 resetting, 3 releasing. -/
def Dev.partState (d : Dev) (part : Nat) : Nat := d.o part 0x6050 1

/-- Is an ASID in the range of a partition (R63, 0x6050:03, :04)? -/
def Dev.ownsAsid (d : Dev) (part asid : Nat) : Bool :=
  d.o part 0x6050 3 ≤ asid && asid < d.o part 0x6050 3 + d.o part 0x6050 4

/-- Rights a request needs of its leaf (R190, Table 3-2): 0 read, 1 write, 2 reduction, cast store or atomic. -/
def accessOf (code : Nat) : Nat :=
  if needsRed code then 2 else if code == 0x02 || code == 0x03 || code == 0x21 || code == 0x22 then 1 else 0

section
variable {s₀ : State}

/-- Answer a request at once; an unused port grants no request credits (R493). -/
def Run.answerAt (r : Run s₀) (a : Arr) (c : Compl) : Run s₀ :=
  let fabric := r.d.fabric a.p
  let r := if r.d.role a.p == 0 then r else match c.status, r.d.partOf fabric a with
    | .nadm, _ => r
    | _, some part => r.grantReq (a.src fabric) part
    | _, none => r
  (r.reply a.reply false c []).performed a.strm

/-! ### Object loads (R263) -/

/-- Lines read on the device's own behalf, poison kept, or a wait, or the status that ends them. -/
inductive Got where
  | lines (ls : List DLine)
  | wait
  | fails (st : Status)

/-- Read `k` lines from line address `a`. -/
def Run.readLines (r : Run s₀) (n part : Nat) : Nat → Nat → Got × Run s₀
  | 0, _ => (.lines [], r)
  | k + 1, a =>
    let next (l : DLine) (r : Run s₀) : Got × Run s₀ :=
      match Run.readLines r n part k (a + 64) with
      | (.lines ls, r) => (.lines (l :: ls), r)
      | x => x
    match r.ownLine n (some part) a with
    | (.bytes bs, r) => next (good (lineOf bs)) r
    | (.fails .poison, r) => next bad r
    | (.wait, r) => (.wait, r)
    | (.fails st, r) => (.fails st, r)

/-- Where blocks of an object lie, by their index entries: block, first line and lines, or a wait, or the status that ends them. -/
inductive Spots where
  | at_ (ps : List (Nat × Nat × Nat))
  | wait
  | fails (st : Status)

/-- The places of the blocks `ks` of an object. -/
def Run.objSpots (r : Run s₀) (n part a : Nat) (o : Wio.Obj) : List Nat → Spots × Run s₀
  | [] => (.at_ [], r)
  | k :: ks =>
    match r.ownRead n (some part) (a + 64 + 8 * k) 8 with
    | (.wait, r) => (.wait, r)
    | (.fails st, r) => (.fails st, r)
    | (.bytes w, r) =>
      match Wio.idxOf o (leNat w) with
      | none => (.fails .fault, r)
      | some (off, len) => match Run.objSpots r n part a o ks with
        | (.at_ ps, r) => (.at_ ((k, off, len) :: ps), r)
        | x => x

/-- Expand one block as it was read: 64 raw lines, the bytes past its RAWLEN free; a failed block is poison, with its record
(R260, R261). -/
def Run.expand (r : Run s₀) (part a : Nat) (o : Wio.Obj) (k : Nat) (ls : List DLine) : List DLine × Run s₀ :=
  let dec := if ls.any (·.poison) then Wio.Dec.fails 8
    else Wio.decodeIn o k (ls.flatMap fun l => lineBytes l.data)
  match dec with
  | .raw bs =>
    let (n, r) := r.draw
    let bs := bs ++ (List.range (4096 - bs.length)).map (Config.freeByte n)
    ((linesOf 64 bs).map good, r.bump 0 0xC010 1)
  | .fails c =>
    let r := (r.bump 0 0xC010 2).error (mkErr 0x0D 2 0 (r.d.homeSlice a) (some part) a k c)
    (List.replicate 64 bad, r)

/-- The stored lines of the blocks at these places of an object. -/
def Run.readSpots (r : Run s₀) (n part a : Nat) : List (Nat × Nat × Nat) → Got × Run s₀
  | [] => (.lines [], r)
  | (_, off, len) :: ps =>
    match r.readLines n part len (a + 64 * off) with
    | (.lines ls, r) =>
      match Run.readSpots r n part a ps with
      | (.lines more, r) => (.lines (ls ++ more), r)
      | x => x
    | x => x

/-- Expand the blocks at these places, their stored lines having been read. -/
def Run.expandSpots (r : Run s₀) (part a : Nat) (o : Wio.Obj) : List (Nat × Nat × Nat) → List DLine → List DLine × Run s₀
  | [], _ => ([], r)
  | (k, _, len) :: ps, ls =>
    let (out, r) := r.expand part a o k (ls.take len)
    let (more, r) := Run.expandSpots r part a o ps (ls.drop len)
    (out ++ more, r)

/-- End job `id` with whole lines, or with one status. -/
def Run.endJob (r : Run s₀) (id : Nat) (g : Got) : Run s₀ :=
  let res : List LineRes := match g with
    | .lines ls => ls.zipIdx.map fun l => ⟨l.2, Compl.of (if l.1.poison then .poison else .ok), l.1⟩
    | .fails st => [⟨0, Compl.of st, bad⟩]
    | .wait => []
  let r := r.mod fun d => { d with
    jobs := d.jobs.upd id fun j => { j with left := 0, lines := res.length, res := res }
    objWait := d.objWait.filter fun w => w.1 != id }
  (r.unready (2048 + id)).finishJob id

/-- Try an object load of job `id`: it ends, or waits. -/
def Run.objTry (r : Run s₀) (id : Nat) (h : Hdr) : Run s₀ :=
  match r.d.jobs.get? id with
  | none => r
  | some j =>
    let part := j.part.getD 0
    match r.ownRead (2048 + id) (some part) h.a 64 with
    | (.wait, r) => r
    | (.fails st, r) => r.endJob id (.fails st)
    | (.bytes b, r) =>
      match Wio.objOf b with
      | none => r.endJob id (.fails .fault)
      | some o =>
        let k0 := h.operand.toNat / 4096
        let k1 := (h.operand.toNat + 64 * h.n + 4095) / 4096
        if o.etype != h.etype.toNat || o.nblk < k1 then r.endJob id (.fails .fault)
        else
          match r.objSpots (2048 + id) part h.a o ((List.range (k1 - k0)).map (k0 + ·)) with
          | (.wait, r) => r
          | (.fails st, r) => r.endJob id (.fails st)
          | (.at_ ps, r) =>
            if Wio.overlap (ps.map (·.2)) then r.endJob id (.fails .fault)
            else match r.readSpots (2048 + id) part h.a ps with
            | (.wait, r) => r
            | (.fails st, r) => r.endJob id (.fails st)
            | (.lines ls, r) =>
              let (ls, r) := if h.flag 4 then (ls, r) else r.expandSpots part h.a o ps ls
              r.endJob id (.lines ls)

/-! ### Service at this device -/

/-- The job of a request served here. -/
def Arr.job (a : Arr) (src : Src) (part addr : Nat) (via : Option (Nat × Nat)) : Job :=
  let fwdOf := if a.h.agent == 0x1001 && isWriteOp a.code then
      some (bits a.h.operand3.toNat 0 14, bits a.h.operand3.toNat 16 16, bits a.h.operand3.toNat 32 32) else none
  { src := src, reply := a.reply, part := some part, code := a.code, addr := addr, lines := a.h.n, cls := a.h.cls
    reduces := if a.h.flag 1 then a.h.operand.toNat % 2 ^ 32 else 1
    ctr := a.h.counter, unit := a.h.unit, fwd := fwdOf, left := 0, strm := a.strm, via := via }

/-- Flits of a request and of its answer at a port (Table 7-7). -/
def Arr.flitsIn (a : Arr) : Nat := 1 + a.data.length
def Arr.flitsOut (a : Arr) : Nat := if a.code == 0x01 then a.h.n else 1

/-- What a request needs of the port it came by, and of the port it leaves by for another device (R96, R103). -/
def Arr.pass (a : Arr) (out : Option Nat) : Pass :=
  let more := match out with | some p => [(Gate.portOut p, a.flitsIn)] | none => []
  { gates := [(Gate.portIn a.p, a.flitsIn), (Gate.portOut a.p, a.flitsOut)] ++ more, ports := a.p :: out.toList, bytes := 64 * a.h.n }

/-- The home lanes that a refusal of a request at a port books as well, its store addresses being known (R108). -/
def Dev.homeOf (d : Dev) (a : Arr) (q : Asked) (tos : List Nat) : List (Nat × Nat) :=
  match tos with
  | t :: _ => match d.g? t with
    | some g => d.homeBooks q g t (lineOp a.code a.h a.data 0)
    | none => []
  | [] => []

/-- Perform a request at this device; `tos` are the store addresses of its lines, `moved` the completions of lines of extents
that are not homed here. Answers it if it is refused as a whole. -/
def Run.here (r : Run s₀) (a : Arr) (x : Ctx) (src : Src) (via : Option (Nat × Nat)) (tos : List Nat) : Option Compl × Run s₀ :=
  match r.d.ctrCheck x.q.part a.h.counter with
  | some st => (some (Compl.of st), r)
  | none =>
    let j := a.job src x.q.part (tos.headD 0) via
    if a.code == 0x01 && a.h.etype != 0 then
      let id := r.d.jnext
      let r := r.mod fun d => { d with
        jobs := d.jobs.set id { j with left := 1, began := d.now, cls := 2 }, jnext := id + 1
        objWait := d.objWait ++ [(id, { a.h with addr := BitVec.ofNat 64 (tos.headD 0) })] }
      (none, r.objTry id { a.h with addr := BitVec.ofNat 64 (tos.headD 0) })
    else
      r.serveAll x j a.h a.data tos a.found

/-- Where a sync or fence request of a port goes, and what it needs of the ports (Table 7-16, R490). -/
def Dev.syncDst (d : Dev) (a : Arr) (fabric : Bool) : Nat := if fabric then d.self else (syncFOf a.h).dev.getD d.self
def Dev.syncPass (d : Dev) (a : Arr) (src : Src) (fabric : Bool) : Pass :=
  let dst := d.syncDst a fabric
  a.pass (if dst == d.self || a.code == 0x58 then none else d.egress src.agent dst)

/-- What the credit of a sync request books beside the port gates: the lane of its counter's slice, where the counter is here. -/
def Dev.syncHome (d : Dev) (a : Arr) (q : Asked) (fabric : Bool) : List (Nat × Nat) :=
  if d.syncDst a fabric == d.self && a.code != 0x58 then [d.bookAt (.sram ((syncFOf a.h).ctr / 128)) 0 q.part 1] else []

/-- A sync or fence operation of a port request (R140-R149, R490), admitted at the port's gates: at the slice of a counter of this
device, or sent on. `c` is the credit it came on. Answers whether it was refused. A `SYNC.ADD` from another device waits for the
earlier requests of its stream to be performed (R145). -/
def Run.syncPort (r : Run s₀) (a : Arr) (src : Src) (part : Nat) (fabric : Bool) (c : Option Credit) (q : Asked) : Option Compl × Run s₀ :=
  let f := syncFOf a.h
  let dst := r.d.syncDst a fabric
  if a.code == 0x58 then
    (none, (r.fence src part a.reply f.mode dst).performed a.strm)
  else if dst == r.d.self then
    let slice := f.ctr / 128
    let asked := match c with | some c => !c.booked.any homeLane | none => !a.again
    match if asked then r.askS q slice (r.d.passBooks q (r.d.syncPass a src fabric)) else (none, r) with
    | (some c, r) => (some c, r)
    | (none, r) =>
      let late : Late := { src := src, strm := a.strm, job := r.d.jnext, ctr := f.ctr, amt := f.value, reply := some a.reply, part := part, since := r.now }
      if fabric && a.code == 0x51 && r.d.ctrOwner f.ctr == part && !(r.d.allBefore late) then
        (none, r.mod fun d => { d with lates := d.lates ++ [late] })
      else match r.syncLocal part a.code f with
      | (c, some bs, r) => (none, ((r.grantReq src part).reply a.reply true c [good (lineOf bs)]).performed a.strm)
      | (c, none, r) => (some c, r)
  else
    match r.d.maySend src.agent dst 80 none with
    | some (.hint h) =>
      let (c, r) := r.refuse q h 1 false a.p (r.d.passBooks q (r.d.syncPass a src fabric))
      (some c, r)
    | none =>
      (none, r.originate src part dst { code := a.code, h := { f.hdr a.code dst r.d.self with sword := if c.isNone then a.h.noCredit.sword else a.h.sword } }
        a.reply (r.now - a.since))

/-! ### Requests of other devices' lines -/

/-- The answer to a request for an extent that this device does not home (R377): MOVED by a departed record, by the cached
entry, or by the keeper's entry once it is fetched (`none`). -/
def Dev.movedFor (d : Dev) (e : Nat) : Option Compl :=
  match d.depart.get? e with
  | some x => some ⟨.moved, movedWord x.epoch x.home, 0⟩
  | none => match d.maq.get? e with
    | some c => if c.entry.home.toNat == d.self then none else some ⟨.moved, movedWord c.entry.epoch.toNat c.entry.home.toNat, 0⟩
    | none => none

/-- Forwards under way and forward records held (R378). -/
def Dev.forwards (d : Dev) : Nat :=
  d.fwds.length + (d.jobs.filter fun j => match j.2.reply with | .forwarded .. => true | _ => false).length

/-- A request of another device for an extent not homed here: a line copied by an extent move to this device (Table 2-10), else
forwarded once (R377), or answered `MOVED`; its completion where it ends at once. A copied line of a protected extent is pointed
(R399). -/
def Run.notHome (r : Run s₀) (a : Arr) (part e : Nat) : Option Compl × Run s₀ :=
  let coming : Option Nat := match r.d.inAlloc.get? e with
    | some x => if a.h.agent == 0x1000 && a.code == 0x02 && a.h.src == x.src && part == x.part then some (x.tier + 4 * b2n x.prot) else none
    | none => none
  match coming with
  | some tier =>
    let r := r.mod fun d => { d with inAlloc := d.inAlloc.upd e fun x => { x with came := Marks.add x.came (granuleOf a.h.a) } }
    (some (Compl.of .ok), r.each a.data.zipIdx fun r x =>
      let la := a.h.a + 64 * x.2
      let l : DLine := if x.1.poison then bad else x.1
      let r := r.putTier (tier % 4) la l
      if 4 ≤ tier && (r.d.pairState == 1 || r.d.pairState == 2) then r.pointSend la part 3 l else r)
  | none =>
  match r.d.depart.get? e with
  | some x =>
    let dep : Compl := ⟨.moved, movedWord x.epoch x.home, 0⟩
    let stays := !isWriteOp a.code || a.h.agent == 0x1001 || 16384 ≤ r.d.forwards
    let blocked := match r.d.maySend 0x1001 x.home (80 * (1 + a.data.length)) none with | some _ => true | none => false
    if stays || blocked then (some dep, r)
    else
      let id := r.d.jnext
      let j : Job := { a.job (a.src true) part a.h.a none with
        reply := .forwarded a.p a.h.src a.h.path a.h.reqid.toNat x.epoch x.home, left := 1, lines := 1, ctr := none, fwd := none
        began := r.now, cls := a.h.cls }
      let r := r.mod fun d => { d with jobs := d.jobs.set id j, jnext := id + 1 }
      let w := a.h.src + 65536 * a.h.agent + 2 ^ 32 * a.h.reqid.toNat
      (none, (r.bump 0 0x7040 3).send .forwarder x.home
        { code := a.code, h := { a.h.noCredit with operand3 := BitVec.ofNat 64 w }, data := a.data } (.line id 0) part (r.now - a.since))
  | none =>
    match r.d.movedFor e with
    | some c => (some c, r)
    | none =>
      let id := r.d.jnext
      let j : Job := { a.job (a.src true) part a.h.a none with left := 1, lines := 1, ctr := none, fwd := none, began := r.now }
      let r := r.mod fun d => { d with jobs := d.jobs.set id j, jnext := id + 1, owed := d.owed ++ [(e, .line id 0)] }
      (none, r.fetchEntry e)

/-- The lines of a request that lie on other devices: store address, index, home. -/
def Dev.awayLines (d : Dev) (tos : List Nat) : List (Nat × Nat × Nat) :=
  tos.zipIdx.filterMap fun t => match d.route (extentOf t.1) with
    | .to dst => some (t.1, t.2, dst)
    | _ => none

/-- What such a request needs of the ports: each of those lines leaves as a request of its own. -/
def Dev.mixedPass (d : Dev) (a : Arr) (src : Src) (tos : List Nat) : Pass :=
  let outs := (d.awayLines tos).filterMap fun t => d.egress src.agent t.2.2
  let x := a.pass none
  { x with
    gates := x.gates ++ outs.dedup.map fun p => (Gate.portOut p, (outs.filter (· == p)).length * (1 + dataLines a.code 1))
    ports := a.p :: outs.dedup }

/-- A request of an attached device whose lines lie on more than one device: this device's lines are served here, each other
line goes to its home as a request of its own (log entry 14). -/
def Run.mixed (r : Run s₀) (a : Arr) (x : Ctx) (src : Src) (via : Option (Nat × Nat)) (tos : List Nat) : Option Compl × Run s₀ :=
  let away := r.d.awayLines tos
  let blocked := away.findSome? fun t => r.d.maySend src.agent t.2.2 160 none
  match blocked with
  | some (.hint h) =>
    let (c, r) := r.refuse x.q h 1 false a.p (r.d.homeOf a x.q tos ++ x.books)
    (some c, r)
  | none =>
    let id := r.d.jnext
    let ends := (tos.map fun t => (extentOf t, match r.d.route (extentOf t) with | .ends st => Compl.of st | _ => Compl.of .fault)).dedup
    match r.here a { x with moved := ends, away := away.map fun t => extentOf t.1 } src via tos with
    | (some c, r) => (some c, r)
    | (none, r) =>
        let r := r.each away fun r t =>
          let (la, idx, dst) := t
          let last := away.all fun u => u.2.2 != dst || u.2.1 ≤ idx
          let h : Hdr := { a.h.noCredit with
            lines := 1, addr := BitVec.ofNat 64 (la / 64 * 64)
            flags := (a.h.flags &&& 0x2E) ||| (if last then a.h.flags &&& 0x40 else 0) }
          r.originate src x.q.part dst { code := a.code, h := h, data := (a.data.drop idx).take 1 } (.line id idx) (r.now - a.since)
            (via.map fun v => (v.1, v.2 + 64 * idx))
        (none, r)

/-! ### Translation at a compute-attach port (R62-R84) -/

/-- The translation block of a port. -/
def blkOfPort (p : Nat) : Nat := p / 2

/-- The virtual addresses of a request's lines. -/
def lineAddrs (a n : Nat) : List Nat := (List.range n).map fun i => a + 64 * i

/-- What the translation cache says of the lines of a request. -/
inductive XR where
  | ok (tos : List Nat)
  /-- pages of 64 KiB that no entry covers -/
  | miss (pages : List Nat)
  /-- an entry lacks the permission -/
  | perm (va : Nat) (e : TlbE)
  deriving DecidableEq, Repr

/-- Look the lines up in a block. -/
def Dev.lookUp (d : Dev) (blk asid access : Nat) (vas : List Nat) : XR :=
  let hits := vas.map fun va => (va, d.hit? blk asid va)
  let missing := ((hits.filter fun h => h.2.isNone).map fun h => h.1 / 65536 * 65536).dedup
  match hits.findSome? fun h => match h.2 with | some e => if e.allows access then none else some (h.1, e) | none => none with
  | some (va, e) => .perm va e
  | none =>
    if missing.isEmpty then .ok (hits.map fun h => match h.2 with | some e => e.addr h.1 | none => 0) else .miss missing

/-- Note the use of the entries that translate some lines; the pin kept for the retry of credit `cred` ends (R70). -/
def Run.useTlb (r : Run s₀) (blk asid : Nat) (vas : List Nat) (cred : Option Nat) : Run s₀ :=
  let es := (vas.filterMap fun va => r.d.hit? blk asid va).dedup
  r.each es fun r e => r.putTlb blk (match cred with
    | some n =>
      if e.creds.contains n then
        let left := e.creds.filter (· != n)
        { e with creds := left, pin := if left.isEmpty then none else e.pin }
      else e
    | none => e)

/-- The access byte of a fault record. -/
def accessBit (access : Nat) : Nat := 2 ^ access

/-- The region of a fault caught on a cached entry. -/
def TlbE.fault (e : TlbE) (part va access source slice : Nat) : FaultAt :=
  { part := part, asid := e.asid, va := va, kind := 2, level := if e.bits == 30 then 2 else if e.bits == 21 then 1 else 0
    base := e.vpn * 2 ^ e.bits, bits := e.bits, access := access, source := source, slice := slice }

/-- The request as it is parked. -/
def Arr.parked (a : Arr) : Parked := .port a.p a.code a.h a.data a.since

/-- A fault of a port's request that is not answered yet (R77, R80, R84): it parks, or completes with `FAULT`. Table 3-4 parks a
PERM fault, which R190 answers with `FAULT`: the model parks it unless NOPARK is set (log entry 186). -/
def Run.portFault (r : Run s₀) (a : Arr) (f : FaultAt) : Run s₀ :=
  if a.h.nopark || 3 ≤ f.kind then (r.reportFault f).answerAt a (faultC f.kind)
  else if 1024 ≤ r.d.parkedAtPort a.p then (r.cannotPark f).answerAt a (faultC f.kind)
  else
    match r.takeEntry f 1 [a.parked] with
    | (some _, r) => r
    | (none, r) => r.answerAt a (faultC f.kind)

/-- Refuse a request that misses the translation cache, and start its walks, or join those for its pages (R69, R70). A retry that
comes in its slot and finds a walk still going is refused with a fresh credit, whose hint is what is left of the walk's bound (R71,
R112); `old` is the credit it came on, already dropped. -/
def Run.missPort (r : Run s₀) (a : Arr) (q : Asked) (access : Nat) (vas pages : List Nat) (old : Option Nat) : Run s₀ :=
  let full := ns 2200 * cdiv pages.length 8
  let blk := blkOfPort a.p
  let same (va : Nat) (w : Walk) : Bool := w.blk == blk && w.asid == q.asid && w.va == va && w.waits.any fun x => x.done.isNone
  let mine (w : Walk) : Bool := match old with | some n => w.waits.any fun x => x.cred == n && x.done.isNone | none => false
  let ends := (r.d.walks.filter mine).map fun w => w.began + full
  let hint := if ends.isEmpty then full else (ends.foldl max 0) - r.now
  let n := r.d.cnext
  let r := r.each pages fun r va =>
    let x : XWait := { cred := n, va := (vas.find? fun v => v / 65536 * 65536 == va).getD va, access := access, port := a.p, hint := full }
    if r.d.walks.any (same va) then
      let join (w : Walk) : Walk := if same va w then { w with waits := (w.waits.filter fun y => some y.cred != old) ++ [x] } else w
      r.mod fun d => { d with walks := d.walks.map join }
    else r.mod fun d => { d with walks := d.walks ++ [{ blk := blk, asid := q.asid, va := va, part := q.part, began := d.now, waits := [x] }] }
  let (c, r) := r.refuse q hint 4 false a.p (r.d.passBooks q (a.pass none))
  r.answerAt a c

/-- A credited retry whose walk ended in a fault (R71): it parks on the entry the walk took, or completes with `FAULT`. -/
def Run.retryFault (r : Run s₀) (a : Arr) (kind entry : Nat) : Run s₀ :=
  if 3 ≤ kind then r.answerAt a (faultC kind)
  else if a.h.nopark || 1024 ≤ r.d.parkedAtPort a.p || entry == 2048 then (r.refused1 entry).answerAt a (faultC kind)
  else
    (r.mod fun d => { d with fents := d.fents.upd entry fun e =>
      { e with parked := e.parked + 1, reqs := e.reqs ++ [a.parked] } }).recount entry

/-- The fault in which the walk for credit `n` ended, where its coalescing entry still stands for the page (R71). An entry that was
resolved meanwhile no longer does: the retry then walks anew (log entry 187). -/
def Dev.walkFault (d : Dev) (n : Nat) : Option (Nat × Nat) :=
  d.walks.findSome? fun w => w.waits.findSome? fun x =>
    if x.cred != n then none
    else match x.done with
      | some (kind, i) =>
        if 3 ≤ kind || i == 2048 || (match d.fents.get? i with | some e => e.asid == w.asid && e.base ≤ x.va && x.va < e.base + 2 ^ e.bits | none => false)
        then some (kind, i) else none
      | none => none

/-! ### The gates, then service -/

/-- What the gates of a port need of a request: ask them (a credited retry, whose credit `c` is dropped, and a request replayed after
a fault are admitted whatever the load, R81, R109), let `k` serve it, and take their time only if it was not refused at its home
(R100). `home` are the home lanes that a refusal books as well. -/
def Run.atGates (r : Run s₀) (a : Arr) (q : Asked) (c : Option Credit) (x : Pass) (home : List (Nat × Nat))
    (k : Run s₀ → Option Compl × Run s₀) : Run s₀ :=
  let (v, r) := if c.isSome || a.again then (Verdict.go, r) else r.askPass q x home
  let enter (r : Run s₀) : Run s₀ := match c with
    | some c => r.admitOn c
    | none => if a.again then r.each (r.d.passBooks q x ++ home) fun r b => r.takeAt q.part b else r.takePass q x
  match v with
  | .stop y => r.answerAt a y
  | .go =>
    match k r with
    | (some y, r) => (if y.status == .nadm then r else enter r).answerAt a y
    | (none, r) => enter r

/-- The completion of a cast store checked at its port (R196), if it may not go out. -/
def Dev.castStop (d : Dev) (a : Arr) (part : Nat) : Option Status :=
  match a.h.cast with
  | none => some .fault
  | some g => d.castCheck g part a.h.a a.h.n

/-- What the home slice is told of a request of a port: the budget left after its time here (R118), and what the credit `c` it came on
booked there, so that it is asked no more (R109). `books` is what a refusal there books at the ports. -/
def Dev.homeCtx (d : Dev) (a : Arr) (q : Asked) (c : Option Credit) (books : List (Nat × Nat)) : Ctx :=
  { q := q, nofill := a.h.nofill, port := some a.p, again := c.isSome, books := books
    dl := if a.h.dl && a.h.budget != noBudget then some (a.h.budget * 8000 - (d.now - a.since)) else none
    lanes := match c with | some c => !c.booked.any homeLane | none => !a.again
    flash := match c with | some c => !c.booked.any (fun b => b.1 == winBook (winFlashRead q.part)) | none => !a.again }

/-- A request with its store addresses, admitted or refused by the gates and served or sent on. `c` is the credit it came on, dropped
already. -/
def Run.routed (r : Run s₀) (a : Arr) (q : Asked) (src : Src) (c : Option Credit) (via : Option (Nat × Nat))
    (tos : List Nat) : Run s₀ :=
  let fabric := r.d.fabric a.p
  let pass := a.pass none
  let home := r.d.homeOf a q tos
  let x := r.d.homeCtx a q c (r.d.passBooks q pass)
  let exts := (tos.map extentOf).dedup
  if 0x20 ≤ a.code && a.code ≤ 0x22 then
    let op := if a.code == 0x20 then CohOp.rds else if a.code == 0x21 then .rdx else .upg
    r.atGates a q c pass home fun r => r.coh x a.reply (8 + a.p) op (tos.headD 0) via
  else
    let rs := exts.map fun e => (e, r.d.route e)
    let r := if c.isSome then r.each exts Run.unpinMaq else r
    if fabric || rs.all (fun e => e.2 == Route.here) then
      match exts.find? fun e => !r.d.homed e with
      | none => r.atGates a q c pass home fun r => r.here a x src via tos
      | some e =>
        match exts.find? fun e => !r.d.homed e && (r.d.movedFor e).isNone with
        | some e => r.atGates a q c pass [] fun r => r.notHome a q.part e
        | none =>
        if exts.all fun e => !r.d.homed e then
          let out := match r.d.depart.get? e with | some y => if isWriteOp a.code then r.d.egress 0x1001 y.home else none | none => none
          r.atGates a q c (a.pass out) [] fun r => r.notHome a q.part e
        else r.atGates a q c pass home fun r =>
          let moved := (exts.filter fun e => !r.d.homed e).map fun e => (e, (r.d.movedFor e).getD (Compl.of .moved))
          r.here a { x with moved := moved } src via tos
    else
      match rs.findSome? fun e => match e.2 with | .nadm h n f => some (e.1, h, n, f) | _ => none with
      | some (_, hint, reason, _) =>
        let r := r.each rs fun r e => match e.2 with | .nadm _ _ true => r.fetchEntry e.1 | _ => r
        let (y, r) := r.refuse q hint reason false a.p (r.d.passBooks q pass ++ home)
        r.answerAt a y
      | none =>
        match rs with
        | [(_, .to dst)] =>
          let pass := a.pass (r.d.egress src.agent dst)
          match r.d.maySend src.agent dst (80 * (1 + a.data.length)) none with
          | some (.hint h) =>
            let (y, r) := r.refuse q h 1 false a.p (r.d.passBooks q pass)
            r.answerAt a y
          | none =>
            r.atGates a q c pass [] fun r =>
              let h : Hdr := { (if c.isSome then a.h else a.h.noCredit) with addr := BitVec.ofNat 64 (tos.headD 0) }
              (none, r.originate src q.part dst { code := a.code, h := h, data := a.data } a.reply (r.now - a.since) via)
        | [(_, .ends st)] => r.answerAt a (Compl.of st)
        | _ =>
          let pass := r.d.mixedPass a src tos
          r.atGates a q c pass home fun r => r.mixed a { x with books := r.d.passBooks q pass } src via tos

/-- The virtual addresses that a request of a compute-attach port translates. -/
def Arr.vas (a : Arr) : List Nat :=
  if isAtomic a.code || (a.code == 0x01 && a.h.etype != 0) then [a.h.a] else lineAddrs a.h.a a.h.n

/-- The rest of a request's way once its partition is known and it stands in front of the gates. A retry's credit is spent here,
whatever comes of it. -/
def Run.admitted (r : Run s₀) (a : Arr) (q : Asked) (src : Src) (ncred : Option (Nat × Credit)) : Run s₀ :=
  let fabric := r.d.fabric a.p
  let drop (r : Run s₀) : Run s₀ := match ncred with | some (n, _) => r.dropCredit n | none => r
  let c := ncred.map (·.2)
  if isSync a.code then
    let r := drop r
    r.atGates a q c (r.d.syncPass a src fabric) (r.d.syncHome a q fabric) fun r => r.syncPort a src q.part fabric c q
  else if a.code == 0x0C && !(a.h.flag 2 && fabric) then
    match r.d.castStop a q.part with
    | some st => (drop r).answerAt a (Compl.of st)
    | none =>
      (drop r).atGates a q c (a.pass none) [] fun r =>
        (none, (r.castCopies src q.part (a.h.cast.getD 0) a.h.a a.h a.data a.reply).2)
  else if fabric then
    (drop r).routed a q src c none (if isAtomic a.code then [a.h.a] else lineAddrs a.h.a a.h.n)
  else
    let blk := blkOfPort a.p
    let access := accessOf a.code
    if !r.d.ownsAsid q.part q.asid then (drop r).answerAt a (Compl.of .denied)
    else
      match r.d.lookUp blk q.asid access a.vas with
      | .ok tos =>
        let r := ((drop r).useTlb blk q.asid a.vas (ncred.map (·.1)))
        r.routed a q src c (some (q.asid, a.h.a)) tos
      | .perm va e =>
        let r := ((drop r).dropTlb blk (· == e)).2
        r.portFault a (e.fault q.part va (accessBit access) a.p 0)
      | .miss pages =>
        if a.again then
          match pages with
          | [] => r
          | page :: _ =>
            let va := (a.vas.find? fun v => v / 65536 * 65536 == page).getD page
            match r.walk blk 1024 q.asid va with
            | (.leaf e, r) => (r.install blk e).mod fun d => { d with again := d.again ++ [a.parked] }
            | (.fault kind level base bits, r) =>
              r.portFault a { part := q.part, asid := q.asid, va := va, kind := kind, level := level, base := base, bits := bits
                              access := accessBit access, source := a.p, slice := 0 }
            | (.wait, r) => r.mod fun d => { d with again := d.again ++ [a.parked] }
        else
          match ncred with
          | some (n, _) =>
            match r.d.walkFault n with
            | some (kind, entry) => (r.dropCredit n).retryFault a kind entry
            | none => (r.dropCredit n).missPort a q access a.vas pages (some n)
          | none => r.missPort a q access a.vas pages none

/-- What the credit of a request refused by a hold books: its port gates, and the home lanes where its store address is known
(R108). -/
def Dev.doorBooks (d : Dev) (a : Arr) (q : Asked) (src : Src) (fabric : Bool) : List (Nat × Nat) :=
  if isSync a.code then d.passBooks q (d.syncPass a src fabric) ++ d.syncHome a q fabric
  else if a.code == 0x0C && !(a.h.flag 2 && fabric) then d.passBooks q (a.pass none)
  else
    let tos := if fabric then [a.h.a] else match d.lookUp (blkOfPort a.p) q.asid (accessOf a.code) a.vas with | .ok tos => tos | _ => []
    let out := match tos with
      | t :: _ => if fabric then none else match d.route (extentOf t) with | .to dst => d.egress src.agent dst | _ => none
      | [] => none
    d.passBooks q (a.pass out) ++ d.homeOf a q tos

/-- A request at its port gate: the rules of its header, its partition, its cap, holds and credits (R97, R107-R114, R187, R345,
R353, R493). -/
def Run.arrive (r : Run s₀) (a : Arr) : Run s₀ :=
  let fabric := r.d.fabric a.p
  let role := r.d.role a.p
  let src := a.src fabric
  if role == 0 || !headerOk role a.code a.h then r.answerAt a (Compl.of .fault)
  else
    match r.d.partOf fabric a with
    | none => r.answerAt a (Compl.of .denied)
    | some part =>
      if r.d.partState part != 1 then r.answerAt a (Compl.of .denied)
      else
        let q : Asked := { src := src, part := part, cls := a.h.cls, code := a.code, addr := a.h.a, asid := a.h.asid.toNat }
        let held := if a.h.cred then r.d.creditOf q a.h.credit else none
        if r.d.noAdmit then
          let (c, r) := r.refuse q (65535 * 4096000) 1 false a.p (r.d.doorBooks a q src fabric)
          r.answerAt a c
        else if held.isNone && !a.again && r.d.o part 0x6010 7 ≤ r.d.outstanding a.p part then r.answerAt a (Compl.of .fault)
        else
          match (if fabric then r.d.fwds.find? fun f => f.dev == a.h.src && f.agent == a.h.agent && f.reqid == a.h.reqid.toNat else none) with
          | some f => (r.mod fun d => { d with fwds := d.fwds.filter (· != f) }).answerAt a f.st
          | none =>
            if a.again then r.admitted a q src none
            else if q.cls == 2 && r.d.o part 0x6010 4 == 0 then r.answerAt a (Compl.of .denied)
            else
              match r.door q a.h.cred a.h.credit false a.p (r.d.doorBooks a q src fabric) with
              | (.refused c, r) => r.answerAt a c
              | (.first, r) => r.admitted a q src none
              | (.credited n c, r) => r.admitted a q src (some (n, c))

/-! ### The stream layer of a fabric or twin port (R133-R139) -/

/-- Bytes held in the reorder store of port `p` (R134). -/
def Dev.reorderUsed (d : Dev) (p : Nat) : Nat :=
  (d.recvs.map fun e => ((e.2.held.filter fun h => h.2.1 == p).map fun h => h.2.2.2.size).sum).sum

/-- The name of a receive stream of a header. -/
def streamIdOf (h : Hdr) : StreamId :=
  { dev := BitVec.ofNat 14 h.src, agent := BitVec.ofNat 16 h.agent, cast := h.cast.map (BitVec.ofNat 12) }

/-- Does the header of a pointing write keep the field rules of Table 7-3: no flag but OPEN and UNIT, nothing in a field it does not
use? -/
def pointHdrOk (h : Hdr) : Bool :=
  h.swordOk && h.flags &&& 0xBE == 0 && h.n == 1 && h.hops ≤ 7 && h.a % 64 == 0 && storeAddrOk h.a && h.asid == 0 && h.etype == 0
    && bits h.srcdev.toNat 14 2 == 0 && bits h.stream.toNat 16 16 == 0 && bits h.tag.toNat 12 4 == 0
    && h.operand == 0 && h.operand2 == 0 && h.operand3 == 0

/-- A pointing write taken by the twin (R387, R388): one line, from a slice's stream of the twin device on a port of role 4, for
a granule whose copy is held here. It stands in the pointing buffer of its slice, whose oldest line leaves for its copy slot
when 1,024 are held, and is acknowledged. -/
def Run.pointed (r : Run s₀) (a : Arr) : Run s₀ :=
  if r.d.role a.p != 4 || a.h.src != r.d.o 0 0x8000 1 || a.code != 0x02 || !pointHdrOk a.h || a.data.length != 1
      || !r.d.copies.has (granuleOf a.h.a) then r.answerAt a (Compl.of .fault)
  else
    let l := lineNo a.h.a
    let n := (r.d.pbuf.foldl (fun m x => max m (x.1 + 1)) 0)
    let same := r.d.pbuf.filter fun x => r.d.homeSlice (x.2.1 * 64) == r.d.homeSlice (l * 64)
    let r := if 1024 ≤ same.length then
        (match same with
        | x :: _ => (r.setLine .copy x.2.1 x.2.2).mod fun d => { d with pbuf := d.pbuf.del x.1 }
        | [] => r)
      else r
    let r := (r.mod fun d => { d with pbuf := d.pbuf ++ [(n, (l, a.data.headD bad))] }).performed a.strm
    match a.strm with
    | some (_, seq) => r.wire a.p (.ack a.p { dev := BitVec.ofNat 14 a.h.src, agent := BitVec.ofNat 16 a.h.agent } r.d.self seq)
    | none => r

/-- Pass a request to its port gate: the next number of its stream, its time held deducted from BUDGET (R134). -/
def Run.pass (r : Run s₀) (key : Nat) (a : Arr) (heldPs : Nat) : Run s₀ :=
  let b := if a.h.budget == noBudget then a.h.budget else a.h.budget - heldPs / 8000
  let r := r.mod fun d => { d with recvs := d.recvs.upd key fun s => { s with next := (s.next + 1) % 2 ^ 32, passAt := d.now } }
  let a := { a with h := a.h.setBudget b, strm := some (key, a.h.seq.toNat), since := r.now }
  if 0x1100 ≤ a.h.agent && a.h.agent ≤ 0x11FF then r.pointed a else r.arrive a

/-- Pass the requests held behind a filled gap, in order. -/
def Run.passHeld (r : Run s₀) (key : Nat) : Nat → Run s₀
  | 0 => r
  | f + 1 =>
    match r.d.recvs.get? key with
    | none => r
    | some s =>
      match s.held.find? fun x => x.1 == s.next with
      | none => r.mod fun d => { d with recvs := d.recvs.upd key fun s =>
          { s with gap := match s.held with | [] => none | x :: xs => some (xs.foldl (fun m y => min m y.2.2.1) x.2.2.1) } }
      | some x =>
        let (seq, p, at_, q) := x
        let r := r.mod fun d => { d with recvs := d.recvs.upd key fun s => { s with held := s.held.filter fun y => y.1 != seq } }
        let r := r.setO p 0x3020 6 (r.d.o p 0x3020 6 - 1)
        Run.passHeld (r.pass key { p := p, code := q.code, h := q.h, data := q.data } (r.now - at_)) key f

/-- A request of a stream at its destination (R133, R134, R139). -/
def Run.stream (r : Run s₀) (a : Arr) : Run s₀ :=
  let key := rKey a.h.src a.h.agent a.h.cast
  let seq := a.h.seq.toNat
  let id := streamIdOf a.h
  let opened := a.h.flag 0 && seq == 0
  let r := if !r.d.recvs.has key && opened && r.d.recvs.length < 65536 then
      r.mod fun d => { d with recvs := d.recvs.set key { port := a.p } }
    else r
  match r.d.recvs.get? key with
  | none => if opened then r else (r.wire a.p (.sreset a.p id r.d.self)).bump a.p 0x3020 7
  | some s =>
    if seq == s.next then
      let r := r.mod fun d => { d with recvs := d.recvs.upd key fun s => { s with port := a.p } }
      (r.pass key a 0).passHeld key (s.held.length + 1)
    else if seqBefore seq s.next then
      let r := r.bump a.p 0x3020 5
      if s.begun then r.wire a.p (.ack a.p id r.d.self ((s.done + 2 ^ 32 - 1) % 2 ^ 32)) else r
    else if s.held.any (fun x => x.1 == seq) then r
    else
      let q : Req := { code := a.code, h := a.h, data := a.data }
      if 524288 < r.d.reorderUsed a.p + q.size then r
      else
        let r := r.mod fun d => { d with recvs := d.recvs.upd key fun s =>
          { s with held := s.held ++ [(seq, a.p, d.now, q)], gap := match s.gap with | some t => some t | none => some d.now } }
        r.setO a.p 0x3020 6 (r.d.o a.p 0x3020 6 + 1)

/-- A request in transit leaves by path `i`: the device keeps who it is for, and rewrites its budget, path and tag (R113, R117,
R188). -/
def Run.passOn (r : Run s₀) (a : Arr) (i : Nat) : Run s₀ :=
  let dst := a.h.dst
  let n := r.d.onext
  let h : Hdr := { a.h with
    sword := mkSword a.h.cls a.h.dl a.h.nofill a.h.nopark a.h.cred (a.h.hops + 1) (r.d.outBudget a.h.budget (r.now - a.since) dst) a.h.credit
    dstdev := BitVec.ofNat 16 (dst + 16384 * i), tag := BitVec.ofNat 16 (n % 4096) }
  let t : Transit := {
    src := a.src true, port := a.p, part := a.h.part.toNat, cls := a.h.cls, code := a.code, addr := a.h.a, lines := a.h.n, out := r.d.pathPort dst i }
  let r := r.mod fun d => { d with onext := (n + 1) % 2 ^ 32, transit := d.transit.set (a.h.src * 2 ^ 32 + a.h.reqid.toNat) t }
  r.flits (r.d.pathPort dst i) i { code := a.code, h := h, data := a.data }

/-- A request for another device: this K96 is in transit and forwards it without changing its stream (R131, R188). It passes the
gates of both its ports as any request does: header rules, cap, holds, credits that this device booked, lanes and B rates (R97, R103,
R113, R114, R120, R187, R493). -/
def Run.transit (r : Run s₀) (a : Arr) : Run s₀ :=
  let dst := a.h.dst
  let a := { a with since := r.now }
  let part := a.h.part.toNat
  let q : Asked := { src := a.src true, part := part, cls := a.h.cls, code := a.code, addr := a.h.a }
  let ps := r.d.livePaths dst
  let i := if ps.contains a.h.path then a.h.path else (r.d.pickPath a.h.agent dst).getD a.h.path
  let pass := a.pass (some (r.d.pathPort dst i))
  let books := r.d.passBooks q pass
  let held := if a.h.cred then r.d.creditOf q a.h.credit else none
  if !headerOk (r.d.role a.p) a.code a.h || (held.isNone && r.d.o part 0x6010 7 ≤ r.d.outstanding a.p part) then r.answerAt a (Compl.of .fault)
  else
    match r.door q a.h.cred a.h.credit false a.p books with
    | (.refused c, r) => r.answerAt a c
    | (e, r) =>
      let (c, r) := match e with
        | .credited n c => (some c, r.dropCredit n)
        | _ => (none, r)
      if r.d.unreachable dst then
        let (y, r) := r.refuse q (us 1000) 1 false a.p books
        r.answerAt a y
      else r.atGates a q c pass [] fun r => (none, r.passOn a i)

/-- A request received on a port. A port whose link is not up or that is being reset, and a device not in READY, receive none; what a
failed agent sends is dropped (R176). -/
def Run.receive (r : Run s₀) (a : Arr) : Run s₀ :=
  if !r.d.ready || r.d.o a.p 0x3040 1 != 2 || r.d.portRst.has a.p then r
  else
    let r := (r.bumpBy a.p 0x3040 9 (1 + a.data.length)).wire a.p (.flitCredits a.p a.h.cls (1 + a.data.length))
    let a := { a with since := r.now }
    if r.d.role a.p == 2 && 2 ≤ r.d.agentState (8 + a.p) then r
    else if !r.d.fabric a.p then r.arrive a
    else if a.h.dst != r.d.self then r.transit a
    else if a.h.agent == 0x1002 then r.arrive a
    else r.stream a

/-- Try again the replays that wait inside the device for a walk: once for each page a request can touch, at most `n` times. -/
def Run.retryAgain (r : Run s₀) : Nat → Run s₀
  | 0 => r
  | n + 1 =>
    if r.d.again.isEmpty then r
    else
      let as := r.d.again
      let r := r.mod fun d => { d with again := [] }
      Run.retryAgain (r.each as fun r x => match x with
        | .port p code h data since => r.arrive { p := p, code := code, h := h, data := data, again := true, since := since }
        | .pair _ => r) n

/-- Try again what waits inside the device: replays whose walk waits, harts' accesses, object loads. -/
def Run.retryWaits (r : Run s₀) : Run s₀ :=
  let r := (r.retryAgain 4).hartsPoke
  r.each r.d.objWait fun r w => r.objTry w.1 w.2

/-- A request that ends its command: what it let go on goes on. -/
def Run.requestDone (r : Run s₀) : Host.Outcome State Fault Refusal := r.retryWaits.close

end

/-! ### The commands -/

/-- `MEM.LOAD` (R189). -/
def execMemLoad (p : Fin 16) (h : Hdr) (found : List Finding) (s : State) : Host.Outcome State Fault Refusal :=
  ((Run.start s).receive { p := p, code := 0x01, h := h, found := found }).requestDone

/-- `MEM.STORE` (R191). -/
def execMemStore (p : Fin 16) (h : Hdr) (data : List DLine) (found : List Finding) (s : State) : Host.Outcome State Fault Refusal :=
  ((Run.start s).receive { p := p, code := 0x02, h := h, data := data, found := found }).requestDone

/-- `MEM.STOREP` (R191): OPERAND is the byte mask. -/
def execMemStorep (p : Fin 16) (h : Hdr) (data : DLine) (s : State) : Host.Outcome State Fault Refusal :=
  ((Run.start s).receive { p := p, code := 0x03, h := h, data := [data] }).requestDone

/-- `REDUCE.ADD` (R192). -/
def execReduceAdd (p : Fin 16) (h : Hdr) (data : List DLine) (s : State) : Host.Outcome State Fault Refusal :=
  ((Run.start s).receive { p := p, code := 0x08, h := h, data := data }).requestDone

/-- `REDUCE.MIN` (R192). -/
def execReduceMin (p : Fin 16) (h : Hdr) (data : List DLine) (s : State) : Host.Outcome State Fault Refusal :=
  ((Run.start s).receive { p := p, code := 0x09, h := h, data := data }).requestDone

/-- `REDUCE.MAX` (R192). -/
def execReduceMax (p : Fin 16) (h : Hdr) (data : List DLine) (s : State) : Host.Outcome State Fault Refusal :=
  ((Run.start s).receive { p := p, code := 0x0A, h := h, data := data }).requestDone

/-- `CAST.STORE` (R196, R197). -/
def execCastStore (p : Fin 16) (h : Hdr) (data : List DLine) (s : State) : Host.Outcome State Fault Refusal :=
  ((Run.start s).receive { p := p, code := 0x0C, h := h, data := data }).requestDone

/-- `ATOMIC.ADD` (R194). -/
def execAtomicAdd (p : Fin 16) (h : Hdr) (s : State) : Host.Outcome State Fault Refusal :=
  ((Run.start s).receive { p := p, code := 0x10, h := h }).requestDone

/-- `ATOMIC.MIN` (R194). -/
def execAtomicMin (p : Fin 16) (h : Hdr) (s : State) : Host.Outcome State Fault Refusal :=
  ((Run.start s).receive { p := p, code := 0x11, h := h }).requestDone

/-- `ATOMIC.MAX` (R194). -/
def execAtomicMax (p : Fin 16) (h : Hdr) (s : State) : Host.Outcome State Fault Refusal :=
  ((Run.start s).receive { p := p, code := 0x12, h := h }).requestDone

/-- `ATOMIC.CAS` (R194). -/
def execAtomicCas (p : Fin 16) (h : Hdr) (s : State) : Host.Outcome State Fault Refusal :=
  ((Run.start s).receive { p := p, code := 0x13, h := h }).requestDone

end Sys2Proof.Machine
end

