-- ==== Sys2Proof/Machine/Streams.lean ====
section
/-!
DEFINITION. What comes back to an originator and keeps its streams going: completions and response data (R189, R379),
acknowledgements, gaps, resets (R135-R139), and paths (R198-R201). The migration and phase journals stand here because an
extent move ends with its destination's streams (R53, R208).
-/

namespace Sys2Proof.Machine

section
variable {s₀ : State}

/-! ### The journals -/

/-- The bytes of a journal record that its CRC covers: 0x00 to 0x1B (Table 2-12). -/
def JRec.bytes (x : JRec) : List Byte :=
  leBytes 4 x.seq ++ leBytes 1 x.step ++ leBytes 1 x.tiers ++ leBytes 1 x.part ++ zeros 1 ++ leBytes 8 x.granule
    ++ leBytes 4 x.from_ ++ leBytes 4 x.to_ ++ leBytes 4 x.optag

/-- Does the CRC of a record match its bytes (R58, R59)? -/
def JRec.whole (x : JRec) : Bool := x.crc == crc32c x.bytes

/-- Write a record of the migration journal (R58), read back with its CRC before the step takes effect: the newest 65,536, and those
of moves still open. -/
def Run.journal (r : Run s₀) (step tiers part granule from_ to_ optag : Nat) : Run s₀ :=
  r.mod fun d =>
    let x : JRec := { seq := d.jseq, step := step, tiers := tiers, part := part, granule := granule, from_ := from_, to_ := to_, optag := optag }
    let old := d.journal.take 65535 ++ (d.journal.drop 65535).filter fun j => d.moves.has j.granule || d.exts.has (j.granule / 512)
    { d with journal := { x with crc := crc32c x.bytes } :: old, jseq := (d.jseq + 1) % 2 ^ 32 }

/-- The bytes of a phase journal record that its CRC covers: 0x00 to 0x1B (Table 7-12). -/
def PRec.bytes (x : PRec) : List Byte :=
  leBytes 4 x.seq ++ leBytes 1 x.op ++ leBytes 1 x.phase ++ leBytes 1 x.part ++ zeros 1 ++ leBytes 8 x.target ++ leBytes 2 x.dev ++ zeros 2
    ++ leBytes 4 x.reqid ++ leBytes 4 x.optag

/-- A phase journal record in a phase, with its CRC (R208). -/
def PRec.inPhase (x : PRec) (ph : Nat) : PRec :=
  let x := { x with phase := ph }
  { x with crc := crc32c x.bytes }

/-- The open phase journal record of an extent's move. -/
def Dev.phaseOf (d : Dev) (e : Nat) : Option PRec := (d.phases.find? fun p => p.2.target == e * 2 ^ 30 && p.2.phase < 255).map (·.2)

/-- The record of a suspect extent (R208): operation and phase, tag of the operation. -/
def Run.suspect (r : Run s₀) (e part op phase reqid : Nat) : Run s₀ :=
  r.error (mkErr 0x10 3 7 0 (some part) (e * 2 ^ 30) (op + 256 * phase) reqid)

/-- Open phase journal records, shown at 0x3F00:06. -/
def Run.countPhases (r : Run s₀) : Run s₀ := r.setO 0 0x3F00 6 (r.d.phases.filter fun p => p.2.phase < 255).length

/-- The pair's phase journal records are finished (R208). -/
def Run.endPhase (r : Run s₀) (e : Nat) : Run s₀ :=
  (r.mod fun d => { d with phases := d.phases.map fun p =>
    (p.1, if p.2.target == e * 2 ^ 30 && p.2.phase < 255 then p.2.inPhase 255 else p.2) }).countPhases

/-- Table 2-7's record. -/
def placeResult (done already skip pois aband passes phase epoch : Nat) : List Byte :=
  leBytes 4 done ++ leBytes 4 already ++ leBytes 4 skip ++ leBytes 4 pois ++ leBytes 4 aband
    ++ leBytes 1 (min 255 passes) ++ leBytes 1 phase ++ zeros 2 ++ leBytes 4 epoch ++ zeros 36

/-- The completion of a placement operation on a pair: its result record, its status. -/
def Run.placeEnd (r : Run s₀) (n : Nat) (o : PlaceOp) (st : Status) (word : Nat := 0) : Run s₀ :=
  let res := placeResult o.done o.already o.skiplost o.poisoned o.abandoned o.passes o.phase o.epoch
  (r.mod fun d => { d with places := d.places.del n }).finish n st word (if o.result == 0 then [] else [(o.result, res)])

/-- Every granule of an extent that is OUTBOUND stays home (R53), and points at no journal record (Table 2-3). -/
def Run.outboundHome (r : Run s₀) (e : Nat) : Run s₀ :=
  r.mod fun d => { d with
    gran := d.gran.map fun g => (g.1, if g.1 / 512 == e && g.2.state == 3 then { g.2 with state := 0, jidx := 0 } else g.2)
    moves := d.moves.keep fun g m => !(g / 512 == e && m.outbound) }

/-- An extent move is abandoned at its source (R53, R54, R361): the extent stays here; the operation ends with `st`. A lost
home marks the target suspect (R208). -/
def Run.extAbandon (r : Run s₀) (e : Nat) (st : Status) (lost : Bool) : Run s₀ :=
  match r.d.exts.get? e with
  | none => r
  | some x =>
    let r := if lost then r.suspect e x.part 0x41 x.phase (match r.d.phaseOf e with | some p => p.reqid | none => 0) else r
    let r := (r.outboundHome e).endPhase e
    let r := r.journal 8 0 x.part (e * 512) 0 x.dest x.tag
    let r := r.mod fun d => { d with exts := d.exts.del e }
    let r := r.tell x.dest (.freeSlots e)
    match x.pair with
    | none => r
    | some n => match r.d.places.get? n with
      | some o => r.placeEnd n { o with phase := x.phase } st (if st == .indet then x.phase else 0)
      | none => r

/-! ### Proposals: their end -/

/-- A proposal ends with a status and the entry's epoch: the dictionary's objects here, or a message to the proposer; a MARKFAIL
of this plinth (an asker of 16,384 or more, R393) tells no one. -/
def Run.proposalEnd (r : Run s₀) (asker : Nat) (st : Status) (epoch : Nat) : Run s₀ :=
  if 16384 ≤ asker then r
  else if asker == r.d.self then
    let r := (r.setO 0 0x7030 7 st.code).setO 0 0x7030 8 epoch
    r.mod fun d => { d with prop := none }
  else r.tell asker (.proposalDone st epoch)

/-! ### Paths (R198-R201) -/

/-- Is a send stream one of a pointing stream of a home slice (R387)? -/
def pointKey (key : Nat) : Bool := 0x1100 ≤ key / 16384 && key / 16384 ≤ 0x11FF

/-- The path to `dst` that a stream is pinned to. -/
def SendS.pathTo (s : SendS) (key dst : Nat) : Option Nat :=
  if key < 2 ^ 40 then (if key % 16384 == dst && !pointKey key then some s.path else none) else (s.pins.get? dst).map (·.1)

/-- Move every stream pinned to path `i` to `dst` onto a live path, replaying what is unacknowledged, in order (R137). Without a live
path it stays, and sends nothing until one is back. -/
def Run.movePath (r : Run s₀) (dst i : Nat) : Run s₀ :=
  let ks := r.d.sends.filter fun e => e.2.pathTo e.1 dst == some i
  r.each ks fun r e =>
    if e.1 < 2 ^ 40 then r.repin e.1 dst (e.1 / 16384) none
    else match r.d.pickPath ((e.1 - 2 ^ 40) / 4096) dst with
      | none => r
      | some j =>
        let p := r.d.pathPort dst j
        let fix (u : Nat × Req) : Nat × Req :=
          if u.2.h.dst == dst then (u.1, { u.2 with h := { u.2.h with dstdev := BitVec.ofNat 16 (dst + 16384 * j) } }) else u
        let r := r.mod fun d => { d with sends := d.sends.upd e.1 fun s =>
          { s with lastAck := d.now, unacked := s.unacked.map fix, pins := s.pins.set dst (j, p) } }
        r.each (e.2.unacked.filter fun u => u.2.h.dst == dst) fun r u => r.flits p j (fix u).2

/-- A path is lost (R200): kept out of use, counted, its streams moved. -/
def Run.losePath (r : Run s₀) (dst i : Nat) : Run s₀ :=
  if r.d.lost.has (dst * 4 + i) || !(r.d.validPaths dst).contains i then r
  else
    let r := r.mod fun d => { d with lost := d.lost.set (dst * 4 + i) (d.now, d.now) }
    (r.bump 0 0x3F00 5).movePath dst i

/-- Every path through port `p` is lost (R185); pointing streams go on over the other twin port (R383, R387). -/
def Run.portPathsLost (r : Run s₀) (p : Nat) : Run s₀ :=
  let r := match r.d.twinPorts with
    | q :: _ =>
      let ks : List Nat := (r.d.sends.filter fun (e : Nat × SendS) => pointKey e.1 && e.2.port == p).map Prod.fst
      r.each ks fun r k => (r.mod fun d => { d with sends := d.sends.upd k fun s => { s with port := q } }).replay k none
    | [] => r
  r.each r.d.paths fun r e => r.each (r.d.validPaths e.1) fun r i => if r.d.pathPort e.1 i == p then r.losePath e.1 i else r

/-- A path returns to service (R200), or a new one is written (R198): streams that had no path left, pinned to this one or to another
lost one, go on. -/
def Run.pathBack (r : Run s₀) (dst i : Nat) : Run s₀ :=
  let r := r.mod fun d => { d with lost := d.lost.del (dst * 4 + i), unreach := d.unreach.del dst }
  r.each (r.d.validPaths dst) fun r j => if j == i || r.d.lost.has (dst * 4 + j) then r.movePath dst j else r

/-! ### The end of an originated request -/

/-- What a request that came by port `p` and left by `out` needs of the gates of both (R96). -/
def passBetween (code lines : Nat) (p : Option Nat) (out : Nat) : Pass :=
  let n := 1 + dataLines code lines
  let answer := if code == 0x01 then lines else 1
  { gates := (match p with | some p => [(Gate.portIn p, n), (Gate.portOut p, answer)] | none => []) ++ [(Gate.portOut out, n)]
    ports := p.toList ++ [out], bytes := 64 * lines }

/-- A credit booked for a refusal that passes through this device, under the tag its word carries, at the gates that the request
passes here (R113). -/
def Run.bookPass (r : Run s₀) (q : Asked) (x : Pass) (word : Nat) : Run s₀ :=
  let hint := wordHint word
  let books := r.d.passBooks q x
  let c : Credit := {
    src := q.src, tag := bits word 16 16, part := q.part, cls := q.cls, code := q.code, addr := q.addr, asid := q.asid
    start := r.now + hint, until_ := windowEnd r.now hint, hint := hint, reason := bits word 32 4, home := true
    loc := bits word 40 9, booked := books, held := if bit word 36 then some (bits word 32 4) else none }
  let n := r.d.cnext
  let r := r.mod fun d => { d with credits := d.credits.set n c, cnext := d.cnext + 1 }
  r.each books fun r b => r.book b.1 b.2 true

/-- A write-back of a remote line has ended: the transaction that waits for it before it asks the remote home goes on (R164). -/
def Run.wbDone (r : Run s₀) (line : Nat) : Run s₀ :=
  match r.d.txns.get? line with
  | some t => if t.asked then r else (r.closeTxn line).keepWays line
  | none => r

/-- Tell who asked of an originated request's end. -/
def Run.deliverTo (r : Run s₀) (o : Orig) (dest : Reply) (c : Compl) (lines : List DLine) : Run s₀ :=
  let load := o.req.code == 0x01 || o.req.code == 0x52
  match dest with
  | .pair n =>
    if load && (c.status == .ok || c.status == .poison) then
      let base := lineNo o.req.h.a
      (r.updPair n fun p => { p with got := p.got ++ lines.zipIdx.map fun l => (base + l.2, l.1) }).reply dest false (Compl.of .ok) []
    else if o.req.code == 0x01 && c.status == .lost then
      let l := lineNo o.req.h.a
      (r.updPair n fun p => { p with got := p.got ++ [(l, bad)], lostLn := l :: p.lostLn }).reply dest false (Compl.of .ok) []
    else r.reply dest false c []
  | .line id idx =>
    match r.d.jobs.get? id with
    | none => r
    | some j =>
      let r := if c.status == .nadm then
          r.bookPass { src := j.src, part := j.part.getD 0, cls := j.cls, code := j.code, addr := (j.via.getD (0, j.addr)).2
                       asid := (j.via.getD (0, 0)).1 } (passBetween j.code j.lines (srcPort j.src) o.req.port) c.word
        else r
      r.lineDone id idx c (lines.headD bad) 0
  | .notify part word =>
    if c.status == .denied || c.status == .fault then
      r.error (mkErr 0x13 4 5 0 (some part) 0 word c.status.code)
    else r
  | .probe dst path => r.pathBack dst path
  | .markfail dev =>
    match r.d.probing.get? dev with
    | none => r
    | some (asker, _) =>
      if c.status == .indet || c.status == .nadm then r
      else (r.mod fun d => { d with probing := d.probing.del dev }).proposalEnd asker .busy 0
  | .proxy line =>
    match r.d.txns.get? line with
    | none => r
    | some t =>
      let core : Bool := match t.kind with | .coh _ ag _ _ => ag < 8 | _ => false
      if c.status == .ok || c.status == .poison then
        ((r.mod fun d => { d with txns := d.txns.set line { t with mem := some (t.mem.getD (lines.headD bad)) } }).closeTxn line).keepWays line
      else if c.status == .late && core && o.req.h.cls == 1 then
        r.sendOrWait o.src o.dst { o.req with h := { o.req.h with sword := plainSword 2 } } (.proxy line) o.part
      else
        let r := r.mod fun d => { d with txns := d.txns.del line }
        match t.kind with
        | .coh _ ag reply _ => if r.d.agentState ag == 1 then r.cohStatus reply c else r
        | _ => r
  | .wb line => r.wbDone line
  | .writeback n => (r.reply (.pair n) false c []).wbDone (lineNo o.req.h.a)
  | .hart h => (r.reply (.hart h) false c []).wbDone (lineNo o.req.h.a)
  | .extent e => if c.status == .ok then r else r.extAbandon e .indet true
  | _ => r.reply dest load c lines

/-- The end of an originated request: one answer, or one to each contributor of a relief entry (R206). -/
def Run.deliver (r : Run s₀) (o : Orig) (c : Compl) (lines : List DLine) : Run s₀ :=
  match o.reply with
  | .relief n =>
    let who := r.d.reliefWho.getD n []
    let r := r.mod fun d => { d with reliefWho := d.reliefWho.del n }
    r.each who fun r w =>
      let r := if c.status == .nadm then
          r.bookPass { src := w.src, part := o.part, cls := o.req.h.cls, code := o.req.code, addr := w.addr, asid := w.asid }
            (passBetween o.req.code 1 (srcPort w.src) o.req.port) c.word
        else if w.reply.whole then r.grantReq w.src o.part else r
      r.deliverTo o w.reply c lines
  | dest =>
    let r := match dest with
      | .port p _ _ _ =>
        if c.status == Status.nadm then
          let at_ := o.via.getD (0, o.req.h.a)
          r.bookPass { src := o.src, part := o.part, cls := o.req.h.cls, code := o.req.code, addr := at_.2, asid := at_.1 }
            (passBetween o.req.code o.req.h.n (some p) o.req.port) c.word
        else r.grantReq o.src o.part
      | _ => r
    r.deliverTo o dest c lines

/-- May the source itself send a refused request again on its credit: copies of cast stores once (R197), the plinth's own
requests and an access engine's (R213) always. -/
def Orig.retries (o : Orig) : Bool :=
  match o.reply with
  | .cast _ => !o.retried
  | .notify _ _ | .proxy _ | .writeback _ | .wb _ | .hart _ | .extent _ => true
  | .pair _ => !isSync o.req.code
  | _ => false

/-- A refused request leaves again at the slot of its credit. -/
def Run.retryLater (r : Run s₀) (o : Orig) (word : Nat) : Run s₀ :=
  let h := o.req.h
  let h : Hdr := { h with sword := mkSword h.cls h.dl h.nofill h.nopark true 0 o.budget (bits word 16 16) }
  r.mod fun d => { d with after := d.after ++
    [{ src := o.src, part := o.part, dst := o.dst, req := { o.req with h := h }, reply := o.reply, at_ := d.now + wordHint word, retried := true
       since := o.began, via := o.via }] }

/-- A request that came back `MOVED` is refused at this device: what retries by itself does so, anyone else is told; the credit is
this device's own, or one for each contributor of a relief entry. -/
def Run.refusedHere (r : Run s₀) (o : Orig) (c : Compl) : Run s₀ :=
  if o.retries then r.retryLater o c.word
  else match o.reply with
    | .relief n =>
      let who := r.d.reliefWho.getD n []
      let r := r.mod fun d => { d with reliefWho := d.reliefWho.del n }
      r.each who fun r w =>
        let p := srcPort w.src
        let q : Asked := { src := w.src, part := o.part, cls := o.req.h.cls, code := o.req.code, addr := w.addr, asid := w.asid }
        let (c, r) := r.refuse q (wordHint c.word) (bits c.word 32 4) false (p.getD 0) (r.d.passBooks q (passBetween o.req.code 1 p o.req.port))
        r.reply w.reply false c []
    | .line id idx => r.lineDone id idx c bad 0
    | dest => r.reply dest false c []

/-- `MOVED` for the first time (R214, R379): the cached entry takes the new home and epoch, and the request goes there, with
the same REQID, or is served here if this device is now the home. -/
def Run.resendMoved (r : Run s₀) (id : Nat) (o : Orig) (c : Compl) : Run s₀ :=
  let e := extentOf o.req.h.a
  let epoch := bits c.word 0 32
  let home := bits c.word 32 14
  let old := match r.d.maq.get? e with | some m => m | none => { entry := { state := 1, part := BitVec.ofNat 8 o.part } }
  let newer := !r.d.maq.has e || seqBefore old.entry.epoch.toNat epoch
  let r := if newer then r.mod fun d => { d with maq := d.maq.set e { old with entry :=
      { old.entry with epoch := BitVec.ofNat 32 epoch, home := BitVec.ofNat 14 home, state := 1 } } } else r
  let h := o.req.h
  let q : Asked := { src := o.src, part := o.part, cls := h.cls, code := o.req.code, addr := (o.via.getD (0, h.a)).2, asid := (o.via.getD (0, 0)).1 }
  let r := r.mod fun d => { d with origs := d.origs.del id }
  match (r.d.route e : Route) with
  | .here =>
    match o.reply, o.req.code == 0x01 with
    | .pair n, true => r.reply (.pair n) false (Compl.of .ok) []
    | _, _ =>
      let j : Job := { src := o.src, reply := o.reply, part := some o.part, code := o.req.code, addr := h.a, lines := h.n, left := 0
                       ctr := h.counter, unit := h.unit, via := o.via }
      match r.d.ctrCheck o.part h.counter with
      | some st => r.deliver o (Compl.of st) []
      | none =>
        match r.serveAll { q := q, lanes := false, flash := false } j h o.req.data (if isAtomic o.req.code then [h.a] else lineAddrs h.a h.n) with
        | (some c, r) => if c.status == .nadm then r.refusedHere o c else r.deliver o c []
        | (none, r) => r
  | .to dst =>
    match r.d.maySend o.src.agent dst o.req.size none with
    | some (.hint ps) =>
      let (c, r) := r.refuse q ps 1 false ((srcPort o.src).getD 0)
        (r.d.passBooks q (passBetween o.req.code h.n (srcPort o.src) ((r.d.egress o.src.agent dst).getD 0)))
      r.refusedHere o c
    | none =>
      let h : Hdr := { h with sword := mkSword h.cls h.dl h.nofill h.nopark false 0 o.budget 0 }
      let r := r.send o.src dst { o.req with h := h } o.reply o.part (r.now - o.began) none (some id)
      r.mod fun d => { d with origs := d.origs.upd id fun x => { x with resent := true, via := o.via, retried := o.retried } }
  | .ends st => r.deliver o (Compl.of st) []
  | .nadm hint reason _ =>
    let (c, r) := r.refuse q hint reason false ((srcPort o.src).getD 0) (r.d.passBooks q (passBetween o.req.code h.n (srcPort o.src) o.req.port))
    r.refusedHere o c

/-- An originated request has its answer. -/
def Run.completed (r : Run s₀) (id : Nat) (o : Orig) (c : Compl) (lines : List DLine) : Run s₀ :=
  if c.status == .moved && !o.resent && o.src != .forwarder then r.resendMoved id o c
  else
    let r := r.mod fun d => { d with origs := d.origs.del id }
    if c.status == .nadm && o.retries then r.retryLater o c.word else r.deliver o c lines

/-- Unacknowledged requests of a stream complete with `INDET`, phase 0. -/
def Run.indetReqs (r : Run s₀) (us_ : List (Nat × Req)) : Run s₀ :=
  r.each us_ fun r u =>
    let id := u.2.h.reqid.toNat
    match r.d.origs.get? id with
    | none => r
    | some o => if o.dst == u.2.h.dst then (r.mod fun d => { d with origs := d.origs.del id }).deliver o (Compl.of .indet) [] else r

/-- Every unacknowledged request of stream `key` to `dst` completes with `INDET`, phase 0 (R139, R201). A stream to a device is
dropped; a cast stream goes on to its other members. -/
def Run.indetStream (r : Run s₀) (key dst : Nat) : Run s₀ :=
  match r.d.sends.get? key with
  | none => r
  | some s =>
    let gone := s.unacked.filter fun u => u.2.h.dst == dst
    let rest := s.unacked.filter fun u => u.2.h.dst != dst
    let r := r.mod fun d => { d with sends := if key < 2 ^ 40 then d.sends.del key else d.sends.set key { s with unacked := rest, pins := s.pins.del dst } }
    r.indetReqs gone

/-- A cast stream that member `dst` holds no state for is reset (R139): its requests end, those that wait with a number in it too, it
is closed toward its other members, and later copies open a fresh stream. -/
def Run.indetCast (r : Run s₀) (agent g dst : Nat) : Run s₀ :=
  let key := sKey agent dst (some g)
  match r.d.sends.get? key with
  | none => r
  | some s =>
    let mine (x : After) : Bool := x.src.agent == agent && x.dst != r.d.self && (match x.cast with | some (g', _) => g' == g | none => false)
    let waits := r.d.after.filter mine
    let id : StreamId := { dev := BitVec.ofNat 14 r.d.self, agent := BitVec.ofNat 16 agent, cast := some (BitVec.ofNat 12 g) }
    let r := r.mod fun d => { d with sends := d.sends.del key, after := d.after.filter fun x => !mine x }
    let r := r.each (s.pins.filter fun p => p.1 != dst) fun r p => r.wire p.2.2 (.close p.2.2 id p.1)
    (r.indetReqs s.unacked).each waits fun r x => r.castCopyEnd x.reply (Compl.of .indet)

/-- The path a message to another device takes: the named path if it is live, else another. -/
def Dev.relayPath (d : Dev) (dst path : Nat) : Option Nat :=
  if (d.livePaths dst).contains path then some path else (d.livePaths dst).head?

/-- Does a port take flits: the device in READY, the link up? -/
def Dev.takes (d : Dev) (p : Nat) : Bool := d.ready && d.o p 0x3040 1 == 2

/-! ### The commands' effects -/

/-- A completion flit (R189): passed on in transit (R113), or the end of a request of this device. -/
def Run.complFlit (r : Run s₀) (p : Nat) (f : ComplFlit) : Run s₀ :=
  if !r.d.takes p then r
  else
    let r := r.bump p 0x3040 9
    let dst := bits f.dstdev.toNat 0 14
    let st := Status.ofCode f.status.toNat
    let c : Compl := ⟨st, f.word.toNat, f.value.toNat⟩
    let id := f.reqid.toNat
    if dst != r.d.self then
      let k := dst * 2 ^ 32 + id
      let r := match r.d.transit.get? k with
        | some t =>
          let r := r.mod fun d => { d with transit := d.transit.del k }
          if st == Status.nadm then
            r.bookPass { src := t.src, part := t.part, cls := t.cls, code := t.code, addr := t.addr } (passBetween t.code t.lines (some t.port) t.out) c.word
          else r.grantReq t.src t.part
        | none => r
      match r.d.relayPath dst (bits f.dstdev.toNat 14 2) with
      | some i => r.completePort (r.d.pathPort dst i) dst i id c
      | none => r
    else match r.d.origs.get? id with
      | some o => r.completed id o c []
      | none => r

/-- A response data flit (R189): passed on in transit, or one line of a load of this device. -/
def Run.dataFlit (r : Run s₀) (p : Nat) (f : RespFlit) : Run s₀ :=
  if !r.d.takes p then r
  else
    let r := r.bump p 0x3040 9
    let dst := f.dstdev.toNat
    let id := f.reqid.toNat
    if dst != r.d.self then
      let k := dst * 2 ^ 32 + id
      let r := match r.d.transit.get? k with
        | some t => if t.lines ≤ 1 then (r.mod fun d => { d with transit := d.transit.del k }).grantReq t.src t.part
            else r.mod fun d => { d with transit := d.transit.set k { t with lines := t.lines - 1 } }
        | none => r
      match r.d.relayPath dst f.path.toNat with
      | some i => r.dataPort (r.d.pathPort dst i) dst i id f.line.toNat f.data
      | none => r
    else match r.d.origs.get? id with
      | none => r
      | some o =>
        let n := f.line.toNat
        if !(o.req.code == 0x01 || o.req.code == 0x52) || o.req.h.n ≤ n || o.got.any (fun g => g.1 == n) then r
        else
          let o := { o with got := (n, if f.data.poison then bad else f.data) :: o.got }
          let r := r.mod fun d => { d with origs := d.origs.set id o }
          if o.got.length < o.req.h.n then r
          else
            let lines := (List.range o.req.h.n).map fun i => ((o.got.find? fun g => g.1 == i).map (·.2)).getD bad
            r.completed id o (Compl.of (if lines.any (·.poison) then .poison else .ok)) lines

/-- The pointing write of line `l` at the head of stream `key` is acknowledged (R386): it is counted; with no other write of the
line on its way the line is closed and the writer completes; a granule whose resynchronisation pass is acknowledged is no longer
exposed (R397). -/
def Run.pointAcked (r : Run s₀) (key l : Nat) : Run s₀ :=
  match r.d.sends.get? key with
  | none => r
  | some s =>
    match s.unacked.find? fun u => lineNo u.2.h.a == l with
    | none => r
    | some u =>
      let left := s.unacked.filter fun v => v.1 != u.1
      let r := (r.mod fun d => { d with sends := d.sends.set key { s with unacked := left, lastAck := d.now, idle := d.now } }).bump 0 0x8010 6
      let g := l / 32768
      let open_ := r.d.sends.any fun e => 0x1100 ≤ e.1 / 16384 && e.1 / 16384 ≤ 0x11FF && e.2.unacked.any fun v => lineNo v.2.h.a / 32768 == g
      let r := if r.d.resync.contains g && !open_ then
          r.mod fun d => { d with resync := d.resync.filter (· != g), exposed := d.exposed.filter (· != g) }
        else r
      if left.any fun v => lineNo v.2.h.a == l then r
      else match r.d.txns.get? l with
        | some { kind := .pointing id _, .. } =>
          let r := r.mod fun d => { d with txns := d.txns.del l }
          if id == 0 then r else (r.mod fun d => { d with jobs := d.jobs.upd id fun j => { j with left := j.left - 1 } }).finishJob id
        | _ => r

/-- A cumulative acknowledgement by device `dst` of one of this device's streams (R136, R138). -/
def Run.ackStream (r : Run s₀) (id : StreamId) (dst seq : Nat) : Run s₀ :=
  let key := sKey id.agent.toNat dst (id.cast.map (·.toNat))
  if 0x1100 ≤ id.agent.toNat then
    let us_ := (r.d.sends.getD key {}).unacked.filter fun u => u.1 == seq || seqBefore u.1 seq
    r.each us_ fun r u => r.pointAcked key (lineNo u.2.h.a)
  else r.mod fun d => { d with sends := d.sends.upd key fun s =>
    let un := s.unacked.filter fun u => !(u.2.h.dst == dst && (u.1 == seq || seqBefore u.1 seq))
    { s with unacked := un, lastAck := d.now, idle := if un.isEmpty then d.now else s.idle } }

/-- A pointing stream starts again: what is unacknowledged is sent anew, in order (R139, R387). -/
def Run.pointRestart (r : Run s₀) (key : Nat) : Run s₀ :=
  let us_ := (r.d.sends.getD key {}).unacked
  let r := r.mod fun d => { d with sends := d.sends.del key }
  r.each us_ fun r u => r.pointSend u.2.h.a u.2.h.part.toNat u.2.h.cls (u.2.data.headD bad)

/-- Send on a stream control message for another device. -/
def Run.relay (r : Run s₀) (dst : Nat) (o : Nat → Out) : Run s₀ :=
  match r.d.relayPath dst 0 with
  | some i => r.wire (r.d.pathPort dst i) (o (r.d.pathPort dst i))
  | none => r

/-- `STREAM_ACK_SEND`: the highest prefix performed is acknowledged (R136). -/
def Run.ackSend (r : Run s₀) (id : StreamId) : Run s₀ :=
  match r.d.recvs.get? (rKey id.dev.toNat id.agent.toNat (id.cast.map (·.toNat))) with
  | none => r
  | some s => if s.begun then r.wire s.port (.ack s.port id r.d.self ((s.done + 2 ^ 32 - 1) % 2 ^ 32)) else r

/-- A gap open for 20 µs (R135). A gap that stays open is timed anew from the report, so that the path error and the report are
repeated every 20 µs: the spec says nothing of repetition (DESIGN CHOICE, log entry 188). -/
def Run.gapTimeout (r : Run s₀) (id : StreamId) : Run s₀ :=
  let key := rKey id.dev.toNat id.agent.toNat (id.cast.map (·.toNat))
  match r.d.recvs.get? key with
  | none => r
  | some s => match s.gap with
    | none => r
    | some t =>
      if r.now < t + us 20 then r
      else
        let p := match s.held with | x :: _ => x.2.1 | [] => s.port
        let r := (r.bump p 0x3020 4).mod fun d => { d with recvs := d.recvs.set key { s with gap := some d.now } }
        let dst := id.dev.toNat
        let other := (r.d.livePaths dst).find? fun i => r.d.pathPort dst i != p
        let q := match other with | some i => r.d.pathPort dst i | none => p
        r.wire q (.gap q id r.d.self s.next)

/-- A gap report for a stream of this device (R135, R137, R200): the path it is pinned to is lost, and its streams move to another,
where each replays every unacknowledged request in order. A pointing stream replays from the missing number on, by the other twin
port where one is up (R383). -/
def Run.gapFor (r : Run s₀) (id : StreamId) (dst seq : Nat) : Run s₀ :=
  let key := sKey id.agent.toNat dst (id.cast.map (·.toNat))
  match r.d.sends.get? key with
  | none => r
  | some s =>
    if pointKey key then
      let q := (r.d.twinPorts.find? (· != s.port)).getD s.port
      (r.mod fun d => { d with sends := d.sends.set key { s with port := q } }).replay key (some seq)
    else match s.pathTo key dst with
      | some i => r.losePath dst i
      | none => r

/-- A stream reset for a stream of this device (R139). -/
def Run.resetFor (r : Run s₀) (p : Nat) (id : StreamId) (dst : Nat) : Run s₀ :=
  let r := r.bump p 0x3020 7
  if 0x1100 ≤ id.agent.toNat then r.pointRestart (sKey id.agent.toNat dst none)
  else match id.cast with
    | some g => r.indetCast id.agent.toNat g.toNat dst
    | none => r.indetStream (sKey id.agent.toNat dst none) dst

/-- A stream that has had no unacknowledged request for 100 µs closes (R138). -/
def Run.idleClose (r : Run s₀) (id : StreamId) (dst : Nat) : Run s₀ :=
  let cast := id.cast.map (·.toNat)
  let key := sKey id.agent.toNat dst cast
  match r.d.sends.get? key with
  | none => r
  | some s =>
    if !s.unacked.isEmpty || r.now < s.idle + us 100 then r
    else
      let ends : List (Nat × Nat) := if cast.isNone then [(dst, s.port)] else s.pins.map fun p => (p.1, p.2.2)
      let r := r.each ends fun r x => r.wire x.2 (.close x.2 id x.1)
      r.mod fun d => { d with sends := d.sends.del key }

/-- No acknowledgement for 40 µs: the stream's path is lost (R200). -/
def Run.ackTimeout (r : Run s₀) (id : StreamId) (dst : Nat) : Run s₀ :=
  match r.d.sends.get? (sKey id.agent.toNat dst (id.cast.map (·.toNat))) with
  | none => r
  | some s =>
    let un := s.unacked.filter fun u => u.2.h.dst == dst
    match un with
    | [] => r
    | _ :: _ =>
      if r.now < s.lastAck + us 40 then r
      else match s.pathTo (sKey id.agent.toNat dst (id.cast.map (·.toNat))) dst with
        | some i => r.losePath dst i
        | none => r

/-- Is a probe of a path on its way? -/
def Dev.probes (d : Dev) (dst i : Nat) : Bool := d.origs.any fun o => o.2.reply == .probe dst i

/-- A lost path is probed after 1 ms (R200). -/
def Run.probeStart (r : Run s₀) (dst i : Nat) : Run s₀ :=
  match r.d.lost.get? (dst * 4 + i) with
  | some (_, t) =>
    let p := r.d.pathPort dst i
    if r.now < t + us 1000 || r.d.o p 0x3040 1 != 2 || r.d.probes dst i then r
    else
      let id := r.d.onext
      let h : Hdr := {
        sword := mkSword 0 false false false false 1 noBudget 0, srcdev := BitVec.ofNat 16 r.d.self
        dstdev := BitVec.ofNat 16 (dst + 16384 * i), stream := 0x1002, reqid := BitVec.ofNat 32 id
        tag := BitVec.ofNat 16 (id % 4096), ctr := 0x8000, operand2 := BitVec.ofNat 64 (dst * 256) }
      let q : Req := { code := 0x52, h := h }
      let r := r.mod fun d => { d with
        onext := (id + 1) % 2 ^ 32
        origs := d.origs.set id { req := q, src := .plinth, dst := dst, reply := .probe dst i, strm := 2 ^ 50, resent := true, began := d.now } }
      r.flits p i q
  | none => r

/-- A probe that is not answered within 40 µs leaves its path lost for a further 1 ms (R200); how long it has been lost counts on
(R201). -/
def Run.probeTimeout (r : Run s₀) (dst i : Nat) : Run s₀ :=
  match r.d.lost.get? (dst * 4 + i), r.d.origs.find? fun o => o.2.reply == .probe dst i with
  | some (t, _), some o =>
    if r.now < o.2.began + us 40 then r
    else r.mod fun d => { d with
      lost := d.lost.set (dst * 4 + i) (t, d.now)
      origs := d.origs.keep fun _ o => o.reply != .probe dst i }
  | _, _ => r

/-- What waits at this device to leave for a device that is unreachable: a port's request is refused (R201); what has no one to refuse
it to waits on. -/
def Run.refuseWaiting (r : Run s₀) (dst : Nat) : Run s₀ :=
  let mine (x : After) : Bool := x.dst == dst && x.cast.isNone && (srcPort x.src).isSome && (match x.reply with | .port .. => true | _ => false)
  let xs := r.d.after.filter mine
  let r := r.mod fun d => { d with after := d.after.filter fun x => !mine x }
  r.each xs fun r x =>
    let at_ := x.via.getD (0, x.req.h.a)
    let q : Asked := { src := x.src, part := x.part, cls := x.req.h.cls, code := x.req.code, addr := at_.2, asid := at_.1 }
    let p := (srcPort x.src).getD 0
    let out := (r.d.egress x.src.agent dst).getD p
    let (c, r) := r.refuse q (us 1000) 1 false p (r.d.passBooks q (passBetween x.req.code x.req.h.n (some p) out))
    r.reply x.reply false c []

/-- A device is unreachable from now on: what is unacknowledged there ends `INDET`, what waits to leave is refused (R201), a proposal
to it and an extent's move there end (R371, R53). -/
def Run.cutOff (r : Run s₀) (dst : Nat) : Run s₀ :=
  let r := r.mod fun d => { d with unreach := d.unreach.set dst d.now }
  let ks := (r.d.sends.filter fun e => !pointKey e.1
    && (if e.1 < 2 ^ 40 then e.1 % 16384 == dst else e.2.unacked.any fun u => u.2.h.dst == dst)).map (·.1)
  let r := (r.each ks fun r k => r.indetStream k dst).refuseWaiting dst
  let r := match r.d.prop with
    | some p => if p.keeper == dst || (p.kind == 1 && p.device == dst) then r.proposalEnd r.d.self .indet 0 else r
    | none => r
  r.each (r.d.exts.filter fun x => x.2.dest == dst && x.2.phase ≤ 3) fun r x => r.extAbandon x.1 .indet true

/-- Every path to a device has been lost for 100 µs (R201). -/
def Run.unreachableNow (r : Run s₀) (dst : Nat) : Run s₀ :=
  let ps := r.d.validPaths dst
  let all := ps.all fun i => match r.d.lost.get? (dst * 4 + i) with | some (t, _) => t + us 100 ≤ r.now | none => false
  if ps.isEmpty || !all || r.d.unreach.has dst then r else r.cutOff dst

end

/-! ### The commands -/

/-- `COMPLETION_RECEIVE` (R189, R379). -/
def execCompletionReceive (p : Fin 16) (c : ComplFlit) (s : State) : Host.Outcome State Fault Refusal :=
  ((Run.start s).complFlit p c).requestDone

/-- `RESPONSE_DATA_RECEIVE` (R189). -/
def execResponseDataReceive (p : Fin 16) (f : RespFlit) (s : State) : Host.Outcome State Fault Refusal :=
  ((Run.start s).dataFlit p f).requestDone

/-- `STREAM_ACK` (R136): for a stream of this device, or passed on in transit. -/
def execStreamAck (p : Fin 16) (id : StreamId) (dst : BitVec 14) (seq : BitVec 32) (s : State) : Host.Outcome State Fault Refusal :=
  let r := Run.start s
  if !r.d.takes p then .next s
  else if id.dev.toNat == r.d.self then ((r.bump p 0x3040 9).ackStream id dst.toNat seq.toNat).requestDone
  else ((r.bump p 0x3040 9).relay id.dev.toNat fun p => .ack p id dst.toNat seq.toNat).close

/-- `STREAM_ACK_SEND` (R136). -/
def execStreamAckSend (id : StreamId) (s : State) : Host.Outcome State Fault Refusal := ((Run.start s).ackSend id).close

/-- `STREAM_GAP_TIMEOUT` (R135). -/
def execStreamGapTimeout (id : StreamId) (s : State) : Host.Outcome State Fault Refusal := ((Run.start s).gapTimeout id).close

/-- `GAP_REPORT` (R135, R137, R200). -/
def execGapReport (p : Fin 16) (id : StreamId) (dst : BitVec 14) (seq : BitVec 32) (s : State) : Host.Outcome State Fault Refusal :=
  let r := Run.start s
  if !r.d.takes p then .next s
  else if id.dev.toNat == r.d.self then ((r.bump p 0x3040 9).gapFor id dst.toNat seq.toNat).close
  else ((r.bump p 0x3040 9).relay id.dev.toNat fun p => .gap p id dst.toNat seq.toNat).close

/-- `STREAM_IDLE_CLOSE` (R138). -/
def execStreamIdleClose (id : StreamId) (dst : BitVec 14) (s : State) : Host.Outcome State Fault Refusal :=
  ((Run.start s).idleClose id dst.toNat).close

/-- `STREAM_CLOSE` (R138): the receive stream is dropped. -/
def execStreamClose (p : Fin 16) (id : StreamId) (s : State) : Host.Outcome State Fault Refusal :=
  let r := Run.start s
  if !r.d.takes p then .next s
  else ((r.bump p 0x3040 9).mod fun d => { d with recvs := d.recvs.del (rKey id.dev.toNat id.agent.toNat (id.cast.map (·.toNat))) }).close

/-- `STREAM_RESET` (R139). -/
def execStreamReset (p : Fin 16) (id : StreamId) (dst : BitVec 14) (s : State) : Host.Outcome State Fault Refusal :=
  let r := Run.start s
  if !r.d.takes p then .next s
  else if id.dev.toNat == r.d.self then ((r.bump p 0x3040 9).resetFor p id dst.toNat).requestDone
  else ((r.bump p 0x3040 9).relay id.dev.toNat fun p => .sreset p id dst.toNat).close

/-- `PATH_ACK_TIMEOUT` (R200). -/
def execPathAckTimeout (id : StreamId) (dst : BitVec 14) (s : State) : Host.Outcome State Fault Refusal :=
  ((Run.start s).ackTimeout id dst.toNat).close

/-- `PATH_PROBE_START` (R200). -/
def execPathProbeStart (dst : BitVec 14) (path : Fin 4) (s : State) : Host.Outcome State Fault Refusal :=
  ((Run.start s).probeStart dst.toNat path).close

/-- `PATH_PROBE` (R200): passed to the gate at once, outside every stream. -/
def execPathProbe (p : Fin 16) (h : Hdr) (s : State) : Host.Outcome State Fault Refusal :=
  let r := Run.start s
  if !r.d.takes p then .next s
  else
    let r := (r.bump p 0x3040 9).wire p (.flitCredits p h.cls 1)
    let a : Arr := { p := p, code := 0x52, h := h }
    if r.d.fabric p && h.dst != r.d.self then (r.transit a).requestDone
    else if h.agent != 0x1002 || h.flag 0 || h.seq != 0 then (r.answerAt a (Compl.of .fault)).requestDone
    else (r.arrive a).requestDone

/-- `PATH_PROBE_TIMEOUT` (R200). -/
def execPathProbeTimeout (dst : BitVec 14) (path : Fin 4) (s : State) : Host.Outcome State Fault Refusal :=
  ((Run.start s).probeTimeout dst.toNat path).close

/-- `DEVICE_UNREACHABLE` (R201). -/
def execDeviceUnreachable (dst : BitVec 14) (s : State) : Host.Outcome State Fault Refusal :=
  ((Run.start s).unreachableNow dst.toNat).requestDone

end Sys2Proof.Machine
end

