-- ==== Sys2Proof/Machine/Coherence.lean ====
section
/-!
DEFINITION. The messages of caching agents and what the directory does of itself (chapter 6), with the windows that end by
time: snoop rounds, credits, combining entries, the relief window.
-/

namespace Sys2Proof.Machine

section
variable {s₀ : State}

/-! ### Requests of a core cluster (R330-R333) -/

/-- A cluster's own request, as the command gives it: nothing where its L2 holds the line as asked. -/
def Run.clusterOp (r : Run s₀) (k : Nat) (op : CohOp) (addr : Nat) : Run s₀ :=
  let a := addr / 64 * 64
  let held := r.d.l2.get? (l2Key k (lineNo a))
  if r.d.agentState k != 1 || !r.d.ready || r.d.noAdmit || !storeAddrOk addr then r
  else match held, op with
    | some _, .rds => r
    | some x, _ =>
      if x.st == .m || x.st == .e then r.mod fun d => { d with l2 := d.l2.upd (l2Key k (lineNo a)) fun x => { x with st := .m } }
      else (r.clusterCoh k (r.d.corePart k 0) (.cluster k) .upg a none).2
    | none, _ => (r.clusterCoh k (r.d.corePart k 0) (.cluster k) op a none).2

/-! ### Copies dropped and written back (Table 6-6, R172) -/

/-- `EVC` of agent `ag` (Table 6-6). -/
def Run.evict (r : Run s₀) (ag line : Nat) : Run s₀ :=
  match r.d.dir.get? line with
  | none => r
  | some e =>
    let drop (r : Run s₀) : Run s₀ :=
      if e.named.contains ag then r.setDir line (some (e.drop ag))
      else if e.ovf then r.setDir line (some { e with cnt := e.cnt - 1 })
      else r
    match e.st with
    | .ds => drop r
    | .dx => if e.p0 == ag then r.setDir line none else r
    | .dO => if e.p0 == ag then r else drop r

/-- A refused write-back is dropped and recorded (R344). -/
def Run.wbDrop (r : Run s₀) (a part : Nat) : Run s₀ :=
  r.error (mkErr 0x14 3 0 (r.d.homeSlice a) (some part) a r.d.self part)

/-- The partition of a line: its granule's, or, of another device's line, the one in the cached maquette entry (R164, R344). -/
def Dev.linePart (d : Dev) (line : Nat) : Nat := match d.g? (line * 64) with | some g => g.part | none => (d.remoteOf line).2

/-- `WBD` of agent `ag` with its data (Table 6-6, Table 6-7), in the name of source `src`: memory is written where the entry names the
agent as holder in DX or owner in DO; an open transaction then goes on with memory's data. -/
def Run.writeBack (r : Run s₀) (ag : Nat) (src : Src) (part a : Nat) (x : DLine) : Run s₀ :=
  let line := lineNo a
  match r.d.dir.get? line with
  | none => r
  | some e =>
    if e.st == .ds || e.p0 != ag then r
    else
      let ok := r.d.linePart line == part && (match r.d.g? a with | some g => g.state != 2 | none => e.proxy)
      let r := if ok then r.writeHome src line e.proxy x else r.wbDrop a part
      let r := match e.st with
        | .dO => r.setDir line (some { e.drop ag with st := .ds })
        | _ => r.setDir line none
      if e.proxy then r.mod fun d => { d with txns := d.txns.upd line fun t => { t with mem := some x } } else r

/-! ### Failed agents (R175-R180) -/

/-- Set the state of an agent (Tables 6-11, 13-5). -/
def Run.setAgent (r : Run s₀) (ag state : Nat) : Run s₀ :=
  if ag < 8 then r.setO (256 + ag) 0x5100 1 state else r.setO (ag - 8) 0x3030 2 state

/-- Agent `ag` is failed: recorded, sent nothing more; rounds that wait on it end (R175, R176); `cause` as DETAIL0 of AGENTFAIL. -/
def Run.failAgent (r : Run s₀) (ag cause : Nat) : Run s₀ :=
  let e := if ag < 8 then mkErr 0x0A 4 4 ag none 0 cause 0 else mkErr 0x0A 4 2 (ag - 8) none 0 cause 0
  let r := (r.error { e with agent := ag }).setAgent ag 2
  let r := if ag < 8 then r.mod fun d => { d with l2 := d.l2.keep fun k _ => k % 8 != ag } else r
  let ts := r.d.txns.filter fun t => t.2.wait.contains ag
  r.each ts fun r t =>
    (r.mod fun d => { d with txns := d.txns.upd t.1 fun t => { t with wait := t.wait.filter (· != ag), failed := ag :: t.failed } }).closeTxn t.1

/-- Every entry that names agent `ag` is settled (R179, Table 6-8). -/
def Run.sweep (r : Run s₀) (ag : Nat) : Run s₀ :=
  let es := r.d.dir.filter fun e => e.2.named.contains ag && !r.d.txns.has e.1
  r.each es fun r e =>
    let r := r.settle e.1
    match r.d.dir.get? e.1 with
    | none => r
    | some x =>
      if x.st == .dO && x.p0 == ag then
        let all := if x.ovf then r.d.activeAgents.filter (· != ag) else [x.p1, x.p2].filter fun a => a != 31 && r.d.agentState a == 1
        r.roundOf e.1 (.settle ag) (all.map fun a => (a, 0x2B, true)) 0x2B
      else r

/-- The sweep after an agent's failure reaches every entry (R179, Table 6-1). While a transaction is open on a line whose entry names
the agent, it goes on: the agent shows sweeping. Else it has ended, and the agent may be active again: a cluster after its reset, a
port agent whose port has role 2 and its link up. -/
def Run.sweepDone (r : Run s₀) (ag : Nat) : Run s₀ :=
  if r.d.agentState ag < 2 then r
  else
    let r := r.sweep ag
    if r.d.dir.any fun e => e.2.named.contains ag then r.setAgent ag 3
    else if ag < 8 then
      (r.setAgent ag (b2n (r.d.clRst.contains ag))).mod fun d => { d with clRst := d.clRst.filter (· != ag) }
    else r.setAgent ag (b2n (r.d.role (ag - 8) == 2 && r.d.o (ag - 8) 0x3040 1 == 2 && !r.d.portRst.has (ag - 8)))

/-- A snoop round that ended without some agents' answers (R175): 0.35 µs after it began (R93). -/
def Run.roundExpire (r : Run s₀) (line : Nat) : Run s₀ :=
  match r.d.txns.get? line with
  | none => r
  | some t =>
    if t.wait.isEmpty || r.now < t.began + ns 350 then r
    else r.each t.wait fun r ag => (if 8 ≤ ag then r.bump (ag - 8) 0x3030 4 else r).failAgent ag 0

/-! ### Messages on a port of role 2 -/

/-- A message of an agent on a port: dropped unless the port takes flits, has role 2 and its agent is active (R176); a header
that breaks a rule is answered `FAULT` (R187). The buffers of its flits are granted again (R186). -/
def Run.agentMsg (r : Run s₀) (p code : Nat) (h : Hdr) (flits : Nat) (k : Nat → Run s₀ → Run s₀) : Run s₀ :=
  if !r.d.takes p then r
  else
    let r := (r.bumpBy p 0x3040 9 flits).wire p (.flitCredits p h.cls flits)
    let a : Arr := { p := p, code := code, h := h }
    if r.d.role p == 2 && 2 ≤ r.d.agentState (8 + p) then r
    else if r.d.role p != 2 || !headerOk 2 code h then r.answerAt a (Compl.of .fault)
    else if r.d.agentState (8 + p) != 1 then r
    else match r.d.partOf false a with
      | none => r.answerAt a (Compl.of .denied)
      | some part => k part r

/-- A snoop response (R170): the state held, with its data where it has some. -/
def Run.respond (r : Run s₀) (ag line : Nat) (data : Option DLine) (m : Bool) : Run s₀ :=
  match r.d.txns.get? line with
  | none => r
  | some t =>
    if !t.wait.contains ag then r
    else
      let r := r.answer line ag data
      let r := if m then r.mod fun d => { d with txns := d.txns.upd line fun t => { t with wasM := true } } else r
      r.closeTxn line

end

/-! ### The commands -/

/-- `RDS`: a read for a shared copy (R168). -/
def execRds (c : CohSrc) (s : State) : Host.Outcome State Fault Refusal :=
  match c with
  | .port p h => ((Run.start s).receive { p := p, code := 0x20, h := h }).requestDone
  | .cluster k a => ((Run.start s).clusterOp k .rds a.toNat).requestDone

/-- `RDX`: a read for a writable copy (R168). -/
def execRdx (c : CohSrc) (s : State) : Host.Outcome State Fault Refusal :=
  match c with
  | .port p h => ((Run.start s).receive { p := p, code := 0x21, h := h }).requestDone
  | .cluster k a => ((Run.start s).clusterOp k .rdx a.toNat).requestDone

/-- `UPG`: make a copy writable (R168). -/
def execUpg (c : CohSrc) (s : State) : Host.Outcome State Fault Refusal :=
  match c with
  | .port p h => ((Run.start s).receive { p := p, code := 0x22, h := h }).requestDone
  | .cluster k a => ((Run.start s).clusterOp k .upg a.toNat).requestDone

/-- `EVC`: a clean copy was dropped (R168), unless the line is another partition's (R344, R491). A cluster's L2 drops the line it holds
in S or E. -/
def execEvc (c : CohSrc) (s : State) : Host.Outcome State Fault Refusal :=
  let r := Run.start s
  match c with
  | .port p h => (r.agentMsg p 0x23 h 1 fun part r => if r.d.linePart (lineNo h.a) == part then r.evict (8 + p) (lineNo h.a) else r).requestDone
  | .cluster k a =>
    let line := lineNo a.toNat
    match r.d.l2.get? (l2Key k line) with
    | some x =>
      if x.st == .s || x.st == .e then ((r.mod fun d => { d with l2 := d.l2.del (l2Key k line) }).evict k line).requestDone
      else .next s
    | none => .next s

/-- `WBD`: a dirty copy is written back (R172). A cluster's L2 gives up the line it holds in M or O, with its own data. -/
def execWbd (c : CohSrc) (data : DLine) (s : State) : Host.Outcome State Fault Refusal :=
  let r := Run.start s
  match c with
  | .port p h => (r.agentMsg p 0x24 h 2 fun part r =>
      r.writeBack (8 + p) (.ident p (bits h.stream.toNat 0 7)) part (h.a / 64 * 64) data).requestDone
  | .cluster k a =>
    let line := lineNo a.toNat
    match r.d.l2.get? (l2Key k line) with
    | some x =>
      if x.st == .m || x.st == .o then
        ((r.mod fun d => { d with l2 := d.l2.del (l2Key k line) }).writeBack k (.cluster k) (r.d.corePart k 0) (line * 64) (good x.data)).requestDone
      else .next s
    | none => .next s

/-- `RSP`: a snoop response (R170); OPERAND[2:0] is the state held: 4 is M. -/
def execRsp (p : Fin 16) (h : Hdr) (data : Option DLine) (s : State) : Host.Outcome State Fault Refusal :=
  ((Run.start s).agentMsg p 0x30 h (if data.isSome then 2 else 1) fun _ r =>
    r.respond (8 + p) (lineNo h.a) data (bits h.operand.toNat 0 3 == 4)).requestDone

/-- `RSP.WBP`: a write-back of the line is on its way, and came first (R172). -/
def execRspWbp (p : Fin 16) (h : Hdr) (s : State) : Host.Outcome State Fault Refusal :=
  ((Run.start s).agentMsg p 0x31 h 1 fun _ r => r.respond (8 + p) (lineNo h.a) none false).requestDone

/-- `SNOOP_ROUND_EXPIRE` (R175). -/
def execSnoopRoundExpire (addr : BitVec 64) (s : State) : Host.Outcome State Fault Refusal :=
  ((Run.start s).roundExpire (lineNo addr.toNat)).requestDone

/-- `DIRECTORY_SWEEP_DONE` (R179). -/
def execDirectorySweepDone (agent : Fin 24) (s : State) : Host.Outcome State Fault Refusal :=
  ((Run.start s).sweepDone agent).requestDone

/-- `CREDIT_WINDOW_LAPSE` (R109, R174, R219): the credit's bookings, its reserved way and its booked pair are given back. -/
def execCreditWindowLapse (n : Nat) (s : State) : Host.Outcome State Fault Refusal :=
  let r := Run.start s
  match r.d.credits.get? n with
  | none => .next s
  | some c =>
    if r.now ≤ c.until_ || c.held.isSome then .next s
    else (((r.dropCredit n).grantReq c.src c.part).mod fun d => { d with
      pairs := d.pairs.map fun p => (p.1, if p.2.held == some n then { p.2 with held := none } else p.2) }).close

/-- `COMBINING_ENTRY_IDLE` (R203): written back after 10 µs without a reduction. -/
def execCombiningEntryIdle (addr : BitVec 64) (s : State) : Host.Outcome State Fault Refusal :=
  let r := Run.start s
  match r.d.comb.get? (lineNo addr.toNat) with
  | none => .next s
  | some c => if r.now < c.used + us 10 then .next s else (r.mergeComb (addr.toNat / 64 * 64)).close

/-- `RELIEF_WINDOW_EXPIRE` (R205). -/
def execReliefWindowExpire (n : Nat) (s : State) : Host.Outcome State Fault Refusal :=
  let r := Run.start s
  match r.d.relief.get? n with
  | none => .next s
  | some e => if r.now < e.openedAt + ns (r.d.o 0 0x3F00 1) then .next s else (r.releaseRelief n).close

end Sys2Proof.Machine
end

