-- ==== Sys2Proof/Machine/Link.lean ====
section
/-!
DEFINITION. The link under the messages (R181-R186): flit checks, NAKs and resends, retraining, credits. The contents of a
good flit come as commands of their own; here stands what the link itself does with it.
-/

namespace Sys2Proof.Machine

section
variable {s₀ : State}

/-- A link has trained: it is up, its sequence numbers start at 0, and nothing waits to leave by it. -/
def Run.linkTrained (r : Run s₀) (p : Nat) : Run s₀ :=
  let r := r.setO p 0x3040 1 2
  r.updLink p fun _ => { nextOut := r.d.o p 0x3040 8, lastGood := r.now }

/-- A port opens for requests: each active partition's cap is granted (R186), but none at role 0 (R493); an agent on it is
active. -/
def Run.portOpen (r : Run s₀) (p : Nat) : Run s₀ :=
  let r := if r.d.role p == 0 then r
    else r.each ((List.range 256).filter fun x => r.d.o x 0x6050 1 == 1) fun r x => r.wire p (.reqCredits p x (r.d.o x 0x6010 7))
  if r.d.role p == 2 && r.d.o p 0x3030 2 == 0 then r.setO p 0x3030 2 1 else r

/-- A link comes up while the device works. -/
def Run.linkUp (r : Run s₀) (p : Nat) : Run s₀ := (r.linkTrained p).portOpen p

/-- A link goes down (R185, R175, R200): its paths are lost, and its agent on a port of role 2 is failed. -/
def Run.linkLost (r : Run s₀) (p state : Nat) : Run s₀ :=
  let r := (r.setO p 0x3040 1 state).emit (.linkDown p)
  let r := r.portPathsLost p
  if r.d.role p == 2 && r.d.o p 0x3030 2 == 1 then r.failAgent (8 + p) 1 else r

/-- The link of a port goes down and is retrained (R185). -/
def Run.retrainLink (r : Run s₀) (p : Nat) (rate : Bool) : Run s₀ :=
  let r := r.updLink p fun l => { l with nakMode := rate, badCount := 0, nakAt := [] }
  ((r.bump p 0x3040 6).linkLost p 3).emit (.retrain p)

/-- Take LACK (R184): it acknowledges every flit up to and including itself where d lies between 1 and 2,047. -/
def Link.lack (l : Link) (lack : Nat) : Link :=
  let n := (lack + 4096 - l.oldest + 1) % 4096
  if 1 ≤ n && n ≤ 2047 then { l with oldest := (lack + 1) % 4096 } else l

/-- Send a NAK naming the first flit that is lacking, and retrain after four failed checks of one flit or NAKs in more than 8
of 64 microseconds (R184, R185). -/
def Run.sendNak (r : Run s₀) (p : Nat) : Run s₀ :=
  let l := r.d.link p
  let us_ := r.now / 1000000
  let naks := us_ :: (l.nakAt.filter fun t => t != us_ && us_ < t + 64)
  let n := if l.badSeq == l.expect then l.badCount + 1 else 1
  let r := r.updLink p fun l => { l with nakMode := true, badSeq := l.expect, badCount := n, nakAt := naks }
  let r := (r.wire p (.nak p l.expect)).bump p 0x3040 5
  if 4 ≤ n then r.retrainLink p false else if 8 < naks.length then r.retrainLink p true else r

/-- A flit arrives (R184): checked by FEC and CRC; a bad one and every later one is discarded until the flit it lacks comes. Of bad
flits that come meanwhile, only the one it lacks has failed again (R185): one whose LSEQ says that it is that flit. A LACK lets
waiting flits leave. -/
def Run.flitIn (r : Run s₀) (p : Nat) (flit : BitVec 640) (fecBad : Bool) : Run s₀ :=
  if r.d.o p 0x3040 1 != 2 then r
  else
    let w := flit.toNat
    let ok := !fecBad && crc32c (leBytes 0x4C w) == bits w 608 32
    let r := if fecBad then r.bump p 0x3040 4 else r
    let l := r.d.link p
    let seq := bits w 0 12
    if !ok then (if l.nakMode && seq != l.expect then r else r.sendNak p)
    else if seq == l.expect then
      let r := r.updLink p fun l => { (l.lack (bits w 16 12)) with expect := (l.expect + 1) % 4096, nakMode := false, lastGood := r.now }
      (if bits w 12 4 == 0 then r.bump p 0x3040 9 else r).pump p
    else if l.nakMode || 2048 ≤ (seq + 4096 - l.expect) % 4096 then r
    else r.sendNak p

end

/-! ### The commands -/

/-- `FLIT_RECEIVE` (R184, R185). -/
def execFlitReceive (p : Fin 16) (flit : BitVec 640) (fecBad : Bool) (s : State) : Host.Outcome State Fault Refusal :=
  ((Run.start s).flitIn p flit fecBad).close

/-- `NAK`: flits are resent from the replay buffer, from the flit it names, if that flit is still held (R184). -/
def execNak (p : Fin 16) (first : BitVec 12) (s : State) : Host.Outcome State Fault Refusal :=
  let r := Run.start s
  let l := r.d.link p
  let held := (r.d.nextOut p + 4096 - l.oldest) % 4096
  if r.d.o p 0x3040 1 != 2 || held ≤ (first.toNat + 4096 - l.oldest) % 4096 then .next s
  else ((r.bump p 0x3040 9).emit (.resend p first.toNat)).close

/-- `LINK_RETRAIN_DONE` (R185): the link is up again, with its record; its paths return by their probes (R200). -/
def execLinkRetrainDone (p : Fin 16) (time : Nat) (s : State) : Host.Outcome State Fault Refusal :=
  let r := Run.start s
  if r.d.o p 0x3040 1 != 3 then .next s
  else
    let rate := (r.d.link p).nakMode
    ((r.linkUp p).error (mkErr 0x09 1 2 p none 0 (b2n rate) time)).close

/-- `CREDIT_GRANT` (Table 7-6): flit credits of a class, request credits of a partition, for which waiting messages leave; a word with
COUNT 0 is ignored. -/
def execCreditGrant (p : Fin 16) (words : List (BitVec 32)) (s : State) : Host.Outcome State Fault Refusal :=
  let r := Run.start s
  if r.d.o p 0x3040 1 != 2 then .next s
  else
    (((r.bump p 0x3040 9).each ((words.take 18).map (·.toNat)) fun r w =>
      let n := bits w 16 16
      let who := bits w 0 8
      if n == 0 || bits w 9 7 != 0 then r
      else if bit w 8 then r.updLink p fun l => { l with flitCr := l.flitCr.set (who % 4) (l.flitCr.getD (who % 4) 0 + n) }
      else r.updLink p fun l => { l with reqCr := l.reqCr.set who (l.reqCr.getD who 0 + n) }).pump p).close

end Sys2Proof.Machine
end

