-- ==== Sys2Proof/Machine/Chain.lean ====
section
/-!
DEFINITION. Chains on engine pairs (chapter 8): the descriptor header (Table 8-4), how a command finds its descriptor, the
pair's reads and writes of the store, the dispatcher (R217-R219), completion records (R226, R227), `CHAIN.LOOP` (R230).
A command of an operation runs it as far as it goes; where a pair waits for lines, agents or a walk, the same command goes on
with it (log entry 15).
-/

namespace Sys2Proof.Machine

/-! ### The header -/

/-- OP. -/
def dOp (b : List Byte) : Nat := fld b 0 1
/-- CLASS. -/
def dCls (b : List Byte) : Nat := fld b 1 1 % 4
/-- Bit `i` of SVC: 2 DL, 3 NOFILL, 4 NOPARK, 5 CRED, 6 VIRT. -/
def dSvc (b : List Byte) (i : Nat) : Bool := bit (fld b 1 1) i
/-- Bit `i` of CTL: 0 LINK, 1 QUIET, 2 EVENT. -/
def dCtl (b : List Byte) (i : Nat) : Bool := bit (fld b 2 1) i
/-- OPTAG. -/
def dTag (b : List Byte) : Nat := fld b 4 4
/-- BUDGET. -/
def dBudget (b : List Byte) : Nat := fld b 8 3
/-- CREDIT. -/
def dCredit (b : List Byte) : Nat := fld b 12 2

/-- Is the class fixed by the operation's own table, or chosen by a BCLASS flag (R222)? -/
def dFixed (op : Nat) : Bool :=
  (0x40 ≤ op && op ≤ 0x44) || (0x48 ≤ op && op ≤ 0x4B) || (0x50 ≤ op && op ≤ 0x54) || (0x58 ≤ op && op ≤ 0x5A) || op == 0x5C
    || op == 0x78 || op == 0x79 || op == 0x88 || op == 0x89

/-- Reserved header fields are zero, and CLASS is 0 where R222 says so. -/
def hdrOk (b : List Byte) : Bool :=
  !dSvc b 7 && bits (fld b 2 1) 3 5 == 0 && fld b 3 1 == 0 && fld b 11 1 == 0 && fld b 14 2 == 0
    && (!dFixed (dOp b) || dCls b == 0)

/-- Bytes `[lo, hi)` of a descriptor are zero. -/
def zeroed (b : List Byte) (lo hi : Nat) : Bool := fld b lo (hi - lo) == 0

/-- Does a row of the opcode table carry this descriptor: its code, and its kind where the code has several? -/
def descKnown (b : List Byte) : Bool :=
  let op := dOp b
  let kind := fld b 0x1C 1
  if op == 0x42 then kind ≤ 3
  else if op == 0x48 then fld b 0x1E 1 ≤ 1
  else if op == 0x49 then fld b 0x1E 1 ≤ 2
  else if op == 0x4A then fld b 0x1E 1 ≤ 1
  else if op == 0x62 then fld b 0x2E 1 ≤ 2
  else if op == 0x64 then fld b 0x2E 1 ≤ 10
  else
    (0x40 ≤ op && op ≤ 0x44) || op == 0x4B || (0x50 ≤ op && op ≤ 0x55) || (0x58 ≤ op && op ≤ 0x5A) || op == 0x5C
      || (0x60 ≤ op && op ≤ 0x65) || op == 0x70 || op == 0x71 || op == 0x78 || op == 0x79 || (0x80 ≤ op && op ≤ 0x82) || op == 0x88 || op == 0x89
      || op == 0x90 || op == 0x91
      || op == 0xA0 || op == 0xA1 || op == 0xA4 || op == 0xA5

/-- How a pair accesses the store for its descriptor. -/
structure Eng where
  n      : Nat
  part   : Nat
  queue  : Nat
  asid   : Nat
  virt   : Bool
  cls    : Nat
  /-- the remaining budget in picoseconds, when DL is set (R224) -/
  dl     : Option Nat
  nofill : Bool
  nopark : Bool
  tag    : Nat
deriving DecidableEq, Repr

/-- What a pair's read gives: lines by number, a wait, or the completion that ends the descriptor. -/
inductive Rd where
  | lines (ls : List (Nat × DLine))
  | wait
  | fails (c : Compl)
deriving DecidableEq, Repr

/-- What a check, a translation or a read of bytes gives. -/
inductive Ans (α : Type) where
  | ok (x : α)
  | wait
  | fails (c : Compl)

/-- The line with a number among those read. -/
def lineIn (ls : List (Nat × DLine)) (l : Nat) : DLine := ((ls.find? fun x => x.1 == l).map (·.2)).getD bad

/-- One line write of a pair: store address, operation code, mask (`MEM.STOREP`), element type code, data. -/
structure EWr where
  la   : Nat
  code : Nat
  mask : BitVec 64 := 0
  et   : Nat := 0
  data : DLine
deriving DecidableEq, Repr

/-- The operation of a pair's line write at its home. -/
def EWr.op (w : EWr) : HOp :=
  if w.code == 0x02 then .write w.data
  else if w.code == 0x03 then .part w.mask w.data
  else match EType.of? w.et with
    | some t => .reduce (ropOf w.code) t w.data
    | none => .read

section
variable {s₀ : State}

/-! ### A command finds its descriptor -/

/-- The current descriptor of a chain. -/
def Chain.desc (c : Chain) : List Byte := c.descs.getD c.pos []

/-- The pair's accesses for the current descriptor of a chain. -/
def Dev.engOf (d : Dev) (n : Nat) (c : Chain) : Eng :=
  let b := c.desc
  { n := n, part := c.part, queue := c.queue, asid := d.o c.part (0x6040 + c.queue) 4, virt := dSvc b 6, cls := dCls b
    dl := if dSvc b 2 && dBudget b != noBudget then some (dBudget b * 8000 - (d.now - c.began)) else none
    nofill := dSvc b 3, nopark := dSvc b 4, tag := dTag b }

/-- The same accesses for what the device reads on its own behalf (R489): no deadline, class G. -/
def Eng.own (e : Eng) : Eng := { e with cls := 3, dl := none }

/-- Set the stage of a pair's chain. -/
def Run.setStage (r : Run s₀) (n : Nat) (st : DStage) : Run s₀ :=
  r.updPair n fun p => { p with chain := p.chain.map fun c => { c with stage := st } }

/-- Has the gate admitted a tile of pair `n` that is not performed yet? It completes though its chain has ended (R352, R353). -/
def Dev.tileUnder (d : Dev) (n : Nat) : Bool :=
  let p := d.pair n
  match p.chain with
  | some c => c.stage == .busy && p.phase == 1 && 0x60 ≤ dOp c.desc && dOp c.desc ≤ 0x65 && p.parked.isEmpty && p.held.isNone
  | none => false

/-- End a descriptor with a completion, or as `LOST` where a line that it read lay in a LOST granule and that ranks first (R492). -/
def Run.ends (r : Run s₀) (n : Nat) (c : Compl) : Run s₀ :=
  let c := if (r.d.pair n).lostLn.isEmpty then c else c.worse (Compl.of .lost)
  r.finish n c.status c.word

/-- Run `k` on the current descriptor of pair `n`, if it is the one that a command with operation code `code` (and `kind` of
its bytes) carries. It starts: header rules (R221, R222), an engine B rate of 0 (R222). It goes on: nothing while the tile is
parked, on its credit, or has lines under way; a request that ended badly ends it. -/
def Run.op (r : Run s₀) (n code : Nat) (kind : List Byte → Bool) (k : Eng → List Byte → Run s₀ → Run s₀) : Run s₀ :=
  let p := r.d.pair n
  match p.chain with
  | none => r
  | some c =>
    let b := c.desc
    if !r.d.ready || !r.d.pins.refSys || (c.ended && !r.d.tileUnder n) || dOp b != code || !kind b then r
    else match c.stage with
      | .done _ _ => r
      | .ready =>
        let r := (r.unready n).updPair n fun p => { p with
          chain := p.chain.map fun c => { c with stage := .busy, began := r.now }
          got := [], lostLn := [], kept := [], asked := [], jobs := [], sent := 0, worst := none, phase := 0, xl := [], creds := [], passed := [] }
        if !hdrOk b || (c.pos == 255 && dCtl b 0) then r.finish n .fault 0
        else if !dFixed code && code != 0x55 && dCls b == 2 && r.d.o c.part 0x6010 3 == 0 then r.finish n .denied 0
        else k (r.d.engOf n { c with began := r.now }) b r
      | .busy =>
        if !p.parked.isEmpty || p.held.isSome || 0 < p.sent then r
        else match p.worst with
          | some w => if w.status == .ok then k (r.d.engOf n c) b r else r.ends n w
          | none => k (r.d.engOf n c) b r

/-- Any kind. -/
def anyKind (_ : List Byte) : Bool := true

/-! ### Translation of tiles (R73, R80) -/

/-- The translation block of a pair: its slice divided by 32. -/
def blkOfPair (n : Nat) : Nat := n / 128

/-- The fault of a pair's tile. -/
def Eng.faultAt (e : Eng) (va kind level base bits_ access : Nat) : FaultAt :=
  { part := e.part, asid := e.asid, va := va, kind := kind, level := level, base := base, bits := bits_
    access := accessBit access + 8, source := 0xF0, slice := e.n / 4 + 256 * (e.n % 4) }

/-- The PERM fault of a pair's tile on a leaf. -/
def Eng.permAt (e : Eng) (t : TlbE) (va access : Nat) : FaultAt :=
  t.fault e.part va (accessBit access + 8) 0xF0 (e.n / 4 + 256 * (e.n % 4))

/-- Translate one page of a tile for an access at `va`: a cached entry that lacks the permission is dropped (R79), a leaf that lacks it
is not installed. Answers the fault, if any; nothing while the walk waits. -/
def Run.engPage (r : Run s₀) (e : Eng) (va access : Nat) : Option (Option FaultAt) × Run s₀ :=
  let blk := blkOfPair e.n
  match r.d.hit? blk e.asid va with
  | some t => if t.allows access then (some none, r) else (some (some (e.permAt t va access)), (r.dropTlb blk (· == t)).2)
  | none =>
    match r.walk blk e.n e.asid va with
    | (.wait, r) => (none, r)
    | (.leaf t, r) => if t.allows access then (some none, r.install blk t) else (some (some (e.permAt t va access)), r)
    | (.fault kind level base bits_, r) => (some (some (e.faultAt va kind level base bits_ access)), r)

/-- Translate every page that a tile touches (R82): the faults found, or nothing while a walk waits. -/
def Run.engPages (r : Run s₀) (e : Eng) : List (Nat × Nat) → Option (List FaultAt) × Run s₀
  | [] => (some [], r)
  | (va, access) :: ps =>
    match r.engPage e va access with
    | (none, r) => (none, (Run.engPages r e ps).2)
    | (some f, r) =>
      match Run.engPages r e ps with
      | (some fs, r) => (some (f.toList ++ fs), r)
      | x => x

/-- Can a tile park on these faults: is there an entry, or room in the table and in the fault ring, for each (R80, R84)? -/
def Dev.canPark (d : Dev) (part : Nat) (fs : List FaultAt) : Bool :=
  let new := (fs.filter fun f => (d.fentAt f.asid f.va).isNone).length
  let room := if d.o part 0x6020 1 == 0 then 0 else d.o part 0x6020 2 - (d.o part 0x6020 4 + 2 ^ 32 - d.o part 0x6020 5) % 2 ^ 32
  new ≤ 2048 - d.fents.length && new ≤ room

/-- A tile's faults: it parks on every entry (R80, R82), or completes with `FAULT` and parks on none: where one of the kinds does not
park, NOPARK is set, or an entry cannot be taken. -/
def Run.parkTile (r : Run s₀) (e : Eng) (fs : List FaultAt) : Ans (List Nat) × Run s₀ :=
  match fs.find? fun f => 3 ≤ f.kind || e.nopark with
  | some f => (.fails (faultC f.kind), r.each fs fun r f => r.reportFault f)
  | none =>
    let fs := fs.foldl (fun gs f => if gs.any (fun g : FaultAt => g.base == f.base && g.bits == f.bits) then gs else gs ++ [f]) []
    if !r.d.canPark e.part fs then (.fails (faultC ((fs.head?.map (·.kind)).getD 1)), r.each fs fun r f => r.cannotPark f)
    else
      let (is, r) := fs.foldl (fun (x : List (Option Nat) × Run s₀) f =>
        let (i, r) := x.2.takeEntry f 1 [.pair e.n]
        (x.1 ++ [i], r)) ([], r)
      (.wait, r.updPair e.n fun p => { p with parked := is.filterMap id })

/-- The first of the addresses in each page of 64 KiB, for each access. -/
def firstInPage (vas : List (Nat × Nat)) : List (Nat × Nat) :=
  (vas.foldl (fun ps v => if ps.any fun p => p.1 / 65536 == v.1 / 65536 && p.2 == v.2 then ps else v :: ps) []).reverse

/-- Translate addresses of a descriptor, each for its access; without VIRT they are store addresses (R223). The pages are noted (R74). -/
def Run.engXlateAll (r : Run s₀) (e : Eng) (vas : List (Nat × Nat)) : Ans (List Nat) × Run s₀ :=
  let as := vas.map (·.1)
  if !e.virt then (if as.all storeAddrOk then (.ok as, r) else (.fails (faultC 0), r))
  else if !as.all virtAddrOk then (.fails (faultC 0), r)
  else if !r.d.ownsAsid e.part e.asid then (.fails (Compl.of .denied), r)
  else
    let blk := blkOfPair e.n
    match r.engPages e (firstInPage vas) with
    | (none, r) => (.wait, r)
    | (some (f :: fs), r) => r.parkTile e (f :: fs)
    | (some [], r) =>
      match r.d.lookUp blk e.asid 3 as with
      | .ok tos =>
        let es : List TlbE := (as.filterMap fun va => r.d.hit? blk e.asid va).dedup
        let r := r.updPair e.n fun p => { p with xl := (p.xl ++ es.map fun (t : TlbE) => (t.vpn * 2 ^ t.bits, t.bits, t.pa)).dedup }
        (.ok tos, r.useTlb blk e.asid as none)
      | _ => (.wait, r)

/-- Translate addresses of a descriptor for one access. -/
def Run.engXlate (r : Run s₀) (e : Eng) (access : Nat) (vas : List Nat) : Ans (List Nat) × Run s₀ := r.engXlateAll e (vas.map fun va => (va, access))

/-! ### Reads -/

/-- The request context of a pair's line request. On a credit of its own, or of its tile, it is not asked again where that booked
(R109); a block whose fill runs was counted when the fill began (R105). -/
def Dev.engCtx (d : Dev) (e : Eng) (code a : Nat) : Ctx :=
  let c := (d.pair e.n).creds.find? fun c => c.addr == a || 0x40 ≤ c.code
  { q := { src := .pair e.n, part := e.part, cls := e.cls, code := code, addr := a }, dl := e.dl, nofill := e.nofill, again := c.isSome
    lanes := e.cls == 1 && !(match c with | some c => c.booked.any homeLane | none => false)
    flash := !d.fills.has (blockOf a) && !(match c with | some c => c.booked.any (fun b => b.1 == winBook (winFlashRead e.part)) | none => false) }

/-- A request of a pair's tile was refused with `NADM`: the pair waits for the slot of the credit just made (R213). -/
def Run.engHold (r : Run s₀) (n : Nat) : Run s₀ := r.updPair n fun p => { p with held := some (r.d.cnext - 1) }

/-- Requests for these store addresses are served: their credits are spent. -/
def Run.engServed (r : Run s₀) (n : Nat) (las : List Nat) : Run s₀ :=
  if (r.d.pair n).creds.isEmpty then r else r.updPair n fun p => { p with creds := p.creds.filter fun c => !las.contains c.addr }

/-- The service word of a pair's request to another device. -/
def Eng.sword (e : Eng) : BitVec 64 :=
  mkSword e.cls e.dl.isSome e.nofill e.nopark false 0 (match e.dl with | some t => t / 8000 | none => noBudget) 0

/-- Does the line wait for the round that this pair's own access opened? -/
def Dev.ownRound (d : Dev) (n a : Nat) : Bool :=
  match d.txns.get? (lineNo a) with
  | some t => t.pair == some n && (match t.kind with | .ready _ => true | _ => false)
  | none => false

/-- The verdicts on a pair's lines of this device: the completion that ends it, or whether it must wait. Openings and fills
that they call for are started; a refusal holds the pair until its slot (R171, R213). What fetches a chain's descriptors waits. -/
def Run.engChecks (r : Run s₀) (e : Eng) (code : Nat) (ops : List (Nat × HOp)) : Ans Unit × Run s₀ :=
  let fresh (o : Nat × HOp) : Bool := o.2.writes && (match r.d.g? o.1 with | some g => r.d.dirties g o.1 | none => false)
  let vs := ops.zipIdx.filterMap fun o => (r.d.g? o.1.1).map fun g =>
    (o.1, r.d.check { r.d.engCtx e code o.1.1 with dirt := if o.1.2.writes then (ops.take (o.2 + 1)).countP fresh else 1 } g o.1.1 o.1.2)
  let r := r.each vs fun r v => r.chkEffects v.1.1 v.2
  let bads := vs.filterMap fun v => match v.2 with
    | .ends c => some c
    | .late w _ _ => some ⟨.late, w, 0⟩
    | _ => none
  match bads with
  | c :: cs => (.fails (cs.foldl Compl.worse c), r)
  | [] =>
    match vs.findSome? fun v => match v.2 with | .nadm hint reason _ => some (v.1, hint, reason) | _ => none with
    | none => (.ok (), r)
    | some (o, hint, reason) =>
      if (r.d.pair e.n).chain.isNone || vs.any fun v => r.d.ownRound e.n v.1.1 then (.wait, r)
      else (.wait, (r.refuseHome (r.d.engCtx e code o.1) o.1 o.2 hint reason).2.engHold e.n)

/-- The gates of the ports by which a pair's lines leave for other devices, `n` flits for each (R96, R103): all admit them, or the pair
waits for the slot of the refusal. A class B tile is asked once at a port. -/
def Run.engPorts (r : Run s₀) (e : Eng) (code n : Nat) (away : List (Nat × Nat)) : Ans Unit × Run s₀ :=
  let p := r.d.pair e.n
  let outs := away.filterMap fun x => r.d.egress e.n x.2
  let q : Asked := { src := .pair e.n, part := e.part, cls := e.cls, code := code, addr := (away.headD (0, 0)).1 }
  let pass (t : Nat) : Pass := { gates := [(Gate.portOut t, outs.count t * n)], ports := [t], bytes := 64 * outs.count t }
  let onCred (t : Nat) : Bool := p.creds.any fun c => !c.home && c.loc == t
  let ports := outs.dedup.filter fun t => !onCred t
  match away.findSome? fun x => (r.d.maySend e.n x.2 (80 * n) none).map fun h => (x, h) with
  | some (x, .hint ps) =>
    let t := (r.d.egress e.n x.2).getD 0
    let (_, r) := r.refuse { q with addr := x.1 } ps 1 false t (r.d.passBooks q (pass t))
    (.wait, if p.chain.isNone then r else r.engHold e.n)
  | none =>
    let (v, r) := ports.foldl (fun (x : Verdict × Run s₀) t => match x.1 with
      | .go => if e.cls == 2 && p.passed.contains t then x else x.2.askPass q (pass t) []
      | .stop _ => x) (Verdict.go, r)
    match v with
    | .stop c => if c.status == .nadm then (.wait, r.engHold e.n) else (.fails c, r)
    | .go =>
      let r := r.each ports fun r t => r.takePass q (pass t)
      if e.cls ≤ 2 && !outs.isEmpty then
        (.ok (), r.updPair e.n fun p => { p with
          creds := p.creds.filter fun c => c.home || !outs.contains c.loc
          passed := if e.cls == 2 then (p.passed ++ outs).dedup else p.passed })
      else (.ok (), r)

/-- Fetch what lines of other devices are missing: at most 256 requests of a pair are outstanding (R211). -/
def Run.engAsk (r : Run s₀) (e : Eng) (las : List (Nat × Nat)) : Ans Unit × Run s₀ :=
  let p := r.d.pair e.n
  let now_ := (las.filter fun x => !p.asked.contains x.1).take (256 - p.sent)
  if now_.isEmpty then (.ok (), r)
  else match r.engPorts e 0x01 1 now_ with
    | (.ok _, r) =>
      (.ok (), r.each now_ fun r x =>
        let r := r.updPair e.n fun p => { p with asked := x.1 :: p.asked, sent := p.sent + 1 }
        r.originate (.pair e.n) e.part x.2 { code := 0x01, h := { sword := e.sword, addr := BitVec.ofNat 64 x.1 } } (.pair e.n))
    | x => x

/-- Routes of lines: the completion that ends the read, a wait for an entry, or the lines of other devices. Where an entry is missing
or its extent moves, the request is refused and the pair waits for its slot (R369, R372, R213). -/
def Run.engRoutes (r : Run s₀) (e : Eng) (las : List Nat) : Ans (List (Nat × Nat)) × Run s₀ :=
  let rs := (las.map extentOf).dedup.map fun x => (x, r.d.route x)
  match rs.filterMap fun x => match x.2 with | .ends st => some st | _ => none with
  | st :: sts => (.fails (sts.foldl (fun c s => c.worse (Compl.of s)) (Compl.of st)), r)
  | [] =>
    let r := r.each rs fun r x => match x.2 with | .nadm _ _ true => r.fetchEntry x.1 | _ => r
    match rs.findSome? fun x => match x.2 with | .nadm hint reason _ => some (x.1, hint, reason) | _ => none with
    | some (x, hint, reason) =>
      if (r.d.pair e.n).chain.isNone then (.wait, r)
      else
        let la := (las.find? fun la => extentOf la == x).getD 0
        let (_, r) := r.refuse { src := .pair e.n, part := e.part, cls := e.cls, code := 0x01, addr := la } hint reason true (e.n / 4) []
        (.wait, r.engHold e.n)
    | none => (.ok (las.filterMap fun la => match rs.find? fun x => x.1 == extentOf la with
      | some (_, .to dst) => some (la, dst)
      | _ => none), r)

/-- Which of these lines lie in LOST granules here, or in extents that are LOST everywhere (R39, R366)? -/
def Dev.lostAmong (d : Dev) (e : Eng) (las : List Nat) : List Nat :=
  las.filter fun la => match d.route (extentOf la) with
    | .ends st => st == .lost
    | .here => match d.g? la with
      | some g => (match d.check (d.engCtx e 0x01 la) g la .read with | .ends c => c.status == .lost | _ => false)
      | none => false
    | _ => false

/-- Read lines, by store address (aligned): all of them, or a wait, or the completion that ends it. A line in a LOST granule
reads as poison and is noted in the pair's `lostLn` (R248). -/
def Run.engLines (r : Run s₀) (e : Eng) (las : List Nat) : Rd × Run s₀ :=
  let las := las.dedup
  let gone := r.d.lostAmong e las
  let r := if gone.isEmpty then r else r.updPair e.n fun p => { p with lostLn := (gone.map lineNo) ++ p.lostLn }
  let live := las.filter fun la => !gone.contains la
  match r.engRoutes e live with
  | (.fails c, r) => (.fails c, r)
  | (.wait, r) => (.wait, r)
  | (.ok away, r) =>
    let here := live.filter fun la => !away.any fun x => x.1 == la
    let unmapped := here.any fun la => (r.d.g? la).isNone
    if unmapped then (.fails (faultC 0), r)
    else match r.engChecks e 0x01 (here.map fun la => (la, .read)) with
      | (.fails c, r) => (.fails c, r)
      | (.wait, r) => (.wait, r)
      | (.ok _, r) =>
        let missing := away.filter fun x => !(r.d.pair e.n).got.any fun g => g.1 == lineNo x.1
        match r.engAsk e missing with
        | (.fails c, r) => (.fails c, r)
        | (.wait, r) => (.wait, r)
        | (.ok _, r) =>
        let cold := here.filter fun la => match r.d.g? la with | some g => r.d.place g la == .miss | none => false
        let r := r.each cold fun r la =>
          let r := if (r.d.engCtx e 0x01 la).flash then r.winAdd (winFlashRead e.part) (rateTime 16384 (max 1 (r.d.o e.part 0x6010 5))) else r
          r.startFill (blockOf la) (e.cls == 3)
        if !cold.isEmpty || !missing.isEmpty then (.wait, r)
        else
          let (all, r) := here.foldl (fun (x : Bool × Run s₀) la =>
            let (b, r) := x.2.ready la .read e.n
            (x.1 && b, r)) (true, r)
          if !all then (.wait, r)
          else
            let r := if e.cls == 1 then r.each here fun r la => match r.d.g? la with
                | some g => r.chargeLine (r.d.engCtx e 0x01 la) g la .read
                | none => r
              else r
            let r := r.engServed e.n here
            let got := (r.d.pair e.n).got
            (.lines (las.map fun la => (lineNo la, if gone.contains la then bad else if away.any (fun x => x.1 == la) then lineIn got (lineNo la) else r.home la)), r)

/-- Translate and read bytes that the device needs to run the operation (R489): a poisoned line ends it with `POISON`. -/
def Run.engBytes (r : Run s₀) (e : Eng) (a len : Nat) : Ans (List Byte) × Run s₀ :=
  let n := (a % 64 + len + 63) / 64
  match r.engXlate e 0 (lineAddrs (a / 64 * 64) n) with
  | (.fails c, r) => (.fails c, r)
  | (.wait, r) => (.wait, r)
  | (.ok tos, r) =>
    match r.engLines e.own tos with
    | (.fails c, r) => (.fails c, r)
    | (.wait, r) => (.wait, r)
    | (.lines ls, r) =>
      let ds := tos.map fun t => lineIn ls (lineNo t)
      if tos.any fun t => (r.d.pair e.n).lostLn.contains (lineNo t) then (.fails (Compl.of .lost), r)
      else if ds.any (·.poison) then (.fails (Compl.of .poison), r)
      else (.ok ((ds.flatMap fun x => lineBytes x.data).drop (a % 64) |>.take len), r)

/-- The same bytes, read once for the descriptor: a later change to them does not affect it (R232). -/
def Run.engKeep (r : Run s₀) (e : Eng) (a len : Nat) : Ans (List Byte) × Run s₀ :=
  let key := a + b2n e.virt * 2 ^ 64
  match (r.d.pair e.n).kept.find? fun k => k.1 == key && k.2.length == len with
  | some k => (.ok k.2, r)
  | none =>
    match r.engBytes e a len with
    | (.ok bs, r) => (.ok bs, r.updPair e.n fun p => { p with kept := (key, bs) :: p.kept })
    | x => x

/-! ### Writes -/

/-- May the writes go out: routes, checks, room in the replay stores, the counter (R144)? -/
def Run.engMay (r : Run s₀) (e : Eng) (ws : List EWr) (ctr : Option Nat) : Ans (List (Nat × Nat)) × Run s₀ :=
  match r.engRoutes e (ws.map (·.la)) with
  | (.fails c, r) => (.fails c, r)
  | (.wait, r) => (.wait, r)
  | (.ok away, r) =>
    let here := ws.filter fun w => !away.any fun x => x.1 == w.la
    let ctrBad := if here.isEmpty then none else r.d.ctrCheck e.part ctr
    match ctrBad with
    | some st => (.fails (Compl.of st), r)
    | none =>
      if here.any fun w => (r.d.g? w.la).isNone then (.fails (faultC 0), r)
      else match r.engChecks e 0x02 (here.map fun w => (w.la, w.op)) with
        | (.fails c, r) => (.fails c, r)
        | (.wait, r) => (.wait, r)
        | (.ok _, r) =>
          match r.engPorts e 0x02 2 away with
          | (.fails c, r) => (.fails c, r)
          | (.wait, r) => (.wait, r)
          | (.ok _, r) => (.ok away, r)

/-- Send one line write of a pair; `last` marks the tile's last request to its device (R236). -/
def Run.engPut (r : Run s₀) (e : Eng) (w : EWr) (ctr : Option Nat) (dst : Option Nat) (last : Bool) : Run s₀ :=
  let r := r.updPair e.n fun p => { p with sent := p.sent + 1 }
  match dst with
  | none =>
    let id := r.d.jnext
    let j : Job := { src := .pair e.n, reply := .pair e.n, part := some e.part, code := w.code, addr := w.la, lines := 1, ctr := ctr
                     unit := last, left := 1, began := r.now, cls := e.cls, grans := [granuleOf w.la] }
    let r := r.mod fun d => { d with jobs := d.jobs.set id j, jnext := id + 1 }
    let r := match r.d.g? w.la with | some g => r.chargeLine (r.d.engCtx e w.code w.la) g w.la w.op | none => r
    (r.engServed e.n [w.la]).serve id 0 w.la w.op
  | some dst =>
    let h : Hdr := {
      flags := if last then 0x40 else 0, sword := e.sword, addr := BitVec.ofNat 64 w.la, etype := BitVec.ofNat 8 w.et
      operand := if w.code == 0x03 then w.mask else 0
      ctr := match ctr with | some c => BitVec.ofNat 16 (32768 + c) | none => 0 }
    r.originate (.pair e.n) e.part dst { code := w.code, h := h, data := [w.data] } (.pair e.n)

/-- Send every line write of a tile. -/
def Run.engStore (r : Run s₀) (e : Eng) (ws : List EWr) (ctr : Option Nat) (away : List (Nat × Nat)) : Run s₀ :=
  let dev (w : EWr) : Option Nat := (away.find? fun x => x.1 == w.la).map (·.2)
  let ws := ws.map fun w => (w, dev w)
  r.each ws.zipIdx fun r x =>
    let last := !(ws.drop (x.2 + 1)).any fun y => y.2 == x.1.2
    r.engPut e x.1.1 ctr x.1.2 last

/-- Line writes of a run of bytes at store address `a`. -/
def bytesWr (a : Nat) (bs : List Byte) : List EWr :=
  (cutLines (bs.length / 64 + 2) a bs).map fun x =>
    if x.2.1 == BitVec.allOnes 64 then { la := x.1, code := 0x02, data := good x.2.2 } else { la := x.1, code := 0x03, mask := x.2.1, data := good x.2.2 }

/-! ### The engine's B window and holds (R103, R120, R213) -/

/-- The tile's first request at the gates, once it is translated (R73): a hold or a full B window refuses it, and the pair waits on its
credit, which books the window, or the home lanes of an L tile's lines `las` (R108). The credit binds to the descriptor's operation and
the tile's first line (R111). -/
def Run.engGate (r : Run s₀) (e : Eng) (bytes : Nat) (las : List Nat := []) : Bool × Run s₀ :=
  if (r.d.pair e.n).phase != 0 then (true, r)
  else
    let code := match (r.d.pair e.n).chain with | some c => dOp c.desc | none => 0x60
    let q : Asked := { src := .pair e.n, part := e.part, cls := e.cls, code := code, addr := las.headD 0 }
    let rate := r.d.o e.part 0x6010 3
    let books := if e.cls == 2 then [(winBook (winEngine e.part), rateTime bytes (max 1 rate))]
      else if e.cls == 1 then las.flatMap fun la => match r.d.g? la with | some g => r.d.homeBooks q g la .read | none => []
      else []
    match r.door q false 0 true (e.n / 4) books with
    | (.refused _, r) => (false, r.engHold e.n)
    | (_, r) =>
      let ok (r : Run s₀) : Bool × Run s₀ := (true, r.updPair e.n fun p => { p with phase := 1 })
      if e.cls == 2 then
        match r.d.winB (winEngine e.part) rate with
        | .full h =>
          let (_, r) := r.refuse q h 3 true (e.n / 4) books
          (false, r.engHold e.n)
        | _ => ok (r.winAdd (winEngine e.part) (rateTime bytes (max 1 rate)))
      else ok r

/-- The access engine retries a refused tile on its credit (R109, R110, R213); refused requests of its tiles at other devices
leave again at their slots. -/
def Run.engRetry (r : Run s₀) (n : Nat) : Run s₀ :=
  let r := r.afterAck (some n)
  match (r.d.pair n).chain, (r.d.pair n).held with
  | some _, some i =>
    match r.d.credits.get? i with
    | none => r.updPair n fun p => { p with held := none }
    | some c =>
      match r.d.holdReason c.cls with
      | some reason => (r.refuseAgain i c (us 100) (some reason)).2
      | none =>
        if r.now < c.start then (r.refuseAgain i c (c.start - r.now) none).2
        else if c.until_ < r.now then (r.dropCredit i).updPair n fun p => { p with held := none }
        else (r.useCredit i c).updPair n fun p => { p with held := none, creds := c :: p.creds, phase := if 0x40 ≤ c.code then 1 else p.phase }
  | _, _ => r

/-! ### Moulds' home in the queue, result buffers -/

/-- Descriptors of a queue fetched and not yet completed: those that remain of its running chains. -/
def Dev.queueBusy (d : Dev) (part q : Nat) : Nat :=
  (d.pairs.map fun p => match p.2.chain with
    | some c => if c.part == part && c.queue == q then c.descs.length - c.pos else 0
    | none => 0).sum

/-- Chains of a partition now running. -/
def Dev.running (d : Dev) (part : Nat) : Nat :=
  let runs (n : Nat) : Bool := match (d.pair n).chain with | some c => c.part == part | none => false
  (d.pairs.filter fun p => runs p.1 || match p.2.helps with | some m => runs m | none => false).length

/-- Show the chains running at 0x6030:03. -/
def Run.showRunning (r : Run s₀) (part : Nat) : Run s₀ := r.setO part 0x6030 3 (r.d.running part)

/-! ### The end of a chain -/

/-- A pair is released by its partition (R219): the release is noted, and the partition's first unserved booking takes it. -/
def Run.release (r : Run s₀) (n part : Nat) : Run s₀ :=
  let r := r.mod fun d => { d with qhist := d.qhist.set part ((d.now :: d.qhist.getD part []).take 65) }
  let mine := r.d.credits.filter fun (c : Nat × Credit) => c.2.part == part && c.2.reason == 9 && r.now < c.2.start && c.2.start != 0
    && !(r.d.pairs.any fun p => p.2.held == some c.1)
  match mine with
  | [] => r
  | (i, _) :: _ =>
    let r := r.mod fun d => { d with credits := d.credits.upd i fun c => { c with start := d.now } }
    r.updPair n fun p => { p with held := some i }

/-- The slots of a kind: embedding tables, or indices. -/
def Dev.slots (d : Dev) (ix : Bool) : Tab Slot := if ix then d.idx else d.emb

/-- Store a slot of a kind, or free it; the number in use is shown. -/
def Run.setSlot (r : Run s₀) (ix : Bool) (s : Nat) (x : Option Slot) : Run s₀ :=
  let t := match x with | some x => (r.d.slots ix).set s x | none => (r.d.slots ix).del s
  let r := r.mod fun d => if ix then { d with idx := t } else { d with emb := t }
  r.setO 0 (if ix then 0xC030 else 0xC020) 1 t.length

/-- Remove the retiring versions of a slot that have no references left, crediting their counters (R274); a closing slot
without any becomes free (R272). -/
def Run.retire (r : Run s₀) (ix : Bool) (s : Nat) : Run s₀ :=
  match (r.d.slots ix).get? s with
  | none => r
  | some x =>
    let gone := x.retiring.filter fun v => v.refs.isEmpty
    let x := { x with retiring := x.retiring.filter fun v => !v.refs.isEmpty }
    let r := r.setSlot ix s (if x.cur.version == 0 && x.retiring.isEmpty then none else some x)
    let r := r.bumpBy 0 (if ix then 0xC030 else 0xC020) (if ix then 9 else 7) gone.length
    r.each gone fun r v => match v.nctr with | some c => r.addCtr c 1 | none => r

/-- The references of a pair's batch or search are dropped (R273), and the pairs that work for it are released (R320). -/
def Run.dropRefs (r : Run s₀) (n : Nat) : Run s₀ :=
  let cut (v : SlotVer) : SlotVer := { v with refs := v.refs.filter (· != n) }
  let r := if r.d.pairs.any fun p => p.2.helps == some n then
      r.mod fun d => { d with pairs := d.pairs.map fun p => (p.1, if p.2.helps == some n then { p.2 with helps := none } else p.2) }
    else r
  let held (x : Slot) : Bool := (x.cur :: x.retiring).any fun v => v.refs.contains n
  let go (ix : Bool) (r : Run s₀) : Run s₀ :=
    r.each ((r.d.slots ix).filter fun e => held e.2) fun r e =>
      (r.setSlot ix e.1 (some { e.2 with cur := cut e.2.cur, retiring := e.2.retiring.map cut })).retire ix e.1
  go true (go false r)

/-- The chain of a pair has ended or stopped. -/
def Run.endChain (r : Run s₀) (n : Nat) : Run s₀ :=
  match (r.d.pair n).chain with
  | none => r
  | some c =>
    let r := (r.dropRefs n).mod fun d => { d with pairs := d.pairs.set n {}, waits := d.waits.del n }
    (r.release n c.part).showRunning c.part

/-- Write a completion record (Table 8-5) and raise the queue's completion event where asked. -/
def Run.record (r : Run s₀) (n part q tag : Nat) (st : Status) (last stopped event : Bool) (qidx word : Nat) : Run s₀ :=
  let idx := 0x6040 + q
  let entries := max 1 (r.d.o part idx 2)
  let head := r.d.o part idx 0x0B
  let flags := b2n (head / entries % 2 == 0) + 2 * b2n last + 4 * b2n stopped
  let bs := leBytes 4 tag ++ leBytes 1 st.code ++ leBytes 1 flags ++ leBytes 2 qidx ++ leBytes 8 word
  let r := r.ownWrite (.pair n) (some part) (r.d.o part idx 3 + 16 * (head % entries)) bs
  let r := r.setO part idx 0x0B ((head + 1) % 2 ^ 32)
  if event then r.event part (q + 1) else r

/-- The running totals of the completion (R226, R227): record, then the next descriptor or the chain's end. -/
def Run.complete (r : Run s₀) (n : Nat) : Run s₀ :=
  let p := r.d.pair n
  match p.chain with
  | none => r
  | some c =>
    match c.stage with
    | .done _ _ =>
      if c.ended || 0 < p.sent then r
      else
        match p.outs with
        | _ :: _ =>
          let e := { r.d.engOf n c with cls := 3, dl := none }
          let ws := p.outs.flatMap fun o => bytesWr o.1 o.2
          match r.engMay e ws none with
          | (.wait, r) => r
          | (.fails x, r) => r.updPair n fun p => { p with outs := [], worst := some x }
          | (.ok away, r) => (r.updPair n fun p => { p with outs := [] }).engStore e ws none away
        | [] => r
    | _ => r

/-- A chain stops where it is or goes on, its current descriptor having ended with `st`. -/
def Run.advance (r : Run s₀) (n : Nat) : Run s₀ :=
  let p := r.d.pair n
  match p.chain with
  | none => r
  | some c =>
    match c.stage with
    | .done st word =>
      if c.ended || 0 < p.sent || !p.outs.isEmpty then r
      else
        let x : Compl := match p.worst with
          | some w => if w.status == Status.ok then ⟨st, word, 0⟩ else Compl.worse ⟨st, word, 0⟩ w
          | none => ⟨st, word, 0⟩
        let b := c.desc
        let last := c.pos + 1 == c.descs.length
        let stops := x.status != .ok && x.status != .short
        let quiet := dCtl b 1 && x.status == .ok && !last
        let qidx := (c.start + c.pos) % max 1 (r.d.o c.part (0x6040 + c.queue) 2) % 65536
        let r := if dOp b == 0x90 && x.status == .late then r.bump 0 0xC040 5 else r
        let r := if stops then r.bump 0 0xC000 3 else r
        let r := if quiet && !stops then r
          else r.record n c.part c.queue (dTag b) x.status last stops (dCtl b 2) qidx x.word
        let keeps := dOp b == 0x55 || dOp b == 0x54 || dOp b == 0x51 || (dOp b == 0x63 && bit (fld b 0x2E 1) 1)
        if stops || last then r.endChain n
        else (r.dropRefs n).updPair n fun p => { p with
          chain := some { c with pos := c.pos + 1, stage := .ready }
          acc := if keeps then p.acc else [], got := [], lostLn := [], kept := [], asked := [], jobs := [], sent := 0, worst := none, phase := 0, outs := []
          xl := [], creds := [], passed := [] }
    | _ => r

/-! ### The dispatcher (R217-R219) -/

/-- Is a pair out of running chains: it failed its known-answer run, or its slice is quarantined (R427, R357)? -/
def Dev.pairOut (d : Dev) (n : Nat) : Bool := d.bring.katBad.contains n || d.quar.has (n / 4)

/-- Is a pair free for a chain: no chain, not booked, and its slice runs fewer than three others (R210)? -/
def Dev.pairFree (d : Dev) (n : Nat) : Bool :=
  let p := d.pair n
  let busy (p : Pair) : Bool := p.chain.isSome || p.held.isSome || p.helps.isSome
  !busy p && !d.pairOut n && !d.bring.katRun.contains n && ((List.range 4).filter fun i => i != n % 4 && busy (d.pair (n / 4 * 4 + i))).length < 3

/-- Could a queue's next chain start but for a pair: running, pending, ORDERED? -/
def Dev.queueReady (d : Dev) (part q : Nat) : Bool :=
  let idx := 0x6040 + q
  d.o part idx 0x0D == 1 && d.o part idx 1 != 0 && 0 < d.qPending part q
    && !(bit (d.o part idx 5) 0 && 0 < d.queueBusy part q)
    && d.queueBusy part q + 1 + (d.o part idx 0x0B + 2 ^ 32 - d.o part idx 0x0C) % 2 ^ 32 ≤ d.o part idx 2
    && (!bit (d.o part idx 5) 2 || (List.range 4).any fun i => d.pairFree (4 * d.o part idx 6 + i))

/-- Partitions that are active and have a chain waiting. -/
def Dev.waitingParts (d : Dev) : List Nat :=
  (List.range 256).filter fun p => d.o p 0x6050 1 == 1 && (List.range 16).any fun q => d.queueReady p q

/-- Common pairs a partition holds. -/
def Dev.commonHeld (d : Dev) (part : Nat) : Nat := d.running part - d.o part 0x6030 1

/-- May a partition start one more chain (R218)? -/
def Dev.inShare (d : Dev) (part : Nat) : Bool :=
  let run := d.running part
  if d.o part 0x6030 2 ≤ run then false
  else if run < d.o part 0x6030 1 then true
  else
    let guar := ((d.obj.filter fun e => e.1 % 16777216 == 0x6030 * 256 + 1).map (·.2)).sum
    let holders := ((d.pairs.filterMap fun p => p.2.chain.map (·.part)).dedup).filter fun p => 0 < d.commonHeld p
    let held := (holders.map d.commonHeld).sum
    let waiting := d.waitingParts
    let others := waiting.filter (· != part)
    let all := (holders ++ waiting ++ [part]).dedup
    let w := (all.map fun p => d.o p 0x6010 1).sum
    let mine := d.commonHeld part
    let wp := d.o part 0x6010 1
    held < 768 - guar
      && (others.isEmpty || mine * w ≤ (768 - guar) * wp + w)
      && !others.any fun p => d.o p 0x6030 1 ≤ d.running p
          && (d.commonHeld p * wp < mine * d.o p 0x6010 1 || (d.commonHeld p * wp == mine * d.o p 0x6010 1 && p < part))

/-- Is it this queue's turn among the partition's queues that could start (R218)? -/
def Dev.queueTurn (d : Dev) (part q : Nat) : Bool :=
  let last := d.turn.getD part 15
  ((List.range 16).map fun i => (last + 1 + i) % 16).find? (fun x => d.queueReady part x) == some q

/-- The bytes of a chain in a ring, from entry `head` on: up to the entry whose LINK is clear (R228). -/
inductive Ring where
  | chain (ds : List (List Byte))
  | partial_
  | wait
  | fails (ds : List (List Byte)) (st : Status)

/-- Fetch a chain: the descriptors pending, at most 256; `whole` says that 256 are pending, so that a longer chain ends there
(R228). -/
def Run.fetchChain (r : Run s₀) (e : Eng) (base entries : Nat) (whole : Bool) : Nat → Nat → Ring × Run s₀
  | 0, _ => (if whole then .chain [] else .partial_, r)
  | k + 1, head =>
    match r.engBytes { e with virt := false } (base + 64 * (head % entries)) 64 with
    | (.wait, r) => (.wait, r)
    | (.fails c, r) => (.fails [] c.status, r)
    | (.ok b, r) =>
      if !dCtl b 0 then (.chain [b], r)
      else match Run.fetchChain r e base entries whole k (head + 1) with
        | (.chain ds, r) => (.chain (b :: ds), r)
        | (.fails ds st, r) => (.fails (b :: ds) st, r)
        | x => x

/-- The retry hint of a chain refused for want of a pair (R219): the mean interval of the last 64 releases, times the place
among the unserved bookings. -/
def Dev.queueHint (d : Dev) (part place : Nat) : Nat :=
  let ts := d.qhist.getD part []
  match ts.head?, ts.getLast? with
  | some a, some b => if 2 ≤ ts.length then (a - b) / (ts.length - 1) * place else us 1 * place
  | _, _ => us 1 * place

/-- What the credit of a refused descriptor binds to (R111, R115): its class, its operation, and the word after its header, where the
operations with an address hold it (log entry 189). -/
def Dev.descAsked (d : Dev) (part q : Nat) (b : List Byte) : Asked :=
  { src := .queue part q, part := part, cls := dCls b, code := dOp b, addr := fld b 0x10 8, asid := if dSvc b 6 then d.o part (0x6040 + q) 4 else 0 }

/-- A chain that finds no pair in a queue with REFUSE is consumed, its first descriptor completed with `NADM`; a resubmission on its
credit that comes before the booked pair is released keeps the credit and takes a fresh hint and window (R219). -/
def Run.refuseChain (r : Run s₀) (n part q : Nat) (ds : List (List Byte)) (old : Option (Nat × Credit)) : Run s₀ :=
  let idx := 0x6040 + q
  let head := r.d.o part idx 0x0A
  let b := ds.headD []
  let unserved := r.d.credits.filter fun (c : Nat × Credit) => c.2.part == part && c.2.reason == 9 && r.now < c.2.start
  let (c, r) := match old with
    | some (i, x) =>
      let h := r.d.queueHint part (max 1 (unserved.countP fun (c : Nat × Credit) => c.1 ≤ i))
      let r := r.mod fun d => { d with credits := d.credits.upd i fun y => { y with until_ := windowEnd d.now h } }
      r.refuseAgain i x h none
    | none =>
      let h := r.d.queueHint part (1 + unserved.length)
      let i := r.d.cnext
      let (c, r) := r.refuse (r.d.descAsked part q b) h 9 false q []
      (c, r.mod fun d => { d with credits := d.credits.upd i fun y => { y with start := 2 ^ 80 } })
  let r := r.setO part idx 0x0A ((head + ds.length) % 2 ^ 32)
  let r := r.bump part 0x6030 4
  r.record n part q (dTag b) .nadm (ds.length == 1) true (dCtl b 2) (head % max 1 (r.d.o part idx 2) % 65536) c.word

/-- The standby role leaves pair `n` for another pair of its slice that has no chain (R210). -/
def Run.standbyAway (r : Run s₀) (n : Nat) : Run s₀ :=
  if r.d.o (n / 4) 0x5010 3 != n % 4 then r
  else match (List.range 4).find? fun i => i != n % 4 && (r.d.pair (n / 4 * 4 + i)).chain.isNone with
    | some i => (r.setO (n / 4) 0x5010 3 i).bump 0 0xC000 4
    | none => r

/-- Start the chain fetched on pair `n`. -/
def Run.startChain (r : Run s₀) (n part q : Nat) (ds : List (List Byte)) : Run s₀ :=
  let idx := 0x6040 + q
  let head := r.d.o part idx 0x0A
  let r := r.setO part idx 0x0A ((head + ds.length) % 2 ^ 32)
  let r := (r.standbyAway n).bump 0 0xC000 2
  let r := r.mod fun d => { d with turn := d.turn.set part q, pairs := d.pairs.set n { chain := some { part := part, queue := q, start := head, descs := ds } } }
  r.showRunning part

/-- An unreadable ring entry (R489): the chain stops there, the queue enters state 3. -/
def Run.badRing (r : Run s₀) (n part q pos : Nat) (st : Status) : Run s₀ :=
  let idx := 0x6040 + q
  let head := r.d.o part idx 0x0A
  let r := r.setO part idx 0x0A ((head + pos + 1) % 2 ^ 32)
  let r := r.record n part q 0 st false true false ((head + pos) % max 1 (r.d.o part idx 2) % 65536) 0
  (r.setO part idx 0x0D 3).event part 0x13

/-- The dispatcher tries the next chain of a queue on pair `n` (R217-R219, R228). -/
def Run.dispatch (r : Run s₀) (part q n : Nat) : Run s₀ :=
  let idx := 0x6040 + q
  if !r.d.ready || r.d.partState part != 1 || !r.d.queueReady part q || !r.d.queueTurn part q || r.d.noAdmit then r
  else
    let head := r.d.o part idx 0x0A
    let key := [part, q, head]
    let r := if (r.d.pair n).jobs == key || (r.d.pair n).chain.isSome then r
      else (r.unready n).updPair n fun p => { p with got := [], lostLn := [], kept := [], asked := [], sent := 0, worst := none, jobs := key }
    let e : Eng := { n := n, part := part, queue := q, asid := 0, virt := false, cls := 3, dl := none, nofill := false, nopark := true, tag := 0 }
    let pend := r.d.qPending part q
    match r.fetchChain e (r.d.o part idx 1) (max 1 (r.d.o part idx 2)) (256 ≤ pend) (min 256 pend) head with
    | (.wait, r) => r
    | (.partial_, r) => r
    | (.fails ds st, r) => r.badRing n part q ds.length st
    | (.chain ds, r) =>
      let b := ds.headD []
      let cred := if bit (r.d.o part idx 5) 1 && dSvc b 5 then
          r.d.creditOf (r.d.descAsked part q b) (dCredit b) else none
      let room := r.d.queueBusy part q + ds.length + (r.d.o part idx 0x0B + 2 ^ 32 - r.d.o part idx 0x0C) % 2 ^ 32 ≤ r.d.o part idx 2
      let pinned := !bit (r.d.o part idx 5) 2 || n / 4 == r.d.o part idx 6
      if !room then r
      else match cred with
        | some (i, c) =>
          match r.d.pairs.find? fun p => p.2.held == some i && p.2.chain.isNone with
          | some (m, _) =>
            if c.until_ < r.now then
              (r.dropCredit i).mod fun d => { d with pairs := d.pairs.upd m fun p => { p with held := none } }
            else ((r.useCredit i c).startChain m part q ds)
          | none => r.refuseChain n part q ds (some (i, c))
        | none =>
          let any := (List.range 1024).any r.d.pairFree
          if r.d.inShare part && any then (if r.d.pairFree n && pinned then r.startChain n part q ds else r)
          else if bit (r.d.o part idx 5) 1 then r.refuseChain n part q ds none
          else r

/-! ### `CHAIN.LOOP` (R230, R231) -/

/-- BACK of the loop at a place of a chain, if a loop stands there. -/
def loopBack (ds : List (List Byte)) (j : Nat) : Option Nat :=
  let b := ds.getD j []
  if dOp b == 0x55 then some (fld b 0x14 1) else none

/-- Depth of nesting of the loop at `j`: one more than the deepest loop inside its body. -/
def loopDepth (ds : List (List Byte)) : Nat → Nat → Nat
  | 0, _ => 1
  | f + 1, j =>
    match loopBack ds j with
    | none => 0
    | some k => 1 + ((List.range (min k j)).map fun i => loopDepth ds f (j - 1 - i)).foldl max 0

/-- Does a loop keep R231? -/
def loopOk (ds : List (List Byte)) (j : Nat) : Bool :=
  let b := ds.getD j []
  let count := fld b 0x10 4
  let back := fld b 0x14 1
  let n := fld b 0x15 1
  1 ≤ count && count ≤ 65536 && 1 ≤ back && back ≤ 64 && n ≤ 5 && fld b 0x16 2 == 0 && back ≤ j
    && ((List.range n).all fun i =>
      let w := fld b (0x18 + 8 * i) 8
      bits w 0 6 < back && 2 ≤ bits w 6 3)
    && ((List.range back).all fun i => match loopBack ds (j - 1 - i) with
      | some k => k + i + 1 ≤ back
      | none => true)
    && loopDepth ds 4 j ≤ 4

/-- Apply the bumps of a loop to its body. -/
def bumpBody (b : List Byte) (ds : List (List Byte)) (first : Nat) : List (List Byte) :=
  (List.range (fld b 0x15 1)).foldl (fun ds i =>
    let w := fld b (0x18 + 8 * i) 8
    let j := first + bits w 0 6
    let off := 8 * bits w 6 3
    let x := ds.getD j []
    let v := (BitVec.ofNat 64 (fld x off 8) + BitVec.ofInt 64 (sval 55 (bits w 9 55))).toNat
    ds.set j (putFld x off 8 v)) ds

/-- Run `CHAIN.LOOP` on pair `n`. -/
def Run.loop (r : Run s₀) (n : Nat) (b : List Byte) : Run s₀ :=
  match (r.d.pair n).chain with
  | none => r
  | some c =>
    if !loopOk c.descs c.pos then r.finish n .fault 0
    else
      let back := fld b 0x14 1
      let first := c.pos - back
      let i := Tab.get? c.loops c.pos
      let snap := match i with
        | none => (c.descs.drop first).take back |>.flatten
        | some _ => Tab.getD c.snaps c.pos []
      let i := i.getD 1
      if i < fld b 0x10 4 then
        let c' : Chain := { c with
          descs := bumpBody b c.descs first, pos := first, stage := .ready
          loops := Tab.set c.loops c.pos (i + 1), snaps := Tab.set c.snaps c.pos snap }
        r.updPair n fun p => { p with chain := some c' }
      else
        let old := (List.range back).map fun k => (snap.drop (64 * k)).take 64
        let c' : Chain := { c with
          descs := c.descs.take first ++ old ++ c.descs.drop c.pos
          loops := Tab.del c.loops c.pos, snaps := Tab.del c.snaps c.pos }
        (r.updPair n fun p => { p with chain := some c' }).finish n .ok 0

end

/-! ### The commands -/

/-- `CHAIN_START` (R217-R219): the dispatcher tries queue `q`'s next chain on pair `n`. -/
def execChainStart (part : BitVec 8) (q : Fin 16) (n : Fin 1024) (s : State) : Host.Outcome State Fault Refusal :=
  ((Run.start s).dispatch part.toNat q n).requestDone

/-- `ENGINE_CREDITED_RETRY` (R213). -/
def execEngineCreditedRetry (n : Fin 1024) (s : State) : Host.Outcome State Fault Refusal := ((Run.start s).engRetry n).requestDone

/-- `DESCRIPTOR_COMPLETE` (R226, R227): result buffers, then the record, once every write is performed. A descriptor that no
operation carries (R221), and the 256th of a chain that goes on (R228), complete with `FAULT`. -/
def execDescriptorComplete (n : Fin 1024) (s : State) : Host.Outcome State Fault Refusal :=
  let r := Run.start s
  let r := match (r.d.pair n).chain with
    | some c =>
      if c.stage == DStage.ready && (!descKnown c.desc || (c.pos == 255 && dCtl c.desc 0)) then r.finish n .fault 0 else r
    | none => r
  ((r.complete n).advance n).requestDone

/-- `CHAIN.LOOP` (R230). -/
def execChainLoop (n : Fin 1024) (s : State) : Host.Outcome State Fault Refusal :=
  ((Run.start s).op n 0x55 anyKind fun e b r => r.loop e.n b).requestDone

end Sys2Proof.Machine
end

