-- ==== Sys2Proof/Machine/Sync.lean ====
section
/-!
DEFINITION. Sync, fence, region and cast-group operations of chains and ports (chapters 5 and 7): Tables 5-2 to 5-4, 7-10.
-/

namespace Sys2Proof.Machine

/-- The fields of a sync or fence descriptor (Table 5-3). -/
def syncDesc (b : List Byte) : SyncF :=
  let dev := fld b 0x14 2
  let ndev := fld b 0x26 2
  { ctr := fld b 0x10 2, mode := fld b 0x12 1, event := bit (fld b 0x13 1) 0, notify := bit (fld b 0x13 1) 1
    dev := if dev == 0xFFFF then none else some dev, nctr := fld b 0x24 2
    ndev := if ndev == 0xFFFF then none else some ndev, value := BitVec.ofNat 64 (fld b 0x18 8), namt := BitVec.ofNat 64 (fld b 0x28 8) }

/-- Does a sync or fence descriptor keep R149? -/
def syncDescOk (b : List Byte) : Bool :=
  let code := dOp b
  let f := syncDesc b
  let dev := fld b 0x14 2
  let flags := fld b 0x13 1
  zeroed b 0x16 0x18 && zeroed b 0x38 0x40
    && f.ctr ≤ 32767 && (dev ≤ 16383 || dev == 0xFFFF)
    && (if code == 0x50 || code == 0x58 then f.mode ≤ 2 else f.mode == 0)
    && (if code == 0x53 then flags ≤ 3 else flags == 0)
    && (code == 0x54 || fld b 0x20 4 == 0)
    && (!(code == 0x53 && f.notify) || (f.nctr ≤ 32767 && (fld b 0x26 2 ≤ 16383 || fld b 0x26 2 == 0xFFFF)))
    && (code != 0x54 || dev == 0xFFFF)
    && (!(code == 0x52 || code == 0x54) || (fld b 0x30 8 % 64 == 0 && (fld b 0x30 8 < 2 ^ 62 || dSvc b 6)))

section
variable {s₀ : State}

/-- The result buffer of a descriptor, if it names one. -/
def outAt (a : Nat) (bs : List Byte) : List (Nat × List Byte) := if a == 0 then [] else [(a, bs)]

/-- Translate the result buffer of a descriptor with VIRT (R223), and go on with its store address. -/
def Run.withResult (r : Run s₀) (e : Eng) (a : Nat) (k : Nat → Run s₀ → Run s₀) : Run s₀ :=
  if a == 0 then k 0 r
  else match r.engXlate e 1 [a] with
    | (.ok [t], r) => k t r
    | (.ok _, r) => r
    | (.wait, r) => r
    | (.fails c, r) => r.ends e.n c

/-- The S lane of a counter's slice: a first try, or a resubmission on its credit (R97, R115). -/
def Run.syncGate (r : Run s₀) (e : Eng) (b : List Byte) (ctr : Nat) : Verdict × Run s₀ :=
  let slice := ctr / 128
  let q := r.d.descAsked e.part e.queue b
  match r.door q (dSvc b 5) (dCredit b) true slice [r.d.bookAt (.sram slice) 0 e.part 1] with
  | (.refused c, r) => (.stop c, r)
  | (.credited i c, r) => (.go, r.useCredit i c)
  | (.first, r) =>
    match r.askS q slice [] with
    | (some c, r) => (.stop c, r)
    | (none, r) => (.go, r)

/-- The gates of an operation that leaves for another device: the S lane of its port, and its stream (R97, R137, R486). -/
def Run.syncAway (r : Run s₀) (e : Eng) (b : List Byte) (dst : Nat) : Verdict × Run s₀ :=
  let q := r.d.descAsked e.part e.queue b
  let p := (r.d.egress e.n dst).getD 0
  let x : Pass := { gates := [(.portOut p, 1)], ports := [p] }
  let books := r.d.passBooks q x
  match r.door q (dSvc b 5) (dCredit b) false p books with
  | (.refused c, r) => (.stop c, r)
  | (entry, r) =>
    match r.d.maySend e.n dst 80 none with
    | some (.hint h) =>
      let r := match entry with | .credited i _ => r.dropCredit i | _ => r
      let (c, r) := r.refuse q h 1 false p books
      (.stop c, r)
    | none => match entry with
      | .credited i c => (.go, r.useCredit i c)
      | _ => match r.askPass q x [] with
        | (.go, r) => (.go, r.takePass q x)
        | y => y

/-- A counter operation of a chain (Table 5-2): at this device, or as a class S request to another. -/
def Run.syncPair (r : Run s₀) (e : Eng) (b : List Byte) : Run s₀ :=
  let code := dOp b
  if !syncDescOk b then r.finish e.n .fault 0
  else
    let f := syncDesc b
    let dst := f.dev.getD r.d.self
    if dst == r.d.self then
      r.withResult e (if code == 0x52 then fld b 0x30 8 else 0) fun res r =>
        match r.syncGate e b f.ctr with
        | (.stop c, r) => r.ends e.n c
        | (.go, r) =>
          let (c, bs, r) := r.syncLocal e.part code f
          r.finish e.n c.status c.word (match bs with | some bs => outAt res bs | none => [])
    else if (r.d.pair e.n).asked.isEmpty then
      match r.syncAway e b dst with
      | (.stop c, r) => r.ends e.n c
      | (.go, r) =>
        let r := r.updPair e.n fun p => { p with asked := [dst], sent := p.sent + 1 }
        let h := f.hdr code dst r.d.self
        let h := if dSvc b 5 then { h with sword := mkSword 0 false false false true 0 noBudget (dCredit b) } else h
        r.originate (.pair e.n) e.part dst { code := code, h := h } (.pair e.n)
    else
      r.withResult e (if code == 0x52 then fld b 0x30 8 else 0) fun res r =>
        let got := (r.d.pair e.n).got
        r.finish e.n .ok 0 (match code == 0x52, got with | true, x :: _ => outAt res (lineBytes x.2.data) | _, _ => [])

/-- `SYNC.WAIT` (R146). -/
def Run.waitPair (r : Run s₀) (e : Eng) (b : List Byte) : Run s₀ :=
  if r.d.waits.has e.n then r
  else if !syncDescOk b then r.finish e.n .fault 0
  else
    let f := syncDesc b
    if r.d.ctrOwner f.ctr != e.part then r.finish e.n .denied 0
    else r.withResult e (fld b 0x30 8) fun res r =>
      let c := r.d.ctr f.ctr
      if reached c.value f.value then r.finish e.n .ok 0 (outAt res c.result)
      else
        let t := fld b 0x20 4
        let w : Wait := { ctr := f.ctr, target := f.value, until_ := if t == 0 then none else some (r.now + us t), result := res, part := e.part }
        r.mod fun d => { d with waits := d.waits.set e.n w }

/-- A wait whose TIMEOUT has run out completes with `LATE` (R146). -/
def Run.waitTimeout (r : Run s₀) (n : Nat) : Run s₀ :=
  match r.d.waits.get? n with
  | none => r
  | some w => match w.until_ with
    | none => r
    | some t =>
      if r.now < t then r
      else (r.mod fun d => { d with waits := d.waits.del n }).finish n .late 0 (outAt w.result (r.d.ctr w.ctr).result)

/-- `ORDER.FENCE` of a chain (R140). -/
def Run.fencePair (r : Run s₀) (e : Eng) (b : List Byte) : Run s₀ :=
  if r.d.fences.any fun f => f.reply == .pair e.n then r
  else if !syncDescOk b then r.finish e.n .fault 0
  else
    let f := syncDesc b
    r.fence (.pair e.n) e.part (.pair e.n) f.mode (f.dev.getD r.d.self)

/-! ### Region operations (R154-R156) -/

/-- Lines of `[a, a + 64 n)` that lie in an extent. -/
def linesInExtent (a n x : Nat) : Nat :=
  let lo := max a (x * 2 ^ 30)
  let hi := min (a + 64 * n) ((x + 1) * 2 ^ 30)
  (hi - lo) / 64

/-- A region operation of a chain: every copy of a remote line of the range is cleaned, or written back and removed. -/
def Run.region (r : Run s₀) (e : Eng) (b : List Byte) (drop : Bool) : Run s₀ :=
  let a := fld b 0x10 8
  let n := fld b 0x18 4
  let flags := fld b 0x1C 1
  let res := fld b 0x20 8
  if bits flags 1 7 != 0 || !zeroed b 0x1D 0x20 || !zeroed b 0x28 0x40 || a % 64 != 0 || n == 0 || 1048576 < n || res % 64 != 0 then r.finish e.n .fault 0
  else if bit flags 0 && r.d.o e.part 0x6010 3 == 0 then r.finish e.n .denied 0
  else match r.engXlate e 0 (if e.virt then (List.range (cdiv (a % 65536 + 64 * n) 65536)).map fun i => max a (a / 65536 * 65536 + 65536 * i) else [a, a + 64 * (n - 1)]) with
    | (.fails c, r) => r.ends e.n c
    | (.wait, r) => r
    | (.ok tos, r) =>
      r.withResult e res fun res r =>
        let runs : List (Nat × Nat) := if e.virt then
            tos.zipIdx.map fun t =>
              let va := max a (a / 65536 * 65536 + 65536 * t.2)
              (t.1, min ((va / 65536 + 1) * 65536) (a + 64 * n) - va)
          else [(a, 64 * n)]
        let inside (l : Nat) : Bool := runs.any fun x => x.1 ≤ l * 64 && l * 64 < x.1 + x.2
        let exts := (runs.flatMap fun x => [extentOf x.1, extentOf (x.1 + x.2 - 1)]).dedup
        let foreign := exts.any fun x => if r.d.homed x then false else match r.d.maq.get? x with
          | some c => c.entry.state == 1 && c.entry.part.toNat != e.part
          | none => false
        if foreign then r.finish e.n .denied 0
        else
          let todo := r.d.dir.filter fun x => x.2.proxy && inside x.1 && !(r.d.pair e.n).asked.contains x.1
          let r := r.each todo fun r x =>
            if r.d.txns.has x.1 then r
            else
              let r := (r.updPair e.n fun p => { p with asked := x.1 :: p.asked }).settle x.1
              match r.d.dir.get? x.1 with
              | none => r
              | some d =>
                let code := if drop then 0x29 else 0x2A
                if !drop && d.st == .ds then r
                else r.roundOf x.1 (.region e.n drop) (r.d.round d 31 code (d.st == .dO)) code none (.pair e.n)
          let left := r.d.dir.any fun x => x.2.proxy && inside x.1 && !(r.d.pair e.n).asked.contains x.1
          let open_ := r.d.txns.any fun t => t.2.kind == .region e.n drop
          if left || open_ || 0 < (r.d.pair e.n).sent then r
          else
            let local_ := ((exts.filter r.d.homed).map fun x => (runs.map fun y => linesInExtent y.1 (y.2 / 64) x).sum).sum
            let out := leBytes 4 n ++ leBytes 4 (r.d.pair e.n).jobs.length ++ leBytes 4 local_ ++ zeros 52
            r.finish e.n .ok 0 (outAt res out)

/-! ### `CAST.DEFINE` (R196, R346) -/

/-- The members of a list of `k` entries, if every entry is well formed. -/
def castMembers (bs : List Byte) (k : Nat) : Option (List (Nat × Nat)) :=
  let ms := (List.range k).map fun i => (fld bs (16 * i) 2, fld bs (16 * i + 2) 6, fld bs (16 * i + 8) 8)
  if ms.all fun m => m.1 < 16384 && m.2.1 == 0 && m.2.2 % 64 == 0 && storeAddrOk m.2.2 then some (ms.map fun m => (m.1, m.2.2)) else none

/-- `CAST.DEFINE`: the list is read once. -/
def Run.castDefine (r : Run s₀) (e : Eng) (b : List Byte) : Run s₀ :=
  let w := fld b 0x10 2
  let g := w % 4096
  let count := fld b 0x12 1
  let size := fld b 0x18 8
  let list := fld b 0x20 8
  if 4096 ≤ w || 64 < count || !zeroed b 0x13 0x18 || !zeroed b 0x28 0x40 || size % 64 != 0 || list % 64 != 0 then r.finish e.n .fault 0
  else if r.d.castOwner g != e.part then r.finish e.n .denied 0
  else if r.d.castStream g then r.finish e.n .busy 0
  else if count == 0 then (r.mod fun d => { d with casts := d.casts.del g }).finish e.n .ok 0
  else match r.engBytes e list (16 * count) with
    | (.wait, r) => r
    | (.fails c, r) => r.ends e.n c
    | (.ok bs, r) =>
      match castMembers bs count with
      | none => r.finish e.n .fault 0
      | some ms => (r.mod fun d => { d with casts := d.casts.set g { part := e.part, size := size, members := ms } }).finish e.n .ok 0

/-- A sync or fence operation that the plinth issues, in the name of the partition of its header (R149): on this device, or in its own
stream. One that breaks Table 7-16 completes with `FAULT` to the plinth itself, and nothing is sent. -/
def Run.syncPlinth (r : Run s₀) (h : Hdr) (code : Nat) : Run s₀ :=
  if !r.d.ready || code == 0x54 || h.cls != 0 || !syncHdrOk h code false then r
  else
    let f := syncFOf h
    let part := h.part.toNat
    let dst := f.dev.getD r.d.self
    if code == 0x58 then r.fence .plinth part .none f.mode dst
    else if dst == r.d.self then (r.syncLocal part code f).2.2
    else r.sendOrWait .plinth dst { code := code, h := f.hdr code dst r.d.self } .none part

/-- A sync or fence operation from a chain, as a request of a port, or of the plinth. A `SYNC.WAIT` waits in a chain alone (R149). -/
def Run.syncOp (r : Run s₀) (c : SyncSrc) (code : Nat) : Run s₀ :=
  match c with
  | .pair n => r.op n code anyKind fun e b r =>
      if code == 0x58 then r.fencePair e b else if code == 0x54 then r.waitPair e b else r.syncPair e b
  | .port p h => r.receive { p := p, code := code, h := h }
  | .plinth h => r.syncPlinth h code

end

/-! ### The commands -/

/-- `SYNC.SET` (R148). -/
def execSyncSet (c : SyncSrc) (s : State) : Host.Outcome State Fault Refusal := ((Run.start s).syncOp c 0x50).requestDone

/-- `SYNC.ADD` (R143); SIGNAL in a chain. -/
def execSyncAdd (c : SyncSrc) (s : State) : Host.Outcome State Fault Refusal := ((Run.start s).syncOp c 0x51).requestDone

/-- `SYNC.READ` (R189, Table 5-3). -/
def execSyncRead (c : SyncSrc) (s : State) : Host.Outcome State Fault Refusal := ((Run.start s).syncOp c 0x52).requestDone

/-- `SYNC.ARM` (R147). -/
def execSyncArm (c : SyncSrc) (s : State) : Host.Outcome State Fault Refusal := ((Run.start s).syncOp c 0x53).requestDone

/-- `ORDER.FENCE` (R140). -/
def execOrderFence (c : SyncSrc) (s : State) : Host.Outcome State Fault Refusal := ((Run.start s).syncOp c 0x58).requestDone

/-- `SYNC.WAIT` (R146); issued anywhere but in a chain, it completes with `FAULT` (R149). -/
def execSyncWait (c : SyncSrc) (s : State) : Host.Outcome State Fault Refusal := ((Run.start s).syncOp c 0x54).requestDone

/-- A `SYNC.WAIT` runs out of TIMEOUT (R146). -/
def execSyncWaitTimeout (n : Fin 1024) (s : State) : Host.Outcome State Fault Refusal := ((Run.start s).waitTimeout n).requestDone

/-- `REGION.FLUSHOUT` (R154). -/
def execRegionFlushout (n : Fin 1024) (s : State) : Host.Outcome State Fault Refusal :=
  ((Run.start s).op n 0x59 anyKind fun e b r => r.region e b false).requestDone

/-- `REGION.DISCARDIN` (R155). -/
def execRegionDiscardin (n : Fin 1024) (s : State) : Host.Outcome State Fault Refusal :=
  ((Run.start s).op n 0x5A anyKind fun e b r => r.region e b true).requestDone

/-- `CAST.DEFINE` (R196). -/
def execCastDefine (n : Fin 1024) (s : State) : Host.Outcome State Fault Refusal :=
  ((Run.start s).op n 0x5C anyKind fun e b r => r.castDefine e b).requestDone

end Sys2Proof.Machine
end

