-- ==== Sys2Proof/Machine/Harts.lean ====
section
/-!
DEFINITION. The commands of the host cores (chapter 13): loads, stores and fetches, cache-block operations, the counter
window, a cluster's retries.
-/

namespace Sys2Proof.Machine

section
variable {s₀ : State}

/-- Physical address of offset `off` of counter `n` in the counter window (Table 13-2). -/
def windowPa (n off : Nat) : Nat := 2 ^ 55 + 64 * n + off

/-- An 8-byte access to the counter window. -/
def Run.windowAccess (r : Run s₀) (h kind n off value : Nat) : Run s₀ :=
  r.hartStart h { kind := kind, pa := windowPa n off, width := 3, value := value }

end

/-- `HART_LOAD` (R334). -/
def execHartLoad (h : Fin 32) (pa : BitVec 56) (width : Fin 4) (s : State) : Host.Outcome State Fault Refusal :=
  ((Run.start s).hartStart h { kind := 0, pa := pa.toNat, width := width }).requestDone

/-- `HART_STORE` (R334). -/
def execHartStore (h : Fin 32) (pa : BitVec 56) (width : Fin 4) (value : BitVec 64) (s : State) : Host.Outcome State Fault Refusal :=
  ((Run.start s).hartStart h { kind := 2, pa := pa.toNat, width := width, value := value.toNat % 2 ^ (8 * 2 ^ width.val) }).requestDone

/-- `HART_FETCH` (R334): four bytes. -/
def execHartFetch (h : Fin 32) (pa : BitVec 56) (s : State) : Host.Outcome State Fault Refusal :=
  ((Run.start s).hartStart h { kind := 1, pa := pa.toNat, width := 2 }).requestDone

/-- `CLUSTER_CREDITED_RETRY` (R332): every hart of the cluster that waits on a credit. -/
def execClusterCreditedRetry (k : Fin 8) (s : State) : Host.Outcome State Fault Refusal :=
  ((Run.start s).each ((List.range 4).map (4 * k.val + ·)) Run.hartRetry).requestDone

/-- `CBO_CLEAN` (R157). -/
def execCboClean (h : Fin 32) (pa : BitVec 56) (s : State) : Host.Outcome State Fault Refusal :=
  ((Run.start s).hartStart h { kind := 3, pa := pa.toNat / 64 * 64, width := 0 }).requestDone

/-- `CBO_FLUSH` (R157). -/
def execCboFlush (h : Fin 32) (pa : BitVec 56) (s : State) : Host.Outcome State Fault Refusal :=
  ((Run.start s).hartStart h { kind := 4, pa := pa.toNat / 64 * 64, width := 0 }).requestDone

/-- `CBO_INVAL` (R157). -/
def execCboInval (h : Fin 32) (pa : BitVec 56) (s : State) : Host.Outcome State Fault Refusal :=
  ((Run.start s).hartStart h { kind := 5, pa := pa.toNat / 64 * 64, width := 0 }).requestDone

/-- `COUNTER_WINDOW_LOAD_VALUE` (Table 13-4). -/
def execCounterWindowLoadValue (h : Fin 32) (c : BitVec 15) (s : State) : Host.Outcome State Fault Refusal :=
  ((Run.start s).windowAccess h 0 c.toNat 0 0).requestDone

/-- `COUNTER_WINDOW_ADD` (Table 13-4). -/
def execCounterWindowAdd (h : Fin 32) (c : BitVec 15) (v : BitVec 64) (s : State) : Host.Outcome State Fault Refusal :=
  ((Run.start s).windowAccess h 2 c.toNat 0x08 v.toNat).requestDone

/-- `COUNTER_WINDOW_SET` (Table 13-4). -/
def execCounterWindowSet (h : Fin 32) (c : BitVec 15) (v : BitVec 64) (s : State) : Host.Outcome State Fault Refusal :=
  ((Run.start s).windowAccess h 2 c.toNat 0x10 v.toNat).requestDone

/-- `COUNTER_WINDOW_LOAD_MODE` (Table 13-4). -/
def execCounterWindowLoadMode (h : Fin 32) (c : BitVec 15) (s : State) : Host.Outcome State Fault Refusal :=
  ((Run.start s).windowAccess h 0 c.toNat 0x18 0).requestDone

/-- `COUNTER_WINDOW_SET_MODE` (Table 13-4). -/
def execCounterWindowSetMode (h : Fin 32) (c : BitVec 15) (v : BitVec 64) (s : State) : Host.Outcome State Fault Refusal :=
  ((Run.start s).windowAccess h 2 c.toNat 0x18 v.toNat).requestDone

/-- `COUNTER_WINDOW_ARM` (Table 13-4). -/
def execCounterWindowArm (h : Fin 32) (c : BitVec 15) (v : BitVec 64) (s : State) : Host.Outcome State Fault Refusal :=
  ((Run.start s).windowAccess h 2 c.toNat 0x20 v.toNat).requestDone

/-- `COUNTER_WINDOW_LOAD_THRESH` (Table 13-4). -/
def execCounterWindowLoadThresh (h : Fin 32) (c : BitVec 15) (s : State) : Host.Outcome State Fault Refusal :=
  ((Run.start s).windowAccess h 0 c.toNat 0x28 0).requestDone

end Sys2Proof.Machine
end

