-- ==== Sys2Proof/Machine/Place.lean ====
section
/-!
DEFINITION. Placement (chapter 2): slots and quotas, the placement descriptors (Tables 2-4 to 2-8), moves of granules within
the device (R42-R50) and of extents to another device up to the handover (R51-R53, R208).
-/

namespace Sys2Proof.Machine

/-! ### Slots and quotas -/

/-- Slots of a tier (Table 2-2, R29); while the placed part shrinks, those that are kept (R31). -/
def Dev.slotCount (d : Dev) (tier : Nat) : Nat :=
  match tier with
  | 0 => 192
  | 1 => 512 * 8 * (96 - match d.split with | some (c, _) => max c (d.o 0 0x4080 1) | none => d.o 0 0x4080 1)
  | _ => 524288 * Config.nandTiB.val

/-- The slot number that says a granule has none (Table 2-3). -/
def noSlot : Nat := 0xFFFFFFFF

/-- The granules of placement operations that are not open yet, and the slots of a tier reserved for them (R41). -/
def Dev.heldSlots (d : Dev) (tier : Nat) : List (Nat × Nat) :=
  d.places.flatMap fun o => if o.2.code == 0x40 && o.2.kind == tier then o.2.todo else []

/-- Slots of a tier in use: homes, targets of moves open or still to be opened, copies held for the twin, retired slots. -/
def Dev.usedSlots (d : Dev) (tier : Nat) : List Nat :=
  ((d.gran.filter fun g => g.2.tier == tier && g.2.slot != noSlot).map (·.2.slot))
    ++ ((d.moves.filter fun m => m.2.toT == tier && !m.2.outbound).map (·.2.toSlot))
    ++ (d.heldSlots tier).map (·.2)
    ++ ((d.copies.filter fun c => c.2.tier == tier).map (·.2.slot))
    ++ ((d.badSlots.filter fun b => b.1 == tier).map (·.2))

/-- The T1 granules that a split change has still to move out of slots that are given up (R31). -/
def Dev.givenUp (d : Dev) : List (Nat × GEnt) :=
  d.gran.filter fun g => g.2.tier == 1 && g.2.slot != noSlot && d.slotCount 1 ≤ g.2.slot && !d.moves.has g.1

/-- Free slots of a tier, less those reserved for extents moving here and for what a split change has still to move. -/
def Dev.freeCount (d : Dev) (tier : Nat) : Nat :=
  d.slotCount tier - ((d.usedSlots tier).filter fun s => s < d.slotCount tier).length - 512 * d.inAlloc.countP (fun x => x.2.tier == tier)
    - (if tier == 1 && d.split.isSome then d.givenUp.length + d.moves.countP fun m => m.2.toT == 1 && d.slotCount 1 ≤ m.2.toSlot else 0)

/-- The lowest `k` free slots of a tier. -/
def Dev.freeSlots (d : Dev) (tier k : Nat) : List Nat :=
  let used := d.usedSlots tier
  ((List.range (used.length + k)).filter fun i => !used.contains i).take k

/-- Granules a partition holds or has reserved in a tier (R348); a revoked extent counts in no quota (R361). -/
def Dev.tierUse (d : Dev) (part tier : Nat) : Nat :=
  (d.gran.filter fun g => g.2.part == part && g.2.tier == tier && !d.revoked.contains (g.1 / 512)).length
    + (d.moves.filter fun m => m.2.toT == tier && !m.2.outbound && (match d.gran.get? m.1 with | some g => g.part == part && g.tier != tier | none => false)).length
    + (d.heldSlots tier).countP (fun x => match d.gran.get? x.1 with | some g => g.part == part | none => false)
    + 512 * d.inAlloc.countP fun x => x.2.tier == tier && x.2.part == part

/-- Would `n` more granules pass the partition's quota of a tier (R348)? -/
def Dev.overQuota (d : Dev) (part tier n : Nat) : Bool :=
  match tier with
  | 0 => 0 < n && d.o part 0x6050 5 < d.tierUse part 0 + n
  | 1 => 0 < n && d.o part 0x6050 6 != 0xFFFFFFFF && d.o part 0x6050 6 < d.tierUse part 1 + n
  | _ => false

/-- The granule moves open on the device (R42). -/
def Dev.movesOpen (d : Dev) : Nat := (d.moves.filter fun m => !(m.2.outbound && m.2.verified)).length

/-- Lines of a store, in `[lo, hi)`, that hold a byte other than 0 or a poison mark. -/
def linesIn (cells : List Host.Cell) (marks : List Nat) (lo hi : Nat) : List Nat :=
  (((cells.filter fun c : Host.Cell => lo * 64 ≤ c.1 && c.1 < hi * 64).map fun c : Host.Cell => c.1 / 64) ++ marks.filter fun l => lo ≤ l && l < hi).dedup

section
variable {s₀ : State}

/-! ### Descriptors (R40, Table 2-5) -/

/-- Does a placement descriptor keep R40? `kinds` bounds KIND; `maxn` COUNT. -/
def placeOk (b : List Byte) (kinds maxn : Nat) : Bool :=
  let res := fld b 0x28 8
  1 ≤ fld b 0x18 4 && fld b 0x18 4 ≤ maxn && fld b 0x1C 1 ≤ kinds && fld b 0x1D 1 ≤ 1
    && zeroed b 0x1E 0x20 && zeroed b 0x22 0x28 && zeroed b 0x30 0x40
    && (dOp b == 0x41 || fld b 0x20 2 == 0) && fld b 0x20 2 < 16384
    && res % 64 == 0 && (storeAddrOk res || dSvc b 6)
    && fld b 0x10 8 % 2 ^ 21 == 0

/-- The class of a placement descriptor. -/
def placeCls (b : List Byte) : Nat := if bit (fld b 0x1D 1) 0 then 2 else 3

/-- The common part of a placement descriptor: R40, the range as granule numbers, its owner, its home (Table 2-8). -/
def Run.place (r : Run s₀) (e : Eng) (b : List Byte) (kinds maxn : Nat) (k : List Nat → Nat → Run s₀ → Run s₀) : Run s₀ :=
  let n := fld b 0x18 4
  if !placeOk b kinds maxn then r.finish e.n .fault 0
  else match r.engXlate e 0 ((List.range n).map fun i => fld b 0x10 8 + 2 ^ 21 * i) with
    | (.wait, r) => r
    | (.fails c, r) => r.ends e.n c
    | (.ok tos, r) =>
      let a := tos.headD 0
      let x := extentOf a
      let run := tos.zipIdx.all fun t => t.1 == a + 2 ^ 21 * t.2
      if a % 2 ^ 21 != 0 || !run || 512 < granuleOf a % 512 + n then r.finish e.n .fault 0
      else r.withResult e (fld b 0x28 8) fun res r =>
        let gs := tos.map granuleOf
        if r.d.homed x then
          let mine := gs.all fun g => match r.d.gran.get? g with | some y => y.part == e.part | none => false
          if !mine || r.d.revokes.has x || r.d.revoked.contains x then r.finish e.n .fault 0
          else if placeCls b == 2 && r.d.o e.part 0x6010 3 == 0 then r.finish e.n .denied 0
          else if r.d.assigned.has x then r.finish e.n .busy 0
          else k gs res r
        else match r.d.maq.get? x with
          | none => r.fetchEntry x
          | some c =>
            if c.entry.state == 0 || c.entry.part.toNat != e.part then r.finish e.n .fault 0
            else if c.entry.state == 2 then r.finish e.n .lost 0
            else r.finish e.n .moved (movedWord c.entry.epoch.toNat c.entry.home.toNat)
              (outAt res (placeResult 0 0 0 0 0 0 0 c.entry.epoch.toNat))

/-- A placement operation's record before it runs. -/
def placeNew (e : Eng) (b : List Byte) (gs : List Nat) (res : Nat) : PlaceOp :=
  { code := dOp b, addr := gs.headD 0, count := gs.length, kind := fld b 0x1C 1, bclass := placeCls b == 2, dest := fld b 0x20 2
    result := res, part := e.part, tag := e.tag, todo := [] }

/-! ### Moves of granules (R42-R50) -/

/-- Change a placement operation. -/
def Run.updPlace (r : Run s₀) (n : Option Nat) (f : PlaceOp → PlaceOp) : Run s₀ :=
  match n with
  | some n => r.mod fun d => { d with places := d.places.upd n f }
  | none => r

/-- The blocks among the lines `ls` of granule `g` that are read from flash: the granule is in T2 and no frame holds the line (R50). -/
def Dev.flashBlocks (d : Dev) (g : Nat) (x : GEnt) (ls : List Nat) : Nat :=
  if x.tier != 2 then 0
  else ((ls.filter fun i => !d.lineValid (g * 2 ^ 21 + 64 * i)).map (· / 256)).dedup.length

/-- A copy pass over the lines `ls` of a granule begins: where the operation runs in class B, it is one class B tile of its bytes at the
partition's engine rate, and the blocks it reads from flash are a class B read at the flash read rate (R488, R103, R105). It is admitted
when both windows admit it; one of class G runs in the time that is left. -/
def Run.passAdmit (r : Run s₀) (n : Option Nat) (part g : Nat) (x : GEnt) (ls : List Nat) : Run s₀ :=
  let b := match n with | some n => (match r.d.places.get? n with | some o => o.bclass | none => false) | none => false
  if !b then r.mod fun d => { d with moves := d.moves.upd g fun m => { m with admitAt := 0 } }
  else
    let blocks := r.d.flashBlocks g x ls
    let wait (w : Win) : Nat := match w with | .full h => h | _ => 0
    let h := max (wait (r.d.winB (winEngine part) (r.d.o part 0x6010 3))) (if blocks == 0 then 0 else wait (r.d.winFlash part))
    let r := r.winAdd (winEngine part) (rateTime (64 * ls.length) (max 1 (r.d.o part 0x6010 3)))
    let r := if blocks == 0 then r else r.winAdd (winFlashRead part) (rateTime (16384 * blocks) (max 1 (r.d.o part 0x6010 5)))
    r.mod fun d => { d with moves := d.moves.upd g fun m => { m with admitAt := d.now + h } }

/-- Every line of a granule, by number. -/
def allLines : List Nat := List.range 32768

/-- Step 1 of R43: the OPEN record, STATE MOVING; the first copy pass begins. The twin is told where the move takes a protected
granule across the T2 boundary (R399). -/
def Run.openMove (r : Run s₀) (n : Option Nat) (tag toT g slot : Nat) : Run s₀ :=
  match r.d.gran.get? g with
  | none => r
  | some x =>
    let j := r.d.jseq
    let r := r.journal 1 (x.tier + 4 * toT) x.part g x.slot slot tag
    let r := r.mod fun d => { d with
      gran := d.gran.set g { x with state := 1, jidx := j % 65536 }
      moves := d.moves.set g { owner := n, toT := toT, toSlot := slot
                               before := (d.jobs.filter fun j => j.2.grans.contains g).map (·.1)
                               opens := (d.txns.filter fun t => t.1 / 32768 == g).map (·.1) } }
    let r := if x.prot && (x.tier == 2) != (toT == 2) && (r.d.pairState == 1 || r.d.pairState == 2) then
        (r.mod fun d => { d with moves := d.moves.upd g fun m => { m with twinMove := true } }).tell (r.d.o 0 0x8000 1) (.copyMove g toT) else r
    (r.updPlace n fun o => { o with flight := o.flight ++ [g] }).passAdmit n x.part g x allLines

/-- The end of a `PLACE.TIER` whose granules are all done (Table 2-8). -/
def Run.placeDone (r : Run s₀) (n : Nat) (o : PlaceOp) : Run s₀ :=
  r.placeEnd n o (match o.fail with
    | some st => st
    | none => if 0 < o.abandoned then .busy else if 0 < o.skiplost then .lost else .ok)

/-- Open the next granules of an operation, at most eight at once, in address order, while the device has room for another open move
(R42); end it when none is left. -/
def Run.openNext (r : Run s₀) (n : Nat) : Nat → Run s₀
  | 0 => r
  | f + 1 =>
    match r.d.places.get? n with
    | none => r
    | some o =>
      if 8 ≤ o.flight.length then r
      else match o.todo with
        | [] => if o.flight.isEmpty then r.placeDone n o else r
        | (g, slot) :: rest =>
          if 4096 ≤ r.d.movesOpen then r
          else
          let r := r.updPlace (some n) fun o => { o with todo := rest }
          Run.openNext (r.openMove (some n) o.tag o.kind g slot) n f

/-- Would protected granules that leave T2 for `to_` pass the 98,304 of T0 and T1 (R384; refused as a full tier is: DESIGN CHOICE, log
entry 202)? -/
def Dev.overProt (d : Dev) (to_ : Nat) (need : List (Nat × GEnt)) : Bool :=
  let n := need.countP fun x => x.2.prot && x.2.tier == 2
  to_ != 2 && 0 < n && 98304 < (d.gran.filter fun g => g.2.prot && g.2.tier != 2).length + n

/-- `PLACE.TIER` (R41, Table 2-8, R465): the checks of the whole range, the slots reserved, the first granules opened. -/
def Run.placeTier (r : Run s₀) (e : Eng) (b : List Byte) : Run s₀ :=
  if r.d.places.has e.n then r
  else r.place e b 2 512 fun gs res r =>
    let to_ := fld b 0x1C 1
    let ents := gs.filterMap fun g => (r.d.gran.get? g).map fun x => (g, x)
    let lost := ents.filter fun x => x.2.state == 2
    let here := ents.filter fun x => x.2.state != 2 && x.2.tier == to_
    let need := ents.filter fun x => x.2.state != 2 && x.2.tier != to_
    let noFlash := placeCls b == 2 && r.d.o e.part 0x6010 5 == 0 && need.any fun x => x.2.tier == 2
    if r.d.overQuota e.part to_ need.length || (to_ == 2 && !need.isEmpty && !r.d.keyOk e.part) || noFlash then r.finish e.n .denied 0
    else if ents.any (fun x => x.2.state == 1 || x.2.state == 3) || (r.d.split.isSome && to_ == 1 && !need.isEmpty)
        || r.d.freeCount to_ < need.length || r.d.overProt to_ need || (4096 ≤ r.d.movesOpen && !need.isEmpty) then r.finish e.n .busy 0
    else
      let slots := r.d.freeSlots to_ need.length
      let o := { placeNew e b gs res with todo := (need.map (·.1)).zip slots, already := here.length, skiplost := lost.length }
      (r.mod fun d => { d with places := d.places.set e.n o }).openNext e.n 9

/-- The moves of a split change are opened while the device has room for them (R31, R42), each into the lowest free slot that is kept. -/
def Run.splitNext (r : Run s₀) : Run s₀ :=
  if r.d.split.isNone then r
  else
    let up := (r.d.givenUp.filter fun g => g.2.state == 0).take (4096 - r.d.movesOpen)
    r.each (up.zip (r.d.freeSlots 1 up.length)) fun r x => r.openMove none 0 1 x.1.1 x.2

/-- A move leaves the table; its operation goes on, and those that waited for room on the device (R42). -/
def Run.moveOut (r : Run s₀) (g : Nat) (m : Move) (f : PlaceOp → PlaceOp) : Run s₀ :=
  let r := r.mod fun d => { d with moves := d.moves.del g }
  let r := match m.owner with
    | none => r
    | some n => (r.updPlace (some n) fun o => f { o with flight := o.flight.filter (· != g), passes := max o.passes m.passes }).openNext n 9
  let more := r.d.places.filter fun o => some o.1 != m.owner && !o.2.todo.isEmpty && o.2.flight.length < 8
  (r.each more fun r o => r.openNext o.1 9).splitNext

/-- A move is abandoned: the granule stays at its old home (R49, R361). -/
def Run.moveAbandon (r : Run s₀) (g : Nat) (m : Move) : Run s₀ :=
  match r.d.gran.get? g with
  | none => r
  | some x =>
    let tag := match m.owner with | some n => (match r.d.places.get? n with | some o => o.tag | none => 0) | none => 0
    let r := r.journal 8 (x.tier + 4 * m.toT) x.part g x.slot m.toSlot tag
    (r.mod fun d => { d with gran := d.gran.set g { x with state := 0, jidx := 0 } }).moveOut g m
      fun o => { o with abandoned := o.abandoned + 1 }

/-- A line of a granule as its old home serves it (R50). -/
def Run.oldLine (r : Run s₀) (x : GEnt) (l : Nat) : DLine := if x.tier == 2 && !r.d.lineValid (l * 64) then r.line .flash l else r.line .mem l

/-- Poisoned lines of a granule, as its old home serves it (R48, R50). -/
def Run.poisonedIn (r : Run s₀) (g : Nat) (x : GEnt) : Nat :=
  let here (l : Nat) : Bool := g * 32768 ≤ l && l < (g + 1) * 32768
  r.cur.bad.countP here + (if x.tier == 2 then r.cur.fbad.countP fun l => here l && !r.d.lineValid (l * 64) else 0)

/-- Is some slice's map of lines written since their copy above 16 lines (R43)? -/
def Dev.overMarked (d : Dev) (g : Nat) (marked : List Nat) : Bool :=
  let ss := marked.map fun i => d.homeSlice (g * 2 ^ 21 + i * 64)
  ss.any fun s => 16 < ss.count s

/-! ### Extents to another device (R51) -/

/-- The copy of some lines of a granule leaves for DEST: stores of the plinth of at most 1,024 lines each. -/
def Run.extSend (r : Run s₀) (e : Nat) (x : ExtMove) (g : Nat) (runs : List (Nat × Nat)) : Run s₀ :=
  match r.d.gran.get? g with
  | none => r
  | some y =>
    let cls := match x.pair with | some n => (match r.d.places.get? n with | some o => if o.bclass then 2 else 3 | none => 3) | none => 3
    r.mod fun d => { d with after := d.after ++ runs.map fun w =>
      { src := .plinth, part := x.part, dst := x.dest, reply := .extent e, since := r.now
        at_ := match r.d.moves.get? g with | some m => m.admitAt | none => 0
        req := { code := 0x02
                 h := { flags := 0, lines := BitVec.ofNat 16 w.2, sword := plainSword cls, addr := BitVec.ofNat 64 (g * 2 ^ 21 + w.1 * 64) }
                 data := (List.range w.2).map fun i => r.oldLine y (g * 32768 + w.1 + i) } } }

/-- Copies of granule `g` that have not been acknowledged. -/
def Dev.extBusy (d : Dev) (e : Nat) (ok : Nat → Bool) : Bool :=
  d.after.any (fun x => x.reply == .extent e && ok (granuleOf x.req.h.a)) || d.origs.any fun o => o.2.reply == .extent e && ok (granuleOf o.2.req.h.a)

/-- Open the next outbound granules of an extent move: at most eight copies at once. -/
def Run.extOpen (r : Run s₀) (e : Nat) : Run s₀ :=
  match r.d.exts.get? e with
  | none => r
  | some x =>
    let mine := r.d.moves.filter fun m => m.1 / 512 == e && m.2.outbound
    let open_ := (mine.filter fun m => !m.2.verified).length
    let next := (r.d.gran.filter fun g => g.1 / 512 == e && g.2.state == 3 && !r.d.moves.has g.1).take (min (8 - open_) (4096 - r.d.movesOpen))
    r.each next fun r g =>
      let r := r.mod fun d => { d with moves := d.moves.set g.1 { owner := x.pair, toT := x.tier, toSlot := 0, outbound := true } }
      (r.passAdmit x.pair x.part g.1 g.2 allLines).extSend e x g.1 ((List.range 32).map fun i => (1024 * i, 1024))

/-- The extent moves go on that waited for room on the device (R42). -/
def Run.extMore (r : Run s₀) : Run s₀ := r.each (r.d.exts.filter fun x => x.2.phase == 2) fun r x => r.extOpen x.1

/-- A phase is recorded in the phase journal before it begins (R208). -/
def Run.setPhase (r : Run s₀) (e ph : Nat) : Run s₀ :=
  let r := r.mod fun d => { d with
    exts := d.exts.upd e fun x => { x with phase := ph, finalAt := if ph == 3 then d.now else x.finalAt }
    phases := d.phases.map fun p => (p.1, if p.2.target == e * 2 ^ 30 && p.2.phase < 255 then p.2.inPhase ph else p.2) }
  match r.d.exts.get? e with
  | some x => r.updPlace x.pair fun o => { o with phase := ph }
  | none => r

/-- `PLACE.EXTENT` (R51): its checks, then phase 1. An extent at DEST already is left alone. -/
def Run.placeExtent (r : Run s₀) (e : Eng) (b : List Byte) : Run s₀ :=
  if r.d.places.has e.n then r
  else if fld b 0x18 4 != 512 then r.finish e.n .fault 0
  else r.place e b 2 512 fun gs res r =>
    let x := gs.headD 0 / 512
    let dest := fld b 0x20 2
    let o := placeNew e b gs res
    let ents := gs.filterMap fun g => r.d.gran.get? g
    let epoch := r.d.cachedEpoch x
    let noFlash := placeCls b == 2 && r.d.o e.part 0x6010 5 == 0 && ents.any fun y => y.tier == 2 && y.state != 2
    if dest != r.d.self && noFlash then r.finish e.n .denied 0
    else if dest == r.d.self then r.placeEnd e.n { o with already := 512, epoch := epoch } .ok
    else if ents.any (fun y => y.state == 1 || y.state == 3) || r.d.exts.has x || 4096 ≤ r.d.movesOpen
        || 4096 ≤ (r.d.phases.filter fun p => p.2.phase < 255).length then r.finish e.n .busy 0
    else
      let ph := PRec.inPhase { seq := r.d.pseq, op := 0x41, phase := 1, part := e.part, target := x * 2 ^ 30, dev := dest, reqid := r.d.onext
                               optag := e.tag, pair := e.n } 1
      let r := r.mod fun d => { d with
        phases := (if 4096 ≤ d.phases.length then d.phases.keep fun _ p => p.phase < 255 else d.phases).set d.pseq ph, pseq := (d.pseq + 1) % 2 ^ 32, onext := d.onext + 1
        places := d.places.set e.n { o with phase := 1, epoch := epoch, skiplost := (ents.filter fun y => y.state == 2).length }
        exts := d.exts.set x { pair := some e.n, dest := dest, tier := o.kind, phase := 1, epoch := epoch, part := e.part, tag := e.tag } }
      let r := r.countPhases.journal 5 (4 * o.kind) e.part (x * 512) 0 dest e.tag
      r.tell dest (.allocate x o.kind e.part (ents.any (·.prot)))

/-- DEST's answer to phase 1: the copy begins, or the operation ends with `BUSY` (Table 2-10), or `DENIED` where DEST's quota or
its lack of the partition's key says so (R348, R465), or `INDET` where DEST was lost or reset and answers neither (R53). -/
def Run.extAllocated (r : Run s₀) (e : Nat) (st : Status) : Run s₀ :=
  match r.d.exts.get? e with
  | none => r
  | some x =>
    if x.phase != 1 then r
    else if st != .ok && st != .busy && st != .denied then r.extAbandon e .indet true
    else if st != .ok then
      let r := (r.endPhase e).journal 8 0 x.part (e * 512) 0 x.dest x.tag
      let r := r.mod fun d => { d with exts := d.exts.del e }
      match x.pair with
      | none => r
      | some n => match r.d.places.get? n with
        | some o => r.placeEnd n { o with phase := 1 } (if st == .denied then .denied else .busy)
        | none => r
    else
      let j := match r.d.journal.find? fun y => y.step == 5 && y.granule == e * 512 with | some y => y.seq % 65536 | none => 0
      let r := r.mod fun d => { d with gran := d.gran.map fun g =>
        (g.1, if g.1 / 512 == e && g.2.state == 0 then { g.2 with state := 3, jidx := j } else g.2) }
      (r.setPhase e 2).extOpen e

/-- The next phase begins when every request of the phase is acknowledged (R208): after the copy, the final pass. -/
def Run.phaseNext (r : Run s₀) (n : Nat) : Run s₀ :=
  match r.d.exts.find? fun x => x.2.pair == some n && x.2.phase == 2 with
  | none => r
  | some (e, x) =>
    let done := r.d.gran.all fun g => g.1 / 512 != e || g.2.state != 3 || (match r.d.moves.get? g.1 with | some m => m.verified | none => false)
    if !done || r.d.extBusy e (fun _ => true) then r
    else (r.journal 6 (4 * x.tier) x.part (e * 512) 0 x.dest x.tag).setPhase e 3

/-- The final pass: every copy an agent holds of the extent comes home, the marked lines leave; when all are acknowledged,
and no forward record of the extent is held (R378), the handover is sent to the keeper. -/
def Run.extFinal (r : Run s₀) (e : Nat) : Run s₀ :=
  match r.d.exts.get? e with
  | none => r
  | some x =>
    if x.phase != 3 then r
    else
      let mine (l : Nat) : Bool := l / 2 ^ 24 == e
      let held := r.d.dir.filter fun y => mine y.1 && !r.d.txns.has y.1
      let r := r.each held fun r y => r.evictLine y.1 false
      let r := r.each (r.d.comb.filter fun y => mine y.1) fun r y => r.mergeComb (y.1 * 64)
      let r := r.each (r.d.moves.filter fun m => m.1 / 512 == e && m.2.outbound && !m.2.marked.isEmpty) fun r m =>
        let r := match r.d.gran.get? m.1 with | some y => r.passAdmit x.pair x.part m.1 y m.2.marked | none => r
        (r.extSend e x m.1 (m.2.marked.map fun i => (i, 1))).mod fun d => { d with moves := d.moves.upd m.1 fun m => { m with marked := [] } }
      let busy := r.d.txns.any (fun t => mine t.1) || r.d.dir.any (fun y => mine y.1) || r.d.jobs.any (fun j => extentOf j.2.addr == e)
        || r.d.fwds.any (fun f => f.extent == e)
      if busy || (r.d.extBusy e fun _ => true) then r
      else
        let poisoned := ((r.d.gran.filter fun y => y.1 / 512 == e && y.2.state == 3).map fun y => r.poisonedIn y.1 y.2).sum
        let r := r.updPlace x.pair fun o => { o with poisoned := poisoned }
        let r := (r.journal 7 (4 * x.tier) x.part (e * 512) 0 x.dest x.tag).setPhase e 4
        r.tell (r.d.keeperFor e) (.handover e x.dest x.epoch)

/-! ### Passes and flips -/

/-- Is a write accepted for a line of granule `g` still under way (R46)? -/
def Dev.writesIn (d : Dev) (g : Nat) : Bool :=
  d.jobs.any (fun j => j.2.code != 0x01 && j.2.grans.contains g) || d.txns.any fun t => t.1 / 32768 == g

/-- The end of a copy pass, once admitted, whose lines `failed` did not match at the target (R43-R49): what did not match is copied again. -/
def Run.passDone (r : Run s₀) (g : Nat) (failed : List Nat) : Run s₀ :=
  match r.d.moves.get? g, r.d.gran.get? g with
  | some m, some x =>
    let tag := match m.owner with | some n => (match r.d.places.get? n with | some o => o.tag | none => 0) | none => 0
    if m.verified || r.now < m.admitAt then r
    else if m.outbound then
      if r.d.extBusy (g / 512) (· == g) then r
      else
        let marked := failed.foldl Marks.add m.marked
        let m := { m with passes := m.passes + 1, marked := marked }
        if !failed.isEmpty || (r.d.overMarked g marked && m.passes ≤ 8) then
          match r.d.exts.get? (g / 512) with
          | some e =>
            let r := r.mod fun d => { d with moves := d.moves.set g { m with marked := [] } }
            (r.passAdmit m.owner x.part g x marked).extSend (g / 512) e g (marked.map fun i => (i, 1))
          | none => r
        else
          (((r.mod fun d => { d with moves := d.moves.set g { m with verified := true } }).updPlace m.owner fun o =>
            { o with done := o.done + 1, passes := max o.passes m.passes }).extOpen (g / 512)).extMore
    else
      let fails := failed.foldl (fun (t : Tab Nat) l => t.set l (t.getD l 0 + 1)) m.fails
      if fails.any fun y => 3 ≤ y.2 then
        let r := r.error (mkErr 0x0C 1 7 0 (some x.part) (g * 2 ^ 21) (m.toT + 2 ^ 32 * m.toSlot) 0)
        let r := r.mod fun d => { d with badSlots := (m.toT, m.toSlot) :: d.badSlots, moves := d.moves.del g }
        match (r.d.freeSlots m.toT 1).head?.filter fun s => s < r.d.slotCount m.toT && 0 < r.d.freeCount m.toT with
        | some slot =>
          let r := r.updPlace m.owner fun o => { o with flight := o.flight.filter (· != g) }
          (r.mod fun d => { d with gran := d.gran.set g { x with state := 0, jidx := 0 } }).openMove m.owner tag m.toT g slot
        | none => r.moveAbandon g m
      else
        let marked := failed.foldl Marks.add m.marked
        let m := { m with passes := m.passes + 1, fails := fails, copied := true }
        if failed.isEmpty && (if m.quiesced then !r.d.writesIn g else !r.d.overMarked g marked) then
          (r.journal 2 (x.tier + 4 * m.toT) x.part g x.slot m.toSlot tag).mod fun d => { d with moves := d.moves.set g { m with verified := true } }
        else
          let quiet := !m.quiesced && 9 ≤ m.passes && r.d.overMarked g marked
          let m := { m with marked := [], quiesced := m.quiesced || quiet, quietAt := if quiet then r.now else m.quietAt }
          (r.mod fun d => { d with moves := d.moves.set g m }).passAdmit m.owner x.part g x marked
  | _, _ => r

/-- The lines of a granule go to their new medium: into flash, or out of flash and its frames (R48, R50). -/
def Run.flipLines (r : Run s₀) (g : Nat) (x : GEnt) (toT : Nat) : Run s₀ :=
  let lo := g * 32768
  let hi := lo + 32768
  if toT == 2 then
    let r := r.clear .flash (lo * 64) (hi * 64)
    let r := r.each (linesIn r.cur.mem r.cur.bad lo hi) fun r l => r.setLine .flash l (r.line .mem l)
    let r := r.each (List.range 128) fun r i => r.placeBlock (g * 128 + i)
    r.clear .mem (lo * 64) (hi * 64)
  else if x.tier == 2 then
    let r := r.each ((linesIn r.cur.flash r.cur.fbad lo hi).filter fun l => !r.d.lineValid (l * 64)) fun r l => r.setLine .mem l (r.line .flash l)
    (r.clear .flash (lo * 64) (hi * 64)).mod fun d => { d with
      frames := d.frames.keep fun k _ => k / 128 != g, progs := d.progs.keep fun k _ => k / 128 != g, dirtyAt := d.dirtyAt.del g
      fmap := d.fmap.keep fun k _ => k / 128 != g, opening := d.opening.del g }
  else r

/-- Lines that waited for a fill of granule `g` are served where it now stands. -/
def Run.servePending (r : Run s₀) (g : Nat) : Run s₀ :=
  let fs := r.d.fills.filter fun f => f.1 / 128 == g
  let r := r.mod fun d => { d with fills := d.fills.keep (fun k _ => k / 128 != g), deep := d.deep.keep fun k _ => k / 128 != g }
  r.each fs fun r f => r.each f.2.jobs.reverse fun r j => r.serve j.1 j.2.1 j.2.2.1 j.2.2.2

/-- Steps 5 to 7 of R43: the flash log, the FLIPPED record, the change of TIER and SLOT, the CLOSED record. -/
def Run.flipTo (r : Run s₀) (g : Nat) (x : GEnt) (toT toSlot tag : Nat) : Run s₀ :=
  let log : FLog := { slot := toSlot, opened := true, part := x.part, prot := x.prot }
  let r := r.mod fun d => { d with flog := if toT == 2 then d.flog.set g log else if x.tier == 2 then d.flog.del g else d.flog }
  let r := r.journal 3 (x.tier + 4 * toT) x.part g x.slot toSlot tag
  let r := r.flipLines g x toT
  let r := r.mod fun d => { d with
    gran := d.gran.set g { x with tier := toT, slot := toSlot, state := 0, opened := toT == 2, jidx := 0 }
    dirtyAt := if toT == 2 then d.dirtyAt.set g d.now else d.dirtyAt.del g }
  r.journal 4 (x.tier + 4 * toT) x.part g x.slot toSlot tag

/-- The flip of a verified move, once every request admitted to the granule before it entered MOVING has completed (R43, R92), and the
twin, while the pair points, has flipped its copy where it moves too (R399). -/
def Run.flip (r : Run s₀) (g : Nat) (twin : Bool) : Run s₀ :=
  match r.d.moves.get? g, r.d.gran.get? g with
  | some m, some x =>
    let copy := m.twinMove && !twin && (r.d.pairState == 1 || r.d.pairState == 2)
    if !m.verified || m.outbound || copy || m.before.any r.d.jobs.has || m.opens.any r.d.txns.has then r
    else
      let tag := match m.owner with | some n => (match r.d.places.get? n with | some o => o.tag | none => 0) | none => 0
      let poisoned := r.poisonedIn g x
      let r := (r.flipTo g x m.toT m.toSlot tag).servePending g
      (r.moveOut g m fun o => { o with done := o.done + 1, poisoned := o.poisoned + poisoned }).extMore
  | _, _ => r

/-! ### Advice (Table 2-6) -/

/-- The T2 granules of a range that are not LOST, and the result record of an advice. -/
def Run.adviseEnd (r : Run s₀) (e : Eng) (b : List Byte) (gs : List Nat) (res : Nat) : Run s₀ :=
  let lost := (gs.filter fun g => match r.d.gran.get? g with | some x => x.state == 2 | none => false).length
  r.placeEnd e.n { placeNew e b gs res with done := gs.length - lost, skiplost := lost } (if lost == 0 then .ok else .lost)

/-- The T2 granules of a range. -/
def Dev.t2Of (d : Dev) (gs : List Nat) : List Nat := gs.filter fun g => match d.gran.get? g with | some x => x.tier == 2 && x.state != 2 | none => false

/-- Begin to write back the dirty blocks that `f` chooses, for pair `n` (R494). -/
def Run.backBegin (r : Run s₀) (n : Nat) (f : Nat → Bool) : Run s₀ :=
  let dirty := (r.d.frames.filter fun x => f x.1 && x.2.dirty != 0).map (·.1)
  r.updPair n fun p => { p with asked := dirty, jobs := [] }

/-- Program the blocks that are free to be programmed, their invalid lines read first (R33); answers whether every one has been programmed
and matched. -/
def Run.backStep (r : Run s₀) (n : Nat) : Bool × Run s₀ :=
  let ready := (r.d.pair n).asked.filter fun k => !r.d.progs.has k
  let r := r.each ready Run.startBack
  let gone (k : Nat) : Bool := ready.contains k && (r.d.progs.has k || (match r.d.frames.get? k with | some f => f.dirty == 0 | none => true))
  let r := r.updPair n fun p => { p with asked := p.asked.filter (fun k => !gone k), jobs := p.jobs ++ ready.filter gone }
  let p := r.d.pair n
  (p.asked.isEmpty && p.jobs.all (fun k => !r.d.progs.has k), r)

/-- The advice of a kind. OPEN and WRITEBACK end when every granule is open, or every block programmed. -/
def Run.advise (r : Run s₀) (e : Eng) (b : List Byte) (kind : Nat) : Run s₀ :=
  r.place e b 3 512 fun gs res r =>
    let ts := r.d.t2Of gs
    if kind == 0 then
      let blocks := (ts.flatMap fun g => (List.range 128).map (128 * g + ·)).filter fun k => match r.d.frames.get? k with
        | some f => f.valid != BitVec.allOnes 256 | none => true
      (r.each blocks fun r k => r.startFill k true).adviseEnd e b gs res
    else if kind == 1 then
      let closed := ts.filter fun g => match r.d.gran.get? g with | some x => !x.opened | none => false
      if closed.isEmpty then r.adviseEnd e b gs res else r.each closed Run.startOpen
    else if kind == 2 then
      (r.mod fun d => { d with frames := d.frames.map fun f => (f.1, if ts.contains (f.1 / 128) then { f.2 with cold := true } else f.2) }).adviseEnd e b gs res
    else
      let r := if (r.d.pair e.n).phase != 0 then r
        else (r.backBegin e.n fun k => ts.contains (k / 128)).updPair e.n fun p => { p with phase := 1 }
      match r.backStep e.n with
      | (true, r) => r.adviseEnd e b gs res
      | (false, r) => r

/-! ### Discard and query -/

/-- Take every agent's copy of the lines of a range away without its data: done, or waiting for port agents. -/
def Run.dropCopies (r : Run s₀) (lo hi n : Nat) : Bool × Run s₀ :=
  (r.d.dir.filter fun x => lo ≤ x.1 && x.1 < hi).foldl (fun (x : Bool × Run s₀) y =>
    let (b, r) := x.2.ready (y.1 * 64) (.write bad) n
    (x.1 && b, r)) (true, r)

/-- Zero a granule (R39, R385): its store, its frames, its flash; a protected granule's lines are changed one by one, so that
each is pointed. -/
def Run.zeroGranule (r : Run s₀) (g : Nat) : Run s₀ :=
  match r.d.gran.get? g with
  | none => r
  | some x =>
    let lo := g * 32768
    let hi := lo + 32768
    let ls := if r.d.points x then
        (linesIn r.cur.mem r.cur.bad lo hi ++ (if x.tier == 2 then linesIn r.cur.flash r.cur.fbad lo hi else [])).dedup else []
    let r := (r.clear .mem (lo * 64) (hi * 64)).clear .flash (lo * 64) (hi * 64)
    let r := r.mod fun d => { d with
      gran := d.gran.set g { x with state := 0 }, comb := d.comb.keep (fun l _ => !(lo ≤ l && l < hi))
      frames := d.frames.keep (fun k _ => k / 128 != g), progs := d.progs.keep (fun k _ => k / 128 != g)
      exposed := if x.prot && !d.points x then Marks.add d.exposed g else d.exposed }
    (r.each ls fun r l => (r.change (l * 64) (good 0) 3 (.pointing 0 0)).2).servePending g

/-- `PLACE.DISCARD` (R39). -/
def Run.placeDiscard (r : Run s₀) (e : Eng) (b : List Byte) : Run s₀ :=
  r.place e b 0 512 fun gs res r =>
    let lo := gs.headD 0 * 32768
    let hi := lo + 32768 * gs.length
    if (r.d.pair e.n).phase == 0 then
      let ents := gs.filterMap fun g => (r.d.gran.get? g).map fun x => (g, x)
      let bare := (ents.filter fun x => x.2.state == 2 && x.2.slot == noSlot).map (·.1)
      let moving := match r.d.exts.get? (gs.headD 0 / 512) with | some x => 2 ≤ x.phase | none => false
      if moving || ents.any (fun x => x.2.state == 1 || x.2.state == 3) || r.d.freeCount 2 < bare.length then r.finish e.n .busy 0
      else match r.dropCopies lo hi e.n with
        | (false, r) => r
        | (true, r) =>
          let slots := r.d.freeSlots 2 bare.length
          let r := r.each (bare.zip slots) fun r x => r.mod fun d => { d with
            gran := d.gran.upd x.1 (fun y => { y with tier := 2, slot := x.2, opened := true })
            flog := d.flog.set x.1 { slot := x.2, opened := true, part := e.part, prot := false }
            dirtyAt := d.dirtyAt.set x.1 d.now }
          let r := (r.each gs Run.zeroGranule).updPair e.n fun p => { p with phase := 2 }
          if r.d.txns.any (fun t => lo ≤ t.1 && t.1 < hi) then r else r.placeEnd e.n { placeNew e b gs res with done := gs.length } .ok
    else if r.d.txns.any (fun t => lo ≤ t.1 && t.1 < hi) then r
    else r.placeEnd e.n { placeNew e b gs res with done := gs.length } .ok

/-- `PLACE.QUERY`: the entries, eight bytes each (Table 2-3). -/
def Run.placeQuery (r : Run s₀) (e : Eng) (b : List Byte) : Run s₀ :=
  r.place e b 0 64 fun gs res r =>
    r.finish e.n .ok 0 (outAt res (gs.flatMap fun g => leBytes 8 (match r.d.gran.get? g with | some x => gentWord x | none => 0)))

end

/-! ### The commands -/

/-- The advice kind of a descriptor. -/
def adviseKind (k : Nat) (b : List Byte) : Bool := fld b 0x1C 1 == k

/-- `PLACE.TIER` (R41). -/
def execPlaceTier (n : Fin 1024) (s : State) : Host.Outcome State Fault Refusal :=
  ((Run.start s).op n 0x40 anyKind fun e b r => r.placeTier e b).requestDone

/-- `PLACE.EXTENT` (R51). -/
def execPlaceExtent (n : Fin 1024) (s : State) : Host.Outcome State Fault Refusal :=
  ((Run.start s).op n 0x41 anyKind fun e b r => r.placeExtent e b).requestDone

/-- `PLACE.ADVISE` PREFETCH (Table 2-6). -/
def execPlaceAdvisePrefetch (n : Fin 1024) (s : State) : Host.Outcome State Fault Refusal :=
  ((Run.start s).op n 0x42 (adviseKind 0) fun e b r => r.advise e b 0).requestDone

/-- `PLACE.ADVISE` OPEN (R34). -/
def execPlaceAdviseOpen (n : Fin 1024) (s : State) : Host.Outcome State Fault Refusal :=
  ((Run.start s).op n 0x42 (adviseKind 1) fun e b r => r.advise e b 1).requestDone

/-- `PLACE.ADVISE` COLD (Table 2-6). -/
def execPlaceAdviseCold (n : Fin 1024) (s : State) : Host.Outcome State Fault Refusal :=
  ((Run.start s).op n 0x42 (adviseKind 2) fun e b r => r.advise e b 2).requestDone

/-- `PLACE.ADVISE` WRITEBACK (R494). -/
def execPlaceAdviseWriteback (n : Fin 1024) (s : State) : Host.Outcome State Fault Refusal :=
  ((Run.start s).op n 0x42 (adviseKind 3) fun e b r => r.advise e b 3).requestDone

/-- `PLACE.DISCARD` (R39). -/
def execPlaceDiscard (n : Fin 1024) (s : State) : Host.Outcome State Fault Refusal :=
  ((Run.start s).op n 0x43 anyKind fun e b r => r.placeDiscard e b).requestDone

/-- `PLACE.QUERY` (R38). -/
def execPlaceQuery (n : Fin 1024) (s : State) : Host.Outcome State Fault Refusal :=
  ((Run.start s).op n 0x44 anyKind fun e b r => r.placeQuery e b).requestDone

/-- A copy pass ends (R43, R46-R49). -/
def execMovePassDone (g : BitVec 41) (failed : List (Fin 32768)) (s : State) : Host.Outcome State Fault Refusal :=
  ((Run.start s).passDone g.toNat (failed.map (·.val)).dedup).requestDone

/-- The flip of a granule (R43). -/
def execGranuleFlip (x : FlipItem) (s : State) : Host.Outcome State Fault Refusal := ((Run.start s).flip x.g.toNat x.twin).requestDone

/-- DEST's answer to the allocate phase (R51). -/
def execExtentAllocateDone (e : BitVec 32) (st : BitVec 4) (s : State) : Host.Outcome State Fault Refusal :=
  ((Run.start s).extAllocated e.toNat (Status.ofCode st.toNat)).requestDone

/-- The final pass of an extent move (R51, R374). -/
def execExtentFinalPassDone (e : BitVec 32) (s : State) : Host.Outcome State Fault Refusal := ((Run.start s).extFinal e.toNat).requestDone

/-- The next phase of a multi-phase operation (R208). -/
def execPhaseAdvance (n : Fin 1024) (s : State) : Host.Outcome State Fault Refusal := ((Run.start s).phaseNext n).requestDone

end Sys2Proof.Machine
end

