-- ==== Sys2Proof/Machine/Flash.lean ====
section
/-!
DEFINITION. Flash behind its cache (chapters 2 and 17): opening and closing of granules (R34, R35), block programs (R494, R408),
fills and the read-retry ladder (R407), and the effect of a split change (R31).
-/

namespace Sys2Proof.Machine

section
variable {s₀ : State}

/-- The open record of a granule is programmed (R34). -/
def Run.openDone (r : Run s₀) (g : Nat) : Run s₀ :=
  if !r.d.opening.has g then r
  else r.mod fun d => { d with
    opening := d.opening.del g
    dirtyAt := d.dirtyAt.set g d.now
    gran := d.gran.upd g fun x => if x.tier == 2 then { x with opened := true } else x
    flog := d.flog.upd g fun x => { x with opened := true } }

/-- Ten milliseconds (R35). -/
def closeAfter : Nat := us 10000

/-- An open granule is closed: for 10 ms none of its lines was dirty in the cache, and none held in DX or DO (R35), since it
was opened (DEDUCED, log entry 70). -/
def Run.closeGranule (r : Run s₀) (g : Nat) : Run s₀ :=
  match r.d.gran.get? g with
  | none => r
  | some x =>
    let dirty := r.d.frames.any fun f => f.1 / 128 == g && f.2.dirty != 0
    let held := r.d.dir.any fun y => y.1 / 32768 == g && y.2.st != .ds
    let busy := r.d.progs.any (fun y => y.1 / 128 == g) || r.d.txns.any fun y => y.1 / 32768 == g
    if x.tier != 2 || !x.opened || x.state != 0 || dirty || held || busy || r.now < r.d.dirtyAt.getD g 0 + closeAfter then r
    else r.mod fun d => { d with gran := d.gran.set g { x with opened := false }, flog := d.flog.upd g fun y => { y with opened := false } }

/-- A block's program ends (R494): the lines it wrote that have not been written since are clean; or it fails, its flash block
is retired and the data is programmed again (R408). -/
def Run.programDone (r : Run s₀) (block : Nat) (ok : Bool) (old new : Nat) : Run s₀ :=
  match r.d.progs.get? block, r.d.frames.get? block with
  | some mask, some f =>
    if ok then r.programmed block f mask
    else
      let part := (r.d.gran.get? (block / 128)).map (·.part)
      let r := (r.error (mkErr 0x08 1 3 (old % 32) part (block * 16384) old new)).bump 0 0x9030 5
      (r.mod fun d => { d with retired := d.retired ++ [old] }).emit (.nandProgram block)
  | _, _ => r

/-- The record of a ladder's end (R407), and its count at 0x9030:10-16; `patina` says that flash patina read the block. -/
def Run.ladder (r : Run s₀) (block step sev loc : Nat) (patina : Bool := false) : Run s₀ :=
  let r := r.bump 0 0x9030 (0x10 + step)
  if step == 0 then r
  else r.error { mkErr 0x07 sev 3 (loc % 32) ((r.d.gran.get? (block / 128)).map (·.part)) (block * 16384) step loc with d2 := b2n patina }

/-- Step 6 failed: the lines of a block that no frame holds are poisoned, and the frame will be written so (R407, R409). -/
def Run.blockLost (r : Run s₀) (block : Nat) : Run s₀ :=
  let f := r.d.frames.getD block {}
  let ls := (List.range 256).filter fun i => !f.valid.getLsbD i
  ((r.installBlock block true).each ls fun r i => r.setLine .mem (block * 256 + i) bad).bumpBy 0 0x9030 4 ls.length

/-- Serve the lines that waited for a fill. -/
def Run.fillJobs (r : Run s₀) (f : Fill) : Run s₀ := r.each f.jobs.reverse fun r j => r.serve j.1 j.2.1 j.2.2.1 j.2.2.2

/-- A block read ends at ladder step 0, 1 or 2 and is installed; or it fails at step 2: its reads complete with `POISON`, and
deep recovery begins (R407). -/
def Run.fillEnd (r : Run s₀) (block step loc : Nat) : Run s₀ :=
  match r.d.fills.get? block with
  | none => r
  | some f =>
    let r := r.mod fun d => { d with fills := d.fills.del block }
    let t2 : Bool := match r.d.gran.get? (block / 128) with | some x => x.tier == 2 && x.state != 2 | none => false
    if !t2 then r.fillJobs f
    else if step ≤ 2 then
      let r := ((r.ladder block step 0 loc).installBlock block false).fillJobs f
      if f.wb then r.startProgram block else r
    else
      let r := (r.mod fun d => { d with deep := d.deep.set block 3 }).emit (.nandRead block)
      r.each f.jobs.reverse fun r j =>
        if j.2.2.2.needsData then r.lineDone j.1 j.2.1 (Compl.of .poison) bad 0 else r.serve j.1 j.2.1 j.2.2.1 j.2.2.2

/-- A deep step ends: the block is installed dirty; or the next step runs; or, after step 6, the lines that no frame holds are
poisoned, to be written so (R407). -/
def Run.deepEnd (r : Run s₀) (block : Nat) (ok : Bool) (loc : Nat) : Run s₀ :=
  match r.d.deep.get? block with
  | none => r
  | some step =>
    if ok then (((r.mod fun d => { d with deep := d.deep.del block }).ladder block step 1 loc).installBlock block true)
    else if step < 6 then (r.mod fun d => { d with deep := d.deep.set block (step + 1) }).emit (.nandRead block)
    else
      ((r.mod fun d => { d with deep := d.deep.del block }).ladder block 6 2 loc).blockLost block

/-! ### The split (R29, R31) -/

/-- A cache part per stack that R29 allows. -/
def splitOk (c : Nat) : Bool := 2 ≤ c && c ≤ 92 && (c - 2) % 6 == 0

/-- The frames that a cache part of `c` GiB per stack does not hold: no more stay in a set than it has. -/
def Run.overFrames (r : Run s₀) (c : Nat) : List (Nat × Frame) :=
  let d := (r.setO 0 0x4080 1 c).d
  (d.frames.zipIdx.filter fun f => d.ways f.1.1 ≤ (d.frames.take f.2).countP fun g => d.setOf g.1 == d.setOf f.1.1).map (·.1)

/-- A split change goes on: the frames given up are written back, the granules in slots given up move; when none is left the new split is
applied (R31). -/
def Run.splitStep (r : Run s₀) (c : Nat) : Option Status × Run s₀ :=
  let over_ := r.overFrames c
  let r := (r.each over_ fun r f => r.startBack f.1).splitNext
  let dirty := over_.any fun f => f.2.dirty != 0
  if dirty || !r.d.givenUp.isEmpty || r.d.moves.any (fun m => !m.2.outbound && (m.2.owner.isNone || (m.2.toT == 1 && r.d.slotCount 1 ≤ m.2.toSlot))) then
    (none, r)
  else (some .ok, r.each over_ (fun r f => r.dropFrame f.1) |>.setO 0 0x4080 1 c |>.mod fun d => { d with split := none })

/-- What holds a T1 slot without data to move, a LOST granule or a copy held for the twin, takes a slot that is kept. -/
def Run.reslot (r : Run s₀) : Run s₀ :=
  let r := r.each (r.d.givenUp.filter fun g => g.2.state == 2) fun r g => r.mod fun d =>
    { d with gran := d.gran.upd g.1 fun y => { y with slot := (d.freeSlots 1 1).headD 0 } }
  r.each (r.d.copies.filter fun x => x.2.tier == 1 && r.d.slotCount 1 ≤ x.2.slot) fun r x => r.mod fun d =>
    { d with copies := d.copies.upd x.1 fun y => { y with slot := (d.freeSlots 1 1).headD 0 } }

/-- A write of the cache part (R31): its status, or none while it still runs. -/
def Run.splitChange (r : Run s₀) (ses c : Nat) : Option Status × Run s₀ :=
  if !splitOk c then (some .fault, r)
  else match r.d.split with
    | some (c', k) => if c' != c || k != ses then (some .busy, r) else r.splitStep c
    | none =>
      let keep := 512 * 8 * (96 - c)
      let up := r.d.gran.filter fun g => g.2.tier == 1 && keep ≤ g.2.slot
      let used := ((r.d.usedSlots 1).length - r.d.badSlots.countP fun b => b.1 == 1 && keep ≤ b.2) + 512 * r.d.inAlloc.countP fun x => x.2.tier == 1
      if r.d.o 0 0x4080 1 < c && (keep < used || up.any fun g => g.2.state == 1 || g.2.state == 3) then (some .busy, r)
      else (r.mod fun d => { d with split := some (c, ses) }).reslot.splitStep c

end

/-! ### The commands -/

/-- `GRANULE_OPEN_DONE` (R34). -/
def execGranuleOpenDone (g : BitVec 41) (s : State) : Host.Outcome State Fault Refusal := ((Run.start s).openDone g.toNat).requestDone

/-- `GRANULE_CLOSE` (R35). -/
def execGranuleClose (g : BitVec 41) (s : State) : Host.Outcome State Fault Refusal := ((Run.start s).closeGranule g.toNat).close

/-- `BACKGROUND_WRITEBACK` (R32, R33): the write-back of a dirty block starts. -/
def execBackgroundWriteback (block : BitVec 48) (s : State) : Host.Outcome State Fault Refusal := ((Run.start s).startBack block.toNat).close

/-- `FLASH_PROGRAM_DONE` (R494, R408). -/
def execFlashProgramDone (block : BitVec 48) (ok : Bool) (retired replacement : BitVec 64) (s : State) : Host.Outcome State Fault Refusal :=
  ((Run.start s).programDone block.toNat ok retired.toNat replacement.toNat).requestDone

/-- `FILL_DONE` (R407): `step` is the step at which the read stopped, 3 where it failed at step 2. -/
def execFillDone (block : BitVec 48) (step : Fin 4) (loc : BitVec 64) (s : State) : Host.Outcome State Fault Refusal :=
  ((Run.start s).fillEnd block.toNat step loc.toNat).requestDone

/-- `DEEP_RECOVERY_STEP_DONE` (R407). -/
def execDeepRecoveryStepDone (block : BitVec 48) (ok : Bool) (loc : BitVec 64) (s : State) : Host.Outcome State Fault Refusal :=
  ((Run.start s).deepEnd block.toNat ok loc.toNat).requestDone

end Sys2Proof.Machine
end

