-- ==== Sys2Proof/Machine/XlateOps.lean ====
section
/-!
DEFINITION. Translation as commands (chapter 3): walks that end, pins, the fault timeout, and the operations of Table 3-7.
-/

namespace Sys2Proof.Machine

/-- The result record of a translation operation, Table 3-9. -/
def xlateResult (done faulted parked refused : Nat) : List Byte :=
  leBytes 4 done ++ leBytes 4 faulted ++ leBytes 4 parked ++ leBytes 4 refused ++ zeros 48

/-- The fields of a translation descriptor (Table 3-8). -/
def xVa (b : List Byte) : Nat := fld b 0x10 8
def xCount (b : List Byte) : Nat := fld b 0x18 4
def xAsid (b : List Byte) : Nat := fld b 0x1C 2
def xKind (b : List Byte) : Nat := fld b 0x1E 1

/-- Does a translation descriptor keep R85? The fields that an operation does not use are 0. A range of pages that passes 2^57 names
addresses that do not exist (R62): Table 3-8 bounds VADDR and COUNT and not their sum, and the model answers `FAULT` (DESIGN CHOICE, log
entry 192). -/
def xlateOk (b : List Byte) : Bool :=
  let op := dOp b
  let k := xKind b
  let pages := op == 0x4B || (op == 0x49 && k == 0)
  zeroed b 0x2A 0x30 && zeroed b 0x38 0x40 && fld b 0x30 8 % 64 == 0 && (storeAddrOk (fld b 0x30 8) || dSvc b 6)
    && (if pages then xVa b % 65536 == 0 && 1 ≤ xCount b && xCount b ≤ 2 ^ 26 && xVa b + 65536 * xCount b ≤ 2 ^ 57
        else xVa b == 0 && xCount b == 0)
    && (if op == 0x4B then fld b 0x1F 1 ≤ 3 && k == 0 else fld b 0x1F 1 == 0)
    && (if op == 0x48 && k == 0 then true else fld b 0x20 8 == 0)
    && (op == 0x4A || fld b 0x28 2 == 0)

section
variable {s₀ : State}

/-- Does the scope of an invalidation cover an address of an ASID, or some of the `len` bytes from it? -/
def Inval.covers (x : Inval) (asid va len : Nat) : Bool :=
  x.lo ≤ asid && asid < x.hi && (match x.pages with | none => true | some (lo, hi) => va < hi && lo < va + len)

/-- Drop what the translation blocks hold of a scope: the entries dropped; walks in the scope do not install (R74, R75). -/
def Run.dropScope (r : Run s₀) (x : Inval) : Nat × Run s₀ :=
  let inE (e : TlbE) : Bool := x.covers e.asid (e.vpn * 2 ^ e.bits) (2 ^ e.bits)
  let n := ((r.d.tlb.map fun t => (t.2.filter inE).length)).sum
  (n, r.mod fun d => { d with
    tlb := d.tlb.map fun t => (t.1, t.2.filter fun e => !inE e)
    ptrs := d.ptrs.map fun t => (t.1, t.2.filter fun p => !x.covers p.1 (p.2.2.1 * 2 ^ levelBits p.2.1) (2 ^ levelBits p.2.1))
    walks := d.walks.map fun w => if x.covers w.asid w.va 65536 then { w with void := true } else w })

/-- Does pair `n`'s descriptor, begun before the entries were dropped, use store address `a` by a page in the scope? -/
def Dev.pairVia (d : Dev) (x : Inval) (self_ n a : Nat) : Bool :=
  n != self_ && (match (d.pair n).chain with
    | some c => c.began ≤ x.at_ && (d.pair n).xl.any fun y =>
        y.2.2 ≤ a && a < y.2.2 + 2 ^ y.2.1 && x.covers (d.o c.part (0x6040 + c.queue) 4) y.1 (2 ^ y.2.1)
    | none => false)

/-- Does anything still run that was translated through an entry which an invalidation dropped (R74): a request here, at another device or
on its way out, a reduction held for it, an agent's request for a line, a tile's requests, result buffers to be written? What is parked does not
count (R76). -/
def Dev.draining (d : Dev) (x : Inval) (self_ : Nat) : Bool :=
  let by_ (since : Nat) (via : Option (Nat × Nat)) (src : Src) (a n : Nat) : Bool :=
    (since ≤ x.at_ && (match via with | some (asid, va) => x.covers asid va (64 * n) | none => false))
      || (match src with | .pair m => since ≤ x.at_ && d.pairVia x self_ m a | _ => false)
  let who (ws : List Contrib) : Bool := ws.any fun w => match w.src with | .ident _ _ => x.covers w.asid w.addr 64 | _ => false
  d.jobs.any (fun j => by_ j.2.began j.2.via j.2.src j.2.addr j.2.lines)
    || d.origs.any (fun o => by_ o.2.began o.2.via o.2.src o.2.req.h.a o.2.req.h.n
      || (match o.2.reply with | .relief n => o.2.began ≤ x.at_ && who (d.reliefWho.getD n []) | _ => false))
    || d.after.any (fun o => by_ o.since o.via o.src o.req.h.a o.req.h.n
      || (match o.reply with | .relief n => o.since ≤ x.at_ && who (d.reliefWho.getD n []) | _ => false))
    || d.txns.any (fun t => by_ t.2.began t.2.via .plinth 0 1)
    || d.relief.any (fun e => e.2.openedAt ≤ x.at_ && who e.2.who)
    || d.pairs.any fun p => p.2.outs.any fun o => d.pairVia x self_ p.1 o.1

/-- A walk for requests of ports ends (R69-R71, R75). A leaf is installed and pinned for the requests it allows; one that it does not allow
meets a PERM fault. A fault is known to every request that waits: it takes its entry, or writes its record, in the name of the first. -/
def Run.walkEnd (r : Run s₀) (blk asid va : Nat) : Run s₀ :=
  match r.d.walks.find? fun w => w.blk == blk && w.asid == asid && w.va == va && w.waits.any fun x => x.done.isNone with
  | none => r
  | some w =>
    let put (r : Run s₀) (x : Walk) : Run s₀ := r.mod fun d => { d with walks := d.walks.flatMap fun y =>
      if y == w then (if x.waits.isEmpty then [] else [x]) else [y] }
    let old := w.waits.filter fun x => x.done.isSome
    let due := w.waits.filter fun x => x.done.isNone
    let entry (r : Run s₀) (f : FaultAt) : Nat × Run s₀ := let (i, r) := r.takeEntry f 0 []; (i.getD 2048, r)
    if w.void then put r { w with void := false, began := r.now }
    else
      match r.walk blk 1024 asid va with
      | (.wait, r) => r
      | (.leaf e, r) =>
        let ok := due.filter fun x => e.allows x.access
        let r := if ok.isEmpty then r else
          r.install blk { e with pin := some (ok.foldl (fun t x => max t (w.began + 4 * x.hint)) 0), creds := ok.map (·.cred) }
        let (no, r) := (due.filter fun x => !e.allows x.access).foldl (fun (y : List XWait × Run s₀) x =>
          let (i, r) := entry y.2 (e.fault w.part x.va (accessBit x.access) x.port 0)
          (y.1 ++ [{ x with done := some (2, i) }], r)) ([], r)
        put r { w with waits := old ++ no }
      | (.fault kind level base bits_, r) =>
        match due with
        | [] => r
        | x :: _ =>
          let f : FaultAt := { part := w.part, asid := asid, va := x.va, kind := kind, level := level, base := base, bits := bits_
                               access := accessBit x.access, source := x.port, slice := 0 }
          let (i, r) := if 3 ≤ kind then (2048, r.reportFault f) else entry r f
          put r { w with waits := old ++ due.map fun x => { x with done := some (kind, i) } }

/-- A pin whose four hints have passed ends (R70). -/
def Run.pinEnd (r : Run s₀) (blk asid va : Nat) : Run s₀ :=
  r.mod fun d => { d with tlb := d.tlb.upd blk fun es => es.map fun e =>
    if e.asid == asid && e.vpn == va / 2 ^ e.bits && (match e.pin with | some t => t ≤ d.now | none => false) then { e with pin := none, creds := [] } else e }

/-- Complete the requests parked on an entry with `FAULT` and the entry's kind, and free it (R82, R86). -/
def Run.failEntry (r : Run s₀) (i : Nat) (e : FEnt) : Run s₀ :=
  let r := r.mod fun d => { d with fents := d.fents.del i }
  r.each e.reqs fun r q => match q with
    | .port p code h data since => r.answerAt { p := p, code := code, h := h, data := data, since := since } (faultC e.kind)
    | .pair n =>
      let r := r.mod fun d => { d with fents := d.fents.map fun x => (x.1, { x.2 with reqs := x.2.reqs.filter (· != .pair n) }) }
      (r.updPair n fun p => { p with parked := [] }).finish n .fault e.kind

/-- Hand the requests parked on an entry back to translation, and free it (R81, R86). -/
def Run.replayEntry (r : Run s₀) (i : Nat) (e : FEnt) : Run s₀ :=
  let r := r.mod fun d => { d with fents := d.fents.del i }
  r.each e.reqs fun r q => match q with
    | .port p code h data since => r.arrive { p := p, code := code, h := h, data := data, again := true, since := since }
    | .pair n => r.updPair n fun p => { p with parked := p.parked.filter (· != i) }

/-- The fault timeout of an entry (R82): 0x6020:03, in microseconds. -/
def Run.entryTimeout (r : Run s₀) (i : Nat) : Run s₀ :=
  match r.d.fents.get? i with
  | none => r
  | some e => if r.now < e.began + us (r.d.o e.part 0x6020 3) then r else r.failEntry i e

/-! ### The operations (Table 3-7) -/

/-- The common part: R85, the owner of the ASID. -/
def Run.xlateOp (r : Run s₀) (e : Eng) (b : List Byte) (k : Nat → Run s₀ → Run s₀) : Run s₀ :=
  if !xlateOk b then r.finish e.n .fault 0
  else if !(dOp b == 0x49 && xKind b == 2) && !r.d.ownsAsid e.part (xAsid b) then r.finish e.n .denied 0
  else r.withResult e (fld b 0x30 8) k

/-- `XLATE.BIND`, KIND 0 and KIND 1 (R66, R68). Table 3-9 gives DONE no meaning for it: the model writes the cache entries that it dropped, as
for an invalidation (DESIGN CHOICE, log entry 193). -/
def Run.bind (r : Run s₀) (e : Eng) (b : List Byte) : Run s₀ :=
  r.xlateOp e b fun res r =>
    let asid := xAsid b
    let root := fld b 0x20 8
    let bad := xKind b == 0 && (root % 4096 != 0 || !storeAddrOk root || (match r.d.g? root with | some g => g.tier == 2 | none => true))
    if bad then r.finish e.n .fault 0
    else
      let r := r.mod fun d => { d with roots := if xKind b == 0 then d.roots.set asid root else d.roots.del asid }
      let (n, r) := r.dropScope { at_ := r.now, dropped := 0, lo := asid, hi := asid + 1, pages := none }
      r.finish e.n .ok 0 (outAt res (xlateResult n 0 0 0))

/-- The ASIDs and pages an invalidation covers. -/
def Dev.invalScope (d : Dev) (part : Nat) (b : List Byte) : Inval :=
  let x : Inval := { at_ := d.now, dropped := 0, lo := xAsid b, hi := xAsid b + 1, pages := none }
  match xKind b with
  | 0 => { x with pages := some (xVa b, xVa b + 65536 * xCount b) }
  | 1 => x
  | _ => { x with lo := d.o part 0x6050 3, hi := d.o part 0x6050 3 + d.o part 0x6050 4 }

/-- `XLATE.INVAL` (R74): everything in the scope is dropped at once; the operation completes when the requests translated
through it have. -/
def Run.inval (r : Run s₀) (e : Eng) (b : List Byte) : Run s₀ :=
  if r.d.inval.has e.n then r
  else r.xlateOp e b fun res r =>
    let x := r.d.invalScope e.part b
    let (n, r) := r.dropScope x
    if !r.d.draining x e.n then r.finish e.n .ok 0 (outAt res (xlateResult n 0 0 0))
    else r.mod fun d => { d with inval := d.inval.set e.n { x with dropped := n } }

/-- The drain of an invalidation has ended (R74). -/
def Run.invalEnd (r : Run s₀) (n : Nat) : Run s₀ :=
  match r.d.inval.get? n, (r.d.pair n).chain with
  | some x, some c =>
    if r.d.draining x n then r
    else
      let e := r.d.engOf n c
      r.withResult e (fld c.desc 0x30 8) fun res r =>
        (r.mod fun d => { d with inval := d.inval.del n }).finish n .ok 0 (outAt res (xlateResult x.dropped 0 0 0))
  | _, _ => r

/-- `XLATE.RESOLVE` (R86): `fail` is KIND 1. -/
def Run.resolve (r : Run s₀) (e : Eng) (b : List Byte) (fail : Bool) : Run s₀ :=
  r.xlateOp e b fun res r =>
    let i := fld b 0x28 2
    match r.d.fents.get? i with
    | none => r.finish e.n .busy 0
    | some x =>
      if x.asid != xAsid b then r.finish e.n .busy 0
      else
        let r := if fail then r.failEntry i x else r.replayEntry i x
        r.finish e.n .ok 0 (outAt res (xlateResult (if fail then 0 else x.reqs.length) 0 x.parked x.refused))

/-- Walk `k` pages from `va`: the leaves found, the faults, or a wait. -/
def Run.prefetchWalk (r : Run s₀) (e : Eng) : Nat → Nat → Option (List (Nat × TlbE) × List FaultAt) × Run s₀
  | 0, _ => (some ([], []), r)
  | k + 1, va =>
    let (w, r) := match r.d.hit? (blkOfPair e.n) e.asid va with
      | some t => (WalkR.leaf t, r)
      | none => r.walk (blkOfPair e.n) e.n e.asid va
    match w with
    | .wait => (none, r)
    | .leaf t => match Run.prefetchWalk r e k (va + 65536) with
      | (some (ts, fs), r) => (some ((va, t) :: ts, fs), r)
      | x => x
    | .fault kind level base bits_ => match Run.prefetchWalk r e k (va + 65536) with
      | (some (ts, fs), r) => (some (ts, { e.faultAt va kind level base bits_ 0 with access := 16 } :: fs), r)
      | x => x

/-- `XLATE.PREFETCH` (R87). -/
def Run.xprefetch (r : Run s₀) (e : Eng) (b : List Byte) : Run s₀ :=
  r.xlateOp e b fun res r =>
    match r.prefetchWalk { e with asid := xAsid b } (xCount b) (xVa b) with
    | (none, r) => r
    | (some (ts, fs), r) =>
      let es := (ts.map fun t => { t.2 with pin := none, creds := [] }).dedup
      let r := r.each (List.range 8) fun r blk => r.each es fun r t => r.install blk t
      let regions := fs.foldl (fun gs f => if gs.any (fun g : FaultAt => g.base == f.base && g.bits == f.bits) then gs else gs ++ [f]) []
      let r := if bit (fld b 0x1F 1) 1 then r.each regions fun r f => r.reportFault f else r
      let r := if bit (fld b 0x1F 1) 0 then
          let blocks := ts.flatMap fun t => (List.range 4).map fun i => blockOf (t.2.addr t.1) + i
          r.each (blocks.filter fun k => match r.d.gran.get? (k / 128) with
            | some g => g.tier == 2 && g.state != 2 && g.part == e.part && (match r.d.frames.get? k with | some f => f.valid != BitVec.allOnes 256 | none => true)
            | none => false) fun r k => r.startFill k true
        else r
      r.finish e.n .ok 0 (outAt res (xlateResult ts.length fs.length 0 0))

end

/-! ### The commands -/

/-- KIND of a translation descriptor. -/
def xkind (k : Nat) (b : List Byte) : Bool := xKind b == k

/-- `WALK_DONE` (R69-R71). -/
def execWalkDone (blk : Fin 8) (asid : BitVec 16) (va : BitVec 57) (s : State) : Host.Outcome State Fault Refusal :=
  ((Run.start s).walkEnd blk asid.toNat (va.toNat / 65536 * 65536)).requestDone

/-- `XLATE_PIN_EXPIRE` (R70). -/
def execXlatePinExpire (blk : Fin 8) (asid : BitVec 16) (va : BitVec 57) (s : State) : Host.Outcome State Fault Refusal :=
  ((Run.start s).pinEnd blk asid.toNat va.toNat).close

/-- `FAULT_TIMEOUT` (R82). -/
def execFaultTimeout (i : Fin 2048) (s : State) : Host.Outcome State Fault Refusal := ((Run.start s).entryTimeout i).requestDone

/-- `XLATE.BIND` KIND 0 (R68). -/
def execXlateBind (n : Fin 1024) (s : State) : Host.Outcome State Fault Refusal :=
  ((Run.start s).op n 0x48 (xkind 0) fun e b r => r.bind e b).requestDone

/-- `XLATE.BIND` KIND 1 (R68). -/
def execXlateUnbind (n : Fin 1024) (s : State) : Host.Outcome State Fault Refusal :=
  ((Run.start s).op n 0x48 (xkind 1) fun e b r => r.bind e b).requestDone

/-- `XLATE.INVAL` KIND 0 (R74). -/
def execXlateInvalPages (n : Fin 1024) (s : State) : Host.Outcome State Fault Refusal :=
  ((Run.start s).op n 0x49 (xkind 0) fun e b r => r.inval e b).requestDone

/-- `XLATE.INVAL` KIND 1 (R74). -/
def execXlateInvalAsid (n : Fin 1024) (s : State) : Host.Outcome State Fault Refusal :=
  ((Run.start s).op n 0x49 (xkind 1) fun e b r => r.inval e b).requestDone

/-- `XLATE.INVAL` KIND 2 (R74). -/
def execXlateInvalPartition (n : Fin 1024) (s : State) : Host.Outcome State Fault Refusal :=
  ((Run.start s).op n 0x49 (xkind 2) fun e b r => r.inval e b).requestDone

/-- `XLATE_INVAL_DRAINED` (R74). -/
def execXlateInvalDrained (n : Fin 1024) (s : State) : Host.Outcome State Fault Refusal := ((Run.start s).invalEnd n).requestDone

/-- `XLATE.RESOLVE` REPLAY (R86). -/
def execXlateResolveReplay (n : Fin 1024) (s : State) : Host.Outcome State Fault Refusal :=
  ((Run.start s).op n 0x4A (xkind 0) fun e b r => r.resolve e b false).requestDone

/-- `XLATE.RESOLVE` FAIL (R86). -/
def execXlateResolveFail (n : Fin 1024) (s : State) : Host.Outcome State Fault Refusal :=
  ((Run.start s).op n 0x4A (xkind 1) fun e b r => r.resolve e b true).requestDone

/-- `XLATE.PREFETCH` (R87). -/
def execXlatePrefetch (n : Fin 1024) (s : State) : Host.Outcome State Fault Refusal :=
  ((Run.start s).op n 0x4B anyKind fun e b r => r.xprefetch e b).requestDone

end Sys2Proof.Machine
end

