-- ==== Sys2Proof/Machine/Tile.lean ====
section
/-!
DEFINITION. Moulds, element types and tile operations (chapter 8, R231-R248), and the reading of tiles of Wiotte blocks
(R260-R262). A command of a tile operation runs its descriptor as far as it goes: it gathers all it reads, computes, and sends
every line write at once; where it waits, the same command goes on with it (log entry 15).
-/

namespace Sys2Proof.Machine

/-! ### Element types (Table 8-8) -/

/-- Kinds of element. -/
inductive EK where
  | int (signed : Bool)
  | flt (f : Fmt)
  | pair
  | mx (f : Fmt)
  | mxi
deriving DecidableEq, Repr

/-- An element type: its code, bits of one element, bytes and elements of the unit of dimension 0 (R233). -/
structure Elem where
  code : Nat
  k    : EK
  w    : Nat
  unit : Nat
  per  : Nat := 1
deriving DecidableEq, Repr

/-- The element type of a code. -/
def elem? (c : Nat) : Option Elem :=
  let mk (k : EK) (w : Nat) : Option Elem := some { code := c, k := k, w := w, unit := w / 8 }
  let mx (k : EK) (w : Nat) : Option Elem := some { code := c, k := k, w := w, unit := 4 * w, per := 32 }
  match c with
  | 0x01 => mk (.int true) 32 | 0x02 => mk (.int false) 32 | 0x03 => mk (.int true) 64 | 0x04 => mk (.int false) 64
  | 0x05 => mk (.int true) 8 | 0x06 => mk (.int false) 8
  | 0x08 => mk (.flt F32) 32 | 0x09 => mk .pair 64 | 0x0A => mk (.flt BF16) 16 | 0x0B => mk (.flt F16) 16
  | 0x0C => mk (.flt E4M3) 8 | 0x0D => mk (.flt E5M2) 8
  | 0x10 => mx (.mx E4M3) 8 | 0x11 => mx (.mx E5M2) 8 | 0x12 => mx (.mx E3M2) 6 | 0x13 => mx (.mx E2M3) 6
  | 0x14 => mx (.mx E2M1) 4 | 0x15 => mx .mxi 8
  | _ => none

/-- Is it an MX type? -/
def Elem.isMx (t : Elem) : Bool := t.per == 32

/-- An element of a tile: its bits, its block's scale, whether it is poisoned. -/
structure TE where
  v   : Nat
  sc  : Nat := 127
  bad : Bool := false
deriving DecidableEq, Repr, Inhabited

/-- A value times the scale of its block: 0xFF makes it NaN (R237). -/
def scaled (x : FV) (sc v : Nat) : FV :=
  if sc == 255 then freeNan v sc else match x with | .fin n m e => .fin n m (e + sc - 127) | y => y

/-- The exact value of an element. An MXINT8 element counts as the integer it holds (R238: its largest power of two is 2^6). -/
def Elem.val (t : Elem) (x : TE) : FV :=
  match t.k with
  | .int s => FV.ofInt (intVal s t.w x.v) 0 false
  | .flt f => f.dec x.v
  | .pair => F32.dec (bits x.v 0 32)
  | .mx f => scaled (f.dec x.v) x.sc x.v
  | .mxi => scaled (FV.ofInt (sval 8 x.v) 0 false) x.sc x.v

/-- An element as FP32: exact, except that INT32 rounds (R237). -/
def Elem.f32 (t : Elem) (x : TE) : Nat :=
  match t.k with
  | .flt f => f.conv F32 x.v
  | _ => F32.enc true (t.val x)

/-- Encode a value in a type that is not MX (R237). -/
def Elem.ofVal (t : Elem) (x : FV) : Nat :=
  match t.k with
  | .int s => toIntType s t.w x
  | .flt f => f.enc true x
  | _ => 0

/-- Convert an FP32 encoding to a type that is not MX. -/
def Elem.of32 (t : Elem) (x : Nat) : Nat :=
  match t.k with
  | .flt f => F32.conv f x
  | _ => t.ofVal (F32.dec x)

/-- Exponent of the largest normal power of two of an MX element type (R238). -/
def Elem.emax (t : Elem) : Nat :=
  match t.code with
  | 0x10 => 8 | 0x11 => 15 | 0x12 => 4 | 0x13 => 2 | 0x14 => 2 | _ => 6

/-- ⌊log2⌋ of the largest finite magnitude; none where every value is zero. -/
def topExp (xs : List FV) : Option Int :=
  xs.foldl (fun (t : Option Int) x => match x with
    | .fin _ m e => if m == 0 then t else
      let l := (Nat.log2 m : Int) + e
      (match t with | some u => some (max u l) | none => some l)
    | _ => t) none

/-- An MX block of values: its scale and its elements (R237, R238). -/
def mxPack (t : Elem) (xs : List FV) : Nat × List Nat :=
  let inf := xs.any fun x => match x with | .inf _ => true | _ => false
  let sc : Nat :=
    if inf then Config.infScale t.code (xs.map fun x => F32.enc true x) % 255
    else match topExp xs with
      | none => 0
      | some l => (max 0 (l - t.emax + 127)).toNat
  let el (x : FV) : Nat :=
    let y : FV := match x with | .fin n m e => .fin n m (e + 127 - sc) | y => y
    match t.k with
    | .mx f => (match y with | .nan n p => f.qnan (n && f.kind != .plain) p | _ => f.enc true y)
    | _ => toIntType true 8 y
  (if xs.any FV.isNan then 255 else sc, xs.map el)

/-! ### Moulds (Table 8-7) -/

/-- A mould record. -/
structure Mould where
  code : Nat
  wio  : Bool
  n    : List Nat
  v    : List Nat
  s1   : Int
  s2   : Int
  soff : Nat
  pad  : Nat
  ok   : Bool
deriving DecidableEq, Repr

/-- Read a mould record: `ok` says that the rules of R233 that need no base hold. -/
def mouldOf (b : List Byte) : Mould :=
  let dims := fld b 1 1
  let f (off : Nat) : List Nat := [fld b off 2, fld b (off + 2) 2, fld b (off + 4) 2]
  let n := f 4
  let v := f 0x0A
  let s1 := sval 64 (fld b 0x10 8)
  let s2 := sval 64 (fld b 0x18 8)
  let t := elem? (fld b 0 1)
  let mx := match t with | some t => t.isMx | none => false
  let ok := t.isSome && 1 ≤ dims && dims ≤ 3 && fld b 2 1 < 2 && fld b 3 1 == 0 && zeroed b 0x2C 64
    && ((List.range 3).all fun i => v.getD i 0 ≤ n.getD i 0 && (i < dims || (n.getD i 0 == 1 && v.getD i 0 == 1)))
    && (match t with | some t => s1 % t.unit == 0 && s2 % t.unit == 0 | none => false)
    && (if mx then n.getD 0 0 % 32 == 0 && v.getD 0 0 % 32 == 0 && fld b 2 1 == 0 else fld b 0x20 8 == 0)
  { code := fld b 0 1, wio := bit (fld b 2 1) 0, n := n, v := v, s1 := s1, s2 := s2, soff := fld b 0x20 8, pad := fld b 0x28 4, ok := ok }

/-- The element type of a mould whose `ok` holds. -/
def Mould.t (m : Mould) : Elem := (elem? m.code).getD { code := 1, k := .int true, w := 32, unit := 4 }

def Mould.n0 (m : Mould) : Nat := m.n.getD 0 0
def Mould.n1 (m : Mould) : Nat := m.n.getD 1 0
def Mould.n2 (m : Mould) : Nat := m.n.getD 2 0
def Mould.v0 (m : Mould) : Nat := m.v.getD 0 0
def Mould.v1 (m : Mould) : Nat := m.v.getD 1 0
def Mould.v2 (m : Mould) : Nat := m.v.getD 2 0

/-- Elements of the tile. -/
def Mould.count (m : Mould) : Nat := m.n0 * m.n1 * m.n2

/-- Engine-ready bytes (R235). -/
def Mould.ready (m : Mould) : Nat :=
  let t := m.t
  let rows := m.n1 * m.n2
  if t.isMx then cdiv (m.n0 / 32 * t.unit) 64 * 64 * rows + cdiv (m.n0 / 32 * rows) 64 * 64
  else cdiv (m.n0 * t.unit) 64 * 64 * rows

/-- The tile's shape. -/
def Mould.shape (m : Mould) : List Nat := m.n

/-- Offset from the base of unit `u` of row (i1, i2). -/
def Mould.off (m : Mould) (u i1 i2 : Nat) : Int := (u * m.t.unit : Nat) + i1 * m.s1 + i2 * m.s2

/-- Places of the valid units, in order: dimension 0 innermost. -/
def Mould.units (m : Mould) : List (Nat × Nat × Nat) :=
  (List.range m.v2).flatMap fun i2 => (List.range m.v1).flatMap fun i1 => (List.range (m.v0 / m.t.per)).map fun u => (u, i1, i2)

/-- The least and the largest offset of a valid unit; none where no element is valid. -/
def Mould.span (m : Mould) : Option (Int × Int) :=
  if m.v0 == 0 || m.v1 == 0 || m.v2 == 0 then none
  else
    let u := m.v0 / m.t.per - 1
    let cs := [(0, 0, 0), (u, 0, 0), (0, m.v1 - 1, 0), (u, m.v1 - 1, 0), (0, 0, m.v2 - 1), (u, 0, m.v2 - 1), (0, m.v1 - 1, m.v2 - 1), (u, m.v1 - 1, m.v2 - 1)]
    let os := cs.map fun c => m.off c.1 c.2.1 c.2.2
    some (os.foldl min 0, os.foldl max 0)

/-- Does the tile at base `a` keep R233 and R235 as lines of the store? -/
def Mould.fits (m : Mould) (virt : Bool) (a : Nat) : Bool :=
  m.ready ≤ 65536
    && (m.wio || (a % m.t.unit == 0 && match m.span with
      | none => true
      | some (lo, hi) => 0 ≤ (a : Int) + lo && (a : Int) + hi + m.t.unit ≤ (if virt then 2 ^ 57 else 2 ^ 62 : Nat)))

/-- Address of a unit. -/
def Mould.at_ (m : Mould) (a : Nat) (p : Nat × Nat × Nat) : Nat := ((a : Int) + m.off p.1 p.2.1 p.2.2).toNat

/-- Address of the scale byte of the block whose first element lies at `a` (R235). -/
def Mould.scaleAt (m : Mould) (a : Nat) : Nat := (m.soff + a / m.t.unit) % 2 ^ 64

/-- Numbers of the lines, in the addresses of the descriptor, that hold the valid elements and their scales. -/
def Mould.lines (m : Mould) (a : Nat) : List Nat :=
  let t := m.t
  (m.units.flatMap fun p =>
    let x := m.at_ a p
    let ls := if x / 64 == (x + t.unit - 1) / 64 then [x / 64] else [x / 64, (x + t.unit - 1) / 64]
    if t.isMx then ls ++ [m.scaleAt x / 64] else ls).dedup

/-! ### Tiles in the pair's buffers -/

/-- A tile that was read: its elements (i0 innermost), and whether a line it needed was lost or poisoned. `fx` holds what its
Wiotte blocks leave behind: block, object, failed condition. -/
structure Tile where
  m      : Mould
  el     : Array TE
  lost   : Bool := false
  poison : Bool := false
  fx     : List (Nat × Nat × Option Nat) := []

/-- An element by its indices. -/
def Tile.get (x : Tile) (i0 i1 i2 : Nat) : TE := x.el.getD ((i2 * x.m.n1 + i1) * x.m.n0 + i0) { v := 0 }

/-- An element by its place in order. -/
def Tile.nth (x : Tile) (i : Nat) : TE := x.el.getD i { v := 0 }

/-- The value of a run of bytes among lines by number, and whether one of the lines is poisoned. -/
def bytesIn (ls : List (Nat × DLine)) (a len : Nat) : Nat × Bool :=
  let l0 := lineIn ls (a / 64)
  if (a + len - 1) / 64 == a / 64 then (bits l0.data.toNat (8 * (a % 64)) (8 * len), l0.poison)
  else
    let l1 := lineIn ls (a / 64 + 1)
    (bits (l0.data.toNat + 2 ^ 512 * l1.data.toNat) (8 * (a % 64)) (8 * len), l0.poison || l1.poison)

/-- The elements of a tile from a reading of its units: bits, scale, poison. -/
def Mould.fill (m : Mould) (unit : Nat × Nat × Nat → Nat × Nat × Bool) : Array TE :=
  let t := m.t
  let pad : TE := { v := m.pad % 2 ^ t.w, sc := if t.isMx then (Config.padScale m.code m.pad).toNat else 127 }
  ((List.range m.n2).flatMap fun i2 => (List.range m.n1).flatMap fun i1 => (List.range (m.n0 / t.per)).flatMap fun u =>
    if i1 < m.v1 && i2 < m.v2 && u * t.per < m.v0 then
      let (x, sc, b) := unit (u, i1, i2)
      (List.range t.per).map fun j => ({ v := bits x (j * t.w) t.w, sc := sc, bad := b } : TE)
    else List.replicate t.per pad).toArray

/-- The tile held by the lines `ls` (R233, R235). -/
def Mould.tileOf (m : Mould) (a : Nat) (ls : List (Nat × DLine)) : Array TE :=
  let t := m.t
  m.fill fun p =>
    let x := m.at_ a p
    let (v, b) := bytesIn ls x t.unit
    if t.isMx then
      let (sc, b') := bytesIn ls (m.scaleAt x) 1
      (v, sc, b || b')
    else (v, 127, b)

/-- A block of an object as it was read: its index, the object's address, its place, its bytes, its decoding. -/
structure BlkIn where
  k   : Nat
  obj : Nat
  off : Nat
  len : Nat
  bs  : List Byte
  dec : Wio.Dec

/-- The tile held by expanded blocks: offsets are raw byte offsets (R262). -/
def Mould.tileOfBlocks (m : Mould) (bs : List BlkIn) : Array TE :=
  let t := m.t
  m.fill fun p =>
    let x := (m.off p.1 p.2.1 p.2.2).toNat
    match bs.find? fun b => b.k == x / 4096 with
    | some b => (match b.dec with
      | .raw raw => (fld raw (x % 4096) t.unit, 127, false)
      | .fails _ => (0, 127, true))
    | none => (0, 127, true)

/-- The failed condition of a decoding. -/
def decCond : Wio.Dec → Option Nat
  | .raw _ => none
  | .fails c => some c

section
variable {s₀ : State}

/-- Read lines by number in the addresses of the descriptor: keyed by that number; whether one was lost, or poisoned. -/
def Run.lineRead (r : Run s₀) (e : Eng) (ns : List Nat) : Ans (List (Nat × DLine) × Bool × Bool) × Run s₀ :=
  match r.engXlate e 0 (ns.map (64 * ·)) with
  | (.fails c, r) => (.fails c, r)
  | (.wait, r) => (.wait, r)
  | (.ok tos, r) =>
    match r.engLines e tos with
    | (.fails c, r) => (.fails c, r)
    | (.wait, r) => (.wait, r)
    | (.lines ls, r) =>
      let ds := (ns.zip tos).map fun x => (x.1, lineIn ls (lineNo x.2))
      let lost := tos.any fun a => (r.d.pair e.n).lostLn.contains (lineNo a)
      (.ok (ds, lost, !lost && ds.any (·.2.poison)), r)

/-- Where blocks of an object at address `a` of the descriptor lie, by their index entries, which the device reads on its own behalf (R489):
the block, its first line and its lines. -/
def Run.blockPlaces (r : Run s₀) (e : Eng) (a : Nat) (o : Wio.Obj) : List Nat → Ans (List (Nat × Nat × Nat)) × Run s₀
  | [] => (.ok [], r)
  | k :: ks =>
    match r.engBytes e (a + 64 + 8 * k) 8 with
    | (.fails c, r) => (.fails c, r)
    | (.wait, r) => (.wait, r)
    | (.ok w, r) =>
      match Wio.idxOf o (leNat w) with
      | none => (.fails (Compl.of .fault), r)
      | some (off, len) => match Run.blockPlaces r e a o ks with
        | (.ok ps, r) => (.ok ((k, off, len) :: ps), r)
        | x => x

/-- The line numbers of blocks of an object at address `a` of the descriptor. -/
def blockLines (a : Nat) (ps : List (Nat × Nat × Nat)) : List Nat := ps.flatMap fun p => (List.range p.2.2).map fun i => a / 64 + p.2.1 + i

/-- Read blocks of an object, no two of which may overlap (R257): all their lines are translated before one is read (R73, R82). Whether one
of the lines was lost. -/
def Run.engBlocks (r : Run s₀) (e : Eng) (a : Nat) (o : Wio.Obj) (ks : List Nat) : Ans (List BlkIn × Bool) × Run s₀ :=
  match r.blockPlaces e a o ks with
  | (.fails c, r) => (.fails c, r)
  | (.wait, r) => (.wait, r)
  | (.ok ps, r) =>
    if Wio.overlap (ps.map (·.2)) then (.fails (Compl.of .fault), r)
    else match r.lineRead e (blockLines a ps) with
    | (.fails c, r) => (.fails c, r)
    | (.wait, r) => (.wait, r)
    | (.ok (ls, lost, _), r) =>
      let blk (p : Nat × Nat × Nat) : BlkIn :=
        let bl := (List.range p.2.2).map fun i => lineIn ls (a / 64 + p.2.1 + i)
        let bs := bl.flatMap fun l => lineBytes l.data
        ⟨p.1, a, p.2.1, p.2.2, bs, if bl.any (·.poison) then .fails 8 else Wio.decodeIn o p.1 bs⟩
      (.ok (ps.map blk, lost), r)

/-- The object header at an address of the descriptor (R262): 64-byte aligned, keeping Table 9-3. -/
def Run.engObj (r : Run s₀) (e : Eng) (a : Nat) : Ans Wio.Obj × Run s₀ :=
  if a % 64 != 0 then (.fails (Compl.of .fault), r)
  else match r.engBytes e a 64 with
    | (.fails c, r) => (.fails c, r)
    | (.wait, r) => (.wait, r)
    | (.ok b, r) => match Wio.objOf b with
      | some o => (.ok o, r)
      | none => (.fails (Compl.of .fault), r)

/-- The object of a tile of Wiotte blocks and the blocks that the tile touches (R262). -/
def Run.wioBlocks (r : Run s₀) (e : Eng) (m : Mould) (a : Nat) : Ans (Wio.Obj × List Nat) × Run s₀ :=
  match r.engObj e a with
  | (.fails c, r) => (.fails c, r)
  | (.wait, r) => (.wait, r)
  | (.ok o, r) =>
    let inside := match m.span with | none => true | some (lo, hi) => 0 ≤ lo && hi + m.t.unit ≤ o.rawLen
    let ks := (m.units.map fun p => (m.off p.1 p.2.1 p.2.2).toNat / 4096).dedup
    if o.etype != m.code || !inside || 31 < ks.length then (.fails (Compl.of .fault), r) else (.ok (o, ks), r)

/-- Read a tile of Wiotte blocks (R262). -/
def Run.wioTile (r : Run s₀) (e : Eng) (m : Mould) (a : Nat) : Ans Tile × Run s₀ :=
  match r.wioBlocks e m a with
  | (.fails c, r) => (.fails c, r)
  | (.wait, r) => (.wait, r)
  | (.ok (o, ks), r) =>
    match r.engBlocks e a o ks with
    | (.fails c, r) => (.fails c, r)
    | (.wait, r) => (.wait, r)
    | (.ok (bs, lost), r) =>
      (.ok { m := m, el := m.tileOfBlocks bs, lost := lost, poison := bs.any fun b => (decCond b.dec).isSome
             fx := bs.map fun b => (b.k, b.obj, decCond b.dec) }, r)

/-- The addresses of the descriptor that a tile touches, by its lines: those of its blocks where it is packed. -/
def Run.tileVas (r : Run s₀) (e : Eng) (m : Mould) (a : Nat) : Ans (List Nat) × Run s₀ :=
  if !m.wio then (.ok ((m.lines a).map (64 * ·)), r)
  else match r.wioBlocks e m a with
    | (.fails c, r) => (.fails c, r)
    | (.wait, r) => (.wait, r)
    | (.ok (o, ks), r) => match r.blockPlaces e a o ks with
      | (.fails c, r) => (.fails c, r)
      | (.wait, r) => (.wait, r)
      | (.ok ps, r) => (.ok ((blockLines a ps).map (64 * ·)), r)

/-- Translate every tile of a descriptor, each for its access, before any of its lines is asked for (R73, R82): the store addresses of
all their lines. `vas` are the addresses gathered so far. -/
def Run.xlateTiles (r : Run s₀) (e : Eng) (vas : List (Nat × Nat)) : List (Mould × Nat × Nat) → Ans (List Nat) × Run s₀
  | [] => r.engXlateAll e vas
  | (m, a, access) :: ts =>
    match r.tileVas e m a with
    | (.fails c, r) => (.fails c, r)
    | (.wait, r) => (.wait, r)
    | (.ok xs, r) => Run.xlateTiles r e (vas ++ xs.map fun x => (x, access)) ts

/-- Read a tile (R211, R233-R235). -/
def Run.tileIn (r : Run s₀) (e : Eng) (m : Mould) (a : Nat) : Ans Tile × Run s₀ :=
  if m.wio then r.wioTile e m a
  else
    match r.lineRead e (m.lines a) with
    | (.fails c, r) => (.fails c, r)
    | (.wait, r) => (.wait, r)
    | (.ok (ls, lost, poison), r) => (.ok { m := m, el := m.tileOf a ls, lost := lost, poison := poison }, r)

/-- Read several tiles. -/
def Run.tilesIn (r : Run s₀) (e : Eng) : List (Mould × Nat) → Ans (List Tile) × Run s₀
  | [] => (.ok [], r)
  | (m, a) :: ms =>
    match r.tileIn e m a with
    | (.fails c, r) => (.fails c, r)
    | (.wait, r) => (.wait, r)
    | (.ok t, r) =>
      match Run.tilesIn r e ms with
      | (.ok ts, r) => (.ok (t :: ts), r)
      | x => x

/-- The mould records of indices (R232). -/
def Run.mouldsIn (r : Run s₀) (e : Eng) : List Nat → Ans (List Mould) × Run s₀
  | [] => (.ok [], r)
  | i :: is =>
    let idx := 0x6040 + e.queue
    if r.d.o e.part idx 9 ≤ i then (.fails (Compl.of .fault), r)
    else match r.engKeep { e with virt := false } (r.d.o e.part idx 8 + 64 * i) 64 with
      | (.fails c, r) => (.fails c, r)
      | (.wait, r) => (.wait, r)
      | (.ok b, r) =>
        match Run.mouldsIn r e is with
        | (.ok ms, r) => (.ok (mouldOf b :: ms), r)
        | x => x

/-- What reading Wiotte blocks leaves behind, once the operation ends (R261): counts and error records. -/
def Run.blockFx (r : Run s₀) (e : Eng) (fx : List (Nat × Nat × Option Nat)) : Run s₀ :=
  r.each fx fun r x => match x.2.2 with
    | none => r.bump 0 0xC010 1
    | some c =>
      let a := if e.virt then (match r.d.lookUp (blkOfPair e.n) e.asid 0 [x.2.1] with | .ok (t :: _) => t | _ => x.2.1) else x.2.1
      (r.bump 0 0xC010 2).error (mkErr 0x0D 2 0 (r.d.homeSlice a) (some e.part) a x.1 c)

/-! ### Tile writes -/

/-- One line being built: bytes set, their values, poison. -/
abbrev LineW := Nat × Nat × Bool

/-- Put one byte at an address. Where two elements share it, which lands is free (R234): draw `n`. -/
def putByte (n : Nat) (t : Tab LineW) (a v : Nat) (b : Bool) : Tab LineW :=
  let (mk, d, p) := t.getD (a / 64) (0, 0, false)
  let i := a % 64
  if bit mk i then
    if Config.orderKey n a % 2 == 0 then t.set (a / 64) (mk, d, p || b)
    else t.set (a / 64) (mk, d - bits d (8 * i) 8 * 2 ^ (8 * i) + v * 2 ^ (8 * i), p || b)
  else t.set (a / 64) (mk + 2 ^ i, d + v * 2 ^ (8 * i), p || b)

/-- Put `len` bytes. -/
def putBytes (n : Nat) (t : Tab LineW) (a len v : Nat) (b : Bool) : Tab LineW :=
  (List.range len).foldl (fun t i => putByte n t (a + i) (bits v (8 * i) 8) b) t

/-- Bits of a unit's elements, packed from the low end. -/
def packUnit (w : Nat) (xs : List Nat) : Nat := (xs.zipIdx.map fun x => x.1 % 2 ^ w * 2 ^ (w * x.2)).sum

/-- The lines of a tile of elements (same order as `Tile.el`), at base `a`. -/
def Mould.cut (m : Mould) (n a : Nat) (el : Array TE) : Tab LineW :=
  let t := m.t
  m.units.foldl (fun ls p =>
    let x := m.at_ a p
    let es := (List.range t.per).map fun j => el.getD ((p.2.2 * m.n1 + p.2.1) * m.n0 + p.1 * t.per + j) { v := 0 }
    let b := es.any (·.bad)
    let ls := putBytes n ls x t.unit (packUnit t.w (es.map (·.v))) b
    if t.isMx then putBytes n ls (m.scaleAt x) 1 ((es.headD { v := 0 }).sc) b else ls) []

/-- Whole-line and partial-line writes of lines (R234). -/
def wrOf (tos : List (Nat × Nat)) (ls : Tab LineW) : List EWr :=
  ls.map fun x =>
    let la := ((tos.find? fun y => y.1 == x.1).map (·.2)).getD 0
    let d : DLine := ⟨BitVec.ofNat 512 x.2.2.1, x.2.2.2⟩
    if x.2.1 == 2 ^ 64 - 1 then { la := la, code := 0x02, data := d } else { la := la, code := 0x03, mask := BitVec.ofNat 64 x.2.1, data := d }

/-- The writes of a tile, translated for writing. -/
def Run.tileOut (r : Run s₀) (e : Eng) (m : Mould) (a : Nat) (el : Array TE) : Ans (List EWr) × Run s₀ :=
  let (n, r) := r.draw
  let ls := m.cut n a el
  match r.engXlate e 1 (ls.map fun x => 64 * x.1) with
  | (.fails c, r) => (.fails c, r)
  | (.wait, r) => (.wait, r)
  | (.ok tos, r) => (.ok (wrOf ((ls.map (·.1)).zip tos) ls), r)

/-- The writes of several tiles. -/
def Run.tilesOut (r : Run s₀) (e : Eng) : List (Mould × Nat × Array TE) → Ans (List (List EWr)) × Run s₀
  | [] => (.ok [], r)
  | (m, a, el) :: ms =>
    match r.tileOut e m a el with
    | (.fails c, r) => (.fails c, r)
    | (.wait, r) => (.wait, r)
    | (.ok w, r) =>
      match Run.tilesOut r e ms with
      | (.ok ws, r) => (.ok (w :: ws), r)
      | x => x

/-- Bytes a write changes. -/
def EWr.bytes (w : EWr) : Nat := if w.code == 0x03 then ((List.range 64).filter fun i => w.mask.getLsbD i).length else 64

/-- How an operation that read `ts` ends (R248). -/
def readEnd (ts : List Tile) : Status := if ts.any (·.lost) then .lost else if ts.any (·.poison) then .poison else .ok

/-- Send an operation's writes, tile by tile, and end it with `st`: nothing goes out unless all may. -/
def Run.opEnd (r : Run s₀) (e : Eng) (ctr : Option Nat) (ws : List (List EWr)) (st : Status) (word : Nat)
    (outs : List (Nat × List Byte)) (k : Run s₀ → Run s₀) : Run s₀ :=
  match r.engMay e ws.flatten ctr with
  | (.wait, r) => r
  | (.fails c, r) => r.ends e.n c
  | (.ok away, r) =>
    (k (r.each ws fun r w => r.engStore e w ctr away)).finish e.n st (if st == .ok then word else 0) outs

/-- Send the writes of a tile operation and end it (R248). -/
def Run.tileEnd (r : Run s₀) (e : Eng) (ctr : Option Nat) (ts : List Tile) (ws : List (List EWr)) (k : Run s₀ → Run s₀) : Run s₀ :=
  r.opEnd e ctr ws (readEnd ts) (ws.flatten.map EWr.bytes).sum [] fun r => k (r.blockFx e (ts.flatMap (·.fx)))

/-! ### The body (Tables 8-10, 8-11) -/

/-- ADDR `i`. -/
def tAddr (b : List Byte) (i : Nat) : Nat := fld b (0x10 + 8 * i) 8
/-- Mould index `i`. -/
def tMould (b : List Byte) (i : Nat) : Nat := fld b (0x28 + 2 * i) 2
/-- OPC. -/
def tOpc (b : List Byte) : Nat := fld b 0x2E 1
/-- CTR. -/
def tCtr (b : List Byte) : Option Nat := if bit (fld b 0x30 2) 15 then some (bits (fld b 0x30 2) 0 15) else none

/-- Unused fields are zero: tiles not used, FLAGS, PARAM, PARAM2 (R243). -/
def bodyOk (b : List Byte) (tiles : List Nat) (convert : Bool) (param : Bool) (param2 : Nat) : Bool :=
  ((List.range 3).all fun i => tiles.contains i || (tAddr b i == 0 && tMould b i == 0))
    && fld b 0x2F 1 < (if convert then 2 else 1) && (bit (fld b 0x30 2) 15 || fld b 0x30 2 == 0) && fld b 0x32 2 == 0
    && (param || fld b 0x34 4 == 0) && fld b 0x38 8 < 2 ^ param2

/-- The common part of a tile operation: its class (R222: L only where every tile is one line; Table 4-1: no tile in class S),
moulds of `tiles`, their rules (a WIO mould only where `wioOk`), the translation of them all, `kept` of them apart, which are not written
(R246), the gates, the tiles of `reads`. -/
def Run.tiles (r : Run s₀) (e : Eng) (b : List Byte) (tiles reads : List Nat) (wioOk : Bool) (rule : List Mould → Bool)
    (k : List Mould → List Tile → Run s₀ → Run s₀) (kept : List Nat := []) : Run s₀ :=
  match r.mouldsIn e (tiles.map (tMould b)) with
  | (.wait, r) => r
  | (.fails c, r) => r.ends e.n c
  | (.ok ms, r) =>
    let ps := tiles.zip ms
    let cls := e.cls != 0 && (e.cls != 1 || ps.all fun p => !p.2.wio && (p.2.lines (tAddr b p.1)).length ≤ 1)
    let fit := cls && ps.all fun p => p.2.ok && p.2.fits e.virt (tAddr b p.1) && (!p.2.wio || (wioOk && reads.contains p.1))
    let wr := if dOp b == 0x62 then 2 else 1
    let touch := ps.filterMap fun p => if kept.contains p.1 then none else some (p.2, tAddr b p.1, if reads.contains p.1 then 0 else wr)
    if !fit || !rule ms then r.finish e.n .fault 0
    else match r.xlateTiles e [] touch with
    | (.wait, r) => r
    | (.fails c, r) => r.ends e.n c
    | (.ok las, r) =>
      let (go, r) := r.engGate e ((ms.map Mould.ready).sum) las
      if !go then r
      else match r.tilesIn e ((ps.filter fun p => reads.contains p.1).map fun p => (p.2, tAddr b p.1)) with
        | (.wait, r) => r
        | (.fails c, r) => r.ends e.n c
        | (.ok ts, r) => k ms ts r

/-- Write result tiles and end. -/
def Run.results (r : Run s₀) (e : Eng) (b : List Byte) (ts : List Tile) (outs : List (Mould × Nat × Array TE)) : Run s₀ :=
  match r.tilesOut e outs with
  | (.wait, r) => r
  | (.fails c, r) => r.ends e.n c
  | (.ok ws, r) => r.tileEnd e (tCtr b) ts ws id

/-! ### Conversion of whole tiles -/

/-- Convert one element to a type that is not MX (R237, R244). -/
def convEl (s t : Elem) (x : TE) : TE :=
  let v :=
    if s.k == .pair || t.k == .pair then Config.pairConv s.code t.code x.v
    else match s.k, t.k with
      | .flt f, .flt g => f.conv g x.v
      | _, _ => t.ofVal (s.val x)
  { v := v, bad := x.bad }

/-- MX blocks of values in order, 32 each. -/
def mxBlocks (t : Elem) : Nat → List (FV × Bool) → List TE
  | 0, _ => []
  | k + 1, xs =>
    let b := xs.take 32
    let (sc, vs) := mxPack t (b.map (·.1))
    let bad := b.any (·.2)
    vs.map (fun v => ({ v := v, sc := sc, bad := bad } : TE)) ++ mxBlocks t k (xs.drop 32)

/-- Elements of FP32 results in a mould's type. -/
def Mould.of32s (m : Mould) (xs : List (Nat × Bool)) : Array TE :=
  let t := m.t
  if t.isMx then (mxBlocks t (xs.length / 32) (xs.map fun x => (F32.dec x.1, x.2))).toArray
  else (xs.map fun x => ({ v := t.of32 x.1, bad := x.2 } : TE)).toArray

/-- Elements of a source tile in a destination's type. -/
def Mould.convert (m : Mould) (x : Tile) : Array TE :=
  let s := x.m.t
  let t := m.t
  if s.code == t.code then x.el
  else if t.isMx then
    let vals := x.el.toList.map fun y => (if s.k == .pair then F32.dec (Config.pairConv s.code t.code y.v) else s.val y, y.bad)
    (mxBlocks t (vals.length / 32) vals).toArray
  else x.el.map (convEl s t)

/-! ### The operations -/

/-- `TILE.COPY` (R244). -/
def Run.tileCopy (r : Run s₀) (e : Eng) (b : List Byte) : Run s₀ :=
  if !bodyOk b [0, 2] true false 0 || tOpc b != 0 then r.finish e.n .fault 0
  else r.tiles e b [0, 2] [0] true (fun ms => match ms with
      | [s, t] => s.shape == t.shape && (s.code == t.code || fld b 0x2F 1 == 1)
      | _ => false) fun ms ts r =>
    match ms, ts with
    | [_, m], [x] => r.results e b ts [(m, tAddr b 2, m.convert x)]
    | _, _ => r

/-- `TILE.FILL`: every valid element takes the pattern. -/
def Run.tileFill (r : Run s₀) (e : Eng) (b : List Byte) : Run s₀ :=
  if !bodyOk b [2] false false 64 || tOpc b != 0 then r.finish e.n .fault 0
  else r.tiles e b [2] [] false (fun _ => true) fun ms _ r =>
    match ms with
    | [m] =>
      let x : TE := { v := fld b 0x38 8 % 2 ^ m.t.w, sc := if m.t.isMx then (Config.padScale m.code (fld b 0x38 8)).toNat else 127 }
      r.results e b [] [(m, tAddr b 2, Array.replicate m.count x)]
    | _ => r

/-- The identity element of a reduction (R192). -/
def identity (op : ROp) (t : EType) : Nat :=
  match t, op with
  | .fp32c, _ => 0x8000000080000000
  | .int32, .add | .uint32, .add | .int64, .add | .uint64, .add => 0
  | .int32, .min => 2 ^ 31 - 1 | .int32, .max => 2 ^ 31
  | .int64, .min => 2 ^ 63 - 1 | .int64, .max => 2 ^ 63
  | .uint32, .min => 2 ^ 32 - 1 | .uint64, .min => 2 ^ 64 - 1
  | .uint32, .max | .uint64, .max => 0
  | .fp32, .add => 0x80000000 | .bf16, .add | .fp16, .add => 0x8000
  | .fp32, .min => 0x7F800000 | .fp32, .max => 0xFF800000
  | .bf16, .min => 0x7F80 | .bf16, .max => 0xFF80
  | .fp16, .min => 0x7C00 | .fp16, .max => 0xFC00

/-- The data line of a reduction: identity where the mould covers nothing (R245). -/
def redLine (op : ROp) (t : EType) (x : LineW) : DLine :=
  let w := t.bytes
  ⟨BitVec.ofNat 512 (((List.range (64 / w)).map fun i =>
    (if bit x.1 (i * w) then bits x.2.1 (8 * i * w) (8 * w) else identity op t) * 2 ^ (8 * i * w)).sum), x.2.2⟩

/-- `TILE.REDUCE` (R245). -/
def Run.tileReduce (r : Run s₀) (e : Eng) (b : List Byte) (op : ROp) : Run s₀ :=
  if !bodyOk b [0, 2] false false 0 then r.finish e.n .fault 0
  else r.tiles e b [0, 2] [0] false (fun ms => match ms with
      | [s, t] => s.shape == t.shape && (s.code == t.code || (s.code == 0x08 && t.code == 0x09))
          && (match EType.of? t.code with | some t => t.reduces op | none => false)
      | _ => false) fun ms ts r =>
    match ms, ts with
    | [_, m], [x] =>
      match EType.of? m.code with
      | none => r.finish e.n .fault 0
      | some t =>
        let (n, r) := r.draw
        let ls := m.cut n (tAddr b 2) x.el
        match r.engXlate e 2 (ls.map fun y => 64 * y.1) with
        | (.wait, r) => r
        | (.fails c, r) => r.ends e.n c
        | (.ok tos, r) =>
          let code := match op with | .add => 0x08 | .min => 0x09 | .max => 0x0A
          let ws : List EWr := (ls.zip tos).map fun y => { la := y.2, code := code, et := m.code, data := redLine op t y.1.2 }
          r.tileEnd e (tCtr b) ts [ws] id
    | _, _ => r

/-- Elements of the shared dimension in one step (Table 8-9). -/
def stepK (code : Nat) : Nat :=
  match code with
  | 0x08 => 1 | 0x0A => 4 | 0x0B => 4 | 0x14 => 16 | _ => 8

/-- The operand types of a matrix product (R246): equal, or both FP8, or both of the four MXFP types of eight elements a
step. -/
def matOk (a b : Nat) : Bool :=
  let opnd (c : Nat) : Bool := c == 5 || c == 6 || c == 8 || c == 0x0A || c == 0x0B || c == 0x0C || c == 0x0D || (0x10 ≤ c && c ≤ 0x15)
  opnd a && opnd b && (a == b || ((a == 0x0C || a == 0x0D) && (b == 0x0C || b == 0x0D)) || (0x10 ≤ a && a ≤ 0x13 && 0x10 ≤ b && b ≤ 0x13))

/-- Exact sum of the products of one step (R239). -/
def stepSum (s t : Elem) (xs : List (TE × TE)) : FV :=
  match xs with
  | [] => .fin false 0 0
  | x :: xs => xs.foldl (fun a y => FV.add (y.1.v, y.2.v) a (FV.mul (y.1.v, y.2.v) (s.val y.1) (t.val y.2)))
      (FV.mul (x.1.v, x.2.v) (s.val x.1) (t.val x.2))

/-- Steps along the shared dimension, in order: one rounding each. -/
def accSteps (s t : Elem) (k : Nat) : Nat → List (TE × TE) → Nat → Nat
  | 0, _, acc => acc
  | f + 1, xs, acc =>
    match xs with
    | [] => acc
    | x :: _ =>
      let sum := stepSum s t (xs.take k)
      accSteps s t k f (xs.drop k) (F32.enc false (FV.add (acc, x.1.v) (F32.dec acc) sum))

/-- Products of INT8 and UINT8 sum into INT32 modulo 2^32. -/
def intSum (s t : Elem) (xs : List (TE × TE)) (acc : Nat) : Nat :=
  (BitVec.ofInt 32 (xs.foldl (fun (a : Int) x =>
    a + intVal (s.k == .int true) 8 x.1.v * intVal (t.k == .int true) 8 x.2.v) (acc : Int))).toNat

/-- `TILE.MATMUL` (R246). -/
def Run.tileMatmul (r : Run s₀) (e : Eng) (b : List Byte) : Run s₀ :=
  let acc := bit (tOpc b) 0
  let keep := bit (tOpc b) 1
  if !bodyOk b [0, 1, 2] false true 0 || 3 < tOpc b then r.finish e.n .fault 0
  else r.tiles e b [0, 1, 2] [0, 1] true (kept := if keep then [2] else []) (fun ms => match ms with
      | [a, x, c] =>
        let int := a.code == 5 || a.code == 6
        a.n0 == x.n0 && c.n0 == x.n1 && c.n1 == a.n1 && a.n2 == 1 && x.n2 == 1 && c.n2 == 1
          && matOk a.code x.code && a.n1 * x.n1 ≤ 16384 && (!a.t.isMx || a.n0 % 32 == 0)
          && (if int then c.code == 1 else c.code == 0x08 || c.code == 0x0A || c.code == 0x0B)
          && (!acc || (!(r.d.pair e.n).acc.isEmpty && (r.d.pair e.n).accRows == a.n1 && (r.d.pair e.n).accCols == x.n1))
      | _ => false) fun ms ts r =>
    match ms, ts with
    | [ma, mb, mc], [a, x] =>
      let mm := ma.n1
      let nn := mb.n1
      let kk := ma.n0
      let k := stepK ma.code
      let old := (r.d.pair e.n).acc
      let int := ma.code == 5 || ma.code == 6
      let cell (i j : Nat) : Nat × Bool :=
        let xs := (List.range kk).map fun q => (a.get q i 0, x.get q j 0)
        let start := if acc then old.getD (i * nn + j) 0 else 0
        (if int then intSum ma.t mb.t xs start else accSteps ma.t mb.t k kk xs start, xs.any fun y => y.1.bad || y.2.bad)
      let cells := (List.range mm).flatMap fun i => (List.range nn).map fun j => cell i j
      let steps (r : Run s₀) : Run s₀ := r.bumpBy 0 0xC000 5 (cdiv mm 16 * cdiv nn 16 * cdiv kk k)
      if keep then
        let r := steps (r.blockFx e (ts.flatMap (·.fx)))
        (r.updPair e.n fun p => { p with acc := cells.map (·.1), accRows := mm, accCols := nn }).finish e.n (readEnd ts) 0
      else
        let alpha := F32.dec (fld b 0x34 4)
        let out (c : Nat × Bool) : TE :=
          let v := if int then FV.ofInt (sval 32 c.1) 0 false else F32.dec c.1
          { v := mc.t.of32 (F32.enc false (FV.mul (fld b 0x34 4, c.1) alpha v)), bad := c.2 }
        match r.tilesOut e [(mc, tAddr b 2, (cells.map out).toArray)] with
        | (.wait, r) => r
        | (.fails c, r) => r.ends e.n c
        | (.ok ws, r) => r.tileEnd e (tCtr b) ts ws steps
    | _, _ => r

/-- Types the elementwise unit takes: of the wide integers INT32 alone, and no compensated pair (Table 8-8). -/
def ewOk (c : Nat) : Bool := (elem? c).isSome && c != 2 && c != 3 && c != 4 && c != 9

/-- A binary elementwise operation (Table 8-12, OPC 0-4). -/
def Run.ewise2 (r : Run s₀) (e : Eng) (b : List Byte) (f : Nat → Nat → Nat) : Run s₀ :=
  if !bodyOk b [0, 1, 2] false false 0 then r.finish e.n .fault 0
  else r.tiles e b [0, 1, 2] [0, 1] true (fun ms => match ms with
      | [x, y, z] => x.shape == z.shape && y.shape == z.shape && ewOk x.code && ewOk y.code && ewOk z.code
      | _ => false) fun ms ts r =>
    match ms, ts with
    | [_, _, m], [x, y] =>
      let out := (List.range m.count).map fun i =>
        let p := x.nth i
        let q := y.nth i
        (f (x.m.t.f32 p) (y.m.t.f32 q), p.bad || q.bad)
      r.results e b ts [(m, tAddr b 2, m.of32s out)]
    | _, _ => r

/-- A unary elementwise operation (OPC 5-8). -/
def Run.ewise1 (r : Run s₀) (e : Eng) (b : List Byte) (param : Bool) (f : Nat → Nat) : Run s₀ :=
  if !bodyOk b [0, 2] false param (if param then 32 else 0) then r.finish e.n .fault 0
  else r.tiles e b [0, 2] [0] true (fun ms => match ms with
      | [x, z] => x.shape == z.shape && ewOk x.code && ewOk z.code
      | _ => false) fun ms ts r =>
    match ms, ts with
    | [_, m], [x] =>
      let out := (List.range m.count).map fun i =>
        let p := x.nth i
        (f (x.m.t.f32 p), p.bad)
      r.results e b ts [(m, tAddr b 2, m.of32s out)]
    | _, _ => r

/-- A row operation (OPC 9, 10): the first element, then each further one in index order. -/
def Run.ewiseRow (r : Run s₀) (e : Eng) (b : List Byte) (f : Nat → Nat → Nat) : Run s₀ :=
  if !bodyOk b [0, 2] false false 0 then r.finish e.n .fault 0
  else r.tiles e b [0, 2] [0] true (fun ms => match ms with
      | [x, z] => x.n1 == z.n1 && x.n2 == z.n2 && z.n0 == 1 && 1 ≤ x.n0 && ewOk x.code && ewOk z.code
      | _ => false) fun ms ts r =>
    match ms, ts with
    | [_, m], [x] =>
      let n0 := x.m.n0
      let out := (List.range m.count).map fun i =>
        let row := (List.range n0).map fun j => x.nth (i * n0 + j)
        let vs := row.map x.m.t.f32
        ((vs.drop 1).foldl f (vs.headD 0), row.any (·.bad))
      r.results e b ts [(m, tAddr b 2, m.of32s out)]
    | _, _ => r

/-! ### Optimiser steps (R247, Table 8-13) -/

/-- An optimiser record. -/
structure Optim where
  kind : Nat
  lr   : Nat
  b1   : Nat
  b2   : Nat
  eps  : Nat
  wd   : Nat
  step : Nat
  voff : Int
deriving DecidableEq, Repr

/-- Read an optimiser record; none where it breaks Table 8-13. -/
def optimOf (b : List Byte) : Option Optim :=
  let o : Optim := ⟨fld b 0 1, fld b 4 4, fld b 8 4, fld b 0x0C 4, fld b 0x10 4, fld b 0x14 4, fld b 0x18 4, sval 64 (fld b 0x20 8)⟩
  if o.kind ≤ 4 && fld b 1 3 == 0 && fld b 0x1C 4 == 0 && zeroed b 0x28 64 && (o.kind < 3 || 1 ≤ o.step) then some o else none

/-- SGD of one element. -/
def optSgd (o : Optim) (w g : Nat) : Nat := F32.sub w (F32.mul o.lr (F32.add g (F32.mul o.wd w)))

/-- Momentum: new w and m. -/
def optMomentum (o : Optim) (w g m : Nat) : Nat × Nat :=
  let m := F32.add (F32.mul o.b1 m) (F32.add g (F32.mul o.wd w))
  (F32.sub w (F32.mul o.lr m), m)

/-- Mean over a row of g·g: products summed in index order, divided by their number. -/
def meanSq (gs : List Nat) : Nat :=
  let sq := gs.map fun g => F32.mul g g
  F32.div ((sq.drop 1).foldl F32.add (sq.headD 0)) (F32.enc false (.fin false gs.length 0))

/-- Row-wise Adagrad: the row's new w and its state. -/
def optAdagrad (o : Optim) (ws gs : List Nat) (s : Nat) : List Nat × Nat :=
  let s := F32.add s (meanSq gs)
  let k := recip32 (F32.add (sq32 s) o.eps)
  ((ws.zip gs).map fun x => F32.sub x.1 (F32.mul (F32.mul o.lr x.2) k), s)

/-- c1 and c2 of a step. -/
def optC (o : Optim) : Nat × Nat :=
  (F32.sub 0x3F800000 (pow32 o.b1 o.step), F32.sub 0x3F800000 (pow32 o.b2 o.step))

/-- Adam and AdamW of one element: new w, m and v. -/
def optAdam (o : Optim) (c : Nat × Nat) (w g m v : Nat) : Nat × Nat × Nat :=
  let g := if o.kind == 3 then F32.add g (F32.mul o.wd w) else g
  let m := F32.add (F32.mul o.b1 m) (F32.mul (F32.sub 0x3F800000 o.b1) g)
  let v := F32.add (F32.mul o.b2 v) (F32.mul (F32.mul (F32.sub 0x3F800000 o.b2) g) g)
  let u := F32.mul (F32.mul m (recip32 c.1)) (recip32 (F32.add (sq32 (F32.mul v (recip32 c.2))) o.eps))
  let w := if o.kind == 3 then F32.sub w (F32.mul o.lr u) else F32.sub w (F32.mul o.lr (F32.add u (F32.mul o.wd w)))
  (w, m, v)

/-- The results of an optimiser step over whole tiles: W, and the state tiles it writes. -/
def optTiles (o : Optim) (w g : Tile) (st : List Tile) : List (List (Nat × Bool)) :=
  let n := w.m.count
  let fw (i : Nat) := w.m.t.f32 (w.nth i)
  let fg (i : Nat) := g.m.t.f32 (g.nth i)
  let bad (i : Nat) := (w.nth i).bad || (g.nth i).bad
  match o.kind, st with
  | 0, _ => [(List.range n).map fun i => (optSgd o (fw i) (fg i), bad i)]
  | 1, [m] =>
    let xs := (List.range n).map fun i => (optMomentum o (fw i) (fg i) (m.m.t.f32 (m.nth i)), bad i || (m.nth i).bad)
    [xs.map fun x => (x.1.1, x.2), xs.map fun x => (x.1.2, x.2)]
  | 2, [m] =>
    let n0 := w.m.n0
    let rows := (List.range (w.m.n1 * w.m.n2)).map fun j =>
      let is := (List.range n0).map fun i => j * n0 + i
      (optAdagrad o (is.map fw) (is.map fg) (m.m.t.f32 (m.nth j)), is.map bad, (m.nth j).bad || is.any fun i => (g.nth i).bad)
    [rows.flatMap fun x => (x.1.1.zip x.2.1).map fun y => (y.1, y.2 || x.2.2), rows.map fun x => (x.1.2, x.2.2)]
  | _, [m, v] =>
    let c := optC o
    let xs := (List.range n).map fun i =>
      (optAdam o c (fw i) (fg i) (m.m.t.f32 (m.nth i)) (v.m.t.f32 (v.nth i)), bad i || (m.nth i).bad || (v.nth i).bad)
    [xs.map fun x => (x.1.1, x.2), xs.map fun x => (x.1.2.1, x.2), xs.map fun x => (x.1.2.2, x.2)]
  | _, _ => []

/-- `OPT.STEP` (R247). -/
def Run.optStep (r : Run s₀) (e : Eng) (b : List Byte) : Run s₀ :=
  if !bodyOk b [0, 1, 2] false false 64 || tOpc b != 0 then r.finish e.n .fault 0
  else match r.engKeep e (fld b 0x38 8) 64 with
    | (.wait, r) => r
    | (.fails c, r) => r.ends e.n c
    | (.ok rb, r) =>
      match optimOf rb with
      | none => r.finish e.n .fault 0
      | some o =>
        let use := if o.kind == 0 then [0, 1] else [0, 1, 2]
        match r.mouldsIn e (use.map (tMould b)) with
        | (.wait, r) => r
        | (.fails c, r) => r.ends e.n c
        | (.ok ms, r) =>
          let vbase : Int := (tAddr b 2 : Int) + o.voff
          let tiles : List (Mould × Nat) := match ms with
            | [w, g] => [(w, tAddr b 0), (g, tAddr b 1)]
            | [w, g, m] => [(w, tAddr b 0), (g, tAddr b 1), (m, tAddr b 2)] ++ (if 3 ≤ o.kind then [(m, vbase.toNat)] else [])
            | _ => []
          let shape := match ms with
            | [w, g] => w.shape == g.shape
            | [w, g, m] => w.shape == g.shape && (if o.kind == 2 then m.n0 == 1 && m.n1 == w.n1 && m.n2 == w.n2 && 1 ≤ w.n0 else m.shape == w.shape)
            | _ => false
          let cls := e.cls != 0 && (e.cls != 1 || tiles.all fun p => (p.1.lines p.2).length ≤ 1)
          if !shape || !cls || (3 ≤ o.kind && vbase < 0) || !tiles.all fun p => p.1.ok && !p.1.wio && ewOk p.1.code && p.1.fits e.virt p.2 then r.finish e.n .fault 0
          else match r.xlateTiles e [] (tiles.map (fun p => (p.1, p.2, 0)) ++ (tiles.eraseIdx 1).map fun p => (p.1, p.2, 1)) with
          | (.wait, r) => r
          | (.fails c, r) => r.ends e.n c
          | (.ok las, r) =>
            let (go, r) := r.engGate e ((tiles.map fun p => p.1.ready).sum) las.dedup
            if !go then r
            else match r.tilesIn e tiles with
              | (.wait, r) => r
              | (.fails c, r) => r.ends e.n c
              | (.ok ts, r) =>
                match ts, tiles with
                | w :: g :: st, tw :: _ :: tst =>
                  let outs := optTiles o w g st
                  r.results e b ts (((tw :: tst).zip outs).map fun x => (x.1.1, x.1.2, x.1.1.of32s x.2))
                | _, _ => r

end

/-- An elementwise kind in OPC. -/
def opcIs (k : Nat) (b : List Byte) : Bool := tOpc b == k

/-- `TILE.COPY` (R244). -/
def execTileCopy (n : Fin 1024) (s : State) : Host.Outcome State Fault Refusal :=
  ((Run.start s).op n 0x60 anyKind fun e b r => r.tileCopy e b).requestDone

/-- `TILE.FILL` (R243). -/
def execTileFill (n : Fin 1024) (s : State) : Host.Outcome State Fault Refusal :=
  ((Run.start s).op n 0x61 anyKind fun e b r => r.tileFill e b).requestDone

/-- `TILE.REDUCE` ADD (R245). -/
def execTileReduceAdd (n : Fin 1024) (s : State) : Host.Outcome State Fault Refusal :=
  ((Run.start s).op n 0x62 (opcIs 0) fun e b r => r.tileReduce e b .add).requestDone

/-- `TILE.REDUCE` MIN (R245). -/
def execTileReduceMin (n : Fin 1024) (s : State) : Host.Outcome State Fault Refusal :=
  ((Run.start s).op n 0x62 (opcIs 1) fun e b r => r.tileReduce e b .min).requestDone

/-- `TILE.REDUCE` MAX (R245). -/
def execTileReduceMax (n : Fin 1024) (s : State) : Host.Outcome State Fault Refusal :=
  ((Run.start s).op n 0x62 (opcIs 2) fun e b r => r.tileReduce e b .max).requestDone

/-- `TILE.MATMUL` (R246). -/
def execTileMatmul (n : Fin 1024) (s : State) : Host.Outcome State Fault Refusal :=
  ((Run.start s).op n 0x63 anyKind fun e b r => r.tileMatmul e b).requestDone

/-- `TILE.EWISE` ADD (R240). -/
def execTileEwiseAdd (n : Fin 1024) (s : State) : Host.Outcome State Fault Refusal :=
  ((Run.start s).op n 0x64 (opcIs 0) fun e b r => r.ewise2 e b F32.add).requestDone

/-- `TILE.EWISE` SUB. -/
def execTileEwiseSub (n : Fin 1024) (s : State) : Host.Outcome State Fault Refusal :=
  ((Run.start s).op n 0x64 (opcIs 1) fun e b r => r.ewise2 e b F32.sub).requestDone

/-- `TILE.EWISE` MUL. -/
def execTileEwiseMul (n : Fin 1024) (s : State) : Host.Outcome State Fault Refusal :=
  ((Run.start s).op n 0x64 (opcIs 2) fun e b r => r.ewise2 e b F32.mul).requestDone

/-- `TILE.EWISE` MIN. -/
def execTileEwiseMin (n : Fin 1024) (s : State) : Host.Outcome State Fault Refusal :=
  ((Run.start s).op n 0x64 (opcIs 3) fun e b r => r.ewise2 e b F32.minimum).requestDone

/-- `TILE.EWISE` MAX. -/
def execTileEwiseMax (n : Fin 1024) (s : State) : Host.Outcome State Fault Refusal :=
  ((Run.start s).op n 0x64 (opcIs 4) fun e b r => r.ewise2 e b F32.maximum).requestDone

/-- `TILE.EWISE` AXPB: a × x + b, fused. -/
def execTileEwiseAxpb (n : Fin 1024) (s : State) : Host.Outcome State Fault Refusal :=
  ((Run.start s).op n 0x64 (opcIs 5) fun e b r => r.ewise1 e b true fun x => F32.fma (fld b 0x34 4) x (fld b 0x38 4)).requestDone

/-- `TILE.EWISE` EXP. -/
def execTileEwiseExp (n : Fin 1024) (s : State) : Host.Outcome State Fault Refusal :=
  ((Run.start s).op n 0x64 (opcIs 6) fun e b r => r.ewise1 e b false exp32).requestDone

/-- `TILE.EWISE` RECIP. -/
def execTileEwiseRecip (n : Fin 1024) (s : State) : Host.Outcome State Fault Refusal :=
  ((Run.start s).op n 0x64 (opcIs 7) fun e b r => r.ewise1 e b false recip32).requestDone

/-- `TILE.EWISE` RSQRT. -/
def execTileEwiseRsqrt (n : Fin 1024) (s : State) : Host.Outcome State Fault Refusal :=
  ((Run.start s).op n 0x64 (opcIs 8) fun e b r => r.ewise1 e b false rsqrt32).requestDone

/-- `TILE.EWISE` ROWSUM. -/
def execTileEwiseRowsum (n : Fin 1024) (s : State) : Host.Outcome State Fault Refusal :=
  ((Run.start s).op n 0x64 (opcIs 9) fun e b r => r.ewiseRow e b F32.add).requestDone

/-- `TILE.EWISE` ROWMAX. -/
def execTileEwiseRowmax (n : Fin 1024) (s : State) : Host.Outcome State Fault Refusal :=
  ((Run.start s).op n 0x64 (opcIs 10) fun e b r => r.ewiseRow e b F32.maximum).requestDone

/-- `OPT.STEP` (R247). -/
def execOptStep (n : Fin 1024) (s : State) : Host.Outcome State Fault Refusal :=
  ((Run.start s).op n 0x65 anyKind fun e b r => r.optStep e b).requestDone

end Sys2Proof.Machine
end

