-- ==== Sys2Proof/Machine/WioOps.lean ====
section
/-!
DEFINITION. Wiotte and checkpoint operations (chapter 9, R264-R267, Tables 9-6 to 9-12). `CKPT.WRITE` and `CKPT.RESTORE` go on a
region at a time, each time their command is given (log entry 15); what they carry from one to the next stands in the pair's
`kept`, under addresses from 2^80 on.
-/

namespace Sys2Proof.Machine

/-- Table 9-8. -/
structure WioRes where
  raw  : Nat := 0
  packed : Nat := 0
  blocks : Nat := 0
  rawBlocks : Nat := 0
  badBlock : Nat := 0xFFFFFFFF
  badRegion : Nat := 0xFFFFFFFF
deriving DecidableEq, Repr

/-- The result record as bytes. -/
def WioRes.bytes (x : WioRes) : List Byte :=
  leBytes 8 x.raw ++ leBytes 8 x.packed ++ leBytes 4 x.blocks ++ leBytes 4 x.rawBlocks ++ leBytes 4 x.badBlock ++ leBytes 4 x.badRegion
    ++ zeros 32

/-- Read it back. -/
def wioRes (b : List Byte) : WioRes :=
  if b.isEmpty then {} else ⟨fld b 0 8, fld b 8 8, fld b 0x10 4, fld b 0x14 4, fld b 0x18 4, fld b 0x1C 4⟩

/-- SRC, DST, LEN, AUX, RESULT of the body (Table 9-7). -/
def wSrc (b : List Byte) : Nat := fld b 0x10 8
def wDst (b : List Byte) : Nat := fld b 0x18 8
def wLen (b : List Byte) : Nat := fld b 0x20 8
def wAux (b : List Byte) : Nat := fld b 0x30 8
def wRes (b : List Byte) : Nat := fld b 0x38 8
/-- CTR of the body. -/
def wCtr (b : List Byte) : Option Nat := if bit (fld b 0x2C 2) 15 then some (bits (fld b 0x2C 2) 0 15) else none

/-- The rules of R264 that every operation keeps: class B or G, alignment, reserved fields zero. -/
def wioOk (e : Eng) (b : List Byte) : Bool :=
  2 ≤ e.cls && wSrc b % 64 == 0 && wDst b % 64 == 0 && wRes b % 64 == 0 && fld b 0x2A 2 == 0 && fld b 0x2E 2 == 0
    && (bit (fld b 0x2C 2) 15 || fld b 0x2C 2 == 0) && fld b 0x29 1 < 2

/-- Raw bytes of an element type that an object may hold: a whole number of its elements. -/
def rawOk (etype len : Nat) : Bool :=
  match Wio.ty? etype with
  | some t => 1 ≤ len && len % t.bytes == 0
  | none => false

/-- What a pair's descriptor keeps under a key. -/
def Dev.keptAt (d : Dev) (n key : Nat) : List Byte := (((d.pair n).kept.find? fun k => k.1 == key).map (·.2)).getD []

/-- Keys of what the checkpoint operations keep. -/
def kRes : Nat := 2 ^ 80
def kRange : Nat := 2 ^ 80 + 1
def kNext : Nat := 2 ^ 80 + 2
def kWorst : Nat := 2 ^ 80 + 3
def kEnts : Nat := 2 ^ 80 + 4

/-- Bytes the largest object of `len` raw bytes takes (R266 step 1). -/
def objMax (len : Nat) : Nat := 64 + Wio.up (8 * cdiv len 4096) 64 + 4160 * cdiv len 4096

/-- A region of a checkpoint's region table. -/
structure Region where
  addr : Nat
  len  : Nat
  etype : Nat
deriving DecidableEq, Repr

/-- Regions of a region table; none where an entry breaks its layout. -/
def regionsOf (b : List Byte) : Nat → Option (List Region)
  | 0 => some []
  | k + 1 =>
    let x : Region := ⟨fld b 0 8, fld b 8 8, fld b 0x10 1⟩
    if fld b 0x11 15 != 0 || !rawOk x.etype x.len || 2 ^ 40 < x.len then none
    else (regionsOf (b.drop 32) k).map (x :: ·)

/-- An object's lines with poison: header and index clean, a block's lines poisoned where a source line of it is. -/
def objWrites (hd : List Byte) (blocks : List (List Byte)) (badAt : Nat → Bool) : List DLine :=
  (linesOf (hd.length / 64) hd).map good
    ++ (blocks.zipIdx.flatMap fun x => (linesOf (x.1.length / 64) x.1).map fun l => (⟨l, badAt x.2⟩ : DLine))

section
variable {s₀ : State}

/-- Keep bytes under a key for the descriptor. -/
def Run.keepAt (r : Run s₀) (n key : Nat) (bs : List Byte) : Run s₀ :=
  r.updPair n fun p => { p with kept := (key, bs) :: p.kept.filter fun k => k.1 != key }

/-- Translate whole lines from address `a` on and write them. -/
def Run.wholeLines (r : Run s₀) (e : Eng) (a : Nat) (ls : List DLine) : Ans (List EWr) × Run s₀ :=
  match r.engXlate e 1 (lineAddrs a ls.length) with
  | (.fails c, r) => (.fails c, r)
  | (.wait, r) => (.wait, r)
  | (.ok tos, r) => (.ok ((tos.zip ls).map fun x => { la := x.1, code := 0x02, data := x.2 }), r)

/-- Read `len` bytes from address `a` (a line boundary) as data: the bytes, which lines are bad, whether one was lost. -/
def Run.rawIn (r : Run s₀) (e : Eng) (a len : Nat) : Ans (List Byte × (Nat → Bool) × Bool × Bool) × Run s₀ :=
  let k := (a % 64 + len + 63) / 64
  match r.lineRead e ((List.range k).map fun i => a / 64 + i) with
  | (.fails c, r) => (.fails c, r)
  | (.wait, r) => (.wait, r)
  | (.ok (ls, lost, poison), r) =>
    (.ok (((ls.flatMap fun l => lineBytes l.2.data).drop (a % 64)).take len, fun i => ((ls[i]?).map (·.2.poison)).getD false, lost, poison), r)

/-- Is block `k` of raw bytes that start at `a % 64` of their first line touched by a bad line? -/
def blkBad (a : Nat) (badLn : Nat → Bool) (len k : Nat) : Bool :=
  let lo := (a % 64 + 4096 * k) / 64
  let hi := (a % 64 + min len (4096 * (k + 1)) - 1) / 64
  (List.range (hi - lo + 1)).any fun i => badLn (lo + i)

/-- The worse of two statuses in the order of R492. -/
def Status.worse (a b : Status) : Status := if b.rank < a.rank then b else a

/-- A status from a reading. -/
def readSt (lost poison : Bool) : Status := if lost then .lost else if poison then .poison else .ok

/-- `WIO.PACK` (R265). -/
def Run.wioPack (r : Run s₀) (e : Eng) (b : List Byte) : Run s₀ :=
  let len := wLen b
  let et := fld b 0x28 1
  if !wioOk e b || len == 0 || 2 ^ 30 < len || !rawOk et len || wAux b != 0 then r.finish e.n .fault 0
  else r.withResult e (wRes b) fun res r =>
    let (go, r) := r.engGate e len
    if !go then r
    else match r.rawIn e (wSrc b) len with
      | (.wait, r) => r
      | (.fails c, r) => r.ends e.n c
      | (.ok (raw, badLn, lost, poison), r) =>
        let (hd, blocks) := Wio.pack et (bit (fld b 0x29 1) 0) raw
        let ls := objWrites hd blocks (blkBad (wSrc b) badLn len)
        match r.wholeLines e (wDst b) ls with
        | (.wait, r) => r
        | (.fails c, r) => r.ends e.n c
        | (.ok ws, r) =>
          let raws := (blocks.filter Wio.isRaw).length
          let x : WioRes := { raw := len, packed := 64 * ls.length, blocks := blocks.length, rawBlocks := raws }
          r.opEnd e (wCtr b) [ws] (readSt lost poison) (64 * ls.length) (outAt res x.bytes)
            fun r => (r.bumpBy 0 0xC010 3 blocks.length).bumpBy 0 0xC010 4 raws


/-- The writes of raw bytes block by block, at any byte address: a failed block's bytes are poisoned (R261). -/
def rawLines (a len : Nat) (blocks : List (Nat × Option (List Byte))) : Tab LineW :=
  blocks.foldl (fun t x =>
    let n := min 4096 (len - 4096 * x.1)
    match x.2 with
    | some bs => putBytes 0 t (a + 4096 * x.1) n (leNat bs) false
    | none => putBytes 0 t (a + 4096 * x.1) n 0 true) []

/-- The raw bytes of a decoding. -/
def decRaw : Wio.Dec → Option (List Byte)
  | .raw bs => some bs
  | .fails _ => none

/-- Translate and form the writes of lines. -/
def Run.linesOut (r : Run s₀) (e : Eng) (ls : Tab LineW) : Ans (List EWr) × Run s₀ :=
  match r.engXlate e 1 (ls.map fun x => 64 * x.1) with
  | (.fails c, r) => (.fails c, r)
  | (.wait, r) => (.wait, r)
  | (.ok tos, r) => (.ok (wrOf ((ls.map (·.1)).zip tos) ls), r)

/-- `WIO.UNPACK` (R265). -/
def Run.wioUnpack (r : Run s₀) (e : Eng) (b : List Byte) : Run s₀ :=
  if !wioOk e b || wLen b != 0 || fld b 0x28 2 != 0 || wAux b != 0 then r.finish e.n .fault 0
  else r.withResult e (wRes b) fun res r =>
    match r.engObj e (wSrc b) with
    | (.wait, r) => r
    | (.fails c, r) => r.ends e.n c
    | (.ok o, r) =>
      match r.engXlate e 1 (((List.range ((wDst b % 64 + o.rawLen + 63) / 64)).map fun i => wDst b / 64 * 64 + 64 * i)) with
      | (.wait, r) => r
      | (.fails c, r) => r.ends e.n c
      | (.ok _, r) =>
      let (go, r) := r.engGate e o.rawLen
      if !go then r
      else match r.engBlocks e (wSrc b) o (List.range o.nblk) with
        | (.wait, r) => r
        | (.fails c, r) => r.ends e.n c
        | (.ok (bs, lost), r) =>
          match r.linesOut e (rawLines (wDst b) o.rawLen (bs.map fun x => (x.k, decRaw x.dec))) with
          | (.wait, r) => r
          | (.fails c, r) => r.ends e.n c
          | (.ok ws, r) =>
            let failed := bs.filter fun x => (decCond x.dec).isSome
            let x : WioRes := {
              raw := o.rawLen, packed := o.data + 64 * (bs.map (·.len)).sum, blocks := o.nblk, rawBlocks := (bs.filter fun x => Wio.isRaw x.bs).length
              badBlock := ((failed.head?.map (·.k)).getD 0xFFFFFFFF) }
            r.opEnd e (wCtr b) [ws] (readSt lost (!failed.isEmpty)) o.rawLen (outAt res x.bytes)
              fun r => r.blockFx e (bs.map fun x => (x.k, x.obj, decCond x.dec))

/-! ### Checkpoints (R266, R267) -/

/-- The store addresses `[lo, hi)` that a running `CKPT.WRITE` of another pair covers. -/
def Dev.ckptRanges (d : Dev) (n : Nat) : List (Nat × Nat) :=
  d.pairs.filterMap fun p => match p.2.chain with
    | some c =>
      let w := (((p.2.kept.find? fun k => k.1 == kRange).map (·.2)).getD [])
      if p.1 != n && dOp c.desc == 0xA4 && c.stage == DStage.busy && !w.isEmpty then some (fld w 0 8, fld w 8 8) else none
    | none => none

/-- Write lines with the counter's credit, none of them the operation's last. -/
def Run.sendLines (r : Run s₀) (e : Eng) (ctr : Option Nat) (ws : List EWr) : Run s₀ :=
  r.each ws fun r w => r.engPut e w ctr none false

/-- Go to a phase. -/
def Run.phaseTo (r : Run s₀) (n k : Nat) : Run s₀ := r.updPair n fun p => { p with phase := k }

/-- A manifest region entry (Table 9-10). -/
def regionEntry (x : Region) (obj len : Nat) (leaf : BitVec 512) : List Byte :=
  leBytes 8 x.addr ++ leBytes 8 x.len ++ leBytes 8 obj ++ leBytes 8 len ++ leBytes 1 x.etype ++ zeros 31 ++ leBytes 64 leaf.toNat

/-- The first 64 bytes of a manifest header (Table 9-9). -/
def manifestHead (nreg ckid total : Nat) : List Byte :=
  leBytes 4 0x57494D46 ++ [1, 0, 0, 0] ++ leBytes 4 nreg ++ zeros 4 ++ leBytes 8 ckid ++ leBytes 8 total ++ zeros 32

/-- Step 3 for one region: its object, from byte `off` of the checkpoint on. -/
def Run.ckptRegion (r : Run s₀) (e : Eng) (b : List Byte) (base : Nat) (i : Nat) (x : Region) : Run s₀ :=
  let off := leNat (r.d.keptAt e.n kNext)
  match r.rawIn e x.addr x.len with
  | (.wait, r) => r
  | (.fails c, r) => r.ends e.n c
  | (.ok (raw, badLn, lost, poison), r) =>
    let (hd, blocks) := Wio.pack x.etype false raw
    let ls := objWrites hd blocks (blkBad x.addr badLn x.len)
    let ws : List EWr := ((lineAddrs (base + off) ls.length).zip ls).map fun y => { la := y.1, code := 0x02, data := y.2 }
    match r.engMay e ws (wCtr b) with
    | (.wait, r) => r
    | (.fails c, r) => r.ends e.n c
    | (.ok _, r) =>
      let r := r.sendLines e (wCtr b) ws
      let len := 64 * ls.length
      let raws := (blocks.filter Wio.isRaw).length
      let y := wioRes (r.d.keptAt e.n kRes)
      let y := { y with raw := y.raw + x.len, blocks := y.blocks + blocks.length, rawBlocks := y.rawBlocks + raws }
      let leaf := Config.shake512 (ls.flatMap fun l => lineBytes l.data)
      let worst := (Status.ofCode (leNat (r.d.keptAt e.n kWorst))).worse (readSt lost poison)
      let r := (r.bumpBy 0 0xC010 3 blocks.length).bumpBy 0 0xC010 4 raws
      let r := (r.keepAt e.n kRes y.bytes).keepAt e.n kNext (leBytes 8 (off + len))
      let r := (r.keepAt e.n kWorst [BitVec.ofNat 8 worst.code]).keepAt e.n kEnts (r.d.keptAt e.n kEnts ++ regionEntry x (base + off) len leaf)
      r.phaseTo e.n (16 + i + 1)

/-- Steps 4 to 6: write back, the manifest, write back, complete. -/
def Run.ckptFinish (r : Run s₀) (e : Eng) (b : List Byte) (base nreg res : Nat) : Run s₀ :=
  let ph := (r.d.pair e.n).phase - (16 + nreg)
  let total := leNat (r.d.keptAt e.n kNext)
  let mine (k : Nat) : Bool := base / 16384 ≤ k && k ≤ (base + total - 1) / 16384
  if ph == 0 then (r.backBegin e.n mine).phaseTo e.n (16 + nreg + 1)
  else if ph == 1 || ph == 3 then
    match r.backStep e.n with
    | (false, r) => r
    | (true, r) =>
      if ph == 1 then r.phaseTo e.n (16 + nreg + 2)
      else
        let y := { wioRes (r.d.keptAt e.n kRes) with packed := total }
        let st := Status.ofCode (leNat (r.d.keptAt e.n kWorst))
        r.finish e.n st (if st == .ok then total else 0) (outAt res y.bytes) true
  else
    let ents := r.d.keptAt e.n kEnts
    let hd := manifestHead nreg (wAux b) total
    let bs := hd ++ leBytes 64 (Config.shake512 (hd ++ ents)).toNat ++ ents
    let ws : List EWr := ((lineAddrs base (bs.length / 64)).zip (linesOf (bs.length / 64) bs)).map fun y => { la := y.1, code := 0x02, data := good y.2 }
    match r.engMay e ws (wCtr b) with
    | (.wait, r) => r
    | (.fails c, r) => r.ends e.n c
    | (.ok away, r) => ((r.engStore e ws (wCtr b) away).backBegin e.n fun k => base / 16384 ≤ k && k ≤ (base + bs.length - 1) / 16384).phaseTo e.n (16 + nreg + 3)

/-- After the manifest's lines are performed its blocks are dirty: choose them again. -/
def Run.ckptBack (r : Run s₀) (e : Eng) (base nreg : Nat) : Run s₀ :=
  let len := 128 + 128 * nreg
  if (r.d.pair e.n).phase == 16 + nreg + 3 && (r.d.pair e.n).jobs.isEmpty && (r.d.pair e.n).asked.isEmpty then
    r.backBegin e.n fun k => base / 16384 ≤ k && k ≤ (base + len - 1) / 16384
  else r

/-- `CKPT.WRITE` (R266). -/
def Run.ckptWrite (r : Run s₀) (e : Eng) (b : List Byte) : Run s₀ :=
  let n := wLen b
  if !wioOk e b || n == 0 || 4096 < n || fld b 0x28 2 != 0 then r.finish e.n .fault 0
  else r.withResult e (wRes b) fun res r =>
    match r.engKeep e (wSrc b) (32 * n) with
    | (.wait, r) => r
    | (.fails c, r) => r.ends e.n c
    | (.ok tb, r) =>
      match regionsOf tb n with
      | none => r.finish e.n .fault 0
      | some regs =>
        let size := 128 + 128 * n + (regs.map fun x => objMax x.len).sum
        let pages := (List.range ((wDst b % 65536 + size + 65535) / 65536)).map fun i => if i == 0 then wDst b else wDst b / 65536 * 65536 + 65536 * i
        match r.engXlate e 1 pages with
        | (.wait, r) => r
        | (.fails c, r) => r.ends e.n c
        | (.ok tos, r) =>
          let base := tos.headD 0
          let run := (pages.zip tos).all fun x => x.2 + wDst b == base + x.1
          let gs := (List.range (granuleOf (base + size - 1) - granuleOf base + 1)).map (granuleOf base + ·)
          let mine := base + size ≤ 2 ^ 62 && gs.all fun g => match r.d.gran.get? g with
            | some x => x.tier == 2 && x.part == e.part && r.d.homed (g / 512)
            | none => false
          if !run || !mine then r.finish e.n .fault 0
          else
            let ph := (r.d.pair e.n).phase
            if ph == 0 && (r.d.ckptRanges e.n).any fun x => x.1 < base + size && base < x.2 then r.finish e.n .busy 0
            else
              let (go, r) := r.engGate e ((regs.map Region.len).sum)
              if !go then r
              else if ph ≤ 1 then
                let r := r.keepAt e.n kRange (leBytes 8 base ++ leBytes 8 (base + size))
                let w : EWr := { la := base, code := 0x02, data := good 0 }
                match r.engMay e [w] (wCtr b) with
                | (.wait, r) => r
                | (.fails c, r) => r.ends e.n c
                | (.ok _, r) => ((r.sendLines e (wCtr b) [w]).keepAt e.n kNext (leBytes 8 (128 + 128 * n))).phaseTo e.n 16
              else if ph < 16 + n then r.ckptRegion e b base (ph - 16) (regs.getD (ph - 16) ⟨0, 0, 0⟩)
              else (r.ckptBack e base n).ckptFinish e b base n res

/-- One region of a restore (R267 steps 3 and 4): `ent` its manifest entry, `dst` its destination. -/
def Run.restoreRegion (r : Run s₀) (e : Eng) (b ent : List Byte) (i dst : Nat) : Run s₀ :=
  let obj := fld ent 0x10 8
  let len := fld ent 0x18 8
  let rawLen := fld ent 8 8
  match r.rawIn { e with virt := false } obj len with
  | (.wait, r) => r
  | (.fails c, r) => r.ends e.n c
  | (.ok (bs, badLn, lost, poison), r) =>
    let clean (o n : Nat) : Bool := !(List.range ((o + n + 63) / 64 - o / 64)).any fun j => badLn (o / 64 + j)
    let head := Wio.objOf (bs.take 64)
    let fault := clean 0 64 && (match head with
      | none => true
      | some o => o.rawLen != rawLen || o.etype != fld ent 0x20 1
          || (clean 0 o.data && (let ps := (List.range o.nblk).filterMap fun k => Wio.idxOf o (fld bs (64 + 8 * k) 8)
              ps.length != o.nblk || Wio.overlap ps || ps.any fun p => len < 64 * (p.1 + p.2))))
    if obj % 64 != 0 || fault || !rawOk (fld ent 0x20 1) rawLen then r.finish e.n .fault 0
    else
      let decs : List (Nat × Wio.Dec × Bool) := match head with
        | some o =>
          if !clean 0 o.data then []
          else (List.range o.nblk).map fun k => match Wio.idxOf o (fld bs (64 + 8 * k) 8) with
            | some (off, n) =>
              let blk := (bs.drop (64 * off)).take (64 * n)
              (k, if clean (64 * off) (64 * n) then Wio.decodeIn o k blk else .fails 8, Wio.isRaw blk)
            | none => (k, .fails 8, false)
        | none => []
      let badBlk := (decs.find? fun x => (decCond x.2.1).isSome).map (·.1)
      let leafOk := !lost && !poison && (Config.shake512 bs).toNat == fld ent 0x40 64
      let failed := badBlk.isSome || !leafOk || decs.isEmpty
      let nblk := cdiv rawLen 4096
      let blocks : List (Nat × Option (List Byte)) := if failed then (List.range nblk).map fun k => (k, none)
        else decs.map fun x => (x.1, decRaw x.2.1)
      match r.linesOut e (rawLines dst rawLen blocks) with
      | (.wait, r) => r
      | (.fails c, r) => r.ends e.n c
      | (.ok ws, r) =>
        match r.engMay e ws (wCtr b) with
        | (.wait, r) => r
        | (.fails c, r) => r.ends e.n c
        | (.ok away, r) =>
          let r := r.engStore e ws (wCtr b) away
          let r := r.blockFx { e with virt := false } (decs.map fun x => (x.1, obj, decCond x.2.1))
          let r := if leafOk then r else r.bump 0 0xC010 5
          let r := if failed then r.error (mkErr 0x0E 2 0 (r.d.homeSlice obj) (some e.part) obj i (badBlk.getD 0xFFFFFFFF)) else r
          let y := wioRes (r.d.keptAt e.n kRes)
          let first := failed && y.badRegion == 0xFFFFFFFF
          let y := { y with
            raw := y.raw + rawLen, packed := y.packed + len, blocks := y.blocks + nblk
            rawBlocks := y.rawBlocks + (decs.filter fun (x : Nat × Wio.Dec × Bool) => x.2.2).length
            badRegion := if first then i else y.badRegion
            badBlock := if first then badBlk.getD 0xFFFFFFFF else y.badBlock }
          let worst := (Status.ofCode (leNat (r.d.keptAt e.n kWorst))).worse (if lost then .lost else if failed then .poison else .ok)
          ((r.keepAt e.n kRes y.bytes).keepAt e.n kWorst [BitVec.ofNat 8 worst.code]).phaseTo e.n (16 + i + 1)

/-- `CKPT.RESTORE` (R267). -/
def Run.ckptRestore (r : Run s₀) (e : Eng) (b : List Byte) : Run s₀ :=
  if !wioOk e b || wLen b != 0 || fld b 0x28 2 != 0 then r.finish e.n .fault 0
  else r.withResult e (wRes b) fun res r =>
    match r.engKeep e (wSrc b) 128 with
    | (.wait, r) => r
    | (.fails c, r) => r.ends e.n c
    | (.ok hd, r) =>
      let n := fld hd 8 4
      if fld hd 0 4 != 0x57494D46 || fld hd 4 1 != 1 || n == 0 || 4096 < n then r.finish e.n .poison 0
      else match r.engKeep e (wSrc b + 128) (128 * n) with
        | (.wait, r) => r
        | (.fails c, r) => r.ends e.n c
        | (.ok ents, r) =>
          if (Config.shake512 (hd.take 64 ++ ents)).toNat != fld hd 0x40 64 then (r.bump 0 0xC010 5).finish e.n .poison 0
          else
            let (aux, r) := if wAux b == 0 then ((.ok (hd.drop 64), r) : Ans (List Byte) × Run s₀) else r.engKeep e (wAux b) 64
            match aux with
            | .wait => r
            | .fails c => r.ends e.n c
            | .ok root =>
              if root != hd.drop 64 then r.finish e.n .denied 0
              else
                let (tab, r) := if wDst b == 0 then ((.ok [], r) : Ans (List Byte) × Run s₀) else r.engKeep e (wDst b) (8 * n)
                match tab with
                | .wait => r
                | .fails c => r.ends e.n c
                | .ok tab =>
                  let (go, r) := r.engGate e (((List.range n).map fun i => fld ents (128 * i + 8) 8).sum)
                  if !go then r
                  else
                    let i := (r.d.pair e.n).phase - 16
                    let bytes := (wioRes (r.d.keptAt e.n kRes)).raw
                    if i == n then
                      let st := Status.ofCode (leNat (r.d.keptAt e.n kWorst))
                      let y := wioRes (r.d.keptAt e.n kRes)
                      r.finish e.n st (if st == .ok then bytes else 0) (outAt res { y with packed := y.packed + 128 + 128 * n }.bytes)
                    else
                      let ent := (ents.drop (128 * i)).take 128
                      r.restoreRegion e b ent i (if wDst b == 0 then fld ent 0 8 else fld tab (8 * i) 8)

end

/-- `WIO.PACK` (R265). -/
def execWioPack (n : Fin 1024) (s : State) : Host.Outcome State Fault Refusal :=
  ((Run.start s).op n 0xA0 anyKind fun e b r => r.wioPack e b).requestDone

/-- `WIO.UNPACK` (R265). -/
def execWioUnpack (n : Fin 1024) (s : State) : Host.Outcome State Fault Refusal :=
  ((Run.start s).op n 0xA1 anyKind fun e b r => r.wioUnpack e b).requestDone

/-- `CKPT.WRITE` (R266). -/
def execCkptWrite (n : Fin 1024) (s : State) : Host.Outcome State Fault Refusal :=
  ((Run.start s).op n 0xA4 anyKind fun e b r => r.ckptWrite e b).requestDone

/-- `CKPT.RESTORE` (R267). -/
def execCkptRestore (n : Fin 1024) (s : State) : Host.Outcome State Fault Refusal :=
  ((Run.start s).op n 0xA5 anyKind fun e b r => r.ckptRestore e b).requestDone

end Sys2Proof.Machine
end

