-- ==== Sys2Proof/Machine/Embedding.lean ====
section
/-!
DEFINITION. Embedding tables (chapter 10): version records, slots, `LOOKUP.POOL` and `EMB.UPDATE`. What a sum takes in arrival
order (R242, R282, R286) it takes here in an order that is free: `Config.orderKey` of a draw.
-/

namespace Sys2Proof.Machine

/-! ### Records (R268, R269) -/

/-- A version record. -/
structure EmbRec where
  wtype : Nat
  dim   : Nat
  pitch : Nat
  rows  : Nat
  version : Nat
  base  : Nat
  skind : Nat
  stype : Nat
  soff  : Nat
  opt   : Nat
deriving DecidableEq, Repr

/-- Bytes of one element. -/
def eBytes (t : Nat) : Nat := match elem? t with | some e => e.unit | none => 1

/-- Bytes of the state of a row. -/
def EmbRec.stateLen (x : EmbRec) : Nat :=
  match x.skind with | 0 => 0 | 1 => x.dim * eBytes x.stype | 2 => 4 | _ => 2 * x.dim * eBytes x.stype

/-- Read a version record; none where it breaks R268 or R269. -/
def embRec (b : List Byte) : Option EmbRec :=
  let x : EmbRec := ⟨fld b 3 1, fld b 4 2, fld b 6 2, fld b 8 4, fld b 0x0C 4, fld b 0x10 8, fld b 0x18 1, fld b 0x19 1, fld b 0x1A 2, fld b 0x20 8⟩
  let wOk := x.wtype == 8 || x.wtype == 0x0A || x.wtype == 0x0B || x.wtype == 0x0C || x.wtype == 0x0D
  let sOk := match x.skind with
    | 0 => x.stype == 0
    | 2 => x.stype == 8
    | 1 | 3 => x.stype == 8 || x.stype == 0x0A
    | _ => false
  if fld b 0 2 == 0x4542 && fld b 2 1 == 1 && wOk && 1 ≤ x.dim && x.dim ≤ 1024 && x.pitch % 64 == 0 && 64 ≤ x.pitch && x.pitch ≤ 16384
      && 1 ≤ x.rows && 1 ≤ x.version && x.base % 64 == 0 && sOk && x.soff % 4 == 0 && fld b 0x1C 4 == 0 && x.opt % 64 == 0
      && zeroed b 0x28 64 && x.dim * eBytes x.wtype ≤ x.pitch
      && (x.skind == 0 || (x.dim * eBytes x.wtype ≤ x.soff && x.soff + x.stateLen ≤ x.pitch)) then some x
  else none

/-- What a slot's record covers in the store: base and bytes. -/
structure Cover where
  version : Nat
  base    : Nat
  len     : Nat
deriving DecidableEq, Repr

/-- The cover of an embedding record. -/
def embCover (b : List Byte) : Option Cover := (embRec b).map fun x => ⟨x.version, x.base, x.rows * x.pitch⟩

section
variable {s₀ : State}

/-! ### Slots (R270-R274) -/

/-- Does a run of bytes lie wholly in extents homed here and owned by the partition (R271 check 5)? -/
def Dev.ownsRun (d : Dev) (part base len : Nat) : Bool :=
  base + len ≤ 2 ^ 62 && (List.range (extentOf (base + len - 1) - extentOf base + 1)).all fun i =>
    let e := extentOf base + i
    d.homed e && (d.gran.all fun g => g.1 / 512 != e || g.2.part == part)

/-- Translate one address of a descriptor. -/
def Run.one (r : Run s₀) (e : Eng) (access a : Nat) (k : Nat → Run s₀ → Run s₀) : Run s₀ :=
  match r.engXlate e access [a] with
  | (.ok (t :: _), r) => k t r
  | (.ok [], r) => r
  | (.wait, r) => r
  | (.fails c, r) => r.ends e.n c

/-- Checks 3 to 5, and the swap. -/
def Run.pubRecord (r : Run s₀) (e : Eng) (rec_ : Nat) (nctr : Option Nat) (ix : Bool) (cover : List Byte → Option Cover) (slot : Nat)
    (old : Option Slot) : Run s₀ :=
  match r.engKeep e rec_ 64 with
  | (.wait, r) => r
  | (.fails c, r) => r.ends e.n c
  | (.ok bs, r) => r.one e 0 rec_ fun at_ r =>
    match cover bs with
    | none => r.finish e.n .fault 0
    | some c =>
      let curV := match old with | some x => x.cur.version | none => 0
      if c.version ≤ curV || !r.d.ownsRun e.part c.base c.len || !r.d.ownsRun e.part at_ 64 then r.finish e.n .fault 0
      else match r.d.ctrCheck e.part nctr with
        | some st => r.finish e.n st 0
        | none =>
          let v : SlotVer := { version := c.version, body := bs, addr := rec_ }
          let y : Slot := match old with
            | none => { owner := e.part, cur := v }
            | some x => { x with cur := v, retiring := x.retiring ++ [{ x.cur with nctr := nctr }] }
          ((r.setSlot ix slot (some y)).retire ix slot).finish e.n .ok (c.version + 2 ^ 32 * curV)

/-- `EMB.PUBLISH` and `VS.PUBLISH` (R271, R272, R296). `cover` reads the kind's record. -/
def Run.publish (r : Run s₀) (e : Eng) (b : List Byte) (ix : Bool) (cover : List Byte → Option Cover) : Run s₀ :=
  let rec_ := fld b 0x10 8
  let slot := fld b 0x18 2
  let nw := fld b 0x1A 2
  let nctr := if bit nw 15 then some (bits nw 0 15) else none
  if rec_ % 64 != 0 || 1024 ≤ slot || (!bit nw 15 && nw != 0) || fld b 0x1C 4 != 0 || !zeroed b 0x20 64 then r.finish e.n .fault 0
  else
    let old := (r.d.slots ix).get? slot
    match old with
    | some x =>
      if x.owner != e.part then r.finish e.n .denied 0
      else if x.cur.version == 0 || 3 ≤ x.retiring.length then r.finish e.n .busy 0
      else if rec_ == 0 then
        match r.d.ctrCheck e.part nctr with
        | some st => r.finish e.n st 0
        | none =>
          let y : Slot := { x with cur := { version := 0, body := [], addr := 0 }, retiring := x.retiring ++ [{ x.cur with nctr := nctr }] }
          ((r.setSlot ix slot (some y)).retire ix slot).finish e.n .ok (2 ^ 32 * x.cur.version)
      else r.pubRecord e rec_ nctr ix cover slot old
    | none => if rec_ == 0 then r.finish e.n .fault 0 else r.pubRecord e rec_ nctr ix cover slot old

/-- The slot record (Table 10-4). -/
def slotRecord (x : Option Slot) : List Byte :=
  match x with
  | none => zeros 64
  | some x =>
    let v (i : Nat) : Nat := ((x.retiring[i]?).map (·.version)).getD 0
    let n (i : Nat) : Nat := ((x.retiring[i]?).map (·.refs.length)).getD 0
    leBytes 1 (if x.cur.version == 0 then 2 else 1) ++ leBytes 1 x.owner ++ leBytes 1 x.retiring.length ++ [0] ++ leBytes 4 x.cur.version
      ++ leBytes 8 x.cur.addr ++ leBytes 4 x.cur.refs.length ++ zeros 4 ++ leBytes 4 (v 0) ++ leBytes 4 (v 1) ++ leBytes 4 (v 2)
      ++ leBytes 4 (n 0) ++ leBytes 4 (n 1) ++ leBytes 4 (n 2) ++ zeros 16

/-- `EMB.QUERY` and `VS.INFO`. -/
def Run.slotQuery (r : Run s₀) (e : Eng) (b : List Byte) (ix : Bool) : Run s₀ :=
  let slot := fld b 0x18 2
  let res := fld b 0x20 8
  if fld b 0x10 8 != 0 || 1024 ≤ slot || fld b 0x1A 2 != 0 || fld b 0x1C 4 != 0 || res % 64 != 0 || !zeroed b 0x28 64 then r.finish e.n .fault 0
  else
    let x := (r.d.slots ix).get? slot
    if (match x with | some x => x.owner != e.part | none => false) then r.finish e.n .denied 0
    else r.one e 1 res fun at_ r => r.finish e.n .ok 0 [(at_, slotRecord x)]

/-- Bind a batch or search to its slot's current version when it starts (R273): the version, or the status. -/
def Run.bindSlot (r : Run s₀) (e : Eng) (ix : Bool) (slot : Nat) : Except Status SlotVer × Run s₀ :=
  match (r.d.slots ix).get? slot with
  | none => (.error .fault, r)
  | some x =>
    match (x.cur :: x.retiring).find? fun v => v.refs.contains e.n with
    | some v => (.ok v, r)
    | none =>
      if x.owner != e.part then (.error .denied, r)
      else if x.cur.version == 0 then (.error .fault, r)
      else (.ok x.cur, r.setSlot ix slot (some { x with cur := { x.cur with refs := e.n :: x.cur.refs } }))

/-! ### Work areas (R277, R300) -/

/-- Key under which a pair keeps its work area's store pages. -/
def kWork : Nat := 2 ^ 80 + 8

/-- Pages `[lo, hi)` of the work areas of other pairs' running batches and searches. -/
def Dev.workAreas (d : Dev) (n : Nat) : List (Nat × Nat) :=
  d.pairs.flatMap fun p => match p.2.chain with
    | some c =>
      if p.1 != n && (dOp c.desc == 0x70 || dOp c.desc == 0x71 || dOp c.desc == 0x80) && c.stage == DStage.busy then
        let w := d.keptAt p.1 kWork
        (List.range (w.length / 16)).map fun i => (fld w (16 * i) 8, fld w (16 * i + 8) 8)
      else []
    | none => []

/-- Pieces of `len` bytes from `a`, none crossing 64 KiB. -/
def pieces : Nat → Nat → Nat → List (Nat × Nat)
  | 0, _, _ => []
  | f + 1, a, len => if len == 0 then [] else
    let n := min len (65536 - a % 65536)
    (a, n) :: pieces f (a + n) (len - n)

/-- Take the work area: `FAULT` where it breaks R277, `BUSY` where it overlaps another. Its pieces in store addresses. -/
def Run.workArea (r : Run s₀) (e : Eng) (a len : Nat) : Ans (List (Nat × Nat)) × Run s₀ :=
  if a % 64 != 0 then (.fails (Compl.of .fault), r)
  else
    let ps := pieces (len / 65536 + 2) a len
    match r.engXlate e 1 (ps.map (·.1)) with
    | (.fails c, r) => (.fails c, r)
    | (.wait, r) => (.wait, r)
    | (.ok tos, r) =>
      let ws := tos.zip (ps.map (·.2))
      let ok := ws.all fun w => (List.range (granuleOf (w.1 + w.2 - 1) - granuleOf w.1 + 1)).all fun i =>
        match r.d.gran.get? (granuleOf w.1 + i) with
        | some g => g.tier < 2 && g.part == e.part
        | none => false
      if !ok then (.fails (Compl.of .fault), r)
      else if (r.d.keptAt e.n kWork).isEmpty && (r.d.workAreas e.n).any fun x => ws.any fun w => w.1 < x.2 && x.1 < w.1 + w.2 then
        (.fails (Compl.of .busy), r)
      else (.ok ws, r.keepAt e.n kWork (ws.flatMap fun w => leBytes 8 w.1 ++ leBytes 8 (w.1 + w.2)))

/-- What the device leaves in a work area is not defined: free bytes (R277). -/
def Run.workWrites (r : Run s₀) (ws : List (Nat × Nat)) : List EWr × Run s₀ :=
  let (n, r) := r.draw
  (ws.flatMap fun w => (List.range (w.2 / 64)).map fun i =>
    let a := w.1 + 64 * i
    ({ la := a, code := 0x02, data := good (lineOf ((List.range 64).map fun j => Config.freeByte n (a + j))) } : EWr), r)

/-- Write a batch's results and its work area, and end it. -/
def Run.batchEnd (r : Run s₀) (e : Eng) (ctr : Option Nat) (ws : List (List EWr)) (area : List (Nat × Nat)) (st : Status) (word : Nat)
    (k : Run s₀ → Run s₀) : Run s₀ :=
  let (wk, r) := r.workWrites area
  match r.engMay e (ws.flatten ++ wk) ctr with
  | (.wait, r) => r
  | (.fails c, r) => r.ends e.n c
  | (.ok away, r) =>
    let r := r.each ws fun r w => r.engStore e w ctr away
    (k (r.engStore e wk none away)).finish e.n st (if st == .ok then word else 0)

/-! ### The batch (R275-R279) -/

/-- The fields of a batch (Table 10-5). -/
structure Batch where
  index : Nat
  offs  : Nat
  data  : Nat
  work  : Nat
  nidx  : Nat
  nbag  : Nat
  pool  : Nat
  dtype : Nat
  slot  : Nat
  ctr   : Option Nat
deriving DecidableEq, Repr

/-- Read a batch body; none where it breaks R275. -/
def batchOf (e : Eng) (b : List Byte) : Option Batch :=
  let mode := fld b 0x37 1
  let cw := fld b 0x3A 2
  let x : Batch := ⟨fld b 0x10 8, fld b 0x18 8, fld b 0x20 8, fld b 0x28 8, fld b 0x30 4, fld b 0x34 3, bits mode 0 2, bits mode 2 2, fld b 0x38 2,
    if bit cw 15 then some (bits cw 0 15) else none⟩
  if 2 ≤ e.cls && x.index % 64 == 0 && x.offs % 64 == 0 && x.data % 64 == 0 && x.work % 64 == 0 && 1 ≤ x.nidx && x.nidx ≤ 16777216
      && 1 ≤ x.nbag && x.nbag ≤ 4194304 && x.pool < 3 && x.dtype < 3 && mode < 16 && x.slot < 1024 && (bit cw 15 || cw == 0)
      && fld b 0x3C 4 == 0 then some x
  else none

/-- The format and bytes of a DATA row's elements. -/
def Batch.fmt (x : Batch) : Fmt × Nat := match x.dtype with | 0 => (F32, 4) | 1 => (BF16, 2) | _ => (F16, 2)

/-- Pitch of the DATA rows. -/
def Batch.pitch (x : Batch) (dim : Nat) : Nat := Wio.up (dim * x.fmt.2) 64

/-- WORKLEN (R277). -/
def Batch.workLen (x : Batch) (dim : Nat) : Nat := 64 * (cdiv x.nidx 4 + x.nbag * cdiv dim 16 + cdiv x.nidx 4096 * cdiv dim 16)

/-- One index entry: row, bag, weight. -/
structure BEnt where
  row : Nat
  bag : Nat
  w   : Nat
deriving DecidableEq, Repr

/-- Bag boundaries: NBAG + 1 offsets, none where they break R276. -/
def boundsOf (x : Batch) (bs : List Byte) : Option (List Nat) :=
  if x.offs == 0 then
    (if x.nidx % x.nbag == 0 then some ((List.range (x.nbag + 1)).map (· * (x.nidx / x.nbag))) else none)
  else
    let os := (List.range (x.nbag + 1)).map fun i => fld bs (4 * i) 4
    if os.headD 1 == 0 && os.getLastD 0 == x.nidx && (os.zip (os.drop 1)).all (fun p => p.1 ≤ p.2) then some os else none

/-- Entries of a batch with their bags. -/
def entriesOf (x : Batch) (ix : List Byte) (os : List Nat) : List BEnt :=
  ((os.zip (os.drop 1)).zipIdx).flatMap fun p => (List.range (p.1.2 - p.1.1)).map fun i =>
    let k := p.1.1 + i
    if x.pool == 2 then ⟨fld ix (8 * k) 4, p.2, fld ix (8 * k + 4) 4⟩ else ⟨fld ix (4 * k) 4, p.2, 0⟩

/-- Insert by key. -/
def insBy {α : Type} (f : α → Nat) (x : α) : List α → List α
  | [] => [x]
  | y :: ys => if f x ≤ f y then x :: y :: ys else y :: insBy f x ys

/-- Sort by key; equal keys keep their order. -/
def sortBy {α : Type} (f : α → Nat) (xs : List α) : List α := xs.foldr (insBy f) []

/-- The items in the order in which they arrive: free (R242). `salt` tells one sum from another. -/
def arrivalOrder {α : Type} (n salt : Nat) (xs : List α) : List α :=
  (sortBy (fun x => Config.orderKey n (salt * 2 ^ 32 + x.2)) xs.zipIdx).map (·.1)

/-- Pairs (row, bag, multiplicity) in sorted order (R279). -/
def pairsOf (es : List BEnt) : List (Nat × Nat × Nat) :=
  let ks := (es.map fun x => (x.row, x.bag)).dedup
  (sortBy (fun (k : Nat × Nat) => k.1 * 2 ^ 24 + k.2) ks).map fun k => (k.1, k.2, es.countP fun x => x.row == k.1 && x.bag == k.2)

/-- A row as it was read: FP32 weights, whether each is bad, and whether a line of it was lost or poisoned. -/
structure RowIn where
  row  : Nat
  ls   : List (Nat × DLine)
  lost : Bool
  poison : Bool

/-- A batch checked and ready: its fields, version, entries, rows read, work area. -/
structure Ready where
  x    : Batch
  v    : EmbRec
  es   : List BEnt
  len  : List Nat
  rows : List RowIn
  area : List (Nat × Nat)
  opt  : Option Optim

/-- Read rows, each once: the lines from its address on. -/
def Run.rowsIn (r : Run s₀) (e : Eng) (v : EmbRec) (lines : Nat) : List Nat → Ans (List RowIn) × Run s₀
  | [] => (.ok [], r)
  | row :: rows =>
    match r.lineRead { e with virt := false } ((List.range lines).map fun i => (v.base + row * v.pitch) / 64 + i) with
    | (.fails c, r) => (.fails c, r)
    | (.wait, r) => (.wait, r)
    | (.ok (ls, lost, poison), r) =>
      match Run.rowsIn r e v lines rows with
      | (.ok xs, r) => (.ok (⟨row, ls, lost, poison⟩ :: xs), r)
      | x => x

/-- The rows of a batch whose checks have passed. -/
def Run.batchRows (r : Run s₀) (e : Eng) (y : Ready) (update : Bool) (k : Ready → Run s₀ → Run s₀) : Run s₀ :=
  let us := (y.es.map (·.row)).dedup
  let lines := if update then y.v.pitch / 64 else cdiv (y.v.dim * eBytes y.v.wtype) 64
  let (go, r) := r.engGate e (us.length * y.v.pitch + y.x.nbag * y.x.pitch y.v.dim)
  if !go then r
  else match r.rowsIn e y.v lines us with
    | (.wait, r) => r
    | (.fails c, r) => r.ends e.n c
    | (.ok rows, r) => k { y with rows := rows } r

/-- The checks of R278 in front of a batch, its bind, its lists, its work area; then its rows. -/
def Run.batch (r : Run s₀) (e : Eng) (b : List Byte) (update : Bool) (k : Ready → Run s₀ → Run s₀) : Run s₀ :=
  match batchOf e b with
  | none => r.finish e.n .fault 0
  | some x =>
    match r.bindSlot e false x.slot with
    | (.error st, r) => r.finish e.n st 0
    | (.ok sv, r) =>
      match embRec sv.body with
      | none => r.finish e.n .fault 0
      | some v =>
        let wl := x.workLen v.dim
        if 2 ^ 30 < wl || (update && (v.opt == 0 || v.wtype == 0x0C || v.wtype == 0x0D)) then r.finish e.n .fault 0
        else match r.workArea e x.work wl with
          | (.wait, r) => r
          | (.fails c, r) => r.ends e.n c
          | (.ok area, r) =>
            let (ob, r) := if update then r.engKeep { e with virt := false } v.opt 64 else ((.ok [], r) : Ans (List Byte) × Run s₀)
            match ob with
            | .wait => r
            | .fails c => r.ends e.n c
            | .ok ob =>
              let o := if update then optimOf ob else none
              let suits := match o with | some o => (if o.kind == 4 then 3 else o.kind) == v.skind | none => !update
              if !suits then r.finish e.n .fault 0
              else match r.engBytes e x.index (x.nidx * (if x.pool == 2 then 8 else 4)) with
                | (.wait, r) => r
                | (.fails c, r) => r.ends e.n c
                | (.ok ix, r) =>
                  let (os, r) := if x.offs == 0 then ((.ok [], r) : Ans (List Byte) × Run s₀) else r.engBytes e x.offs (4 * (x.nbag + 1))
                  match os with
                  | .wait => r
                  | .fails c => r.ends e.n c
                  | .ok os =>
                    match boundsOf x os with
                    | none => r.finish e.n .fault 0
                    | some os =>
                      let es := entriesOf x ix os
                      if es.any fun y => v.rows ≤ y.row then r.finish e.n .fault 0
                      else r.batchRows e ⟨x, v, es, (os.zip (os.drop 1)).map fun p => p.2 - p.1, [], area, o⟩ update k

/-- Element `i` of type `t` at byte `off` of a row: FP32 value, and whether its line is bad. -/
def RowIn.el (x : RowIn) (v : EmbRec) (off t i : Nat) : Nat × Bool :=
  let e := (elem? t).getD { code := 8, k := .flt F32, w := 32, unit := 4 }
  let (w, b) := bytesIn x.ls (v.base + x.row * v.pitch + off + i * e.unit) e.unit
  (e.f32 { v := w }, b)

/-- The row of a number among those read. -/
def Ready.row (y : Ready) (n : Nat) : RowIn := (y.rows.find? fun x => x.row == n).getD ⟨n, [], false, true⟩

/-- Rows with more than 4,096 pairs (R280). -/
def splitRows (ps : List (Nat × Nat × Nat)) : Nat := ((ps.map (·.1)).dedup.filter fun r => 4096 < ps.countP fun p => p.1 == r).length

/-! ### `LOOKUP.POOL` (R281-R285) -/

/-- acc + m × x, the product exact, one rounding. -/
def fmaNat (acc m x : Nat) : Nat := F32.enc false (FV.add (acc, x) (F32.dec acc) (FV.mul (m, x) (.fin false m 0) (F32.dec x)))

/-- A count as FP32. -/
def f32OfNat (n : Nat) : Nat := F32.enc false (.fin false n 0)

/-- Element `i` of the output of bag `bag`: its FP32 sum, and whether it is poisoned. -/
def poolEl (y : Ready) (n : Nat) (ps : List (Nat × Nat × Nat)) (es : List BEnt) (bag len i : Nat) : Nat × Bool :=
  let salt := bag * 1024 + i
  if y.x.pool == 2 then
    let xs := (arrivalOrder n salt es).map fun q => (q, (y.row q.row).el y.v 0 y.v.wtype i)
    (xs.foldl (fun acc q => F32.add acc (F32.mul q.1.w q.2.1)) 0, xs.any (·.2.2))
  else
    let xs := (arrivalOrder n salt ps).map fun q => (q, (y.row q.1).el y.v 0 y.v.wtype i)
    let sum := xs.foldl (fun acc q => fmaNat acc q.1.2.2 q.2.1) 0
    (if y.x.pool == 1 && 0 < len then F32.mul sum (recip32 (f32OfNat len)) else sum, xs.any (·.2.2))

/-- `LOOKUP.POOL`. -/
def Run.lookupPool (r : Run s₀) (e : Eng) (b : List Byte) : Run s₀ :=
  r.batch e b false fun y r =>
    let (n, r) := r.draw
    let ps := pairsOf y.es
    let (fmt, w) := y.x.fmt
    let pitch := y.x.pitch y.v.dim
    let rows := (List.range y.x.nbag).map fun bag =>
      let mine := ps.filter fun p => p.2.1 == bag
      let ents := y.es.filter fun q => q.bag == bag
      (bag, (List.range y.v.dim).map fun i => poolEl y n mine ents bag (y.len.getD bag 0) i)
    let ls := rows.foldl (fun t row =>
      let a := y.x.data + row.1 * pitch
      let t := row.2.zipIdx.foldl (fun t q => putBytes n t (a + q.2 * w) w (F32.conv fmt q.1.1) q.1.2) t
      (List.range (pitch - y.v.dim * w)).foldl (fun t i => putByte n t (a + y.v.dim * w + i) (Config.freeByte n (a + y.v.dim * w + i)).toNat false) t) []
    match r.linesOut e ls with
    | (.wait, r) => r
    | (.fails c, r) => r.ends e.n c
    | (.ok ws, r) =>
      let us := y.rows.length
      let st := readSt (y.rows.any (·.lost)) (rows.any fun q => q.2.any (·.2))
      r.batchEnd e y.x.ctr [ws] y.area st (y.v.version + 2 ^ 32 * us) fun r =>
        (((r.bump 0 0xC020 2).bumpBy 0 0xC020 4 y.x.nidx).bumpBy 0 0xC020 5 us).bumpBy 0 0xC020 6
          (splitRows (if y.x.pool == 2 then y.es.map fun q => (q.row, q.bag, 1) else ps))

/-! ### `EMB.UPDATE` (R286-R291) -/

/-- The coefficient of a pair. -/
def coef (y : Ready) (n : Nat) (p : Nat × Nat × Nat) : Nat :=
  match y.x.pool with
  | 0 => f32OfNat p.2.2
  | 1 => F32.enc false (FV.mul (p.2.2, 0) (.fin false p.2.2 0) (F32.dec (recip32 (f32OfNat (y.len.getD p.2.1 1)))))
  | _ =>
    let ws := (y.es.filter fun q => q.row == p.1 && q.bag == p.2.1).map (·.w)
    match arrivalOrder n (2 ^ 50 + p.1) ws with
    | [] => 0
    | w :: ws => ws.foldl F32.add w

/-- Chunks of 4,096 pairs (R280). -/
def chunks {α : Type} : Nat → List α → List (List α)
  | 0, _ => []
  | f + 1, xs => if xs.isEmpty then [] else xs.take 4096 :: chunks f (xs.drop 4096)

/-- The merged gradient of a row, element `i`: `gs` gives each pair's coefficient and gradient element (R286, R287). -/
def mergeEl (n row i : Nat) (gs : List (Nat × Nat)) : Nat :=
  let part (c : List (Nat × Nat)) (j : Nat) : Nat := (arrivalOrder n ((row * 1024 + i) * 4096 + j + 1) c).foldl (fun g q => F32.fma q.1 q.2 g) 0
  let cs := (chunks (gs.length / 4096 + 1) gs).zipIdx.map fun c => part c.1 c.2
  match arrivalOrder n ((row * 1024 + i) * 4096) cs with
  | [] => 0
  | x :: xs => xs.foldl F32.add x

/-- New weights and state of a row under an optimiser: FP32 lists w, then the state as laid out (R288). -/
def rowStep (o : Optim) (c : Nat × Nat) (w g st : List Nat) : List Nat × List Nat :=
  let dim := w.length
  match o.kind with
  | 0 => ((w.zip g).map fun x => optSgd o x.1 x.2, [])
  | 1 =>
    let xs := (w.zip (g.zip st)).map fun x => optMomentum o x.1 x.2.1 x.2.2
    (xs.map (·.1), xs.map (·.2))
  | 2 =>
    let (w, s) := optAdagrad o w g (st.headD 0)
    (w, [s])
  | _ =>
    let xs := (w.zip (g.zip ((st.take dim).zip (st.drop dim)))).map fun x => optAdam o c x.1 x.2.1 x.2.2.1 x.2.2.2
    (xs.map (·.1), xs.map (·.2.1) ++ xs.map (·.2.2))

/-- Read the gradient rows, one for each bag. -/
def Run.gradsIn (r : Run s₀) (e : Eng) (y : Ready) : Ans (List (Nat × DLine) × List Nat) × Run s₀ :=
  let k := y.x.nbag * y.x.pitch y.v.dim / 64
  let ns := (List.range k).map fun i => y.x.data / 64 + i
  match r.engXlate e 0 (ns.map (64 * ·)) with
  | (.fails c, r) => (.fails c, r)
  | (.wait, r) => (.wait, r)
  | (.ok tos, r) =>
    match r.engLines e tos with
    | (.fails c, r) => (.fails c, r)
    | (.wait, r) => (.wait, r)
    | (.lines ls, r) =>
      let lost := ((ns.zip tos).filter fun x => (r.d.pair e.n).lostLn.contains (lineNo x.2)).map (·.1)
      (.ok ((ns.zip tos).map fun x => (x.1, lineIn ls (lineNo x.2)), lost), r)

/-- What becomes of one row: its lines to write, or why it is not updated (lost?). -/
def updateRow (y : Ready) (o : Optim) (n : Nat) (grads : List (Nat × DLine)) (glost : List Nat) (ps : List (Nat × Nat × Nat)) (x : RowIn) : Except Bool (List (Nat × DLine)) :=
  let v := y.v
  let a := v.base + x.row * v.pitch
  let used := (List.range (cdiv (v.dim * eBytes v.wtype) 64)).map (a / 64 + ·)
    ++ (if v.skind == 0 then [] else (List.range ((v.soff + v.stateLen - 1) / 64 - v.soff / 64 + 1)).map (a / 64 + v.soff / 64 + ·))
  let gp := y.x.pitch v.dim
  let (fmt, w) := y.x.fmt
  let gl := ps.flatMap fun p => (List.range (cdiv (v.dim * w) 64)).map fun i => (y.x.data + p.2.1 * gp) / 64 + i
  let badRow := x.lost || used.any fun l => (lineIn x.ls l).poison
  let badG := gl.any fun l => (lineIn grads l).poison
  if badRow || badG then .error (x.lost || gl.any glost.contains)
  else
    let cs := ps.map fun p => (coef y n p, p.2.1)
    let gEl (i : Nat) : Nat := mergeEl n x.row i (cs.map fun c => (c.1, fmt.conv F32 (bytesIn grads (y.x.data + c.2 * gp + i * w) w).1))
    let g := (List.range v.dim).map gEl
    let ws := (List.range v.dim).map fun i => (x.el v 0 v.wtype i).1
    let sn := match v.skind with | 0 => 0 | 1 => v.dim | 2 => 1 | _ => 2 * v.dim
    let st := (List.range sn).map fun i => (x.el v v.soff v.stype i).1
    let (w', s') := rowStep o (optC o) ws g st
    let wt := (elem? v.wtype).getD { code := 8, k := .flt F32, w := 32, unit := 4 }
    let stt := (elem? v.stype).getD { code := 8, k := .flt F32, w := 32, unit := 4 }
    let bs := x.ls.flatMap fun l => lineBytes l.2.data
    let bs := w'.zipIdx.foldl (fun b q => putFld b (q.2 * wt.unit) wt.unit (wt.of32 q.1)) bs
    let bs := s'.zipIdx.foldl (fun b q => putFld b (v.soff + q.2 * stt.unit) stt.unit (stt.of32 q.1)) bs
    .ok ((x.ls.zip (linesOf x.ls.length bs)).map fun q => (q.1.1, ⟨q.2, q.1.2.poison⟩))

/-- `EMB.UPDATE`. -/
def Run.embUpdate (r : Run s₀) (e : Eng) (b : List Byte) : Run s₀ :=
  r.batch e b true fun y r =>
    match y.opt with
    | none => r.finish e.n .fault 0
    | some o =>
      match r.gradsIn e y with
      | (.wait, r) => r
      | (.fails c, r) => r.ends e.n c
      | (.ok (grads, glost), r) =>
        let (n, r) := r.draw
        let ps := pairsOf y.es
        let outs := y.rows.map fun x => (x.row, updateRow y o n grads glost (ps.filter fun p => p.1 == x.row) x)
        let ws : List EWr := outs.flatMap fun q => match q.2 with
          | .ok ls => ls.map fun l => { la := 64 * l.1, code := 0x02, data := l.2 }
          | .error _ => []
        let not_ := outs.filterMap fun q => match q.2 with | .error l => some (q.1, l) | .ok _ => none
        let done := outs.length - not_.length
        let st := readSt (not_.any (·.2)) (!not_.isEmpty)
        r.batchEnd e y.x.ctr [ws] y.area st (y.v.version + 2 ^ 32 * done) fun r =>
          let r := r.each not_ fun r q =>
            let a := y.v.base + q.1 * y.v.pitch
            r.error (mkErr 0x0F (if q.2 then 3 else 2) 0 (r.d.homeSlice a) (some e.part) a (y.x.slot + 2 ^ 32 * y.v.version) q.1)
          let r := (r.bump 0 0xC020 3).bumpBy 0 0xC020 4 y.x.nidx
          ((r.bumpBy 0 0xC020 5 y.rows.length).bumpBy 0 0xC020 6 (splitRows ps)).bumpBy 0 0xC020 8 not_.length

end

/-- `LOOKUP.POOL` (R281). -/
def execLookupPool (n : Fin 1024) (s : State) : Host.Outcome State Fault Refusal :=
  ((Run.start s).op n 0x70 anyKind fun e b r => r.lookupPool e b).requestDone

/-- `EMB.UPDATE` (R288). -/
def execEmbUpdate (n : Fin 1024) (s : State) : Host.Outcome State Fault Refusal :=
  ((Run.start s).op n 0x71 anyKind fun e b r => r.embUpdate e b).requestDone

/-- `EMB.PUBLISH` (R271). -/
def execEmbPublish (n : Fin 1024) (s : State) : Host.Outcome State Fault Refusal :=
  ((Run.start s).op n 0x78 anyKind fun e b r => r.publish e b false embCover).requestDone

/-- `EMB.QUERY` (R270). -/
def execEmbQuery (n : Fin 1024) (s : State) : Host.Outcome State Fault Refusal :=
  ((Run.start s).op n 0x79 anyKind fun e b r => r.slotQuery e b false).requestDone

end Sys2Proof.Machine
end

