-- ==== Sys2Proof/Machine/Search.lean ====
section
/-!
DEFINITION. Filtered vector search (chapter 11): index and query records, filters, distances, the flat scan, the graph walk,
result lists, merges and query casts.
-/

namespace Sys2Proof.Machine

/-! ### Records (R293, R294, R297) -/

/-- An index record. -/
structure IdxRec where
  kind  : Nat
  etype : Nat
  metric : Nat
  dim   : Nat
  nodes : Nat
  version : Nat
  base  : Nat
  pitch : Nat
  voff  : Nat
  deg   : Nat
  entry : Nat
  shard : Nat
deriving DecidableEq, Repr

/-- Bytes of a vector, in whole lines. -/
def IdxRec.vecLen (x : IdxRec) : Nat := Wio.up (x.dim * eBytes x.etype) 64

/-- Read an index record; none where it breaks R293. -/
def idxRec (b : List Byte) : Option IdxRec :=
  let x : IdxRec := ⟨fld b 3 1, fld b 4 1, fld b 5 1, fld b 6 2, fld b 8 4, fld b 0x0C 4, fld b 0x10 8, fld b 0x18 4, fld b 0x1C 2, fld b 0x1E 1,
    fld b 0x20 4, fld b 0x24 2⟩
  let t := x.etype
  let tOk := t == 5 || t == 8 || t == 0x0A || t == 0x0B || t == 0x0C || t == 0x0D
  let shape := if x.kind == 0 then x.voff == 64 && x.deg == 0 && x.entry == 0
    else 32 + 4 * x.deg ≤ x.voff && x.voff ≤ 1024 && 1 ≤ x.deg && x.deg ≤ 240 && x.entry < x.nodes
  if fld b 0 2 == 0x5653 && fld b 2 1 == 1 && x.kind < 2 && tOk && x.metric < 3 && 1 ≤ x.dim && x.dim ≤ 4096 && 1 ≤ x.nodes
      && 1 ≤ x.version && x.base % 64 == 0 && x.pitch % 64 == 0 && x.voff + x.vecLen ≤ x.pitch && x.pitch ≤ 17408 && x.voff % 64 == 0
      && shape && fld b 0x1F 1 == 0 && zeroed b 0x26 64 then some x
  else none

/-- The cover of an index record (R296). -/
def idxCover (b : List Byte) : Option Cover := (idxRec b).map fun x => ⟨x.version, x.base, x.nodes * x.pitch⟩

/-- A filter term (Table 11-4). -/
structure Term where
  op   : Nat
  mask : Nat
  val  : Nat
deriving DecidableEq, Repr

/-- Zero bits below the lowest set bit of a 64-bit mask. -/
def lowZeros (m : Nat) : Nat := ((List.range 64).find? fun i => bit m i).getD 64

/-- Does a term in use keep its rule? -/
def Term.ok (t : Term) : Bool :=
  match t.op with
  | 1 | 2 => (BitVec.ofNat 64 t.val &&& ~~~(BitVec.ofNat 64 t.mask)) == 0
  | 3 | 4 => t.val == 0
  | 5 | 6 =>
    let z := lowZeros t.mask
    t.mask != 0 && (let m := t.mask / 2 ^ z + 1; m == 2 ^ Nat.log2 m)
  | _ => false

/-- Does a term hold of an attribute word? -/
def Term.holds (t : Term) (a : Nat) : Bool :=
  let x := (BitVec.ofNat 64 a &&& BitVec.ofNat 64 t.mask).toNat
  let f := x / 2 ^ lowZeros t.mask
  match t.op with
  | 1 => x == t.val | 2 => x != t.val | 3 => x != 0 | 4 => x == 0 | 5 => f ≤ t.val | 6 => t.val ≤ f
  | _ => false

/-- A query record's header. -/
structure Query where
  k    : Nat
  ef   : Nat
  comb : Nat
  qid  : Nat
  terms : List Term
deriving DecidableEq, Repr

/-- Does the filter hold (R298)? -/
def Query.filter (q : Query) (a : Nat) : Bool :=
  q.terms.isEmpty || (if q.comb == 0 then q.terms.all fun t => t.holds a else q.terms.any fun t => t.holds a)

/-- Read a query record for a kind of index; none where it breaks R297 or R299. -/
def queryOf (kind : Nat) (b : List Byte) : Option Query :=
  let nt := fld b 6 1
  let term (i : Nat) : Term := ⟨fld b (0x0C + i) 1, fld b (0x10 + 16 * i) 8, fld b (0x18 + 16 * i) 8⟩
  let used := (List.range (min nt 4)).map term
  let rest := ((List.range 4).drop nt).map term
  let q : Query := ⟨fld b 2 2, fld b 4 2, fld b 7 1, fld b 8 4, used⟩
  if fld b 0 2 == 0x5651 && 1 ≤ q.k && q.k ≤ 1024 && (if kind == 0 then q.ef == 0 else q.k ≤ q.ef && q.ef ≤ 4096) && nt ≤ 4 && q.comb < 2
      && used.all Term.ok && rest.all (fun t => t == ⟨0, 0, 0⟩) && zeroed b 0x50 128 then some q
  else none

/-! ### Distances (R295) -/

/-- Elements of a vector from bytes. -/
def vecOf (t : Elem) (b : List Byte) (dim : Nat) : List TE := (List.range dim).map fun i => { v := fld b (i * t.unit) t.unit }

/-- A dot product as the matrix unit forms it. -/
def dot (t : Elem) (x y : List TE) : Nat :=
  let ps := x.zip y
  if t.code == 5 then F32.enc true (FV.ofInt (sval 32 (intSum t t ps 0)) 0 false)
  else accSteps t t (stepK t.code) ps.length ps 0

/-- What is computed once for a query: its vector, q·q and a. -/
structure QVec where
  q  : List TE
  qq : Nat
  a  : Nat

/-- The query's own values. -/
def qvec (t : Elem) (q : List TE) : QVec :=
  let qq := dot t q q
  ⟨q, qq, if (F32.dec qq).isZero then 0 else rsqrt32 qq⟩

/-- d (R295), FP32. -/
def distance (x : IdxRec) (t : Elem) (q : QVec) (v : List TE) (aux : Nat) : Nat :=
  let p := dot t q.q v
  match x.metric with
  | 0 => F32.neg p
  | 1 => F32.neg (F32.mul (F32.mul p aux) q.a)
  | _ => F32.maximum 0 (F32.sub (F32.add q.qq aux) (F32.mul 0x40000000 p))

/-- A node found: distance, label, shard, number. -/
structure Hit where
  d     : Nat
  label : Nat
  shard : Nat
  node  : Nat
deriving DecidableEq, Repr

/-- Tie order (R303). -/
def Hit.before (a b : Hit) : Bool :=
  let x := F32.dec a.d; let y := F32.dec b.d
  x.lt y || (!y.lt x && (a.label < b.label || (a.label == b.label && (a.shard < b.shard || (a.shard == b.shard && a.node < b.node)))))

/-- Insert in tie order. -/
def insHit (x : Hit) : List Hit → List Hit
  | [] => [x]
  | y :: ys => if x.before y then x :: y :: ys else y :: insHit x ys

/-- A result entry (Table 11-8). -/
def Hit.bytes (h : Hit) : List Byte := leBytes 4 h.d ++ leBytes 4 h.node ++ leBytes 6 h.label ++ leBytes 2 h.shard

/-- Read an entry. -/
def hitOf (b : List Byte) : Hit := ⟨fld b 0 4, fld b 8 6, fld b 0x0E 2, fld b 4 4⟩

/-- The counts of Table 11-7. -/
structure Counts where
  scanned : Nat := 0
  rejected : Nat := 0
  tombs : Nat := 0
  expanded : Nat := 0
  badEdge : Nat := 0
  nans : Nat := 0
  unread : Nat := 0
  capped : Bool := false
  graph : Bool := false
deriving DecidableEq, Repr

/-- The result list (Tables 11-7, 11-8). -/
def listBytes (qid version k shard : Nat) (st : Status) (mixed : Bool) (c : Counts) (lists missing : Nat) (hs : List Hit) : List Byte :=
  leBytes 4 qid ++ leBytes 4 version ++ leBytes 2 hs.length ++ leBytes 2 k ++ leBytes 2 shard ++ leBytes 1 st.code
    ++ leBytes 1 (b2n c.capped + 2 * b2n c.graph + 4 * b2n mixed) ++ leBytes 4 c.scanned ++ leBytes 4 c.rejected ++ leBytes 4 c.tombs
    ++ leBytes 4 c.expanded ++ leBytes 4 c.badEdge ++ leBytes 4 c.nans ++ leBytes 4 c.unread ++ leBytes 2 lists ++ leBytes 2 missing
    ++ zeros 16 ++ hs.flatMap Hit.bytes

/-! ### Nodes as they are read -/

/-- A node's word (Table 11-2). -/
structure Word where
  label : Nat
  attr  : Nat
  aux   : Nat
  tomb  : Bool
  deg   : Nat
deriving DecidableEq, Repr

/-- Read a node word. -/
def wordOf (b : List Byte) : Word := ⟨fld b 0 6, fld b 8 8, fld b 0x10 4, bit (fld b 0x14 2) 0, fld b 0x16 2⟩

section
variable {s₀ : State}

/-- A search under way. -/
structure Srch where
  e    : Eng
  v    : IdxRec
  t    : Elem
  q    : Query
  qv   : QVec

/-- What a read of a node's bytes gives: bytes, or none where a line of them was poisoned or LOST. -/
def Run.nodeRead (r : Run s₀) (e : Eng) (v : IdxRec) (i off len : Nat) : Ans (Option (List Byte) × Bool) × Run s₀ :=
  let a := v.base + i * v.pitch + off
  match r.rawIn { e with virt := false } (a / 64 * 64) (a % 64 + len) with
  | (.fails c, r) => (.fails c, r)
  | (.wait, r) => (.wait, r)
  | (.ok (bs, _, lost, poison), r) => (.ok (if lost || poison then none else some (bs.drop (a % 64)), lost), r)

/-- A search's progress: results, counts, whether a line was LOST. -/
structure Found where
  hits : List Hit := []
  c    : Counts := {}
  lost : Bool := false

/-- Offer a hit to a list of the K best. -/
def Found.offer (f : Found) (k : Nat) (h : Hit) : Found := { f with hits := (insHit h f.hits).take k }

/-- A node that could not be read. -/
def Found.skip (f : Found) (lost : Bool) : Found := { f with c := { f.c with unread := f.c.unread + 1 }, lost := f.lost || lost }

/-! ### Flat scan (R301) -/

/-- Scan nodes in turn: the K best. -/
def Run.scan (r : Run s₀) (x : Srch) : List Nat → Found → Ans Found × Run s₀
  | [], f => (.ok f, r)
  | i :: is, f =>
    match r.nodeRead x.e x.v i 0 64 with
    | (.fails c, r) => (.fails c, r)
    | (.wait, r) => (.wait, r)
    | (.ok (none, lost), r) => Run.scan r x is (f.skip lost)
    | (.ok (some b, _), r) =>
      let w := wordOf b
      let f := { f with c := { f.c with scanned := f.c.scanned + 1 } }
      if w.tomb then Run.scan r x is { f with c := { f.c with tombs := f.c.tombs + 1 } }
      else if !x.q.filter w.attr then Run.scan r x is { f with c := { f.c with rejected := f.c.rejected + 1 } }
      else match r.nodeRead x.e x.v i x.v.voff (x.v.dim * x.t.unit) with
        | (.fails c, r) => (.fails c, r)
        | (.wait, r) => (.wait, r)
        | (.ok (none, lost), r) => Run.scan r x is (f.skip lost)
        | (.ok (some vb, _), r) =>
          let d := distance x.v x.t x.qv (vecOf x.t vb x.v.dim) w.aux
          if (F32.dec d).isNan then Run.scan r x is { f with c := { f.c with nans := f.c.nans + 1 } }
          else Run.scan r x is (f.offer x.q.k ⟨d, w.label, x.v.shard, i⟩)

/-! ### Graph walk (R302) -/

/-- A walk's progress: candidates in tie order with their expanded marks, visited nodes, what is found. -/
structure WalkS where
  cands : List (Hit × Bool) := []
  seen  : List Nat := []
  f     : Found := {}

/-- Add a candidate in tie order, dropping the last where more than EF are held. -/
def WalkS.add (w : WalkS) (ef : Nat) (h : Hit) : WalkS :=
  let rec ins : List (Hit × Bool) → List (Hit × Bool)
    | [] => [(h, false)]
    | y :: ys => if h.before y.1 then (h, false) :: y :: ys else y :: ins ys
  { w with cands := (ins w.cands).take ef }

/-- Reach a node that is not visited: its word, its vector, its place. `entry` is ENTRY, which is expanded even when deleted. -/
def Run.reach_ (r : Run s₀) (x : Srch) (w : WalkS) (j : Nat) (entry : Bool) : Ans WalkS × Run s₀ :=
  let w := { w with seen := j :: w.seen }
  match r.nodeRead x.e x.v j 0 32 with
  | (.fails c, r) => (.fails c, r)
  | (.wait, r) => (.wait, r)
  | (.ok (none, lost), r) => (.ok { w with f := w.f.skip lost }, r)
  | (.ok (some b, _), r) =>
    let nw := wordOf b
    let c := w.f.c
    let w := { w with f := { w.f with c := { c with scanned := c.scanned + 1, tombs := c.tombs + b2n nw.tomb } } }
    if nw.tomb && !entry then (.ok w, r)
    else match r.nodeRead x.e x.v j x.v.voff (x.v.dim * x.t.unit) with
      | (.fails c, r) => (.fails c, r)
      | (.wait, r) => (.wait, r)
      | (.ok (none, lost), r) => (.ok { w with f := w.f.skip lost }, r)
      | (.ok (some vb, _), r) =>
        let d := distance x.v x.t x.qv (vecOf x.t vb x.v.dim) nw.aux
        let c := w.f.c
        let fails := !nw.tomb && !x.q.filter nw.attr
        if (F32.dec d).isNan then (.ok { w with f := { w.f with c := { c with nans := c.nans + 1, rejected := c.rejected + b2n fails } } }, r)
        else
          let h : Hit := ⟨d, nw.label, x.v.shard, j⟩
          let w := w.add x.q.ef h
          if nw.tomb then (.ok w, r)
          else if fails then (.ok { w with f := { w.f with c := { c with rejected := c.rejected + 1 } } }, r)
          else (.ok { w with f := w.f.offer x.q.k h }, r)

/-- Follow edges in order. -/
def Run.edges (r : Run s₀) (x : Srch) : List Nat → WalkS → Ans WalkS × Run s₀
  | [], w => (.ok w, r)
  | j :: js, w =>
    if x.v.nodes ≤ j then Run.edges r x js { w with f := { w.f with c := { w.f.c with badEdge := w.f.c.badEdge + 1 } } }
    else if w.seen.contains j then Run.edges r x js w
    else match r.reach_ x w j false with
      | (.ok w, r) => Run.edges r x js w
      | y => y

/-- Expand nodes in the order their records arrive. A node whose edges cannot be read is neither expanded nor returned (R306). -/
def Run.expandAll (r : Run s₀) (x : Srch) : List Nat → WalkS → Ans WalkS × Run s₀
  | [], w => (.ok w, r)
  | i :: is, w =>
    match r.nodeRead x.e x.v i 0 32 with
    | (.fails c, r) => (.fails c, r)
    | (.wait, r) => (.wait, r)
    | (.ok (b, lost), r) =>
      let dg := match b with | some b => (wordOf b).deg | none => 0
      let n := min dg x.v.deg
      match r.nodeRead x.e x.v i 32 (4 * n) with
      | (.fails c, r) => (.fails c, r)
      | (.wait, r) => (.wait, r)
      | (.ok (eb, lost'), r) =>
        match b, eb with
        | some _, some eb =>
          let c := w.f.c
          let w := { w with f := { w.f with c := { c with expanded := c.expanded + 1, badEdge := c.badEdge + b2n (x.v.deg < dg) } } }
          (match r.edges x ((List.range n).map fun j => fld eb (4 * j) 4) w with
          | (.ok w, r) => Run.expandAll r x is w
          | y => y)
        | _, _ =>
          let f := w.f.skip (lost || lost')
          Run.expandAll r x is { w with f := { f with hits := f.hits.filter fun h => h.node != i } }

/-- The loop of R302, at most MAXEXP times round. -/
def Run.walkLoop (r : Run s₀) (x : Srch) (maxExp n : Nat) : Nat → WalkS → Ans WalkS × Run s₀
  | 0, w => (.ok w, r)
  | k + 1, w =>
    let open_ := w.cands.filter fun c => !c.2
    if open_.isEmpty then (.ok w, r)
    else if maxExp ≤ w.f.c.expanded then (.ok { w with f := { w.f with c := { w.f.c with capped := true } } }, r)
    else
      let take := (open_.map (·.1)).take (min 8 (maxExp - w.f.c.expanded))
      let stop := x.q.ef ≤ w.cands.length && (match take.head?, w.cands[x.q.ef - 1]? with
        | some h, some l => l.1.before h
        | _, _ => false)
      if stop then (.ok w, r)
      else
        let w := { w with cands := w.cands.map fun c => if take.contains c.1 then (c.1, true) else c }
        match r.expandAll x (arrivalOrder n k (take.map (·.node))) w with
        | (.ok w, r) => Run.walkLoop r x maxExp n k w
        | y => y

/-- The walk from ENTRY. -/
def Run.walkGraph (r : Run s₀) (x : Srch) (maxExp : Nat) : Ans Found × Run s₀ :=
  let (n, r) := r.draw
  match r.reach_ x {} x.v.entry true with
  | (.fails c, r) => (.fails c, r)
  | (.wait, r) => (.wait, r)
  | (.ok w, r) =>
    match r.walkLoop x maxExp n (2 * maxExp + x.q.ef + 2) w with
    | (.fails c, r) => (.fails c, r)
    | (.wait, r) => (.wait, r)
    | (.ok w, r) => (.ok { w.f with c := { w.f.c with graph := true } }, r)

/-! ### `VS.SEARCH` -/

/-- WORKLEN (R300). -/
def searchWork (maxExp deg ef : Nat) : Nat :=
  let n := 2 * maxExp * deg
  let p := if 2 ^ Nat.log2 n == n then Nat.log2 n else Nat.log2 n + 1
  Wio.up (4 * 2 ^ p + 16 * ef) 64

/-- Write a result list and end the search or merge. -/
def Run.listOut (r : Run s₀) (e : Eng) (res : Nat) (ctr : Option Nat) (bs : List Byte) (area : List (Nat × Nat)) (st : Status) (word : Nat)
    (k : Run s₀ → Run s₀) : Run s₀ :=
  match r.linesOut e (putBytes 0 [] res bs.length (leNat bs) false) with
  | (.wait, r) => r
  | (.fails c, r) => r.ends e.n c
  | (.ok ws, r) =>
    let (wk, r) := if area.isEmpty then ([], r) else r.workWrites area
    match r.engMay e (ws ++ wk) ctr with
    | (.wait, r) => r
    | (.fails c, r) => r.ends e.n c
    | (.ok away, r) => (k ((r.engStore e ws ctr away).engStore e wk none away)).finish e.n st word

/-- `VS.SEARCH` (R299-R307). -/
def Run.vsSearch (r : Run s₀) (e : Eng) (b : List Byte) : Run s₀ :=
  let qa := fld b 0x10 8
  let res := fld b 0x18 8
  let work := fld b 0x20 8
  let slot := fld b 0x28 2
  let cw := fld b 0x2A 2
  let ctr := if bit cw 15 then some (bits cw 0 15) else none
  let maxExp := fld b 0x2C 4
  if e.cls < 2 || qa % 64 != 0 || res % 64 != 0 || 1024 ≤ slot || (!bit cw 15 && cw != 0) || !zeroed b 0x30 64 then r.finish e.n .fault 0
  else match r.bindSlot e true slot with
    | (.error st, r) => r.finish e.n st 0
    | (.ok sv, r) =>
      match idxRec sv.body with
      | none => r.finish e.n .fault 0
      | some v =>
        let flat := v.kind == 0
        if (if flat then work != 0 || maxExp != 0 else maxExp == 0 || 65536 < maxExp) then r.finish e.n .fault 0
        else match r.engKeep e qa 128 with
          | (.wait, r) => r
          | (.fails c, r) => r.ends e.n c
          | (.ok qb, r) =>
            match queryOf v.kind qb with
            | none => r.finish e.n .fault 0
            | some q =>
              match r.engKeep e (qa + 128) v.vecLen with
              | (.wait, r) => r
              | (.fails c, r) => r.ends e.n c
              | (.ok vb, r) =>
                let t := (elem? v.etype).getD { code := 8, k := .flt F32, w := 32, unit := 4 }
                let (area, r) := if flat then ((.ok [], r) : Ans (List (Nat × Nat)) × Run s₀) else r.workArea e work (searchWork maxExp v.deg q.ef)
                match area with
                  | .wait => r
                  | .fails c => r.ends e.n c
                  | .ok area =>
                    let (go, r) := r.engGate e (128 + v.vecLen + (if flat then v.nodes * v.pitch else maxExp * (v.voff + v.deg * v.pitch)) + 64 + 16 * q.k)
                    if !go then r
                    else
                      let x : Srch := ⟨e, v, t, q, qvec t (vecOf t vb v.dim)⟩
                      match (if flat then r.scan x (List.range v.nodes) {} else r.walkGraph x maxExp) with
                      | (.wait, r) => r
                      | (.fails c, r) => r.ends e.n c
                      | (.ok f, r) =>
                        let n := f.hits.length
                        let st : Status := if f.lost then .lost else if 0 < f.c.unread then .poison else if n < q.k then .short else .ok
                        let word := if st == .ok then v.version + 2 ^ 32 * n else 0
                        r.listOut e res ctr (listBytes q.qid v.version q.k v.shard st false f.c 1 0 f.hits) area st word fun r =>
                          let r := ((r.bump 0 0xC030 2).bumpBy 0 0xC030 4 f.c.scanned).bumpBy 0 0xC030 5 f.c.rejected
                          ((r.bumpBy 0 0xC030 6 f.c.tombs).bumpBy 0 0xC030 7 (b2n (st == .short))).bumpBy 0 0xC030 8 (b2n f.c.capped)

/-! ### `VS.MERGE` (R309, R310) -/

/-- A list that a merge reads: its header and entries. -/
structure VList where
  hd   : List Byte
  hits : List Hit

/-- Read NLIST lists, the entries of those that are present. -/
def Run.listsIn (r : Run s₀) (e : Eng) (at_ stride qid : Nat) : List Nat → Ans (List (Option VList)) × Run s₀
  | [] => (.ok [], r)
  | i :: is =>
    match r.engBytes e (at_ + i * stride) 64 with
    | (.fails c, r) => (.fails c, r)
    | (.wait, r) => (.wait, r)
    | (.ok hd, r) =>
      let code := fld hd 0x0E 1
      let present := fld hd 0 4 == qid && (code == 0 || code == 8 || code == 5 || code == 6)
      let n := min 1024 (fld hd 8 2)
      match (if present && 0 < n then r.engBytes e (at_ + i * stride + 64) (16 * n) else ((.ok [], r) : Ans (List Byte) × Run s₀)) with
      | (.fails c, r) => (.fails c, r)
      | (.wait, r) => (.wait, r)
      | (.ok bs, r) =>
        match Run.listsIn r e at_ stride qid is with
        | (.ok xs, r) =>
          let hits := if present then (List.range n).map fun j => hitOf (bs.drop (16 * j)) else []
          (.ok ((if present then some ⟨hd, hits⟩ else none) :: xs), r)
        | x => x

/-- `VS.MERGE`. -/
def Run.vsMerge (r : Run s₀) (e : Eng) (b : List Byte) : Run s₀ :=
  let at_ := fld b 0x10 8
  let res := fld b 0x18 8
  let stride := fld b 0x20 4
  let nlist := fld b 0x24 2
  let k := fld b 0x26 2
  let qid := fld b 0x28 4
  let cw := fld b 0x2C 2
  let ctr := if bit cw 15 then some (bits cw 0 15) else none
  if e.cls < 2 || at_ % 64 != 0 || res % 64 != 0 || stride % 64 != 0 || nlist == 0 || 4096 < nlist || k == 0 || 1024 < k
      || stride < 64 + 16 * k || (!bit cw 15 && cw != 0) || !zeroed b 0x2E 64 then r.finish e.n .fault 0
  else
    let (go, r) := r.engGate e (nlist * (64 + 16 * k) + 64 + 16 * k)
    if !go then r
    else match r.listsIn e at_ stride qid (List.range nlist) with
      | (.wait, r) => r
      | (.fails c, r) => r.ends e.n c
      | (.ok xs, r) =>
        let ls := xs.filterMap id
        let missing := nlist - ls.length
        let sum (off : Nat) : Nat := (ls.map fun l => fld l.hd off 4).sum
        let flag (i : Nat) : Bool := ls.any fun l => bit (fld l.hd 0x0F 1) i
        let has (c : Nat) : Bool := ls.any fun l => fld l.hd 0x0E 1 == c
        let hits := ((ls.flatMap (·.hits)).foldl (fun hs h => (insHit h hs).take k) [])
        let vs := ls.map fun l => fld l.hd 4 4
        let version := vs.foldl min (vs.headD 0)
        let mixed := vs.any (· != version)
        let st : Status := if 0 < missing then .indet else if has 6 then .lost else if has 5 then .poison else if hits.length < k then .short else .ok
        let c : Counts := ⟨sum 0x10, sum 0x14, sum 0x18, sum 0x1C, sum 0x20, sum 0x24, sum 0x28, flag 0, flag 1⟩
        let word := match st with
          | .indet => 256 * missing
          | .ok => version + 2 ^ 32 * hits.length
          | _ => 0
        r.listOut e res ctr (listBytes qid version k 0xFFFF st mixed c ls.length missing hits) [] st word fun r =>
          (r.bump 0 0xC030 3).bumpBy 0 0xC030 7 (b2n (st == .short))

/-! ### `VS.CAST` (R308) -/

/-- Key under which a cast keeps the status of its source. -/
def kCast : Nat := 2 ^ 80 + 9

/-- `VS.CAST`. -/
def Run.vsCast (r : Run s₀) (e : Eng) (b : List Byte) : Run s₀ :=
  let src := fld b 0x10 8
  let off := fld b 0x18 8
  let lines := fld b 0x20 2
  let g := fld b 0x22 2
  let cw := fld b 0x24 2
  if e.cls < 2 || src % 64 != 0 || off % 64 != 0 || lines == 0 || 1024 < lines || 4096 ≤ g || (!bit cw 15 && cw != 0) || !zeroed b 0x26 64 then
    r.finish e.n .fault 0
  else if !(r.d.keptAt e.n kCast).isEmpty then
    r.finish e.n (Status.ofCode (leNat (r.d.keptAt e.n kCast))) (64 * lines)
  else match r.d.castCheck g e.part off lines with
    | some st => r.finish e.n st 0
    | none =>
      let (go, r) := r.engGate e (64 * lines)
      if !go then r
      else match r.lineRead e ((List.range lines).map fun i => src / 64 + i) with
        | (.wait, r) => r
        | (.fails c, r) => r.ends e.n c
        | (.ok (ls, lost, poison), r) =>
          let h : Hdr := { sword := e.sword, lines := BitVec.ofNat 16 lines, ctr := BitVec.ofNat 16 cw }
          let st := readSt lost poison
          let r := (r.keepAt e.n kCast [BitVec.ofNat 8 st.code]).updPair e.n fun p => { p with
            sent := p.sent + 1, worst := if st == .ok then p.worst else some (Compl.of st) }
          (r.castCopies (.pair e.n) e.part g off h (ls.map (·.2)) (.pair e.n)).2

end

/-- `VS.SEARCH` (R299). -/
def execVsSearch (n : Fin 1024) (s : State) : Host.Outcome State Fault Refusal :=
  ((Run.start s).op n 0x80 anyKind fun e b r => r.vsSearch e b).requestDone

/-- `VS.MERGE` (R309). -/
def execVsMerge (n : Fin 1024) (s : State) : Host.Outcome State Fault Refusal :=
  ((Run.start s).op n 0x81 anyKind fun e b r => r.vsMerge e b).requestDone

/-- `VS.CAST` (R308). -/
def execVsCast (n : Fin 1024) (s : State) : Host.Outcome State Fault Refusal :=
  ((Run.start s).op n 0x82 anyKind fun e b r => r.vsCast e b).requestDone

/-- `VS.PUBLISH` (R296). -/
def execVsPublish (n : Fin 1024) (s : State) : Host.Outcome State Fault Refusal :=
  ((Run.start s).op n 0x88 anyKind fun e b r => r.publish e b true idxCover).requestDone

/-- `VS.INFO` (R296). -/
def execVsInfo (n : Fin 1024) (s : State) : Host.Outcome State Fault Refusal :=
  ((Run.start s).op n 0x89 anyKind fun e b r => r.slotQuery e b true).requestDone

end Sys2Proof.Machine
end

