-- ==== Sys2Proof/Machine/Attention.lean ====
section
/-!
DEFINITION. Decode attention and KV caches (chapter 12): pool records, `ATTEND.DECODE` with its append, `KV.PROBE`.
-/

namespace Sys2Proof.Machine

/-- A pool record (Table 12-1). -/
structure Pool where
  ktype : Nat
  hkv   : Nat
  layers : Nat
  hdim  : Nat
  bt    : Nat
  blocks : Nat
  base  : Nat
  lpitch : Nat
  bpitch : Nat
deriving DecidableEq, Repr

/-- Is KTYPE an FP8 type? -/
def Pool.fp8 (p : Pool) : Bool := p.ktype == 0x0C || p.ktype == 0x0D
/-- Bytes of a row of one head. -/
def Pool.row (p : Pool) : Nat := p.hdim * eBytes p.ktype
/-- SB: bytes of the scale lines. -/
def Pool.sb (p : Pool) : Nat := if p.fp8 then Wio.up (8 * p.hkv) 64 else 0

/-- Read a pool record; none where it breaks R312. -/
def poolOf (b : List Byte) : Option Pool :=
  let p : Pool := ⟨fld b 3 1, fld b 4 1, fld b 5 1, fld b 6 2, fld b 8 2, fld b 0x0C 4, fld b 0x10 8, fld b 0x18 4, fld b 0x1C 4⟩
  if fld b 0 2 == 0x4B56 && fld b 2 1 == 1 && 0x0A ≤ p.ktype && p.ktype ≤ 0x0D && 1 ≤ p.hkv && p.hkv ≤ 64 && 1 ≤ p.layers
      && 32 ≤ p.hdim && p.hdim ≤ 512 && p.row % 64 == 0 && (p.bt == 16 || p.bt == 32 || p.bt == 64 || p.bt == 128) && fld b 0x0A 2 == 0
      && 1 ≤ p.blocks && p.blocks < 2 ^ 31 && p.base % 64 == 0 && p.lpitch % 64 == 0 && 2 * p.hkv * p.bt * p.row + p.sb ≤ p.lpitch
      && p.bpitch % 64 == 0 && p.layers * p.lpitch ≤ p.bpitch && zeroed b 0x20 64 then some p
  else none

/-- Layer part of a block (R313). -/
def Pool.part (p : Pool) (blk layer : Nat) : Nat := p.base + blk * p.bpitch + layer * p.lpitch
/-- Key row of head `g`, slot `t`. -/
def Pool.key (p : Pool) (at_ g t : Nat) : Nat := at_ + (g * p.bt + t) * p.row
/-- Value row. -/
def Pool.val (p : Pool) (at_ g t : Nat) : Nat := at_ + (p.hkv + g) * p.bt * p.row + t * p.row
/-- Scales of head `g`. -/
def Pool.scales (p : Pool) (at_ g : Nat) : Nat := at_ + 2 * p.hkv * p.bt * p.row + 8 * g

/-- The body of `ATTEND.DECODE` (Table 12-3). -/
structure Att where
  pool  : Nat
  btab  : Nat
  qbuf  : Nat
  out   : Nat
  t     : Nat
  layer : Nat
  group : Nat
  append : Bool
  lse   : Bool
  otype : Nat
  window : Nat
  ctr   : Option Nat
deriving DecidableEq, Repr

/-- Read the body; none where it breaks a rule that needs no pool record (R316, R317). -/
def attOf (e : Eng) (b : List Byte) : Option Att :=
  let fl := fld b 0x36 1
  let cw := fld b 0x3C 2
  let x : Att := ⟨fld b 0x10 8, fld b 0x18 8, fld b 0x20 8, fld b 0x28 8, fld b 0x30 4, fld b 0x34 1, fld b 0x35 1, bit fl 0, bit fl 1, bits fl 2 2,
    fld b 0x38 4, if bit cw 15 then some (bits cw 0 15) else none⟩
  if 2 ≤ e.cls && x.pool % 64 == 0 && x.btab % 64 == 0 && x.qbuf % 64 == 0 && x.out % 64 == 0 && 1 ≤ x.t && x.t ≤ 4194304 && 1 ≤ x.group
      && x.group ≤ 16 && x.otype < 3 && fl < 16 && fld b 0x37 1 == 0 && (bit cw 15 || cw == 0) && fld b 0x3E 2 == 0 then some x
  else none

/-- V: visible tokens. -/
def Att.v (x : Att) : Nat := if x.window == 0 then x.t else min x.t x.window

/-- A head's query as the matrix unit takes it: its elements and the scale qs (FP32). -/
structure QHead where
  q  : List TE
  qs : Nat

/-- Convert a query row to KTYPE: for FP8 with one scale (R319, R238). -/
def qHead (p : Pool) (xs : List Nat) : QHead :=
  if p.fp8 then
    let t := (elem? (if p.ktype == 0x0C then 0x10 else 0x11)).getD { code := 0x10, k := .mx E4M3, w := 8, unit := 32, per := 32 }
    let (sc, vs) := mxPack t (xs.map F32.dec)
    ⟨vs.map fun v => { v := v }, if sc == 255 then F32.enc false (freeNan sc 0) else F32.enc false (.fin false 1 ((sc : Int) - 127))⟩
  else
    let f := if p.ktype == 0x0A then BF16 else F16
    ⟨xs.map fun x => { v := F32.conv f x }, 0⟩

/-- A token of one head as it was read: its key and value elements and its block's scales. -/
structure KV where
  k  : List TE
  v  : List TE
  ks : Nat
  vs : Nat

/-- s of a token (R319). -/
def score (p : Pool) (t : Elem) (scale : Nat) (q : QHead) (x : KV) : Nat :=
  let d := accSteps t t (if p.fp8 then 8 else 4) p.hdim (q.q.zip x.k) 0
  F32.mul scale (if p.fp8 then F32.mul (F32.mul q.qs x.ks) d else d)

/-- A chunk's result (m, l, o): blocks of tokens in ascending position (R320). -/
def chunk (p : Pool) (t : Elem) (scale : Nat) (q : QHead) (blocks : List (List KV)) : Nat × Nat × List Nat :=
  let ss := blocks.map fun b => b.map fun x => (score p t scale q x, x)
  let all := ss.flatten.map (·.1)
  let m := (all.drop 1).foldl F32.maximum (all.headD 0)
  let ws := ss.map fun b => b.map fun y => (exp32 (F32.sub y.1 m), y.2)
  let wl := ws.flatten.map (·.1)
  let l := (wl.drop 1).foldl F32.add (wl.headD 0)
  let wt : Elem := if p.fp8 then { code := 0x0C, k := .flt E4M3, w := 8, unit := 1 } else t
  let wf : Fmt := if p.fp8 then E4M3 else if p.ktype == 0x0A then BF16 else F16
  let o := (List.range p.hdim).map fun i =>
    ws.foldl (fun acc b =>
      let ps := b.map fun y => (({ v := F32.conv wf (if p.fp8 then F32.mul y.1 0x43800000 else y.1) } : TE), y.2.v.getD i { v := 0 })
      let d := accSteps wt t (if p.fp8 then 8 else 4) ps.length ps 0
      let vs := match b with | y :: _ => y.2.vs | [] => 0
      F32.add acc (if p.fp8 then F32.mul (F32.mul vs 0x3B800000) d else d)) 0
  (m, l, o)

/-- Combine chunks in ascending order (R321): m, l and the output. -/
def combineChunks (hdim : Nat) (cs : List (Nat × Nat × List Nat)) : Nat × Nat × List Nat :=
  let ms := cs.map (·.1)
  let m := (ms.drop 1).foldl F32.maximum (ms.headD 0)
  let (l, o) := cs.foldl (fun (a : Nat × List Nat) c =>
    let f := exp32 (F32.sub c.1 m)
    (F32.add a.1 (F32.mul f c.2.1), (List.range hdim).map fun i => F32.add (a.2.getD i 0) (F32.mul f (c.2.2.getD i 0)))) (0, List.replicate hdim 0)
  let k := recip32 l
  (m, l, o.map fun x => F32.mul x k)

/-- What an operation works on: body, pool, number of heads, visible blocks (index in the table, block number). -/
structure AttW where
  x   : Att
  p   : Pool
  hq  : Nat
  vis : List (Nat × Nat)
  qb  : List Byte

/-- First visible position. -/
def AttW.first (w : AttW) : Nat := w.x.t - w.x.v

/-- Visible slots of table entry `i`. -/
def AttW.slots (w : AttW) (i : Nat) : List Nat :=
  let lo := max w.first (i * w.p.bt)
  let hi := min w.x.t ((i + 1) * w.p.bt)
  (List.range (hi - lo)).map fun j => lo + j - i * w.p.bt

/-- Pitch of a query row. -/
def AttW.qPitch (w : AttW) : Nat := Wio.up (w.p.hdim * eBytes (fld w.qb 2 1)) 64

/-- Numbers of the lines of a run of bytes. -/
def lineNos (a len : Nat) : List Nat := (List.range ((a + len + 63) / 64 - a / 64)).map (a / 64 + ·)

/-- Lines that head `g` reads of a visible block. -/
def AttW.headLines (w : AttW) (g : Nat) (v : Nat × Nat) : List Nat :=
  let at_ := w.p.part v.2 w.x.layer
  ((w.slots v.1).flatMap fun t => lineNos (w.p.key at_ g t) w.p.row ++ lineNos (w.p.val at_ g t) w.p.row)
    ++ (if w.p.fp8 then lineNos (w.p.scales at_ g) 8 else [])

/-- The tokens of head `g` in a visible block, from the lines read. -/
def AttW.tokens (w : AttW) (ls : List (Nat × DLine)) (g : Nat) (v : Nat × Nat) : List KV :=
  let at_ := w.p.part v.2 w.x.layer
  let t := (elem? w.p.ktype).getD { code := 8, k := .flt F32, w := 32, unit := 4 }
  let row (a : Nat) : List TE := (List.range w.p.hdim).map fun i => { v := (bytesIn ls (a + i * t.unit) t.unit).1 }
  let sc (i : Nat) : Nat := if w.p.fp8 then (bytesIn ls (w.p.scales at_ g + 4 * i) 4).1 else 0
  (w.slots v.1).map fun s => ⟨row (w.p.key at_ g s), row (w.p.val at_ g s), sc 0, sc 1⟩

/-- The output row of query head `h` and its (m, l). -/
def AttW.head (w : AttW) (ls : List (Nat × DLine)) (h : Nat) : Nat × Nat × List Nat :=
  let t := (elem? w.p.ktype).getD { code := 8, k := .flt F32, w := 32, unit := 4 }
  let qt := (elem? (fld w.qb 2 1)).getD { code := 8, k := .flt F32, w := 32, unit := 4 }
  let g := h / w.x.group
  let q := qHead w.p ((List.range w.p.hdim).map fun i => qt.f32 { v := fld w.qb (0x40 + h * w.qPitch + i * qt.unit) qt.unit })
  let nb := w.vis.length
  let n := min 256 nb
  let cs := (List.range n).map fun c =>
    let mine := (w.vis.zipIdx.filter fun v => v.2 * n / nb == c).map (·.1)
    chunk w.p t (fld w.qb 4 4) q (mine.map fun v => w.tokens ls g v)
  combineChunks w.p.hdim cs

section
variable {s₀ : State}

/-- Take further pairs for an operation on pair `n`, each in another slice, as far as the partition's share goes (R320). -/
def Run.takePairs (r : Run s₀) (n part : Nat) : Nat → List Nat → Run s₀
  | 0, _ => r
  | _, [] => r
  | k + 1, s :: ss =>
    match ((List.range 4).map (4 * s + ·)).find? fun m => r.d.pairFree m with
    | some m =>
      if s != n / 4 && r.d.inShare part then
        Run.takePairs (r.mod fun d => { d with pairs := d.pairs.set m { d.pair m with helps := some n } }) n part k ss
      else Run.takePairs r n part (k + 1) ss
    | none => Run.takePairs r n part (k + 1) ss

/-- Key under which an operation keeps that its start was checked (R318). -/
def kAtt : Nat := 2 ^ 80 + 10

/-- Does a run of bytes lie in extents homed here (R318)? -/
def Dev.homedRun (d : Dev) (a len : Nat) : Bool :=
  a + len ≤ 2 ^ 62 && (List.range (extentOf (a + len - 1) - extentOf a + 1)).all fun i => d.homed (extentOf a + i)

/-- The checks of R315, R317 and R318; then the query buffer. -/
def Run.attStart (r : Run s₀) (e : Eng) (b : List Byte) (k : AttW → Run s₀ → Run s₀) : Run s₀ :=
  match attOf e b with
  | none => r.finish e.n .fault 0
  | some x =>
    match r.engKeep e x.pool 64 with
    | (.wait, r) => r
    | (.fails c, r) => r.ends e.n c
    | (.ok pb, r) =>
      match poolOf pb with
      | none => r.finish e.n .fault 0
      | some p =>
        let hq := p.hkv * x.group
        if p.layers ≤ x.layer || 256 < hq || 16384 < hq * p.hdim then r.finish e.n .fault 0
        else
          let i0 := (x.t - x.v) / p.bt
          let i1 := (x.t - 1) / p.bt
          match r.engBytes e (x.btab + 4 * i0) (4 * (i1 - i0 + 1)) with
          | (.wait, r) => r
          | (.fails c, r) => r.ends e.n c
          | (.ok tb, r) =>
            let ents := (List.range (i1 - i0 + 1)).map fun j => (i0 + j, fld tb (4 * j) 4)
            let vis := ents.map fun y => (y.1, y.2 % 2 ^ 31)
            let shared := x.append && (match ents.getLast? with | some y => 2 ^ 31 ≤ y.2 | none => false)
            if vis.any (fun y => p.blocks ≤ y.2) || shared then r.finish e.n .fault 0
            else match r.engKeep e x.qbuf 64 with
              | (.wait, r) => r
              | (.fails c, r) => r.ends e.n c
              | (.ok qh, r) =>
                let qt := fld qh 2 1
                if fld qh 0 2 != 0x4B51 || !(qt == 8 || qt == 0x0A) || fld qh 3 1 != 0 || !zeroed qh 8 64 then r.finish e.n .fault 0
                else
                  let len := 0x40 + hq * Wio.up (p.hdim * eBytes qt) 64 + (if x.append then 2 * p.hkv * p.row else 0)
                  match r.engKeep e x.qbuf len with
                  | (.wait, r) => r
                  | (.fails c, r) => r.ends e.n c
                  | (.ok qb, r) =>
                    match r.engXlate e 0 (x.pool :: (lineNos (x.btab + 4 * i0) (4 * (i1 - i0 + 1))).map (64 * ·)) with
                    | (.wait, r) => r
                    | (.fails c, r) => r.ends e.n c
                    | (.ok tos, r) =>
                      let home := tos.all (fun a => r.d.homedRun a 64) && vis.all fun y => r.d.homedRun (p.part y.2 0) p.bpitch
                      if (r.d.keptAt e.n kAtt).isEmpty && !home then r.finish e.n .fault 0
                      else k ⟨x, p, hq, vis, qb⟩ (r.keepAt e.n kAtt [1])

/-- The writes of an append (R323). -/
def AttW.appends (w : AttW) : List EWr :=
  match w.vis.getLast? with
  | none => []
  | some (_, blk) =>
    let at_ := w.p.part blk w.x.layer
    let slot := (w.x.t - 1) % w.p.bt
    let new (i : Nat) : List Byte := (w.qb.drop (0x40 + w.hq * w.qPitch + i * w.p.row)).take w.p.row
    (List.range w.p.hkv).flatMap fun g => bytesWr (w.p.key at_ g slot) (new g) ++ bytesWr (w.p.val at_ g slot) (new (w.p.hkv + g))

/-- The bytes of the output (R322): rows, then (m, l) pairs; poisoned where a head is. -/
def AttW.outLines (w : AttW) (n : Nat) (rows : List (Bool × Nat × Nat × List Nat)) : Tab LineW :=
  let (f, sz) : Fmt × Nat := match w.x.otype with | 0 => (F32, 4) | 1 => (BF16, 2) | _ => (F16, 2)
  let pitch := Wio.up (w.p.hdim * sz) 64
  let t := rows.zipIdx.foldl (fun t y =>
    let bs := (y.1.2.2.2.map fun v => leBytes sz (F32.conv f v)).flatten
    putBytes 0 t (w.x.out + y.2 * pitch) bs.length (leNat bs) y.1.1) []
  if !w.x.lse then t
  else
    let a := w.x.out + w.hq * pitch
    let t := rows.zipIdx.foldl (fun t y => putBytes 0 t (a + 8 * y.2) 8 (y.1.2.1 + 2 ^ 32 * y.1.2.2.1) y.1.1) t
    (List.range (Wio.up (8 * w.hq) 64 - 8 * w.hq)).foldl (fun t i => putByte 0 t (a + 8 * w.hq + i) (Config.freeByte n i).toNat false) t

/-- Read, attend, combine, write (R319-R322, R324, R325). -/
def Run.attend (r : Run s₀) (e : Eng) (w : AttW) : Run s₀ :=
  let lines := ((List.range w.p.hkv).flatMap fun g => w.vis.flatMap fun v => w.headLines g v).dedup
  match r.lineRead { e with virt := false } lines with
  | (.wait, r) => r
  | (.fails c, r) => r.ends e.n c
  | (.ok (ls, lost, _), r) =>
    let badG := (List.range w.p.hkv).map fun g => w.vis.any fun v => (w.headLines g v).any fun l => (lineIn ls l).poison
    let rows := (List.range w.hq).map fun h => (badG.getD (h / w.x.group) false, w.head ls h)
    let (n, r) := r.draw
    match r.linesOut e (w.outLines n rows) with
    | (.wait, r) => r
    | (.fails c, r) => r.ends e.n c
    | (.ok ws, r) =>
      let nb := w.vis.length
      let nc := min 256 nb
      let p := 1 + (r.d.pairs.filter fun y => y.2.helps == some e.n).length
      let st := readSt lost (badG.any id)
      let bytes := w.x.v * w.p.hkv * 2 * w.p.row + nb * w.p.sb
      r.opEnd e w.x.ctr [ws] st (w.x.v + 2 ^ 32 * nc + 2 ^ 41 * p) [] fun r =>
        let r := ((r.bump 0 0xC040 1).bumpBy 0 0xC040 2 w.x.v).bumpBy 0 0xC040 3 bytes
        (r.bumpBy 0 0xC040 6 (rows.filter (·.1)).length).bumpBy 0 0xC040 7 (b2n (p < nc))

/-- `ATTEND.DECODE`. -/
def Run.attendDecode (r : Run s₀) (e : Eng) (b : List Byte) : Run s₀ :=
  r.attStart e b fun w r =>
    let nb := w.vis.length
    let (go, r) := r.engGate e (w.qb.length + w.x.v * w.p.hkv * 2 * w.p.row + nb * w.p.sb)
    if !go then r
    else
      let r := if (r.d.keptAt e.n kAtt).length == 1 then
          ((r.takePairs e.n e.part (min 256 nb - 1) (List.range 256)).keepAt e.n kAtt [1, 1]).showRunning e.part
        else r
      if w.x.append && (r.d.pair e.n).phase == 1 then
        match r.engMay e w.appends none with
        | (.wait, r) => r
        | (.fails c, r) => r.ends e.n c
        | (.ok away, r) =>
          let r := ((r.engStore e w.appends none away).phaseTo e.n 2).bump 0 0xC040 4
          if (r.d.pair e.n).sent == 0 && (match (r.d.pair e.n).worst with | some c => c.status == .ok | none => true) then r.attend e w else r
      else r.attend e w

/-! ### `KV.PROBE` (R327) -/

/-- `KV.PROBE`. -/
def Run.kvProbe (r : Run s₀) (e : Eng) (b : List Byte) : Run s₀ :=
  let nblk := fld b 0x20 4
  let res := fld b 0x28 8
  if e.cls < 2 || fld b 0x10 8 % 64 != 0 || fld b 0x18 8 % 64 != 0 || nblk == 0 || 262144 < nblk || fld b 0x24 4 != 0 || res % 64 != 0 || !zeroed b 0x30 64 then
    r.finish e.n .fault 0
  else match r.engKeep e (fld b 0x10 8) 64 with
    | (.wait, r) => r
    | (.fails c, r) => r.ends e.n c
    | (.ok pb, r) =>
      match poolOf pb with
      | none => r.finish e.n .fault 0
      | some p =>
        match r.engBytes e (fld b 0x18 8) (4 * nblk) with
        | (.wait, r) => r
        | (.fails c, r) => r.ends e.n c
        | (.ok tb, r) =>
          let blks := (List.range nblk).map fun i => fld tb (4 * i) 4 % 2 ^ 31
          let gs (blk : Nat) : List (Option GEnt) :=
            let a := p.base + blk * p.bpitch
            (List.range (granuleOf (a + p.bpitch - 1) - granuleOf a + 1)).map fun j => r.d.gran.get? (granuleOf a + j)
          if blks.any (fun k => p.blocks ≤ k) || (blks.flatMap gs).any Option.isNone then r.finish e.n .fault 0
          else if (blks.flatMap gs).any (fun g => match g with | some g => g.part != e.part | none => false) then r.finish e.n .denied 0
          else
            let kind (blk : Nat) : Nat :=
              let gs := (gs blk).filterMap id
              if gs.any fun g => g.state == 2 then 3 else if gs.any fun g => g.state == 1 || g.state == 3 then 2
              else if gs.any fun g => g.tier == 2 then 1 else 0
            let ks := blks.map kind
            let n (k : Nat) : List Byte := leBytes 4 (ks.countP (· == k))
            let first := match ks.zipIdx.find? fun k => k.1 == 1 with | some k => k.2 | none => 0xFFFFFFFF
            r.one e 1 res fun at_ r => r.finish e.n .ok 0 [(at_, n 0 ++ n 1 ++ n 2 ++ n 3 ++ leBytes 4 first ++ zeros 44)]

end

/-- `ATTEND.DECODE` (R316). -/
def execAttendDecode (n : Fin 1024) (s : State) : Host.Outcome State Fault Refusal :=
  ((Run.start s).op n 0x90 anyKind fun e b r => r.attendDecode e b).requestDone

/-- `KV.PROBE` (R327). -/
def execKvProbe (n : Fin 1024) (s : State) : Host.Outcome State Fault Refusal :=
  ((Run.start s).op n 0x91 anyKind fun e b r => r.kvProbe e b).requestDone

end Sys2Proof.Machine
end

