-- ==== Sys2Proof/Machine/Partitions.lean ====
section
/-!
DEFINITION. Partitions (chapter 14): activation, reset and release, event routes, block owners, identities, revocation and
grant of extents, and the resets of a port, a slice and a cluster. What a dictionary write does answers its status by the
object's own rule (Table 19-4, reason RULE); the session's part is in Nybor.lean.
-/

namespace Sys2Proof.Machine

section
variable {s₀ : State}

/-! ### Owners of blocks (R346) -/

/-- A released counter block: its counters are set to VALUE 0 and MODE bytes, waits on them end `LATE`, doorbells on them are
gone (R346). -/
def Run.clearCtrBlock (r : Run s₀) (b : Nat) : Run s₀ :=
  let mine (n : Nat) : Bool := n / 16 == b
  let ws := r.d.waits.filter fun w => mine w.2.ctr
  let r := r.each ws fun r w =>
    (r.mod fun d => { d with waits := d.waits.del w.1 }).finish w.1 .late 0 (outAt w.2.result (r.d.ctr w.2.ctr).result)
  let bells := r.d.obj.filter fun o => bits o.1 12 12 == 0x604 && bits o.1 0 8 == 7 && mine o.2
  let r := r.mod fun d => { d with obj := bells.foldl (fun t o => t.set o.1 0xFFFF) d.obj }
  r.mod fun d => { d with ctrs := ((List.range 16).map (16 * b + ·)).foldl (fun t n => t.set n { d.ctr n with value := 0, mode := 0, arm := none }) d.ctrs }

/-- A write of a counter block's owner. -/
def Run.ctrBlock (r : Run s₀) (b v : Nat) : Status × Run s₀ :=
  if v == 0xFFFF then (.ok, (r.clearCtrBlock b).mod fun d => { d with ctrOwn := d.ctrOwn.set b 0xFFFF })
  else if r.d.ctrOwn.getD b 0 != 0xFFFF then (.busy, r)
  else (.ok, r.mod fun d => { d with ctrOwn := d.ctrOwn.set b v })

/-- A write of a cast block's owner. -/
def Run.castBlock (r : Run s₀) (b v : Nat) : Status × Run s₀ :=
  if v == 0xFFFF then (.ok, r.mod fun d => { d with
    castOwn := d.castOwn.set b 0xFFFF, casts := d.casts.keep fun g _ => g / 16 != b })
  else if r.d.castOwn.getD b 0 != 0xFFFF then (.busy, r)
  else (.ok, r.mod fun d => { d with castOwn := d.castOwn.set b v })

/-- A write of an identity's partition (R345): on a port of role 2 every bound identity has the same one. -/
def Run.identity (r : Run s₀) (p i v : Nat) : Status × Run s₀ :=
  let others := r.d.identP.filter fun e => e.1 / 128 == p && e.1 != p * 128 + i
  if v == 0xFFFF then (.ok, r.mod fun d => { d with identP := d.identP.del (p * 128 + i) })
  else if r.d.role p == 2 && others.any fun e => e.2 != v then (.denied, r)
  else (.ok, r.mod fun d => { d with identP := d.identP.set (p * 128 + i) v })

/-! ### Routes (R349, R350) -/

/-- May a partition install this route word (R350)? -/
def Dev.routeOk (d : Dev) (part w : Nat) : Bool :=
  let kind := bits w 0 2
  let vec := bits w 2 11
  let hart := bits w 13 5
  let file := bits w 18 3
  let ident := bits w 21 8
  let ctr := bits w 29 15
  let dev := bits w 44 14
  let fn := d.o part 0x6050 2
  bits w 58 6 == 0
    && (kind == 1 || vec == 0) && (kind == 2 || (hart == 0 && file == 0 && ident == 0)) && (kind == 3 || (ctr == 0 && dev == 0))
    && (kind != 1 || vecFunc vec == 0 || vecFunc vec == fn)
    && (kind != 2 || (ident != 0 && d.corePart (hart / 4) (hart % 4) == part))
    && (kind != 3 || dev != d.self || d.ctrOwner ctr == part)

/-- A write of a route word. -/
def Run.routeWrite (r : Run s₀) (part sub w : Nat) : Status × Run s₀ :=
  if r.d.routeOk part w then (.ok, r.setO part 0x6060 sub w) else (.denied, r)

/-! ### Queues (R143, R215, R216) -/

/-- A write of a queue's ring base: 0 turns it off, anything else on; it leaves states 2 and 3. A ring that already holds more
than its entries overruns at once. -/
def Run.ringBase (r : Run s₀) (part q a : Nat) : Status × Run s₀ :=
  let idx := 0x6040 + q
  let r := (r.setO part idx 1 a).setO part idx 0x0D (if a == 0 then 0 else 1)
  let bell := r.d.o part idx 7
  if a == 0 || bell == 0xFFFF then (.ok, r)
  else
    let (as, r) := r.overrun bell
    (.ok, r.act as)

/-- A write of a queue's doorbell counter: it must be the partition's own; it is set to VALUE 0 and MODE events (R143). -/
def Run.doorbellCtr (r : Run s₀) (part q c : Nat) : Status × Run s₀ :=
  if r.d.o part (0x6040 + q) 1 != 0 then (.busy, r)
  else if c == 0xFFFF then (.ok, r.setO part (0x6040 + q) 7 c)
  else if r.d.ctrOwner c != part then (.denied, r)
  else (.ok, (r.setO part (0x6040 + q) 7 c).setCtr c { r.d.ctr c with value := 0, mode := 2 })

/-! ### A partition's flash key (R462, R465) -/

/-- Extend a measurement: M = SHAKE256(M ‖ record) (R462). -/
def Run.extendM (r : Run s₀) (i : Nat) (rec_ : List Byte) : Run s₀ :=
  r.mod fun d => { d with meas := d.meas.set i (Config.shake512 (leBytes 64 (d.meas.getD i 0).toNat ++ rec_)) }

/-- A partition's flash key is cleared, recorded in M5. -/
def Run.keyClear (r : Run s₀) (part : Nat) : Run s₀ :=
  if !r.d.keys.has part then r
  else (r.extendM 5 (leBytes 1 part ++ leBytes 1 2 ++ leBytes 8 (r.d.keyIds.getD part 0))).mod fun d =>
    { d with keys := d.keys.del part, keyIds := d.keyIds.del part }

/-- The keys of free partitions are cleared, but for those whose T2 pointing copies this device holds (R465). -/
def Run.keysTidy (r : Run s₀) : Run s₀ :=
  let ps := (r.d.keys.filter fun k => r.d.partState k.1 == 0 && !r.d.copies.any fun c => c.2.part == k.1 && c.2.tier == 2).map Prod.fst
  r.each ps Run.keyClear

/-! ### Partition reset and release (R353, R354) -/

/-- The pairs that run chains of a partition. -/
def Dev.pairsOf (d : Dev) (part : Nat) : List Nat :=
  (d.pairs.filter fun p => match p.2.chain with | some c => c.part == part | none => false).map (·.1)

/-- Chains stop where they are: they issue nothing more, and no record is written for them. -/
def Run.stopChains (r : Run s₀) (ns_ : List Nat) : Run s₀ :=
  r.each ns_ fun r n => r.updPair n fun p => { p with chain := p.chain.map fun c => { c with ended := true } }

/-- The credits that satisfy `f` are cancelled, and harts that wait on them go on without. -/
def Run.cancelCredits (r : Run s₀) (f : Credit → Bool) : Run s₀ :=
  let cs := (r.d.credits.filter fun c => f c.2).map (·.1)
  let r := r.each cs Run.dropCredit
  r.mod fun d => { d with harts := d.harts.map fun h => (h.1, if (h.2.credit.map cs.contains).getD false then { h.2 with credit := none } else h.2) }

/-- Start a reset or a release: steps 1 and 2. -/
def Run.partStart (r : Run s₀) (part : Nat) (release : Bool) : Run s₀ :=
  let r := r.setO part 0x6050 1 (if release then 3 else 2)
  let r := (r.cancelCredits fun c => c.part == part).stopChains (r.d.pairsOf part)
  r.mod fun d => { d with resets := d.resets.set part release }

/-- A command to a partition (R353, R354). -/
def Run.partCommand (r : Run s₀) (part v : Nat) : Status × Run s₀ :=
  let st := r.d.partState part
  if r.d.resets.has part then (.busy, r)
  else if v == 1 then (if st == 0 then (.ok, r.setO part 0x6050 1 1) else (.busy, r))
  else if v == 3 && part == 0 then (.denied, r)
  else if st != 1 then (.busy, r)
  else if v == 3 && r.d.gran.any (fun g => g.2.part == part && !r.d.revoked.contains (g.1 / 512)) then (.busy, r)
  else (.ok, r.partStart part (v == 3))

/-- Requests of a partition admitted and not yet complete (R353 step 3); those that wait to leave for another device among them. -/
def Dev.partBusy (d : Dev) (part : Nat) : Bool :=
  d.jobs.any (fun j => j.2.part == some part) || d.origs.any (fun o => o.2.part == part) || d.after.any (fun x => x.part == part)
    || d.txns.any (fun t => match t.2.kind with | .coh _ _ _ p => p == part | _ => false)
    || d.fences.any (fun f => f.part == part && (srcPort f.src).isSome)
    || (d.pairsOf part).any fun n => 0 < (d.pair n).sent || d.tileUnder n

/-- Step 4: the clearing. -/
def Run.partClear (r : Run s₀) (part : Nat) : Run s₀ :=
  let ps := r.d.pairsOf part
  let r := r.each (r.d.fents.filter fun e => e.2.part == part) fun r e => r.failEntry e.1 e.2
  let again := r.d.again
  let mine (q : Parked) : Bool := match q with
    | .port p _ h _ _ => r.d.partOf (r.d.fabric p) { p := p, code := 0, h := h } == some part
    | .pair n => ps.contains n
  let r := r.mod fun d => { d with
    again := d.again.filter fun q => !mine q
    walks := d.walks.filter fun w => w.part != part }
  let r := r.each (again.filter mine) fun r q => match q with
    | .port p code h data _ => r.answerAt { p := p, code := code, h := h, data := data } (Compl.of .fault)
    | .pair _ => r
  let r := (r.setO part 0x6020 4 0).setO part 0x6020 5 0
  let r := r.each (r.d.relief.filter fun e => e.2.part == part) fun r e => r.releaseRelief e.1
  let lo := r.d.o part 0x6050 3
  let r := (r.dropScope { at_ := r.now, dropped := 0, lo := lo, hi := lo + r.d.o part 0x6050 4, pages := none }).2
  let bells := (List.range 16).map fun q => r.d.o part (0x6040 + q) 7
  let r := r.mod fun d => { d with
    ctrs := d.ctrs.map fun c => (c.1, if d.ctrOwner c.1 == part then
      { c.2 with value := 0, arm := none, mode := if bells.contains c.1 then 2 else 0 } else c.2)
    places := d.places.keep fun n _ => !ps.contains n
    inval := d.inval.keep fun n _ => !ps.contains n
    fences := d.fences.filter fun f => !(match f.src with | .pair n => ps.contains n | _ => false) }
  let r := r.each (List.range 16) fun r q => (r.setO part (0x6040 + q) 0x0A 0).setO part (0x6040 + q) 0x0B 0
  r.each ps Run.endChain

/-- Step 5: moves of the partition's granules and extents are abandoned; open phase records become suspect extents (R209). -/
def Run.partMoves (r : Run s₀) (part : Nat) : Run s₀ :=
  let es := r.d.exts.filter fun x => x.2.part == part && x.2.phase ≤ 3
  let ph := r.d.phases.filter fun p => p.2.part == part && p.2.phase < 255 && !es.any fun x => x.1 * 2 ^ 30 == p.2.target
  let r := r.each es fun r x => r.extAbandon x.1 .denied false
  let ms := r.d.moves.filter fun m => !m.2.outbound && (match r.d.gran.get? m.1 with | some g => g.part == part | none => false)
  let r := r.each ms fun r m => r.moveAbandon m.1 m.2
  let r := r.each ph fun r p => r.suspect (p.2.target / 2 ^ 30) part p.2.op p.2.phase p.2.reqid
  (r.mod fun d => { d with phases := d.phases.map fun p =>
    (p.1, if ph.any (fun q => q.1 == p.1) then p.2.inPhase 255 else p.2) }).countPhases

/-- The objects of a partition that a release sets to their defaults: routes, shares, guaranteed pairs, ASID range, quotas. -/
def partDefaults (key : Nat) : Bool :=
  let idx := bits key 8 16
  let sub := bits key 0 8
  (idx == 0x6060 && sub != 0x16) || (idx == 0x6010 && sub ≤ 7) || (idx == 0x6030 && sub == 1)
    || (idx == 0x6050 && 3 ≤ sub && sub ≤ 6)

/-- What a release does beyond a reset (R354). -/
def Run.partFree (r : Run s₀) (part : Nat) : Run s₀ :=
  let go (ix : Bool) (r : Run s₀) : Run s₀ :=
    r.each ((r.d.slots ix).filter fun e => e.2.owner == part) fun r e => r.setSlot ix e.1 none
  let r := go true (go false r)
  let blocks := (List.range 2048).filter fun b => r.d.ctrOwn.getD b 0 == part
  let r := r.each blocks fun r b => (r.ctrBlock b 0xFFFF).2
  let r := r.each ((List.range 256).filter fun b => r.d.castOwn.getD b 0 == part) fun r b => (r.castBlock b 0xFFFF).2
  let r := r.each (List.range 8) fun r k => r.each (List.range 4) fun r c =>
    if r.d.corePart k c == part then r.setO (256 + k) 0x5110 (c + 1) 0 else r
  let r := r.each (List.range 16) fun r q => (r.setO part (0x6040 + q) 1 0).setO part (0x6040 + q) 0x0D 0
  (r.mod fun d => { d with
    identP := d.identP.keep fun _ v => v != part
    obj := d.obj.keep fun k _ => !(k / 16777216 == part && partDefaults k) }).setO part 0x6050 1 0 |>.keysTidy

/-- The drain has ended (R353 steps 4 to 6, R354); nothing while admitted requests of the partition are open. -/
def Run.partDrained (r : Run s₀) (part : Nat) : Run s₀ :=
  match r.d.resets.get? part with
  | none => r
  | some release =>
    if r.d.partBusy part then r
    else
      let r := (r.partClear part).partMoves part
      let r := r.mod fun d => { d with resets := d.resets.del part }
      let r := ((r.setO part 0x6050 1 1).bump part 0x6070 6).event part 0x15
      if release then r.partFree part else r

/-! ### Revocation and grant (R359-R363) -/

/-- The class bound of an admitted request (R99) in picoseconds: none for class G. -/
def classBound (cls : Nat) : Option Nat :=
  match cls with
  | 0 => some (us 1)
  | 1 => some (us 2)
  | 2 => some (us 150)
  | _ => none

/-- The requests of an extent admitted and not yet complete: jobs, and open coherence transactions (R360). -/
def Dev.admittedFor (d : Dev) (e : Nat) : List Nat :=
  (d.jobs.filter fun j => extentOf j.2.addr == e).map (·.1)

/-- Open coherence transactions on lines of an extent. -/
def Dev.cohFor (d : Dev) (e : Nat) : Nat :=
  (d.txns.filter fun t => extentOf (t.1 * 64) == e && (match t.2.kind with | .coh .. => true | _ => false)).length

/-- The drain count of a partition's revocation (0x6070:05). -/
def Dev.drainCount (d : Dev) (part : Nat) : Nat :=
  (d.revokes.filter fun v => v.2.part == part && !v.2.done).map (fun v => v.2.jobs.length + d.cohFor v.1) |>.sum

/-- Granule moves of an extent are abandoned and their operations end `FAULT`; so is an extent move in phases 1 to 3 (R361). -/
def Run.revokeMoves (r : Run s₀) (e : Nat) : Run s₀ :=
  let ms := r.d.moves.filter fun m => m.1 / 512 == e && !m.2.outbound
  let owners := (ms.filterMap fun m => m.2.owner).dedup
  let r := r.each owners fun r n => r.updPlace (some n) fun o => { o with todo := [], fail := some .fault }
  let r := r.each ms fun r m => match r.d.moves.get? m.1 with | some m' => r.moveAbandon m.1 m' | none => r
  match r.d.exts.get? e with
  | some x => if x.phase ≤ 3 then r.extAbandon e .fault false else r
  | none => r

/-- A write of 0x6070:02 (R359): `none` while an extent in phase 4 of its move is handed over, after which it ends `MOVED` (R361). -/
def Run.revoke (r : Run s₀) (part e : Nat) (again : Bool) : Option Status × Run s₀ :=
  if again then (if r.d.exts.has e then none else if r.d.homed e then some .ok else some .moved, r)
  else match r.d.gran.get? (e * 512) with
  | none => (match r.d.route e with
    | .to _ => (some .moved, r)
    | _ => (some .denied, r))
  | some g =>
    if g.part != part || r.d.revoked.contains e then (some .denied, r)
    else if r.d.revokes.any fun v => v.2.part == part && !v.2.done then (some .busy, r)
    else
      let js := r.d.admittedFor e
      let bs := js.map fun j => match r.d.jobs.get? j with | some x => classBound x.cls | none => some 0
      let bound := if bs.any Option.isNone then 0 else (bs.map fun b => b.getD 0).foldl max (us 2)
      let r := r.mod fun d => { d with revokes := d.revokes.set e { part := part, jobs := js, began := d.now, bound := bound } }
      let r := ((r.setO part 0x6070 2 e).setO part 0x6070 4 1).revokeMoves e
      (if r.d.exts.has e then none else some .ok, r)

/-- The revocation of an extent completes (R360, R361): the drain or the bound first, then the scan of the directory, whose
back-invalidations may wait for port agents. An extent in phase 4 of its move waits, and ends `MOVED`. -/
def Run.revokeEnd (r : Run s₀) (e : Nat) : Run s₀ :=
  match r.d.revokes.get? e with
  | none => r
  | some v =>
    let drained := v.jobs.isEmpty && r.d.cohFor e == 0
    if v.done || r.d.exts.has e || !(drained || (v.bound != 0 && v.began + v.bound ≤ r.now)) then r
    else if !r.d.homed e then ((r.mod fun d => { d with revokes := d.revokes.del e }).setO v.part 0x6070 4 2).event v.part 0x14
    else
      let ds := r.d.dir.filter fun x => extentOf (x.1 * 64) == e && !x.2.proxy
      let r := r.each (ds.filter fun x => !r.d.txns.has x.1) fun r x => r.evictLine x.1 false
      if r.d.dir.any fun x => extentOf (x.1 * 64) == e && !x.2.proxy then r
      else
        let r := r.mod fun d => { d with revokes := d.revokes.del e, revoked := Marks.add d.revoked e }
        (r.setO v.part 0x6070 4 2).event v.part 0x14

/-- A write of 0x6070:03 (R362): `none` while the discard's changes wait for the twin. -/
def Run.grant (r : Run s₀) (part e : Nat) (again : Bool) : Option Status × Run s₀ :=
  let gs := (List.range 512).map (512 * e + ·)
  let lines (r : Run s₀) : Bool := r.d.txns.any fun t => extentOf (t.1 * 64) == e
  if again then (if lines r then none else some .ok, r)
  else if r.d.revokes.has e then (some .busy, r)
  else if !r.d.revoked.contains e then (some .fault, r)
  else
    let n (t : Nat) : Nat := (gs.filter fun g => (r.d.gran.get? g).map (·.tier) == some t).length
    if r.d.overQuota part 0 (n 0) || r.d.overQuota part 1 (n 1) then (some .denied, r)
    else
      let r := r.mod fun d => { d with
        revoked := d.revoked.filter (· != e)
        gran := d.gran.map fun g => (g.1, if g.1 / 512 == e then { g.2 with part := part } else g.2)
        flog := d.flog.map fun g => (g.1, if g.1 / 512 == e then { g.2 with part := part } else g.2) }
      let r := (r.each gs Run.zeroGranule).setO part 0x6070 3 e
      (if lines r then none else some .ok, r)

/-! ### Ports (R20, R21, R356) -/

/-- The port by whose completion flits a request is answered. -/
def Reply.atPort : Reply → Option Nat
  | .port p _ _ _ | .forwarded p _ _ _ _ _ => some p
  | _ => Option.none

/-- Requests admitted at a port and not yet complete (R356): jobs, coherence requests, requests that went on to another device or wait
to leave for one, contributors of relief entries, cast stores and fences. -/
def Dev.portBusy (d : Dev) (p : Nat) : Bool :=
  let at_ (x : Reply) : Bool := x.atPort == some p
  d.jobs.any (fun j => srcPort j.2.src == some p)
    || d.txns.any (fun t => match t.2.kind with | .coh _ _ x _ => at_ x | _ => false)
    || d.origs.any (fun o => at_ o.2.reply) || d.after.any (fun x => at_ x.reply)
    || d.relief.any (fun e => e.2.who.any fun w => at_ w.reply) || d.reliefWho.any (fun e => e.2.any fun w => at_ w.reply)
    || d.castOps.any (fun c => at_ c.2.reply) || d.fences.any fun f => at_ f.reply

/-- Start a port reset; `role` is the role it applies. -/
def Run.portReset (r : Run s₀) (p : Nat) (role : Option Nat) : Run s₀ :=
  if r.d.portRst.has p then (match role with
    | some x => r.mod fun d => { d with portRst := d.portRst.set p (some x) }
    | none => r)
  else
    let here (q : Parked) : Bool := match q with | .port p' .. => p' == p | .pair _ => false
    let parked := (r.d.again ++ r.d.fents.flatMap fun e => e.2.reqs).filter here
    let r := r.mod fun d => { d with
      portRst := d.portRst.set p role
      transit := d.transit.keep fun _ t => t.port != p
      again := d.again.filter fun q => !here q
      fents := d.fents.map fun e => (e.1, { e.2 with reqs := e.2.reqs.filter fun q => !here q })
      links := d.links.set p { d.links.getD p {} with flitCr := [], reqCr := [] }
      recvs := d.recvs.map fun s => (s.1, { s.2 with held := s.2.held.filter fun h => h.2.1 != p, gap := if s.2.port == p then none else s.2.gap }) }
    let r := r.each parked fun r q => match q with
      | .port p' code h data _ => r.answerAt { p := p', code := code, h := h, data := data } (Compl.of .fault)
      | .pair _ => r
    let r := (r.cancelCredits fun c => srcPort c.src == some p).setO p 0x3020 6 0
    if r.d.role p == 2 && r.d.o p 0x3030 2 == 1 then r.failAgent (8 + p) 2 else r

/-- A port reset ends when every request admitted at the port has completed, and on a port of role 2 the sweep is over; the
role it applies is in effect then. -/
def Run.portResetEnd (r : Run s₀) (p : Nat) : Run s₀ :=
  match r.d.portRst.get? p with
  | none => r
  | some role =>
    let st := r.d.o p 0x3030 2
    if r.d.portBusy p || (r.d.role p == 2 && 2 ≤ st) then r
    else
      let r := r.mod fun d => { d with portRst := d.portRst.del p, egrant := d.egrant.set p (d.o p 0x3030 3) }
      let new := role.getD (r.d.role p)
      let r := r.setO p 0x3010 2 new
      let up := r.d.o p 0x3040 1 == 2
      let r := r.setO p 0x3030 2 (b2n (new == 2 && up))
      if !up || new == 0 then r
      else r.each ((List.range 256).filter fun x => r.d.partState x == 1) fun r x => r.emit (.reqCredits p x (r.d.o x 0x6010 7))

/-- Is a port left unused (R479)? Its role reads 0. -/
def Dev.unusedPort (d : Dev) (p : Nat) : Bool := bit (d.o 0 0xA020 3) p

/-- The role written last on a port (0x3010:01). -/
def Dev.roleSet (d : Dev) (p : Nat) : Nat := if d.unusedPort p then 0 else d.o p 0x3010 1

/-- A write of the port role: an unused port takes none (R479), at most two ports take role 4, cabled to one peer (R21), a port whose
reset out of role 4 still drains among them; a new value starts a port reset. -/
def Run.roleWrite (r : Run s₀) (p v : Nat) : Status × Run s₀ :=
  let twins := (List.range 16).filter fun x => x != p && (r.d.role x == 4 || r.d.roleSet x == 4)
  let peers := (p :: twins).filterMap fun x => r.d.shakes.get? x
  if r.d.unusedPort p || (v == 4 && (2 ≤ twins.length || 2 ≤ peers.dedup.length)) then (.denied, r)
  else if v == r.d.roleSet p then (.ok, r)
  else (.ok, ((r.setO p 0x3010 1 v).portReset p (some v)).portResetEnd p)

/-! ### Slices (R357) -/

/-- A write of 0x5010:01. -/
def Run.quarantineWrite (r : Run s₀) (s v : Nat) : Status × Run s₀ :=
  if v == 0 then (.ok, r)
  else match r.quarantine s 1 with
    | (true, r) => (.ok, r)
    | (false, r) => (.busy, r)

/-- The slice has drained and its state is copied: a spare takes over, and the repair map changes. R12 lets either of two free spares
take it; the model takes the lower-numbered one (DESIGN CHOICE, log entry 178). -/
def Run.quarantineEnd (r : Run s₀) (s : Nat) : Run s₀ :=
  let here (a : Nat) : Bool := r.d.homeSlice a == s
  let busy := r.d.txns.any (fun t => here (t.1 * 64)) || r.d.fills.any (fun f => f.2.jobs.any fun j => here j.2.2.1)
  if !r.d.quar.has s || busy then r
  else
    let region := s / 32
    match r.d.spares s with
    | [] => r
    | p :: _ =>
      let old := r.d.physSlice s
      let r := r.mod fun d => { d with
        quar := d.quar.del s, smap := d.smap.set s p, badSlices := Marks.add d.badSlices (region * 34 + old)
        bring := { d.bring with katBad := d.bring.katBad.filter fun n => n / 4 != s } }
      ((r.setO s 0x5010 1 2).setO s 0x5010 2 (region * 34 + p)).setO s 0x5010 3 3

/-! ### Clusters (R358) -/

/-- The harts of a cluster are reset: what they waited for is forgotten. -/
def Run.resetHarts (r : Run s₀) (k : Nat) : Run s₀ :=
  let r := r.cancelCredits fun c => match c.src with | .cluster k' => k' == k | _ => false
  r.mod fun d => { d with
    harts := d.harts.keep fun h _ => h / 4 != k, apDrain := d.apDrain.filter fun h => h / 4 != k
    apert := d.apert.keep fun i _ => i / 2048 != k }

/-- A reset of a cluster: its dirty lines are written back and its clean ones given up, its cores reset, its agent failed. -/
def Run.clusterReset (r : Run s₀) (k : Nat) : Run s₀ :=
  let ls := r.d.l2.filter fun x => x.1 % 8 == k
  let r := r.each ls fun r x =>
    let a := x.1 / 8 * 64
    let part := r.d.linePart (x.1 / 8)
    if x.2.st == .m || x.2.st == .o then r.writeBack k (.cluster k) part a (good x.2.data) else r.evict k (x.1 / 8)
  let r := r.mod fun d => { d with l2 := d.l2.keep fun x _ => x % 8 != k, clRst := Marks.add d.clRst k }
  (r.resetHarts k).failAgent k 2

/-- A cluster fails: nothing is written back (R358, Table 6-8). -/
def Run.clusterFail (r : Run s₀) (k : Nat) : Run s₀ :=
  ((r.resetHarts k).failAgent k 2).mod fun d => { d with clRst := d.clRst.filter (· != k) }

end

/-! ### The commands -/

/-- `PARTITION_RESET_DRAINED` (R353, R354). -/
def execPartitionResetDrained (part : BitVec 8) (s : State) : Host.Outcome State Fault Refusal :=
  ((Run.start s).partDrained part.toNat).requestDone

/-- `REVOCATION_COMPLETE` (R360, R361). -/
def execRevocationComplete (e : BitVec 32) (s : State) : Host.Outcome State Fault Refusal :=
  ((Run.start s).revokeEnd e.toNat).requestDone

/-- `PORT_RESET` (R356): it starts the reset of the port, or ends one whose drain and sweep are over. -/
def execPortReset (p : Fin 16) (s : State) : Host.Outcome State Fault Refusal :=
  ((((Run.start s).portReset p.val none)).portResetEnd p.val).requestDone

/-- `QUARANTINE` (R357, R418): by a trigger that starts one. -/
def execQuarantine (slice : Fin 256) (trigger : Fin 7) (s : State) : Host.Outcome State Fault Refusal :=
  if !s.dev.ready || trigger.val == 0 || trigger.val == 2 then .next s
  else ((Run.start s).quarantine slice.val trigger.val).2.requestDone

/-- `QUARANTINE_COPY_DONE` (R357). -/
def execQuarantineCopyDone (slice : Fin 256) (s : State) : Host.Outcome State Fault Refusal :=
  ((Run.start s).quarantineEnd slice.val).requestDone

/-- `CLUSTER_RESET` (R358). -/
def execClusterReset (k : Fin 8) (s : State) : Host.Outcome State Fault Refusal :=
  if !s.dev.ready then .next s else ((Run.start s).clusterReset k.val).requestDone

/-- `CLUSTER_FAILURE` (R358). -/
def execClusterFailure (k : Fin 8) (s : State) : Host.Outcome State Fault Refusal :=
  if !s.dev.ready then .next s else ((Run.start s).clusterFail k.val).requestDone

end Sys2Proof.Machine
end

