-- ==== Sys2Proof/Machine/Maquette.lean ====
section
/-!
DEFINITION. The maquette (chapter 15): entries at their keepers and in this device's cache, the device table, proposals,
assignment and freeing of extents, handover, takeover reports and reclaim lists. Messages between plinths leave as
`Out.plinth`; those that arrive are commands. A commit waits for the other keeper of the pair while the pair points (R368).
-/

namespace Sys2Proof.Machine

/-- Is generation or epoch `a` newer than `b`, of `n` bits (R365)? -/
def newerBy (n a b : Nat) : Bool :=
  let d := (a + 2 ^ n - b % 2 ^ n) % 2 ^ n
  1 ≤ d && d < 2 ^ (n - 1)

/-- Is entry `x` newer than `y` (R365)? -/
def newerEntry (x y : MaqEntry) : Bool :=
  newerBy 16 x.gen.toNat y.gen.toNat || (x.gen == y.gen && newerBy 32 x.epoch.toNat y.epoch.toNat)

/-- Role of a device (Table 15-3). -/
def Dev.roleOf (d : Dev) (dev : Nat) : Nat := (d.devs.getD dev {}).role.toNat

/-- The keeper index of an extent. -/
def Dev.indexOf (d : Dev) (e : Nat) : Nat := keeperIdx (d.o 0 0x7010 1) e

/-- Does this device serve an extent's keeper index (R367)? -/
def Dev.keeps (d : Dev) (e : Nat) : Bool := d.kpairs.has (d.indexOf e) && d.keeperFor e == d.self

/-- The entry of an extent at its keeper. -/
def Dev.kept (d : Dev) (e : Nat) : MaqEntry := d.keeper.getD e {}

/-- Does a twin hold this device's protected data now (R385, R368)? -/
def Dev.pointing (d : Dev) : Bool := d.pairState == 1 || d.pairState == 2

/-- Does this device home an extent that is protected? -/
def Dev.protHomed (d : Dev) (e : Nat) : Bool := match d.gran.find? (fun g => g.1 / 512 == e) with | some g => g.2.prot | none => false

/-- Extents homed here. -/
def Dev.extents (d : Dev) : List Nat := (d.gran.map fun g => g.1 / 512).dedup

/-- Protected granules homed here, of T2 or of the other tiers (0x8010:01, :02). -/
def Dev.protCount (d : Dev) (t2 : Bool) : Nat := (d.gran.filter fun g => g.2.prot && (g.2.tier == 2) == t2).length

section
variable {s₀ : State}

/-! ### The cache of entries -/

/-- Take an entry into the cache unless the one held is as new (R365); at most 1,048,576 are held (R369). -/
def Run.cacheEntry (r : Run s₀) (e : Nat) (x : MaqEntry) (pin : Option Nat) : Run s₀ :=
  let fresh := match r.d.maq.get? e with | some c => newerEntry x c.entry | none => true
  if fresh then
    let r := if 1048576 ≤ r.d.maq.length then
        (match r.d.maq.find? fun (c : Nat × MaqC) => c.2.pin.isNone with
        | some c => r.mod fun d => { d with maq := d.maq.del c.1 }
        | none => r)
      else r
    r.mod fun d => { d with maq := d.maq.set e { entry := x, pin := pin } }
  else r

/-- The hint of a keeper fetch (R369). -/
def fetchHint : Nat := us 7

/-- An entry fetched from its keeper arrives: it is cached and pinned, and requests owed an answer by it are answered (R369,
R377, R366, R373). -/
def Run.fetched (r : Run s₀) (e : Nat) (x : MaqEntry) : Run s₀ :=
  if !r.d.fetch.has e then r
  else
    let r := (r.mod fun d => { d with fetch := d.fetch.del e }).cacheEntry e x (some (r.now + 4 * fetchHint))
    let owed := r.d.owed.filter fun o => o.1 == e
    let r := r.mod fun d => { d with owed := d.owed.filter fun o => o.1 != e }
    let c : Compl := if x.state == 2 then Compl.of .lost else if x.state == 0 then Compl.of .fault
      else ⟨.moved, movedWord x.epoch.toNat x.home.toNat, 0⟩
    r.each owed fun r o => match o.2 with
      | .line id idx => r.lineDone id idx c bad 0
      | dest => r.reply dest false c []

/-- A fetched entry's pin ends after four hints (R369). -/
def Run.unpinEntry (r : Run s₀) (e : Nat) : Run s₀ :=
  match r.d.maq.get? e with
  | some { entry := x, pin := some t } => if t ≤ r.now then r.mod fun d => { d with maq := d.maq.set e { entry := x, pin := none } } else r
  | _ => r

/-! ### An extent's slots -/

/-- Every agent's copy of an extent's lines, its cache frames and its bytes are gone; its entries and slots are free, and a cached entry
that names this device as its home is stale (R373). -/
def Run.freeExtent (r : Run s₀) (e : Nat) : Run s₀ :=
  let here (l : Nat) : Bool := l / 2 ^ 24 == e
  let prot := r.d.protHomed e
  let lo := e * 2 ^ 30
  let hi := lo + 2 ^ 30
  let r := (r.clear .mem lo hi).clear .flash lo hi
  let r := r.mod fun d => { d with
    gran := d.gran.keep fun g _ => g / 512 != e
    moves := d.moves.keep fun g _ => g / 512 != e
    flog := d.flog.keep fun g _ => g / 512 != e
    opening := d.opening.keep fun g _ => g / 512 != e
    dirtyAt := d.dirtyAt.keep fun g _ => g / 512 != e
    frames := d.frames.keep fun k _ => k / 65536 != e
    progs := d.progs.keep fun k _ => k / 65536 != e
    fills := d.fills.keep fun k _ => k / 65536 != e
    deep := d.deep.keep fun k _ => k / 65536 != e
    fmap := d.fmap.keep fun k _ => k / 65536 != e
    comb := d.comb.keep fun l _ => !here l
    maq := d.maq.keep fun x c => !(x == e && c.entry.home.toNat == d.self)
    dir := d.dir.keep fun l _ => !here l
    l2 := d.l2.keep fun k _ => !here (k / 8)
    exposed := d.exposed.filter fun g => g / 512 != e
    resync := d.resync.filter fun g => g / 512 != e
    revoked := d.revoked.filter (· != e) }
  if prot then r.tell (r.d.o 0 0x8000 1) (.freeCopy e) else r

/-- May this device take an extent into a tier (R27, R28, R348, R384, R399, R465)? -/
def Dev.mayTake (d : Dev) (e tier part : Nat) (prot move : Bool) : Status :=
  if tier == 2 && !d.keyOk part then .denied
  else if d.inAlloc.has e || d.assigned.has e || d.gran.any (fun g => g.1 / 512 == e && g.2.state != 2) then .busy
  else if d.freeCount tier < 512 || 131840 ≤ d.extents.length + d.inAlloc.length then .busy
  else if prot && (if move then d.pairState != 2 else !d.pointing) then .busy
  else if prot && tier != 2 && 98304 < d.protCount false + 512 then .busy
  else if d.overQuota part tier 512 then .denied
  else .ok

/-- Enter the 512 granules of an extent, each with a slot of the tier; one that enters T2 is recorded open (R27, R36). -/
def Run.enterExtent (r : Run s₀) (e tier part : Nat) (prot : Bool) : Run s₀ :=
  let gs := (List.range 512).map (512 * e + ·)
  let slots := r.d.freeSlots tier 512
  r.each (gs.zip slots) fun r x => r.mod fun d => { d with
    gran := d.gran.set x.1 { tier := tier, opened := tier == 2, prot := prot, part := part, slot := x.2 }
    flog := if tier == 2 then d.flog.set x.1 { slot := x.2, opened := true, part := part, prot := prot } else d.flog
    dirtyAt := if tier == 2 then d.dirtyAt.set x.1 d.now else d.dirtyAt
    exposed := if prot && !d.pointing then Marks.add d.exposed x.1 else d.exposed }

/-- A keeper asks for an extent's slots, or the extent's home asks to move it here (R27, R51, R372). -/
def Run.slotsAsked (r : Run s₀) (asker e tier part : Nat) (prot : Bool) : Run s₀ :=
  let homes := match r.d.maq.get? e with | some c => c.entry.state == 1 && c.entry.home.toNat == asker | none => false
  let move := homes || asker != r.d.keeperFor e
  let st := if 2 < tier then .busy else r.d.mayTake e tier part prot move
  if move then
    let r := if st == .ok then r.mod fun d => { d with inAlloc := d.inAlloc.set e { tier := tier, part := part, src := asker, prot := prot } } else r
    let r := if st == .ok && prot then r.tell (r.d.o 0 0x8000 1) (.prepareCopy e tier part) else r
    r.tell asker (.allocateReply e st)
  else
    let r := if st == .ok then
        ((r.freeExtent e).enterExtent e tier part prot).mod fun d => { d with assigned := d.assigned.set e { tier := tier, prot := prot, part := part, slot := 0 } }
      else r
    r.tell asker (.slotsAnswer e st)

/-- The home is told of a committed ASSIGN and serves the extent (R372 step 4). -/
def Run.assignTold (r : Run s₀) (e : Nat) (x : MaqEntry) : Run s₀ :=
  if !r.d.assigned.has e then r
  else (r.mod fun d => { d with assigned := d.assigned.del e }).cacheEntry e x none

/-- The twin of a home takes copy slots for an extent (R384): in T1 for T0 and T1, in T2 for T2, where the
partition's key must be loaded (R465). -/
def Run.prepareCopy (r : Run s₀) (home e tier part : Nat) : Run s₀ :=
  let t := if tier == 2 then 2 else 1
  let key := t != 2 || r.d.keyOk part
  let ok := key && home == r.d.o 0 0x8000 1 && r.d.pointing && 512 ≤ r.d.freeCount t && !r.d.copies.has (e * 512)
  let r := if ok then
      let gs := ((List.range 512).map (512 * e + ·)).zip (r.d.freeSlots t 512)
      let r := r.clear .copy (e * 2 ^ 30) ((e + 1) * 2 ^ 30)
      r.each gs fun r x => r.mod fun d => { d with
        copies := d.copies.set x.1 { tier := t, slot := x.2, part := part }
        flog := if t == 2 then d.flog.set x.1 { slot := x.2, opened := true, part := part, prot := true, copy := true } else d.flog }
    else r
  r.tell (r.d.keeperFor e) (.copyAnswer e (if !key then .denied else if ok then .ok else .busy))

/-! ### Handover (R374, R375) -/

/-- A handover is told (R374): the destination serves the extent, its granules of which no copy came being LOST, as the source skipped
them (R39, R41; DEDUCED, log entry 194); the source keeps a departed record, frees its slots and ends its operation; where it could not
be committed the source goes on under R53. -/
def Run.handoverTold (r : Run s₀) (e : Nat) (x : MaqEntry) (committed : Bool) : Run s₀ :=
  match r.d.exts.get? e with
  | some m =>
    if m.phase < 4 then r
    else if !committed then r.extAbandon e .indet true
    else
      let r := r.journal 4 (4 * m.tier) m.part (e * 512) 0 m.dest m.tag
      let rec_ : Depart := { home := x.home.toNat, epoch := x.epoch.toNat, at_ := r.now }
      let old : Tab Depart := if r.d.depart.length < 65536 then r.d.depart else match r.d.depart with
        | [] => []
        | y :: ys => r.d.depart.del (ys.foldl (fun a b => if b.2.at_ < a.2.at_ then b else a) y).1
      let r := r.mod fun d => { d with exts := d.exts.del e, depart := old.set e rec_ }
      let r := ((r.endPhase e).freeExtent e).cacheEntry e x none
      match m.pair with
      | none => r
      | some n => match r.d.places.get? n with
        | some o => r.placeEnd n { o with phase := 4, epoch := x.epoch.toNat } (if 0 < o.skiplost then .lost else .ok)
        | none => r
  | none =>
    match r.d.inAlloc.get? e with
    | some c =>
      if !committed || x.home.toNat != r.d.self then r
      else
        let r := (r.mod fun d => { d with inAlloc := d.inAlloc.del e }).enterExtent e c.tier c.part x.prot
        let left (g : Nat) : Bool := g / 512 == e && !c.came.contains g
        (r.mod fun d => { d with gran := d.gran.map fun g => (g.1, if left g.1 then { g.2 with state := 2 } else g.2) }).cacheEntry e x none
    | none => if committed then r.cacheEntry e x none else r

/-! ### The keeper (R364-R368) -/

/-- Tell a device of an entry, or act on it here. -/
def Run.tellOrDo (r : Run s₀) (dst : Nat) (m : PMsg) (f : Run s₀ → Run s₀) : Run s₀ := if dst == r.d.self then f r else r.tell dst m

/-- A keeper's change of an entry is committed: what follows (R372-R374, R382, R430). Kinds: 1 ASSIGN, 2 UNASSIGN, 5 handover,
6 a rewrite, 7 a reclaimed extent. -/
def Run.committed (r : Run s₀) (e : Nat) (c : KChange) : Run s₀ :=
  let x := c.entry
  let r := (r.mod fun d => { d with keeper := d.keeper.set e x, kpend := d.kpend.del e }).cacheEntry e x none
  match c.kind with
  | 1 => (r.tellOrDo x.home.toNat (.assignTold e x) fun r => r.assignTold e x).proposalEnd c.asker .ok x.epoch.toNat
  | 2 => r.proposalEnd c.asker .ok x.epoch.toNat
  | 5 => (r.tellOrDo x.home.toNat (.handoverTold e x true) fun r => r.handoverTold e x true).tellOrDo c.other
      (.handoverTold e x true) fun r => r.handoverTold e x true
  | 7 => r.tell x.home.toNat (.reclaimAnswer e true)
  | _ => r

/-- Write a new entry: the epoch goes up by one, the generation is that of the index; the other keeper of the pair is told, and
its acknowledgement commits it (R365, R368, R370). -/
def Run.keeperWrite (r : Run s₀) (e : Nat) (x : MaqEntry) (asker kind other : Nat) : Run s₀ :=
  let x := { x with epoch := (r.d.kept e).epoch + 1, gen := BitVec.ofNat 16 (r.d.gens.getD (r.d.indexOf e) 0) }
  let c : KChange := { entry := x, asker := asker, kind := kind, other := other }
  if r.d.pointing then (r.mod fun d => { d with kpend := d.kpend.set e c }).tell (r.d.o 0 0x8000 1) (.pointEntry e x)
  else r.committed e c


/-- TWIN of an entry whose home is `dev`: from the device table where it is protected (R372). -/
def Dev.twinFor (d : Dev) (dev : Nat) (prot : Bool) : BitVec 14 := if prot then (d.devs.getD dev {}).twin else 0x3FFF

/-- A handover request at the keeper (R374). -/
def Run.handoverAsked (r : Run s₀) (src e dest epoch : Nat) : Run s₀ :=
  if !r.d.keeps e || r.d.kpend.has e then r
  else
    let x := r.d.kept e
    if x.state == 1 && x.home.toNat == src && x.epoch.toNat == epoch && r.d.roleOf dest == 2 then
      r.keeperWrite e { x with home := BitVec.ofNat 14 dest, twin := r.d.twinFor dest x.prot } src 5 src
    else r.tellOrDo src (.handoverTold e x false) fun r => r.handoverTold e x false

/-! ### Proposals (R371-R373, R381, R393) -/

/-- May a device's role change from `a` to `b` by proposal (Table 15-3)? -/
def roleChange (a b : Nat) : Bool :=
  match a, b with
  | 0, 1 | 1, 2 | 1, 4 | 2, 3 | 3, 4 | 3, 2 | 4, 2 | 4, 0 | 5, 1 => true
  | _, _ => false

/-- Every device of the table but this one. -/
def Dev.others (d : Dev) : List Nat := (d.devs.filter fun x => x.1 != d.self && x.2.role != 0).map (·.1)

/-- The home of an extent changes nothing more for an UNASSIGN: is it free to (R373)? -/
def Dev.mayFree (d : Dev) (e : Nat) : Bool := !d.exts.has e && !d.revokes.has e

/-- A change of a row of the device table reaches this device (R370, R382, R53): its own role and duty, cached entries of a
FAILED home, extent moves to it; a keeper rewrites to LOST the entries of a FAILED home that are unprotected or have no twin. While this device comes up, the other
device of a keeper pair that works keeps its table from being rebuilt (R431), and this one, shown FAILED, proposes ROLE JOINING
(R429). -/
def Run.deviceRow (r : Run s₀) (dev : Nat) (row : DevRow) : Run s₀ :=
  let r := r.mod fun d => { d with devs := d.devs.set dev row }
  let up := row.role == 2 || row.role == 3
  let r := if r.d.ready || !up || dev == r.d.self then r
    else r.mod fun d => { d with rebuild := d.rebuild.filter fun i => let (a, b) := d.kpairs.getD i (0, 0); a != dev && b != dev }
  let r := if dev == r.d.self && row.role == 5 && r.d.o 0 0x1020 1 == 5 && r.d.o 0 0x1020 2 == 0 then
      r.tell (r.d.keeperOf 0) (.propose 3 0 dev 1 0)
    else r
  let r := if dev == r.d.self then r.setO 0 0x7000 2 row.role.toNat else r
  if row.role != 5 then r
  else
    let r := r.mod fun d => { d with maq := d.maq.keep fun _ c => c.entry.home.toNat != dev }
    let r := r.each (r.d.exts.filter fun x => x.2.dest == dev && x.2.phase ≤ 3) fun r x => r.extAbandon x.1 .indet true
    let es := r.d.keeper.filter fun k => r.d.keeps k.1 && k.2.home.toNat == dev && k.2.state == 1 && (!k.2.prot || k.2.twin == 0x3FFF)
    r.each es fun r k => r.keeperWrite k.1 { k.2 with state := 2 } r.d.self 6 dev

/-- A generation rises: cached entries of the index that are older are dropped (R370). -/
def Run.generation (r : Run s₀) (i g : Nat) : Run s₀ :=
  if newerBy 16 g (r.d.gens.getD i 0) then
    r.mod fun d => { d with
      gens := d.gens.set i g
      maq := d.maq.keep fun e c => !(d.indexOf e == i && newerBy 16 g c.entry.gen.toNat) }
  else r

/-- A change of the device table is committed at keeper index 0: it is sent to every device, and its proposal is done (R370). -/
def Run.tableCommit (r : Run s₀) (dev : Nat) (c : TChange) : Run s₀ :=
  let r := r.mod fun d => { d with tpend := d.tpend.del dev }
  ((r.each r.d.others fun r d => r.tell d (.devTable dev c.row)).deviceRow dev c.row).proposalEnd c.asker .ok 0

/-- Keeper index 0 writes a row of the device table: the other keeper of the pair acknowledges it first (R368, R370). -/
def Run.tableWrite (r : Run s₀) (dev : Nat) (row : DevRow) (asker : Nat) : Run s₀ :=
  if r.d.pointing then
    (r.mod fun d => { d with tpend := d.tpend.set dev { row := row, asker := asker } }).tell (r.d.o 0 0x8000 1) (.pointRow dev row)
  else r.tableCommit dev { row := row, asker := asker }

/-- The other keeper's acknowledgement commits a change (R368). -/
def Run.keeperCommit (r : Run s₀) (x : KeeperItem) : Run s₀ :=
  match x with
  | .entry e => (match r.d.kpend.get? e.toNat with | some c => r.committed e.toNat c | none => r)
  | .row dev => (match r.d.tpend.get? dev.toNat with | some c => r.tableCommit dev.toNat c | none => r)

/-- Changes that wait for the other keeper are committed where the pair points no more (R368, Table 16-1). -/
def Run.keeperAlone (r : Run s₀) : Run s₀ :=
  let r := r.each r.d.kpend fun r x => r.committed x.1 x.2
  r.each r.d.tpend fun r x => r.tableCommit x.1 x.2

/-- Changes that wait for the other keeper are sent to it again when the pair points again. -/
def Run.keeperAgain (r : Run s₀) : Run s₀ :=
  let twin := r.d.o 0 0x8000 1
  let r := r.each r.d.kpend fun r x => r.tell twin (.pointEntry x.1 x.2.entry)
  r.each r.d.tpend fun r x => r.tell twin (.pointRow x.1 x.2.row)

/-- MARKFAIL at keeper index 0: the device is probed (R393). -/
def Run.markfail (r : Run s₀) (asker dev : Nat) : Run s₀ :=
  if r.d.roleOf (asker % 16384) == 5 || r.d.roleOf dev == 5 || r.d.roleOf dev == 0 then r.proposalEnd asker .fault 0
  else
    let r := r.mod fun d => { d with probing := d.probing.set dev (asker, d.now) }
    match r.d.maySend 0x1000 dev 80 none with
    | some _ => r
    | none =>
      let h : Hdr := { sword := plainSword 0, ctr := 0x8000, operand2 := BitVec.ofNat 64 (dev * 256) }
      r.send .plinth dev { code := 0x52, h := h } (.markfail dev) 0 0

/-- A probe that is not answered within 1 ms: the device is committed FAILED (R393). -/
def Run.probeEnds (r : Run s₀) (dev : Nat) : Run s₀ :=
  match r.d.probing.get? dev with
  | none => r
  | some (asker, t) =>
    if r.now < t + us 1000 then r
    else
      let r := r.mod fun d => { d with probing := d.probing.del dev }
      r.tableWrite dev { r.d.devs.getD dev {} with role := 5 } asker

/-- A ROLE proposal at keeper index 0 (R381). -/
def Run.roleAsked (r : Run s₀) (asker dev new : Nat) : Run s₀ :=
  let row := r.d.devs.getD dev {}
  let old := row.role.toNat
  let homes := r.d.keeper.any (fun k => k.2.state == 1 && k.2.home.toNat == dev) || (dev == r.d.self && !r.d.gran.isEmpty)
  let prot := r.d.keeper.any (fun k => k.2.state == 1 && k.2.prot && k.2.home.toNat == dev) || (dev == r.d.self && r.d.gran.any fun g => g.2.prot)
  let pairs := r.d.kpairs.any fun k => k.2.1 == dev || k.2.2 == dev
  if !roleChange old new then r.proposalEnd asker .fault 0
  else if r.d.tpend.has dev then r.proposalEnd asker .busy 0
  else if old == 3 && new == 4 && homes then r.proposalEnd asker .busy 0
  else if pairs && (old == 2 || old == 3) && new != 2 && new != 3 then r.proposalEnd asker .busy 0
  else if new == 4 && r.d.roleOf row.twin.toNat == 5 && prot then r.proposalEnd asker .busy 0
  else r.tableWrite dev { row with role := BitVec.ofNat 4 new } asker

/-- The entry of an assignment whose slots are given (R372 step 3). -/
def Run.assignWrite (r : Run s₀) (e dev param asker : Nat) : Run s₀ :=
  let prot := bit param 2
  r.keeperWrite e { r.d.kept e with
    home := BitVec.ofNat 14 dev, twin := r.d.twinFor dev prot, state := 1, prot := prot
    tier := BitVec.ofNat 2 (bits param 0 2), part := BitVec.ofNat 8 (bits param 8 8) } asker 1 dev

/-- The deciding keeper takes a proposal about an extent (R371-R373). -/
def Run.extentAsked (r : Run s₀) (p : Prop_) : Run s₀ :=
  let me := r.d.self
  let x := r.d.kept p.extent
  if p.expect != 0 && p.expect != x.epoch.toNat then r.proposalEnd me .fault x.epoch.toNat
  else if r.d.kpend.has p.extent then r.proposalEnd me .busy x.epoch.toNat
  else if p.kind == 1 then
    let tier := bits p.param 0 2
    let prot := bit p.param 2
    let part := bits p.param 8 8
    if 2 < tier || bits p.param 3 5 != 0 || p.param / 65536 != 0 || 16384 ≤ p.device || x.state == 1 || r.d.roleOf p.device != 2 then
      r.proposalEnd me .fault x.epoch.toNat
    else if p.device == me then
      match r.d.mayTake p.extent tier part prot false with
      | .ok =>
        let r := ((r.freeExtent p.extent).enterExtent p.extent tier part prot).mod fun d => { d with
          assigned := d.assigned.set p.extent { tier := tier, prot := prot, part := part, slot := 0 } }
        if prot then r.tell (r.d.o 0 0x8000 1) (.prepareCopy p.extent tier part) else r.assignWrite p.extent me p.param me
      | st => r.proposalEnd me st x.epoch.toNat
    else if r.d.unreachable p.device then r.proposalEnd me .indet x.epoch.toNat
    else
      let r := r.tell p.device (.assignSlots p.extent tier prot part)
      if prot then r.tell (r.d.devs.getD p.device {}).twin.toNat (.prepareCopy p.extent tier part) else r
  else if p.param != 0 || x.state == 0 then r.proposalEnd me .fault x.epoch.toNat
  else if x.state == 2 then r.keeperWrite p.extent { x with state := 0 } me 2 me
  else if x.home.toNat == me then
    if r.d.mayFree p.extent then r.mod fun d => { d with unassign := Marks.add d.unassign p.extent }
    else r.proposalEnd me .busy x.epoch.toNat
  else (r.mod fun d => { d with unassign := Marks.add d.unassign p.extent }).tell x.home.toNat (.unassign p.extent)

/-- A write of 1 to 0x7030:06 (R371). -/
def Run.propose (r : Run s₀) : Status × Run s₀ :=
  if r.d.prop.isSome then (.busy, r)
  else
    let o (sub : Nat) : Nat := r.d.o 0 0x7030 sub
    let kind := o 1
    let keeper := if kind ≤ 2 then r.d.keeperFor (o 2) else r.d.keeperOf 0
    let p : Prop_ := { kind := kind, extent := o 2, device := o 3, param := o 4, expect := o 5, keeper := keeper }
    let r := r.mod fun d => { d with prop := some p }
    let me := r.d.self
    (.ok,
      if kind == 0 || 4 < kind || (3 ≤ kind && 16384 ≤ p.device) then r.proposalEnd me .fault 0
      else if keeper != me then
        if r.d.unreachable keeper then r.proposalEnd me .indet 0
        else r.tell keeper (.propose kind p.extent p.device p.param p.expect)
      else if kind ≤ 2 then r.extentAsked p
      else if kind == 3 then (if 5 ≤ p.param then r.proposalEnd me .fault 0 else r.roleAsked me p.device p.param)
      else if p.param != 0 then r.proposalEnd me .fault 0
      else r.markfail me p.device)

/-- The answer that a running proposal waits for: its keeper's, or, where this device decides it, that of the device asked for
slots or to free them. -/
def Run.propAnswer (r : Run s₀) (kind st epoch : Nat) : Run s₀ :=
  match r.d.prop with
  | none => r
  | some p =>
    let me := r.d.self
    let s := Status.ofCode st
    if p.kind != kind then r
    else if p.keeper != me then r.proposalEnd me s epoch
    else if kind == 1 && !r.d.kpend.has p.extent then
      if s == .ok then r.assignWrite p.extent p.device p.param me
      else
        let r := if p.device == me then (r.mod fun d => { d with assigned := d.assigned.del p.extent }).freeExtent p.extent else r
        r.proposalEnd me s (r.d.kept p.extent).epoch.toNat
    else if kind == 2 && r.d.unassign.contains p.extent && (r.d.kept p.extent).home.toNat != me && s != .ok then
      (r.mod fun d => { d with unassign := d.unassign.filter (· != p.extent) }).proposalEnd me s (r.d.kept p.extent).epoch.toNat
    else r

/-- The home has drained an extent and frees it, and its keeper writes it UNASSIGNED (R373). At a keeper whose extent another
device homes, that device's report. -/
def Run.unassignEnd (r : Run s₀) (e : Nat) : Run s₀ :=
  let write (r : Run s₀) : Run s₀ :=
    let x := r.d.kept e
    (r.mod fun d => { d with unassign := d.unassign.filter (· != e) }).keeperWrite e { x with state := 0 } r.d.self 2 r.d.self
  if r.d.homed e then
    if !r.d.mayFree e then (if r.d.keeps e then r else r.tell (r.d.keeperFor e) (.unassigned e .busy))
    else if r.d.keeps e && !r.d.unassign.contains e then r
    else if !(r.d.admittedFor e).isEmpty || r.d.cohFor e != 0 then r
    else
      let r := r.each (r.d.moves.filter fun m => m.1 / 512 == e) fun r m => r.moveAbandon m.1 m.2
      let r := r.freeExtent e
      if r.d.keeps e then write r else r.tell (r.d.keeperFor e) (.unassigned e .ok)
  else if r.d.keeps e && r.d.unassign.contains e then write r
  else r

/-! ### Failures and reclaim lists (R382, R430, R431) -/

/-- The twin of a FAILED home reports that it has taken over a protected extent (R382, R394). -/
def Run.takenOver (r : Run s₀) (twin e : Nat) : Run s₀ :=
  let x := r.d.kept e
  if r.d.keeps e && x.prot && x.state == 1 && x.twin.toNat == twin && r.d.roleOf x.home.toNat == 5 then
    r.keeperWrite e { x with home := x.twin, twin := 0x3FFF } r.d.self 6 twin
  else r

/-- The generation of an index whose keeper table is rebuilt rises, once (R431). -/
def Run.regenerate (r : Run s₀) (i : Nat) : Run s₀ :=
  if !r.d.rebuild.contains i || r.d.regen.contains i then r
  else
    let g := (r.d.gens.getD i 0 + 1) % 65536
    let r := (r.mod fun d => { d with regen := i :: d.regen }).generation i g
    r.each r.d.others fun r d => r.tell d (.generation i g)

/-- A reported extent of a keeper table that is rebuilt becomes HOMED at the reporter (R431). -/
def Run.rebuilt (r : Run s₀) (reporter e part : Nat) (prot : Bool) : Run s₀ :=
  let r := r.regenerate (r.d.indexOf e)
  let x := r.d.kept e
  r.keeperWrite e { x with home := BitVec.ofNat 14 reporter, state := 1, prot := prot, part := BitVec.ofNat 8 part
                           tier := 2, twin := r.d.twinFor reporter prot } r.d.self 7 reporter

/-- A reclaim list (R430, R431). At the reporter: the keeper's answers, which keep an extent, its unrecovered granules entered as
LOST without a slot, or free it. At a keeper: the extents that `reporter` lists. -/
def Run.reclaimed (r : Run s₀) (reporter : Nat) (as : List ReclaimAnswer) : Run s₀ :=
  if reporter == r.d.self then
    r.each as fun r a =>
      let e := a.extent.toNat
      if !r.d.bring.reclaim.contains e then r
      else
        let r := r.mod fun d => { d with bring := { d.bring with reclaim := d.bring.reclaim.filter (· != e) } }
        if !a.keep then r.freeExtent e
        else
          let part := match r.d.gran.find? (fun g => g.1 / 512 == e) with | some g => g.2.part | none => a.entry.part.toNat
          let r := r.each ((List.range 512).map (512 * e + ·)) fun r g => if r.d.gran.has g then r
            else r.mod fun d => { d with gran := d.gran.set g { tier := 2, state := 2, prot := a.entry.prot, part := part, slot := noSlot } }
          r.cacheEntry e a.entry none
  else
    let listed := as.map fun a => a.extent.toNat
    let r := r.each as fun r a =>
      let e := a.extent.toNat
      let x := r.d.kept e
      if !r.d.keeps e || r.d.kpend.has e then r
      else if r.d.rebuild.contains (r.d.indexOf e) && x.state == 0 then
        r.rebuilt reporter e a.entry.part.toNat a.entry.prot
      else if x.home.toNat == reporter && x.state != 0 then r.keeperWrite e { x with state := 1 } r.d.self 7 reporter
      else r.tell reporter (.reclaimAnswer e false)
    let gone := r.d.keeper.filter fun k => r.d.keeps k.1 && k.2.state == 1 && k.2.home.toNat == reporter && !listed.contains k.1 && !r.d.kpend.has k.1
    r.each gone fun r k => r.keeperWrite k.1 { k.2 with state := 2 } r.d.self 6 reporter

end

/-! ### The commands -/

/-- `ASSIGN_SLOTS` (R27, R372): also the ask of an extent's home to move it here (R51). -/
def execAssignSlots (keeper : BitVec 14) (e : BitVec 32) (tier : BitVec 2) (prot : Bool) (part : BitVec 8) (s : State) :
    Host.Outcome State Fault Refusal :=
  if !s.dev.ready then .next s else ((Run.start s).slotsAsked keeper.toNat e.toNat tier.toNat part.toNat prot).requestDone

/-- `ASSIGN_TOLD` (R372). -/
def execAssignTold (e : BitVec 32) (entry : MaqEntry) (s : State) : Host.Outcome State Fault Refusal :=
  ((Run.start s).assignTold e.toNat entry).requestDone

/-- `PREPARE_POINTING_COPY` (R384). -/
def execPreparePointingCopy (home : BitVec 14) (e : BitVec 32) (tier : BitVec 2) (part : BitVec 8) (s : State) :
    Host.Outcome State Fault Refusal :=
  if !s.dev.ready then .next s else ((Run.start s).prepareCopy home.toNat e.toNat tier.toNat part.toNat).requestDone

/-- `UNASSIGN_DRAINED` (R373). -/
def execUnassignDrained (e : BitVec 32) (s : State) : Host.Outcome State Fault Refusal :=
  if !s.dev.ready then .next s else ((Run.start s).unassignEnd e.toNat).requestDone

/-- `HANDOVER` (R374). -/
def execHandover (src : BitVec 14) (e : BitVec 32) (dest : BitVec 14) (epoch : BitVec 32) (s : State) : Host.Outcome State Fault Refusal :=
  if !s.dev.ready then .next s else ((Run.start s).handoverAsked src.toNat e.toNat dest.toNat epoch.toNat).requestDone

/-- `KEEPER_COMMIT` (R368). -/
def execKeeperCommit (x : KeeperItem) (s : State) : Host.Outcome State Fault Refusal := ((Run.start s).keeperCommit x).requestDone

/-- `KEEPER_FETCH_REPLY` (R369, R377). -/
def execKeeperFetchReply (e : BitVec 32) (entry : MaqEntry) (s : State) : Host.Outcome State Fault Refusal :=
  ((Run.start s).fetched e.toNat entry).requestDone

/-- `MAQUETTE_PIN_EXPIRE` (R369). -/
def execMaquettePinExpire (e : BitVec 32) (s : State) : Host.Outcome State Fault Refusal := ((Run.start s).unpinEntry e.toNat).requestDone

/-- `DEVICE_TABLE_UPDATE` (R370, R382). -/
def execDeviceTableUpdate (dev : BitVec 14) (row : DevRow) (gens : List (Fin 256 × BitVec 16)) (s : State) :
    Host.Outcome State Fault Refusal :=
  let r := (Run.start s).deviceRow dev.toNat row
  (r.each gens fun r g => r.generation g.1.val g.2.toNat).requestDone

/-- `DEPARTED_RECORD_EXPIRE` (R377): after 1 s. -/
def execDepartedRecordExpire (e : BitVec 32) (s : State) : Host.Outcome State Fault Refusal :=
  match s.dev.depart.get? e.toNat with
  | some x =>
    if s.dev.now < x.at_ + us 1000000 then .next s
    else ((Run.start s).mod fun d => { d with depart := d.depart.del e.toNat }).requestDone
  | none => .next s

/-- `FORWARD_RECORD_EXPIRE` (R378): after 100 ms. -/
def execForwardRecordExpire (dev : BitVec 14) (agent : BitVec 16) (reqid : BitVec 32) (s : State) : Host.Outcome State Fault Refusal :=
  let hit (f : FwdRec) : Bool := f.dev == dev.toNat && f.agent == agent.toNat && f.reqid == reqid.toNat && f.at_ + us 100000 ≤ s.dev.now
  let n := (s.dev.fwds.filter hit).length
  (((Run.start s).mod fun d => { d with fwds := d.fwds.filter fun f => !hit f }).bumpBy 0 0x7040 6 n).requestDone

/-- `MARKFAIL_PROBE_TIMEOUT` (R393). -/
def execMarkfailProbeTimeout (dev : BitVec 14) (s : State) : Host.Outcome State Fault Refusal := ((Run.start s).probeEnds dev.toNat).requestDone

/-- `TAKEOVER_REPORT` (R382). -/
def execTakeoverReport (twin : BitVec 14) (e : BitVec 32) (s : State) : Host.Outcome State Fault Refusal :=
  ((Run.start s).takenOver twin.toNat e.toNat).requestDone

/-- `RECLAIM_LIST` (R430, R431). -/
def execReclaimList (reporter : BitVec 14) (answers : List ReclaimAnswer) (s : State) : Host.Outcome State Fault Refusal :=
  ((Run.start s).reclaimed reporter.toNat answers).requestDone

end Sys2Proof.Machine
end

