-- ==== Sys2Proof/Machine/Twin.lean ====
section
/-!
DEFINITION. The twin (chapter 16): forming a pair, pointing acknowledgements, silence, takeover, resynchronisation, and the
pair commands. Pair states are those of Table 16-1.
-/

namespace Sys2Proof.Machine

/-- The named twin (0x8000:01). -/
def Dev.twin (d : Dev) : Nat := d.o 0 0x8000 1

/-- Protected granules homed here that hold data. -/
def Dev.protGranules (d : Dev) : List Nat := (d.gran.filter fun g => g.2.prot && g.2.state != 2).map (·.1)

/-- Extents homed here that are protected. -/
def Dev.protExtents (d : Dev) : List Nat := ((d.gran.filter fun g => g.2.prot).map fun g => g.1 / 512).dedup

/-- Twin ports that are up and whose handshake found the named twin (R383). -/
def Dev.pairedPorts (d : Dev) : List Nat := d.twinPorts.filter fun p => d.shakes.get? p == some d.twin

section
variable {s₀ : State}

/-- Set the pair state. -/
def Run.setPair (r : Run s₀) (st : Nat) : Run s₀ :=
  let r := r.setO 0 0x8000 2 st
  if st == 2 || st == 1 then r.mod fun d => { d with whole := st == 2 } else r

/-- Pointing stops (R396, R398): changes on their way to the twin are complete at the home alone, their granules marked, and a keeper's
changes that waited for it are committed. -/
def Run.pointStop (r : Run s₀) : Run s₀ :=
  let r := r.keeperAlone
  let gs := (r.d.sends.filter fun e => pointKey e.1).flatMap fun e => e.2.unacked.map fun u => granuleOf u.2.h.a
  let r := r.mod fun d => { d with
    sends := d.sends.keep fun k _ => !pointKey k
    exposed := gs.foldl Marks.add d.exposed }
  let ts := r.d.txns.filter fun t => match t.2.kind with | .pointing _ _ => true | _ => false
  r.each ts fun r t =>
    let r := r.mod fun d => { d with txns := d.txns.del t.1 }
    match t.2.kind with
    | .pointing id _ => if id == 0 then r
      else (r.mod fun d => { d with jobs := d.jobs.upd id fun j => { j with left := j.left - 1 } }).finishJob id
    | _ => r

/-- Send every line of a granule in its home slices' pointing streams, class G (R397). -/
def Run.sendGranule (r : Run s₀) (g : Nat) : Run s₀ :=
  match r.d.gran.get? g with
  | none => r
  | some x => r.each (List.range 32768) fun r i =>
    let a := (g * 32768 + i) * 64
    r.pointSend a x.part 3 (r.home a)

/-- Enter RESYNC with these granules to send (R396, R397): copy slots are asked for whole extents where all is sent. -/
def Run.resyncStart (r : Run s₀) (gs : List Nat) (all : Bool) : Run s₀ :=
  let r := r.setPair 1
  let es := if all then r.d.protExtents else []
  let r := r.each es fun r e =>
    match r.d.gran.find? fun g => g.1 / 512 == e with
    | some g => r.tell r.d.twin (.prepareCopy e g.2.tier g.2.part)
    | none => r
  let r := r.mod fun d => { d with resync := gs, exposed := gs.foldl Marks.add d.exposed }
  (r.each gs Run.sendGranule).keeperAgain

/-- The pair forms (R383): RESYNC of every protected granule. -/
def Run.pairForms (r : Run s₀) : Run s₀ :=
  if r.d.pairState == 0 && !r.d.twinPorts.isEmpty && r.d.pairedPorts == r.d.twinPorts then r.resyncStart r.d.protGranules true else r

/-- A handshake on a twin port (R383): another device than the named twin sets both ports to role 0, across a port reset (R20). -/
def Run.handshake (r : Run s₀) (p dev : Nat) : Run s₀ :=
  if r.d.role p != 4 || r.d.o p 0x3040 1 != 2 then r
  else
    let r := r.mod fun d => { d with shakes := d.shakes.set p dev }
    if dev == r.d.twin then r.pairForms
    else
      let ps := (List.range 16).filter fun q => r.d.role q == 4
      let r := r.each ps fun r q => ((r.setO q 0x3010 1 0).portReset q (some 0)).portResetEnd q
      (r.error (mkErr 0x15 4 2 p none 0 dev p)).setPair 0

/-- A heartbeat on every twin port that is up (R392). -/
def Run.heartbeat (r : Run s₀) : Run s₀ :=
  r.each r.d.twinPorts fun r p => (r.tell r.d.twin .heartbeat).bump p 0x3040 8

/-- The pair enters HELD or EXPOSED, as the loss policy sets (R393). -/
def Run.pairLost (r : Run s₀) : Run s₀ :=
  if r.d.o 0 0x8000 4 == 0 then r.setPair 3 else (r.setPair 4).pointStop

/-- The twin is silent (R392, R393): no good flit on any twin port for 100 µs; MARKFAIL is proposed to keeper index 0. -/
def Run.silent (r : Run s₀) : Run s₀ :=
  let quiet := (List.range 16).all fun p => r.d.role p != 4 || (r.d.link p).lastGood + us 100 ≤ r.now
  if !r.d.pointing || !quiet then r
  else
    let r := r.pairLost
    let k := r.d.keeperOf 0
    if k == r.d.self then r.markfail (16384 + r.d.self) r.d.twin else r.tell k (.propose 4 0 r.d.twin 0 0)

/-- The twin announces a warm reset (R393). -/
def Run.announced (r : Run s₀) : Run s₀ :=
  if r.d.pointing then r.pairLost.mod fun d => { d with twinWarm := true } else r

/-- Enter copies held for the twin as home granules (R394 steps 1 and 2): their buffers drain first; a copy in T2 is recorded
open. -/
def Run.enterCopies (r : Run s₀) (f : Nat → Bool) : Run s₀ :=
  let bs := r.d.pbuf.filter fun b => f (b.2.1 / 32768)
  let r := r.each bs fun r b => r.setLine .copy b.2.1 b.2.2
  let cs := r.d.copies.filter fun c => f c.1
  let r := r.mod fun d => { d with
    pbuf := d.pbuf.filter fun b => !f (b.2.1 / 32768)
    copies := d.copies.keep fun g _ => !f g }
  let r := r.keysTidy
  r.each cs fun r c =>
    let g := c.1
    let ls := linesIn r.cur.copy r.cur.cbad (g * 32768) ((g + 1) * 32768)
    let w := if c.2.tier == 2 then Store.flash else Store.mem
    let r := r.each ls fun r l => r.setLine w l (r.line .copy l)
    let r := r.clear .copy (g * 2 ^ 21) ((g + 1) * 2 ^ 21)
    r.mod fun d => { d with
      gran := d.gran.set g { tier := c.2.tier, opened := c.2.tier == 2, prot := true, part := c.2.part, slot := c.2.slot }
      flog := if c.2.tier == 2 then d.flog.set g { slot := c.2.slot, opened := true, part := c.2.part, prot := true } else d.flog
      dirtyAt := if c.2.tier == 2 then d.dirtyAt.set g d.now else d.dirtyAt
      exposed := Marks.add d.exposed g }

/-- Give up the copies held for the twin. -/
def Run.freeCopies (r : Run s₀) : Run s₀ :=
  let gs := r.d.copies.map (·.1)
  ((r.each gs fun r g => r.clear .copy (g * 2 ^ 21) ((g + 1) * 2 ^ 21)).mod fun d => { d with copies := [], pbuf := [], flog := d.flog.keep fun _ x => !x.copy }).keysTidy

/-- The takeover of a FAILED twin (R394): its copies become home granules, the keepers are told, the pair is SOLO. Copies that
were still being resynchronised are given up: their extents were exposed and become LOST. -/
def Run.takeover (r : Run s₀) : Run s₀ :=
  if r.d.roleOf r.d.twin != 5 || r.d.pairState == 5 || r.d.pairState == 0 then r
  else
    let whole := r.d.whole
    let es := (r.d.copies.map fun c => c.1 / 512).dedup
    let r := if whole then r.enterCopies fun _ => true else r.freeCopies
    let r := (r.setPair 5).pointStop
    let r := r.mod fun d => { d with resync := [], exposed := d.protGranules.foldl Marks.add d.exposed }
    let r := if whole then r.each es fun r e => r.tellOrDo (r.d.keeperFor e) (.takeoverReport e) fun r => r.takenOver r.d.self e else r
    r.bump 0 0x8010 7

/-- The twin ports return (R396): RESYNC of the marked granules, or of every protected one where the twin lost its copies. -/
def Run.twinBack (r : Run s₀) (copiesLost : Bool) : Run s₀ :=
  if (r.d.pairState != 3 && r.d.pairState != 4) || r.d.pairedPorts.isEmpty then r
  else
    let ks := (r.d.sends.filter fun e => pointKey e.1).map (·.1)
    let q := r.d.pairedPorts.headD 14
    let fresh := r.d.twinWarm || copiesLost
    let r := r.mod fun d => { d with twinWarm := false, sends := d.sends.map fun e => (e.1, if pointKey e.1 then { e.2 with port := q } else e.2) }
    let gs := if copiesLost then r.d.protGranules else r.d.exposed.filter fun g => r.d.protGranules.contains g
    let r := r.setPair 1
    let r := r.each ks fun r k => if fresh then r.pointRestart k else r.replay k none
    r.resyncStart gs copiesLost

/-- Resynchronisation ends when every granule's pass is acknowledged (R397): the keepers set TWIN, the pair is PAIRED. -/
def Run.resynced (r : Run s₀) : Run s₀ :=
  if r.d.pairState != 1 || !r.d.resync.isEmpty then r
  else
    let r := r.setPair 2
    r.each r.d.protExtents fun r e => r.tellOrDo (r.d.keeperFor e) (.resynced e) fun r =>
      let x := r.d.kept e
      if x.state == 1 && x.home.toNat == r.d.self then r.keeperWrite e { x with twin := BitVec.ofNat 14 r.d.twin } r.d.self 6 r.d.self else r

/-- DETACH (R398): pointing stops, both devices' protected extents are exposed, copies are freed. -/
def Run.detach (r : Run s₀) : Run s₀ :=
  let es := r.d.protExtents
  let r := (r.setPair 5).pointStop
  let r := r.mod fun d => { d with resync := [], exposed := d.protGranules.foldl Marks.add d.exposed }
  (r.each es fun r e => r.tell r.d.twin (.freeCopy e)).freeCopies

/-- YIELD goes on (R398): the next protected extent starts its handover to the twin; with none left the pair detaches. -/
def Run.yieldNext (r : Run s₀) : Run s₀ :=
  if r.d.o 0 0x8000 5 != 3 || r.d.exts.any (fun x => x.2.yield) then r
  else match r.d.protExtents.find? fun e => !r.d.exts.has e && !r.d.revokes.has e with
    | some e =>
      let part := match r.d.gran.find? fun g => g.1 / 512 == e with | some g => g.2.part | none => 0
      let x : ExtMove := { pair := none, dest := r.d.twin, tier := 0, phase := 3, epoch := r.d.cachedEpoch e, part := part, tag := 0, yield := true, finalAt := r.now }
      (r.mod fun d => { d with exts := d.exts.set e x }).journal 6 0 part (e * 512) 0 r.d.twin 0
    | none => if r.d.protExtents.isEmpty then r.detach.setO 0 0x8000 5 0 else r

/-- A write of the pair command (R398). -/
def Run.pairCommand (r : Run s₀) (v : Nat) : Status × Run s₀ :=
  if r.d.o 0 0x8000 5 != 0 then (.busy, r)
  else match v with
    | 1 =>
      if (r.d.pairState == 0 || r.d.pairState == 5) && !r.d.pairedPorts.isEmpty then (.ok, r.resyncStart r.d.protGranules true)
      else (.busy, r)
    | 2 => (.ok, r.detach)
    | 3 => if r.d.pairState == 2 then (.ok, (r.setO 0 0x8000 5 3).yieldNext) else (.busy, r)
    | _ => (.ok, r)

/-- A handover told to this device: as the destination of a YIELD it takes its own copy as the extent's data (R398). -/
def Run.handoverEnd (r : Run s₀) (e : Nat) (x : MaqEntry) (committed : Bool) : Run s₀ :=
  if committed && x.home.toNat == r.d.self && !r.d.inAlloc.has e && !r.d.homed e && r.d.copies.has (e * 512) then
    (r.enterCopies fun g => g / 512 == e).cacheEntry e x none
  else (r.handoverTold e x committed).yieldNext

end

/-! ### The commands -/

/-- `HANDOVER_TOLD` (R374, R375, R52). -/
def execHandoverTold (e : BitVec 32) (entry : MaqEntry) (committed : Bool) (s : State) : Host.Outcome State Fault Refusal :=
  ((Run.start s).handoverEnd e.toNat entry committed).requestDone

/-- `TWIN_HANDSHAKE` (R383). -/
def execTwinHandshake (p : Fin 16) (dev : BitVec 14) (s : State) : Host.Outcome State Fault Refusal :=
  ((Run.start s).handshake p.val dev.toNat).requestDone

/-- `POINTING_WRITE` (R387): a request of a pointing stream. -/
def execPointingWrite (p : Fin 16) (h : Hdr) (data : DLine) (s : State) : Host.Outcome State Fault Refusal :=
  if h.agent < 0x1100 || 0x11FF < h.agent then .next s
  else ((Run.start s).receive { p := p.val, code := 0x02, h := h, data := [data] }).requestDone

/-- `POINTING_ACK` (R386). -/
def execPointingAck (addr : BitVec 64) (s : State) : Host.Outcome State Fault Refusal :=
  let r := Run.start s
  let key := sKey (0x1100 + s.dev.homeSlice addr.toNat) s.dev.twin none
  (r.pointAcked key (lineNo addr.toNat)).requestDone

/-- `HEARTBEAT` (R392). -/
def execHeartbeat (s : State) : Host.Outcome State Fault Refusal :=
  if !s.dev.ready then .next s else (Run.start s).heartbeat.close

/-- `TWIN_SILENT` (R392, R393). -/
def execTwinSilent (s : State) : Host.Outcome State Fault Refusal := (Run.start s).silent.requestDone

/-- `TWIN_WARM_RESET_ANNOUNCE` (R393). -/
def execTwinWarmResetAnnounce (s : State) : Host.Outcome State Fault Refusal := (Run.start s).announced.requestDone

/-- `TAKEOVER` (R394). -/
def execTakeover (s : State) : Host.Outcome State Fault Refusal := (Run.start s).takeover.requestDone

/-- `TWIN_RETURN` (R396). -/
def execTwinReturn (copiesLost : Bool) (s : State) : Host.Outcome State Fault Refusal := ((Run.start s).twinBack copiesLost).requestDone

/-- `RESYNC_DONE` (R397). -/
def execResyncDone (s : State) : Host.Outcome State Fault Refusal := (Run.start s).resynced.requestDone

end Sys2Proof.Machine
end

