-- ==== Sys2Proof/Machine/Integrity.lean ====
section
/-!
DEFINITION. Checks and tests during work (chapters 17 and 18): patina, flash patina, calibration, known-answer runs on
standby pairs, and the test commands of Table 18-5. What a check finds is an operand of its command.
-/

namespace Sys2Proof.Machine

section
variable {s₀ : State}

/-! ### Patina (R414, R415) -/

/-- How many lines a patina pass reads: of T0 and T1 granules and copies, and the valid lines of cache frames. -/
def Dev.patinaLines (d : Dev) : Nat :=
  let gs := (d.gran.filter fun g => g.2.tier < 2 && g.2.state != 2).length + (d.copies.filter fun c => c.2.tier < 2).length
  32768 * gs + (d.frames.map fun f => ((List.range 256).filter fun i => f.2.valid.getLsbD i).length).sum

/-- A line has been scrubbed; with the last one the pass is complete. -/
def Run.sawLine (r : Run s₀) (l : Nat) : Run s₀ :=
  let seen := Marks.add r.d.patSeen l
  if seen.length < r.d.patinaLines then r.mod fun d => { d with patSeen := seen }
  else (r.mod fun d => { d with patSeen := [], rowCorr := [] }).bump 0 0x9010 5

/-- A finding at a line of a copy held for the twin: corrected, or the copy is poisoned (R412, R414). -/
def Run.copyFound (r : Run s₀) (c : CopyG) (a : Nat) (f : Finding) : Run s₀ :=
  let s := r.d.homeSlice a
  let lost (r : Run s₀) (kind unit n row : Nat) : Run s₀ :=
    ((r.setLine .copy (lineNo a) bad).bump 0 0x9030 4).error { mkErr kind 2 unit s (some c.part) a n row with d2 := 1 }
  match f with
  | .pathReplays _ n =>
    let r := r.bumpBy 0 0x9030 1 n
    if 3 < n then ((r.setLine .copy (lineNo a) bad).sliceEvent s 1 (lineNo a)).error (mkErr 0x01 2 6 0 (some c.part) a 0 1) else r
  | .lineCheck _ => ((r.setLine .copy (lineNo a) bad).sliceEvent s 1 (lineNo a)).error (mkErr 0x01 2 6 0 (some c.part) a 0 1)
  | .sramParity _ words rebuilt =>
    if words == 0 then r
    else if words == 1 && rebuilt then
      (((r.bump 0 0x9030 2).sliceEvent s 2 (lineNo a)).bump 0 0x9010 4).error (mkErr 0x02 0 0 s (some c.part) a 0 0)
    else lost (r.sliceEvent s 3 (lineNo a)) 3 0 words 0
  | .hbmBytes _ n row =>
    if n == 0 then r
    else if n ≤ 2 then
      (((r.bump 0 0x9030 3).bump 0 0x9010 4).rowCorrected a row.toNat true).error (mkErr 0x04 0 1 s (some c.part) a n row.toNat)
    else lost (r.error (mkErr 0x06 4 1 s none a 0 row.toNat)) 5 1 n row.toNat

/-- Scrub one line with what its read found. A line with an open transaction is skipped and scrubbed later in the pass; a line
that is poisoned already stays so. -/
def Run.scrubLine (r : Run s₀) (a : Nat) (fs : List Finding) : Run s₀ :=
  if r.d.txns.has (lineNo a) then r
  else match r.d.g? a with
    | some x =>
      if x.state == 2 || (x.tier == 2 && !r.d.lineValid a) then r
      else (if (r.home a).poison then r else r.each fs fun r f => r.found a f true).sawLine (lineNo a)
    | none => match r.d.copies.get? (granuleOf a) with
      | some c => if c.tier == 2 then r
        else (if (r.line .copy (lineNo a)).poison then r else r.each fs fun r f => r.copyFound c a f).sawLine (lineNo a)
      | none => r

/-- Flash patina read a block, its ladder stopping at `step`, or failing after step 6 (7). A block that needed step 1 or more
goes to the cache dirty, so that write-back moves it (R415, R407). -/
def Run.scrubBlock (r : Run s₀) (block step loc : Nat) : Run s₀ :=
  let g := block / 128
  if r.d.fills.has block || r.d.deep.has block then r
  else match r.d.gran.get? g with
    | some x =>
      if x.tier != 2 || x.state == 2 then r
      else
        let r := r.ladder block (min step 6) (if step ≤ 2 then 0 else if step ≤ 6 then 1 else 2) loc true
        if step == 0 then r else if step ≤ 6 then r.installBlock block true else r.blockLost block
    | none => match r.d.copies.get? g with
      | some c =>
        if c.tier != 2 then r
        else
          let r := r.ladder block (min step 6) (if step ≤ 2 then 0 else if step ≤ 6 then 1 else 2) loc true
          if step ≤ 6 then r
          else (r.each ((List.range 256).map (256 * block + ·)) fun r l => r.setLine .copy l bad).bumpBy 0 0x9030 4 256
      | none => r

/-! ### Known-answer runs during work (R210, R433) -/

/-- Has a slice its standby pair fixed as failed (0x5010:03)? -/
def Dev.standbyFixed (d : Dev) (s : Nat) : Bool := bit (d.o s 0x5010 3) 7

/-- The standby role moves to a pair that has no chain, and the run starts on it; one slice of a stack at a time. -/
def Run.katStart (r : Run s₀) (n : Nat) : Run s₀ :=
  let s := n / 4
  let p := r.d.pair n
  if !r.d.ready || r.d.bring.draining || r.d.standbyFixed s || r.d.quar.has s || r.d.bring.katRun.any (fun m => m / 128 == n / 128)
      || p.chain.isSome || p.held.isSome || p.helps.isSome then r
  else
    let r := if r.d.o s 0x5010 3 == n % 4 then r else (r.setO s 0x5010 3 (n % 4)).bump 0 0xC000 4
    r.mod fun d => { d with bring := { d.bring with katRun := n :: d.bring.katRun } }

/-- A pair failed its run: it is fixed as the slice's standby; a second one starts quarantine (R433, R418). -/
def Run.katFailed (r : Run s₀) (n : Nat) : Run s₀ :=
  let s := n / 4
  let r := r.bump s 0x5010 4
  if r.d.bring.katBad.any fun m => m / 4 == s && m != n then (r.quarantine s 3).2
  else
    let r := (r.mod fun d => { d with bring := { d.bring with katBad := Marks.add d.bring.katBad n } }).setO s 0x5010 3 (128 + n % 4)
    r.error (mkErr 0x17 4 0 s none 0 2 0xFFFF)

/-- A run on a standby pair ends; KATNOW ends with the last slice it waits for. -/
def Run.katEnd (r : Run s₀) (n : Nat) (digest : BitVec 256) : Run s₀ :=
  if !r.d.bring.katRun.contains n then r
  else
    let ok := digest == Config.katDigest r.d.bring.firmware
    let r := r.mod fun d => { d with bring := { d.bring with katRun := d.bring.katRun.filter (· != n) } }
    let r := if ok then r else r.katFailed n
    if !r.d.bring.katDue.contains (n / 4) then r
    else
      let r := r.mod fun d => { d with bring := { d.bring with
        katDue := d.bring.katDue.filter (· != n / 4), katFail := d.bring.katFail || !ok } }
      if r.d.bring.katDue.isEmpty then
        (r.setO 0 0x1040 2 0).setO 0 0x1040 3 (if r.d.bring.katFail then Status.poison else Status.ok).code
      else r

/-! ### Test commands (R434) -/

/-- A slot that failed its test is retired (R49). -/
def Run.retireSlot (r : Run s₀) (tier slot : Nat) : Run s₀ :=
  if r.d.slotCount tier ≤ slot || (r.d.usedSlots tier).contains slot then r
  else (r.error (mkErr 0x0C 1 7 0 none 0 (tier + 2 ^ 32 * slot) 0)).mod fun d => { d with badSlots := (tier, slot) :: d.badSlots }

/-- A write of the test command; its outcome is shown at 0x1040:03. `found` are the findings of SCRUB's pass, `failed` the free
T1 slots that MEMTEST found failing. -/
def Run.testCommand (r : Run s₀) (v : Nat) (found : List (Nat × Finding)) (failed : List Nat) : Status × Run s₀ :=
  let a := r.d.o 0 0x1040 4
  let n := r.d.o 0 0x1040 5
  let outcome (r : Run s₀) (st : Status) : Status × Run s₀ := (.ok, r.setO 0 0x1040 3 st.code)
  if r.d.o 0 0x1040 2 != 0 then (.busy, r)
  else match v with
    | 1 =>
      let due := (List.range 256).filter fun s => !r.d.standbyFixed s && !r.d.quar.has s
      if due.isEmpty then outcome r .ok
      else (.ok, (r.setO 0 0x1040 2 1).mod fun d => { d with bring := { d.bring with katDue := due, katFail := false } })
    | 2 =>
      if n == 0 then outcome r .fault
      else outcome (r.each (found.filter fun f => a ≤ f.1 && f.1 < a + n * 2 ^ 21) fun r f => r.scrubLine f.1 [f.2]) .ok
    | 3 =>
      if a != 0 && n == 0 then outcome r .fault
      else if a != 0 && r.d.gran.any fun g => a / 2 ^ 21 ≤ g.1 && g.1 < a / 2 ^ 21 + n then outcome r .busy
      else outcome (r.each failed fun r t => r.retireSlot 1 t) (if failed.isEmpty then .ok else .poison)
    | _ => outcome r .denied

end

/-! ### The commands -/

/-- The resource whose test reserve a scrub of a line spends: its slice's pipeline for a T0 line, else its HBM4 channel (R94). -/
def Dev.scrubGate (d : Dev) (a : Nat) : Gate :=
  match d.g? a with
  | some g => if g.tier == 0 then .sram (d.homeSlice a) else .hbm (d.homeSlice a)
  | none => .hbm (d.homeSlice a)

/-- `PATINA_SCRUB` (R414, R94): nothing is scrubbed within 2 µs of the last burst of the resource's test reserve. -/
def execPatinaScrub (addr : BitVec 64) (found : List Finding) (s : State) : Host.Outcome State Fault Refusal :=
  let a := addr.toNat / 64 * 64
  let k := (s.dev.scrubGate a).key
  if !s.dev.ready || !s.dev.mayBurst k then .next s else (((Run.start s).burst k).scrubLine a found).requestDone

/-- `FLASH_PATINA` (R415): `step` is the step at which the ladder stopped, 7 where it failed after step 6. -/
def execFlashPatina (block : BitVec 48) (step : Fin 8) (loc : BitVec 64) (s : State) : Host.Outcome State Fault Refusal :=
  if !s.dev.ready then .next s else ((Run.start s).scrubBlock block.toNat step loc.toNat).close

/-- `KAT_PERIODIC_START` (R433). -/
def execKatPeriodicStart (n : Fin 1024) (s : State) : Host.Outcome State Fault Refusal := ((Run.start s).katStart n).close

/-- `HBM4_PERIODIC_CALIBRATION` (R432, R94): the channel is calibrated in a burst of its test reserve; nothing else changes. -/
def execHbm4PeriodicCalibration (ch : Fin 256) (s : State) : Host.Outcome State Fault Refusal :=
  let k := (Gate.hbm ch).key
  if !s.dev.ready || !s.dev.mayBurst k then .next s
  else (((Run.start s).burst k).mod fun d => { d with calAt := d.calAt.set ch d.now }).close

/-- `PORT_LANE_ADAPTATION` (R432, R94): a burst of the test reserve of both directions of a port; nothing else changes. -/
def execPortLaneAdaptation (p : Fin 16) (s : State) : Host.Outcome State Fault Refusal :=
  let i := (Gate.portIn p).key
  let o := (Gate.portOut p).key
  if !s.dev.ready || !s.dev.mayBurst i || !s.dev.mayBurst o then .next s
  else ((((Run.start s).burst i).burst o).updLink p fun l => { l with adaptAt := s.dev.now }).close

end Sys2Proof.Machine
end

