-- ==== Sys2Proof/Machine/Security.lean ====
section
/-!
DEFINITION. Firmware, keys and attestation (chapter 20): the boot ROM's check, owners, measurements, reports, partition flash
keys, debug tokens. The cryptographic functions are those of `Config`, by reference (log entry 5).
-/

namespace Sys2Proof.Machine

/-! ### The boot ROM (R454) -/

/-- The fused security version number: of manufacture, or as raised since (R455). -/
def Dev.fusedSvn (d : Dev) : Nat := max Config.fusedSvn d.svn

/-- Does a public key belong to a vendor root slot that is not revoked? -/
def vendorKey (slot : Nat) (pk : List Byte) : Bool :=
  slot < 4 && !Config.vendorRevoked.getLsbD slot && Config.shake256 pk == Config.vendorKeyDigest slot

/-- Does a firmware copy pass every check of R454? -/
def Dev.copyOk (d : Dev) (copy : List Byte) : Bool :=
  match Config.fwHeader copy with
  | none => false
  | some (_, svn, _) => d.fusedSvn ≤ svn && (List.range 4).any (fun i => vendorKey i (Config.fwKey copy))
      && Config.slhVerify (Config.fwKey copy) (Config.fwImage copy) (Config.fwSig copy)

/-! ### Owners (R459, R460) -/

/-- Is an owner slot burnt? -/
def Dev.ownerBurnt (d : Dev) (slot : Nat) : Bool := d.owners.has slot

/-- Is an owner slot burnt and not revoked? -/
def Dev.ownerLive (d : Dev) (slot : Nat) : Bool := slot < 2 && d.ownerBurnt slot && !d.ownRev.contains slot

/-- Is the device owned? -/
def Dev.owned (d : Dev) : Bool := d.ownerLive 0 || d.ownerLive 1

/-- Does a public key belong to a live owner slot? -/
def Dev.ownerKey (d : Dev) (slot : Nat) (pk : List Byte) : Bool :=
  d.ownerLive slot && d.owners.get? slot == some (Config.shake256 pk)

section
variable {s₀ : State}

/-- An image entry burns an owner slot. -/
def Run.ownerBurn (r : Run s₀) (slot : Nat) : Status × Run s₀ :=
  let d := r.d
  let ok := if slot == 0 then !d.ownerBurnt 0 && !d.ownerBurnt 1 else slot == 1 && !d.ownerBurnt 1 && d.bring.imgSlot == some 0
  match d.bring.imgKey with
  | some k => if ok then (.ok, (r.mod fun d => { d with owners := d.owners.set slot k }).setO 0 0xB000 4 slot) else (.denied, r)
  | none => (.denied, r)

/-- An image entry revokes an owner slot. -/
def Run.ownerRevoke (r : Run s₀) (slot : Nat) : Status × Run s₀ :=
  let d := r.d
  if slot < 2 && d.ownerBurnt slot && d.bring.imgSlot == some (1 - slot) && d.ownerLive (1 - slot) then
    (.ok, (r.mod fun d => { d with ownRev := Marks.add d.ownRev slot }).setO 0 0xB000 5 slot)
  else (.denied, r)

/-! ### Measurements (R462) -/

/-- The repair map as M3 measures it: the bindings that differ from the fuses. -/
def Dev.repairBytes (d : Dev) : List Byte :=
  (d.smap ++ d.cmap).flatMap (fun e : Nat × Nat => leBytes 2 e.1 ++ leBytes 2 e.2) ++ d.bring.rows.flatMap (leBytes 4)

/-! ### Debug (R466, R467) -/

/-- The debug level (0xB040:01). -/
def Dev.debug (d : Dev) : Nat := d.o 0 0xB040 1

/-- A change of debug level, recorded in M4. -/
def Run.debugLevel (r : Run s₀) (level : Nat) : Run s₀ :=
  if r.d.debug == level then r
  else (r.setO 0 0xB040 1 level).extendM 4 (leBytes 1 level ++ leBytes 1 r.d.token)

/-- Does a debug token pass (R466, R467)? Level 1 needs an owner key, after bring-up; level 2 a vendor root key, in phase 1. -/
def Dev.tokenOk (d : Dev) (t : List Byte) : Bool :=
  match Config.tokenFields t with
  | none => false
  | some (level, serial, chal, slot) =>
    let pk := Config.tokenKey t
    serial == Config.serial.toNat && chal == d.chal.toNat && d.debug ≤ level
      && ((level == 1 && d.ready && d.ownerKey slot pk) || (level == 2 && d.o 0 0x1020 1 == 1 && vendorKey slot pk))
      && Config.slhVerify pk (Config.tokenBody t) (Config.tokenSig t)

/-- A token is shifted in. -/
def Run.tokenIn (r : Run s₀) (t : List Byte) : Run s₀ :=
  match Config.tokenFields t with
  | some (level, _, _, slot) =>
    if r.d.tokenOk t then
      let r := (r.mod fun d => { d with token := slot }).debugLevel level
      let (n, r) := r.draw
      r.mod fun d => { d with chal := Config.challenge n }
    else r.bump 0 0xB040 4
  | none => r.bump 0 0xB040 4

/-- A write of debug close: 0 ends level 1. -/
def Run.debugEnd (r : Run s₀) : Run s₀ := if r.d.debug == 1 then r.debugLevel 0 else r

/-! ### Reports (R461, Table 20-3) -/

/-- The bytes of a report that are signed. -/
def Dev.reportBody (d : Dev) (nonce : List Byte) : List Byte :=
  let flags := b2n d.owned + 2 * b2n d.bring.imgSlot.isSome + 4 * d.debug + 16 * b2n d.warmFlag
  let version := match Config.fwHeader d.bring.firmware with | some x => x.1 | none => 0
  leBytes 4 0x4E594154 ++ leBytes 1 1 ++ leBytes 1 flags ++ zeros 2 ++ leBytes 4 50368 ++ leBytes 4 version
    ++ leBytes 8 Config.serial.toNat ++ leBytes 4 d.fusedSvn ++ leBytes 4 (d.o 0 0x1000 8)
    ++ leBytes 8 ((d.now - d.bring.coldAt) / 8000) ++ leBytes 1 0xA1 ++ zeros 23 ++ nonce
    ++ (List.range 6).flatMap fun i => leBytes 64 (d.meas.getD i 0).toNat

/-- A write of 1 to report start in a session. -/
def Run.reportStart (r : Run s₀) (ses : Nat) : Status × Run s₀ :=
  let x := r.d.ses.getD ses {}
  if x.rstate == 1 then (.busy, r)
  else
    let nonce := (List.range 8).flatMap fun i => leBytes 8 (x.nonce.getD (i + 1) 0)
    let body := r.d.reportBody nonce
    (.ok, r.mod fun d => { d with
      ses := d.ses.set ses { x with rstate := 1, report := [] }
      reports := d.reports ++ [⟨ses, body⟩] })

/-- The signature of the report at the head of the queue. -/
def Run.reportEnd (r : Run s₀) (sig : List Byte) : Run s₀ :=
  match r.d.reports with
  | [] => r
  | x :: rest =>
    let sig := (sig ++ zeros (49856 - sig.length)).take 49856
    r.mod fun d => { d with
      reports := rest
      ses := d.ses.upd x.ses fun y => if y.rstate == 1 then { y with rstate := 2, report := x.body ++ sig } else y }

/-! ### Flash keys (R463-R465) -/

/-- What the plinth's read of its own store gives. -/
inductive PRead where
  | wait
  | fails (st : Status)
  | ok (bs : List Byte)

/-- The plinth reads lines of T0 or T1 that partition `part` owns, in its name; `who` names the access. -/
def Run.plinthRead (r : Run s₀) (part a n who : Nat) : PRead × Run s₀ :=
  let as := (List.range (cdiv n 64)).map fun i => a + 64 * i
  let ok (x : Nat) : Option Status := match r.d.g? x with
    | none => some .fault
    | some g => if g.part != part || r.d.revokes.has (extentOf x) || r.d.revoked.contains (extentOf x) then some .fault
      else if g.state == 2 then some .lost else if g.tier == 2 then some .fault else none
  let sts := as.filterMap ok
  if a % 64 != 0 || sts.contains .fault then (.fails .fault, r)
  else if sts.contains .lost then (.fails .lost, r)
  else
    let (free, r) := as.foldl (fun (x : Bool × Run s₀) a => let (f, r) := x.2.ready a .read who; (x.1 && f, r)) (true, r)
    if !free then (.wait, r)
    else
      let r := r.unready who
      let ls := as.map r.home
      if ls.any (·.poison) then (.fails .poison, r) else (.ok ((ls.flatMap fun l => lineBytes l.data).take n), r)

/-- The key that unwraps a partition's flash key (R464): SHAKE256(ss ‖ "K96 flash key" ‖ SERIAL ‖ PART ‖ KEYID), `ss` from the blob's ciphertext. -/
def wrapKey (part : Nat) (blob : List Byte) : BitVec 256 :=
  Config.shake256 (leBytes 32 (Config.mlkemDecap ((blob.drop 0x10).take 1568)).toNat ++ "K96 flash key".toUTF8.toList.map (fun c => BitVec.ofNat 8 c.toNat)
    ++ leBytes 8 Config.serial.toNat ++ leBytes 1 part ++ leBytes 8 (fld blob 0x08 8))

/-- The flash key that a blob holds for a partition (Table 20-4), where MAGIC and PART match and the unwrap check passes. -/
def blobKey (part : Nat) (blob : List Byte) : Option (BitVec 512) :=
  if fld blob 0 4 == 0x4E594B42 && fld blob 4 1 == part then Config.keyUnwrap (wrapKey part blob) ((blob.drop 0x630).take 72) else none

/-- A write of the key command for the partition selected: `none` while the blob's lines wait for port agents. -/
def Run.keyCommand (r : Run s₀) (part v : Nat) : Option Status × Run s₀ :=
  if v == 2 then
    let used := r.d.gran.any (fun g => g.2.part == part && g.2.tier == 2) || r.d.copies.any fun c => c.2.part == part && c.2.tier == 2
    if used then (some .busy, r)
    else (some .ok, r.keyClear part)
  else if r.d.debug != 0 then (some .denied, r)
  else if r.d.keys.has part then (some .busy, r)
  else match r.plinthRead part (r.d.o 0 0xB020 2) 1664 2048 with
    | (.wait, r) => (none, r)
    | (.fails st, r) => (some st, r)
    | (.ok b, r) =>
      let id := fld b 0x08 8
      match blobKey part b with
      | none => (some .fault, r)
      | some k =>
        let r := r.mod fun d => { d with keys := d.keys.set part k, keyIds := d.keyIds.set part id }
        (some .ok, r.extendM 5 (leBytes 1 part ++ leBytes 1 1 ++ leBytes 8 id))

end

/-! ### The commands -/

/-- `REPORT_SIGNED` (R461). -/
def execReportSigned (signature : List Byte) (s : State) : Host.Outcome State Fault Refusal :=
  ((Run.start s).reportEnd signature).close

/-- `DEBUG_TOKEN` (R466, R467). -/
def execDebugToken (token : List Byte) (s : State) : Host.Outcome State Fault Refusal := ((Run.start s).tokenIn token).close

end Sys2Proof.Machine
end

