-- ==== Sys2Proof/Machine/Sessions.lean ====
section
/-!
DEFINITION. Dictionary sessions (R443, R444): their numbers, the form of an answer (Table 19-3), where it goes.
-/

namespace Sys2Proof.Machine

/-- The number of a session: 0 the physical function, n virtual function n, 65 to 80 the MCTP sessions, 82 the test port's. -/
def sesNum : Session → Nat
  | .pf => 0
  | .vf n => n.val + 1
  | .mctp n => 65 + n.val
  | .tap => 82

/-- The session of the configuration image while it is applied (R443). -/
def imageSes : Nat := 81

/-- A Nybor answer, Table 19-3. -/
def nyMsg (q : NReq) (st : Status) (reason : Nat) (data : List Byte) : List Byte :=
  leBytes 1 1 ++ leBytes 1 (q.opc ||| 0x80) ++ leBytes 1 q.tag ++ leBytes 1 st.code ++ leBytes 2 q.index ++ leBytes 1 q.sub
    ++ leBytes 1 reason ++ leBytes 4 q.offset ++ leBytes 2 data.length ++ zeros 2 ++ data

/-- The device vector 0 of a function (R438). -/
def vector0 (f : Nat) : Nat := if f == 0 then 0 else 64 + 31 * (f - 1)

section
variable {s₀ : State}

/-- Change a session. -/
def Run.updSes (r : Run s₀) (ses : Nat) (f : Ses → Ses) : Run s₀ := r.mod fun d => { d with ses := d.ses.set ses (f (d.ses.getD ses {})) }

/-- A session's select: zero at its start (R443). -/
def Dev.sel (d : Dev) (ses idx sub : Nat) : Nat := ((d.ses.getD ses {}).sel).getD (idx * 256 + sub) 0

/-- Answer a request of a session: into its function's mailbox (R439), as an MCTP message, or at the test port. -/
def Run.nyAnswer (r : Run s₀) (ses : Nat) (q : NReq) (st : Status) (reason : Nat) (data : List Byte) : Run s₀ :=
  let m := nyMsg q st reason data
  if ses ≤ 64 then
    let x := r.d.fns.getD ses {}
    let r := r.mod fun d => { d with fns := d.fns.set ses { x with mbxRsp := m, mbxState := 2, mbxCount := (x.mbxCount + 1) % 2 ^ 32 } }
    let r := r.emit (.mailbox ses m)
    if x.irq then r.msixRaise (vector0 ses) else r
  else if ses ≤ 80 then
    let ep := r.d.eids.getD (ses - 65) 0
    r.emit (.mctp (256 ≤ ep) (ep % 256) (leBytes 2 (r.d.o 0 0x1000 2) ++ leBytes 1 1 ++ m))
  else if ses == 82 then r.emit (.tap m)
  else r

/-- The requests of a session that have not been performed are answered with a status and a reason (R450, R451). -/
def Run.nyFlush (r : Run s₀) (ses : Nat) (st : Status) (reason : Nat) : Run s₀ :=
  let x := r.d.ses.getD ses {}
  let r := r.updSes ses fun x => { x with busy := none, queue := [] }
  r.each (x.busy.toList ++ x.queue) fun r q => r.nyAnswer ses q st reason []

/-- A reset of the device begins: every outstanding request is answered `BUSY`, reason BRINGUP, and the sessions end (R443,
R451). -/
def Run.nyBusyAll (r : Run s₀) : Run s₀ :=
  (r.each (r.d.ses.map Prod.fst) fun r k => r.nyFlush k .busy 8).mod fun d => { d with ses := [], reports := [] }

end

end Sys2Proof.Machine
end

