-- ==== Sys2Proof/Machine/Resets.lean ====
section
/-!
DEFINITION. Resets of the device (R352, R451, R474, Table 14-6) and the bring-up report (R428): what a cold reset keeps, the
drain and the clearing of a warm reset, and how bring-up begins and fails (R419, R422).
-/

namespace Sys2Proof.Machine

/-- The bring-up phase object. -/
def Dev.phase (d : Dev) : Nat := d.o 0 0x1020 1

section
variable {s₀ : State}

/-! ### The report, and failure -/

/-- Write a record of the bring-up report (Table 18-4), of which it holds 1,024. -/
def Run.reportRec (r : Run s₀) (kind phase unit result loc d0 d1 : Nat) : Run s₀ :=
  if 1024 ≤ r.d.bring.report.length then r
  else
    let t := (r.now - r.d.bring.upAt) / us 1
    let x := leBytes 1 kind ++ leBytes 1 phase ++ leBytes 1 unit ++ leBytes 1 result ++ leBytes 2 loc ++ zeros 2 ++ leBytes 4 t
      ++ zeros 4 ++ leBytes 8 d0 ++ leBytes 8 d1
    r.mod fun d => { d with bring := { d.bring with report := d.bring.report ++ [x] } }

/-- Milliseconds spent in the cold wait (0x1020:09). -/
def Dev.waitMs (d : Dev) : Nat := d.o 0 0x1020 9 + (match d.bring.coldWait with | some t => (d.now - t) / us 1000 | none => 0)

/-- Milliseconds since bring-up began, the cold wait left out (0x1020:03, R419). -/
def Dev.upMs (d : Dev) : Nat := (d.now - d.bring.upAt) / us 1000 - d.waitMs

/-- Bring-up fails in a phase, with a cause (R422). -/
def Run.bringFail (r : Run s₀) (phase cause : Nat) : Run s₀ :=
  let r := ((r.setO 0 0x1020 1 (0x80 + phase)).setO 0 0x1020 5 cause).setO 0 0x1020 3 r.d.upMs
  let r := r.setO 0 0x1020 9 r.d.waitMs
  let r := (r.reportRec 5 phase 5 3 0 cause 0).emit .ibi
  let cold := r.d.o 0 0x1020 2 == 0
  r.mod fun d => { d with bring := { d.bring with coldWait := none, coldFail := if cold then some (phase, cause) else d.bring.coldFail } }

/-! ### Cold reset -/

/-- What a cold reset leaves of the device (R15, R61, Table 14-6): the timer, the flash log, fuses, the boot flash, pins. -/
def Dev.cold (d : Dev) : Dev := {
  now := d.now, boots := d.boots + 1, flog := d.flog, fmap := d.fmap, retired := d.retired
  svn := d.svn, owners := d.owners, ownRev := d.ownRev
  pins := { pwrgood := d.pins.pwrgood, thermtrip := d.pins.thermtrip, refSys := d.pins.refSys, refW := d.pins.refW
            refE := d.pins.refE, refPe := d.pins.refPe, temps := d.pins.temps }
  bring := { boot := d.bring.boot } }

/-- The device is held in cold reset: outputs quiet, everything gone but what a cold reset keeps. -/
def Run.coldClear (r : Run s₀) : Run s₀ :=
  let alert := r.d.pins.devalert
  let r := r.nyBusyAll
  let r := ((r.clear .mem 0 (2 ^ 64)).clear .copy 0 (2 ^ 64)).mod Dev.cold
  if alert then r.emit (.pin "DEVALERT_N" false) else r

/-- A bring-up begins (R419, R428). -/
def Run.bringBegin (r : Run s₀) (kind : Nat) : Run s₀ :=
  let r := (((r.setO 0 0x1020 1 1).setO 0 0x1020 2 kind).setO 0 0x1020 5 0).setO 0 0x1020 9 0
  r.mod fun d => { d with bring := { d.bring with phaseAt := d.now, report := [], coldWait := none, draining := false } }

/-- The boot ROM (R454): copy A, then copy B; M0 and M1. -/
def Run.bootRom (r : Run s₀) : Run s₀ :=
  let f := r.d.bring.boot
  match [f.copyA, f.copyB].find? fun c => r.d.copyOk c with
  | some c => r.mod fun d => { d with
      bring := { d.bring with firmware := c }
      meas := (d.meas.set 0 Config.m0).set 1 (Config.shake512 (Config.fwImage c)) }
  | none => r.bringFail 1 1

/-- A cold reset and the start of cold bring-up; `boot` is what the board wrote into the boot flash while the device was held in
reset (R456). -/
def Run.coldReset (r : Run s₀) (boot : Option BootFlash) : Run s₀ :=
  let r := r.coldClear
  let (n, r) := r.draw
  let r := r.mod fun d => { d with
    chal := Config.challenge n
    bring := { d.bring with boot := boot.getD d.bring.boot, upAt := d.now, coldAt := d.now } }
  (r.bringBegin 0).bootRom

/-! ### Warm reset (R352) -/

/-- Every queue, fault table and command in progress among the objects is cleared, and links and agents are down; settings and
counts stay (Table 14-6). -/
def warmObj (d : Dev) (k v : Nat) : Option Nat :=
  let inst := k / 16777216
  let idx := bits k 8 16
  let sub := bits k 0 8
  if idx / 16 == 0x604 && (sub == 0x0A || sub == 0x0B) then none
  else if idx / 16 == 0x604 && sub == 0x0D then (if d.o inst idx 1 == 0 then none else some 1)
  else if idx == 0x6020 && (sub == 4 || sub == 5) then none
  else if (idx == 0x6030 && sub == 3) || (idx == 0x3020 && sub == 6) || (idx == 0x1040 && sub == 2) || (idx == 0x3040 && sub == 1)
    || (idx == 0x3030 && sub == 2) || (idx == 0x5100 && sub == 1 && !d.bring.noCluster.contains (inst % 256)) then none
  else some v

/-- The clearing of a warm reset: counters, queues, fault tables, translation caches, the directory, credits, streams; slots keep
their versions without references (R274: retiring ones credit their counters once the fast path ends). Store, journals, settings, slots, bindings, routes and flash keys stay. -/
def Dev.warm (d : Dev) : Dev := { d with
  obj := d.obj.filterMap fun e => (warmObj d e.1 e.2).map fun v => (e.1, v)
  opening := [], fills := [], deep := [], progs := [], split := none, places := []
  moves := d.moves.map fun m => (m.1, { m.2 with owner := none })
  exts := d.exts.map fun x => (x.1, { x.2 with pair := none })
  lanes := [], laneEv := [], bwin := [], credits := []
  dir := [], txns := [], l2 := [], resWay := [], jobs := [], readied := [], recov := []
  ctrs := d.ctrs0, waits := [], fences := [], sends := [], recvs := [], origs := [], lost := [], unreach := [], links := [], relief := []
  comb := [], castOps := [], reliefWho := [], after := [], lates := [], transit := [], owed := []
  tlb := [], ptrs := [], walks := [], fents := [], fseq := [], inval := []
  pairs := [], turn := [], qhist := [], objWait := [], again := []
  emb := d.emb.map fun x => (x.1, { x.2 with cur := { x.2.cur with refs := [] }, retiring := x.2.retiring.map fun v => { v with refs := [] } })
  idx := d.idx.map fun x => (x.1, { x.2 with cur := { x.2.cur with refs := [] }, retiring := x.2.retiring.map fun v => { v with refs := [] } })
  harts := [], imsic := [], apert := [], apDrain := [], clRst := []
  resets := [], portRst := []
  maq := d.maq.map fun x => (x.1, { x.2 with pin := none })
  fetch := [], shakes := [], patSeen := d.patSeen
  pins := d.pins
  bring := { d.bring with katRun := [], katDue := [] }
  warmFlag := true }

/-- Steps 5 and 6: the drain is over, and the die is reset. -/
def Run.warmClear (r : Run s₀) : Run s₀ :=
  let r := r.each (r.d.quar.map Prod.fst) Run.quarantineEnd
  let vs := r.d.revokes.map fun v => (v.1, v.2.part)
  let r := r.each vs fun r v =>
    let r := r.mod fun d => { d with revokes := d.revokes.del v.1, revoked := if d.homed v.1 then Marks.add d.revoked v.1 else d.revoked }
    r.setO v.2 0x6070 4 2
  let me := r.d.self
  let r := match r.d.prop with
    | some _ => r.proposalEnd me .indet 0
    | none => r
  let ask := r.d.probing.map fun x => x.2.1
  let r := r.each ask fun r a => if a == me then r else r.proposalEnd a .indet 0
  let r := if r.d.pairState == 1 || r.d.pairState == 2 then r.pairLost.pointStop.mod fun d => { d with
      twinWarm := true, resync := [], exposed := d.resync.foldl Marks.add d.exposed }
    else r
  let r := (r.mod fun d => { d with probing := [] }).mod Dev.warm
  let r := r.each (List.range 16) fun r p =>
    let r := r.setO p 0x3010 2 (if bit (r.d.o 0 0xA020 3) p then 0 else r.d.o p 0x3010 1)
    r.mod fun d => { d with egrant := d.egrant.set p (d.o p 0x3030 3) }
  r.debugEnd

/-- The warm fast path begins. -/
def Run.warmBegin (r : Run s₀) : Run s₀ := r.warmClear.bringBegin 1

/-- A warm reset is asked for (R352 steps 1 and 2). It is ignored during a reset or a bring-up (R474); from a failed bring-up
nothing is left to drain. -/
def Run.warmStart (r : Run s₀) : Run s₀ :=
  let ph := r.d.phase
  if !r.d.pins.pwrgood || r.d.bring.draining || ph < 7 then r
  else
    let r := r.nyBusyAll.mod fun d => { d with bring := { d.bring with upAt := d.now } }
    if ph != 7 then r.warmBegin
    else
      let r := r.mod fun d => { d with bring := { d.bring with draining := true } }
      let r := if r.d.pointing then r.tell r.d.twin .warmReset else r
      let r := r.stopChains (r.d.pairs.map Prod.fst)
      let r := r.each (r.d.relief.map Prod.fst) Run.releaseRelief
      r.each (r.d.comb.map fun c => c.1 * 64) Run.mergeComb

/-- Is a request admitted before the reset still open (R352 step 3)? Probes and notices of the plinth are not waited for. -/
def Dev.warmBusy (d : Dev) : Bool :=
  let asked (x : Reply) : Bool := match x with | .probe _ _ | .markfail _ | .notify _ _ | .none => false | _ => true
  !d.jobs.isEmpty || !d.txns.isEmpty || !d.fences.isEmpty || !d.castOps.isEmpty || d.pairs.any (fun p => d.tileUnder p.1)
    || d.origs.any (fun o => asked o.2.reply) || d.after.any (fun x => asked x.reply)

/-- Requests that wait on a translation fault or for a walk were not admitted: they complete with `FAULT` (R82). -/
def Run.failParked (r : Run s₀) : Run s₀ :=
  let r := r.each r.d.fents fun r e => r.failEntry e.1 e.2
  let again := r.d.again
  (r.mod fun d => { d with again := [], walks := [] }).each again fun r q => match q with
    | .port p code h data _ => r.answerAt { p := p, code := code, h := h, data := data } (Compl.of .fault)
    | .pair _ => r

/-- Step 4: core clusters write back their dirty lines and give up the others. -/
def Run.flushClusters (r : Run s₀) : Run s₀ :=
  r.each r.d.l2 fun r x =>
    let k := x.1 % 8
    let a := x.1 / 8 * 64
    let part := r.d.linePart (x.1 / 8)
    let r := if x.2.st == .m || x.2.st == .o then r.writeBack k (.cluster k) part a (good x.2.data) else r.evict k (x.1 / 8)
    r.mod fun d => { d with l2 := d.l2.del x.1 }

/-- The drain of a warm reset has ended: what drained requests left in the combining caches is written back, the clusters and the directory give their lines back, then the die is reset. Nothing
happens while admitted requests or the directory's rounds are open. -/
def Run.warmDrained (r : Run s₀) : Run s₀ :=
  if !r.d.bring.draining then r
  else
    let r := r.failParked
    let r := r.each (r.d.resets.map Prod.fst) Run.partDrained
    if r.d.warmBusy then r
    else
      let r := r.each (r.d.comb.map fun c => c.1 * 64) Run.mergeComb
      let r := r.flushClusters
      let r := r.each (r.d.dir.map Prod.fst) fun r l => r.evictLine l false
      if r.d.warmBusy || !r.d.dir.isEmpty then r else r.warmBegin

/-- A write of 0x6F00:01: 1 warm, 2 cold (Table 14-6). -/
def Run.deviceReset (r : Run s₀) (v : Nat) (boot : Option BootFlash) : Run s₀ := if v == 2 then r.coldReset boot else r.warmStart

end

/-! ### The commands -/

/-- `COLD_RST` (R474): released only when PWRGOOD is asserted and every reference clock is good (R473). -/
def execColdRst (boot : Option BootFlash) (s : State) : Host.Outcome State Fault Refusal :=
  let r := (Run.start s).mod fun d => { d with
    pins := { d.pins with pwrgood := true, refSys := true, refW := true, refE := true, refPe := true } }
  (r.coldReset boot).close

/-- `WARM_RST` (R474). -/
def execWarmRst (s : State) : Host.Outcome State Fault Refusal := (Run.start s).warmStart.requestDone

/-- `WARM_RESET_DRAINED` (R352). -/
def execWarmResetDrained (s : State) : Host.Outcome State Fault Refusal := (Run.start s).warmDrained.requestDone

end Sys2Proof.Machine
end

