-- ==== Sys2Proof/Machine/PinsPower.lean ====
section
/-!
DEFINITION. Pins, supplies, reference clocks and sensors (chapters 1, 4 and 21): adaptive voltage (R17, R18, R475, R476), holds
(R120, R121), bound excursions (R123), the power average (R480), lost references (R481), `THERMTRIP_N` (R482).
-/

namespace Sys2Proof.Machine

/-- The fused voltage floor in mV (0xA000:01). -/
def floorMv : Nat := 680 + 5 * Config.floorStep.val

/-- The nominal AVSBus target: the floor plus 60 mV. -/
def nominalMv : Nat := floorMv + 60

/-- The highest target the regulator takes (R475). -/
def topMv : Nat := 900

/-- Requests of a partition with a bound, in flight (R123): admitted here, at other devices or on their way to them, cast stores, fences
and engine tiles; the plinth's probes are no partition's. -/
def Dev.inFlight (d : Dev) (part : Nat) : Nat :=
  let own (x : Reply) : Bool := match x with | .probe _ _ | .markfail _ | .cast _ => false | _ => true
  (d.jobs.filter fun j => j.2.part == some part && j.2.cls != 3).length
    + (d.txns.filter fun t => match t.2.kind with | .coh _ _ _ p => p == part | _ => false).length
    + (d.origs.filter fun o => o.2.part == part && o.2.req.h.cls != 3 && own o.2.reply).length
    + (d.after.filter fun x => x.part == part && x.req.h.cls != 3 && own x.reply).length
    + (d.castOps.filter fun c => c.2.part == part && c.2.cls != 3).length
    + (d.fences.filter fun f => f.part == part).length
    + (d.pairs.filter fun p => d.tileUnder p.1 && (match p.2.chain with | some c => c.part == part && dCls c.desc != 3 | none => false)).length

section
variable {s₀ : State}

/-! ### Holds and excursions -/

/-- Begin or end a hold (Table 4-9); at its end the credits that it deferred start again (R120). -/
def Run.setHold (r : Run s₀) (i : Nat) (on : Bool) : Run s₀ :=
  let h := r.d.o 0 0x2000 1
  if bit h i == on then r
  else
    let r := r.setO 0 0x2000 1 (if on then h + 2 ^ i else h - 2 ^ i)
    if on then r else r.restartCredits (11 + i)

/-- A bound excursion (R123): counted, and recorded for every partition with bounded work in flight. -/
def Run.excursion (r : Run s₀) (kind value : Nat) : Run s₀ :=
  let ps := (List.range 256).filter fun p => 0 < r.d.inFlight p
  if ps.isEmpty then r
  else (r.bump 0 0x2000 5).each ps fun r p => r.error (mkErr 0x12 4 7 0 (some p) 0 (kind + value * 2 ^ 16) (r.d.inFlight p))

/-! ### Core voltage -/

/-- One reading of the sixteen speed monitors, inside the test reserve (R17, R18, R94): a step above 1.20 ns raises the target by 10 mV,
within what the regulator takes, and begins the speed hold; the target goes down again, 5 mV in a millisecond, to the nominal one. While
the bus fails the raised target waits for the retry that succeeds, and nothing lowers it (R476). -/
def Run.speedSample (r : Run s₀) (ps : List Nat) : Run s₀ :=
  if !r.d.pins.pwrgood || r.d.pins.mv == 0 || !r.d.mayBurst speedBurst then r
  else
    let r := r.burst speedBurst
    let slow := ps.foldl max 0
    let i := ps.findIdx (· == slow)
    let r := r.setO 0 0xA000 5 (slow % 65536)
    let r := if 1150 < slow then r.mod fun d => { d with pins := { d.pins with slowAt := d.now } } else r
    let failing := r.d.o 0 0xA010 1 == 2
    let mv := r.d.pins.mv
    if 1200 < slow then
      let old := if failing then max mv r.d.pins.want else mv
      let new := min topMv (old + 10)
      let r := r.mod fun d => { d with pins := (if failing then { d.pins with want := new } else { d.pins with mv := new, lowered := d.now }) }
      let r := if new == old then r else r.emit (.avs new)
      let r := (r.setHold 1 true).error (mkErr 0x11 4 7 0 none 0 (slow % 2 ^ 48 + i * 2 ^ 48) new)
      if 1250 < slow then r.excursion 0 slow else r
    else if slow ≤ 1150 && nominalMv + 5 ≤ mv && !failing && r.d.pins.lowered + us 1000 ≤ r.now then
      (r.mod fun d => { d with pins := { d.pins with mv := mv - 5, lowered := d.now } }).emit (.avs (mv - 5))
    else r

/-- An AVSBus transaction fails (R476). -/
def Run.avsFail (r : Run s₀) : Run s₀ :=
  if !r.d.pins.pwrgood || (r.d.phase != 2 && r.d.pins.mv == 0) then r
  else
    let r := r.mod fun d => { d with pins := { d.pins with busFails := d.pins.busFails + 1 } }
    if r.d.pins.busFails < 3 then r
    else if r.d.phase == 2 then r.bringFail 2 2
    else if r.d.o 0 0xA010 1 == 2 then r
    else ((r.setO 0 0xA010 1 2).devalert true).error (mkErr 0x11 4 7 0 none 0 (r.d.o 0 0xA000 5) r.d.pins.mv)

/-! ### Sensors -/

/-- One reading of the 72 junction sensors (R482, Table 4-9, R123). -/
def Run.sensors (r : Run s₀) (ts : List Int) : Run s₀ :=
  if !r.d.pins.pwrgood then r
  else
    let hot := ts.foldl max (-273150)
    let r := r.mod fun d => { d with pins := { d.pins with temps := ts, hotAt := if 97000 < hot then d.now else d.pins.hotAt } }
    let r := if 100000 ≤ hot && !bit (r.d.o 0 0x2000 1) 0 then (r.setHold 0 true).bump 0 0xA030 3 else r
    if 105000 < hot then r.excursion 1 hot.toNat else r

/-- One power sample (R480, R121): the average over the samples of the last 10 ms, its peak, the power throttle. A reading of the
regulator is a transaction that did not fail. -/
def Run.power (r : Run s₀) (vcoreMA mW : Nat) : Run s₀ :=
  if !r.d.pins.pwrgood then r
  else
    let xs := (mW :: r.d.pins.samples).take 100
    let avg := xs.sum / xs.length
    let r := r.mod fun d => { d with pins := { d.pins with samples := xs, busFails := if d.o 0 0xA010 1 == 2 then d.pins.busFails else 0 } }
    let r := ((r.setO 0 0xA010 2 vcoreMA).setO 0 0xA000 4 avg).setO 0 0xA010 3 (max avg (r.d.o 0 0xA010 3))
    if 720000 < avg then r.setHold 2 true else if avg < 700000 then r.setHold 2 false else r

/-! ### Reference clocks (R481) -/

/-- The ports of a half. -/
def halfPorts : Half → List Nat
  | .west => List.range 8
  | .east => (List.range 8).map (8 + ·)

/-- Note the state of a half's reference. -/
def Run.setHalf (r : Run s₀) (h : Half) (on : Bool) : Run s₀ :=
  r.mod fun d => { d with pins := match h with | .west => { d.pins with refW := on } | .east => { d.pins with refE := on } }

/-- The reference of a half is lost: its links go down. -/
def Run.sdLost (r : Run s₀) (h : Half) : Run s₀ :=
  (r.setHalf h false |>.bump 0 0xA040 2).each (halfPorts h) fun r p => if r.d.o p 0x3040 1 == 0 then r else r.linkLost p 0

/-- It returns: links that went down with it are retrained. -/
def Run.sdReturn (r : Run s₀) (h : Half) : Run s₀ :=
  let r := r.setHalf h true
  if !r.d.ready then r
  else r.each (halfPorts h) fun r p =>
    if r.d.o p 0x3040 1 != 0 || bit (r.d.o 0 0xA020 3) p then r else ((r.setO p 0x3040 1 3).bump p 0x3040 6).emit (.retrain p)

/-- REFCLK_SYS is lost: the oscillator takes over, an error record whose kind, severity and details the spec does not state,
DEVALERT_N; no new work is admitted. -/
def Run.sysLost (r : Run s₀) : Run s₀ :=
  if !r.d.pins.refSys || !r.d.pins.pwrgood then r
  else
    let r := (r.mod fun d => { d with pins := { d.pins with refSys := false } }).bump 0 0xA040 2
    let (n, r) := r.draw
    let f (i : Nat) : Nat := (Config.freeByte n i).toNat
    (r.error (mkErr (f 0 + 256 * f 1) (1 + f 2 % 4) 5 0 none 0 (f 3) (f 4))).devalert true

/-- PWRGOOD is deasserted (R474): held in cold reset, every output quiet. -/
def Run.powerDown (r : Run s₀) : Run s₀ :=
  let trip := r.d.pins.thermtrip
  let r := (r.mod fun d => { d with ses := [] }).coldClear
  let r := r.mod fun d => { d with pins := { d.pins with pwrgood := false, thermtrip := false } }
  if trip then r.emit (.pin "THERMTRIP_N" false) else r

end

/-! ### The commands -/

/-- `PWRGOOD_DEASSERT` (R474). -/
def execPwrgoodDeassert (s : State) : Host.Outcome State Fault Refusal := (Run.start s).powerDown.close

/-- `THERMTRIP` (R482): asserted until PWRGOOD is deasserted. -/
def execThermtrip (s : State) : Host.Outcome State Fault Refusal :=
  if !s.dev.pins.pwrgood || s.dev.pins.thermtrip then .next s
  else (((Run.start s).mod fun d => { d with pins := { d.pins with thermtrip := true } }).emit (.pin "THERMTRIP_N" true)).close

/-- `REFCLK_SYS_LOST` (R481). -/
def execRefclkSysLost (s : State) : Host.Outcome State Fault Refusal := (Run.start s).sysLost.close

/-- `REFCLK_SD_LOST` (R481). -/
def execRefclkSdLost (h : Half) (s : State) : Host.Outcome State Fault Refusal :=
  let on := match h with | .west => s.dev.pins.refW | .east => s.dev.pins.refE
  if !on || !s.dev.pins.pwrgood then .next s else ((Run.start s).sdLost h).requestDone

/-- `REFCLK_SD_RETURN` (R481). -/
def execRefclkSdReturn (h : Half) (s : State) : Host.Outcome State Fault Refusal :=
  let on := match h with | .west => s.dev.pins.refW | .east => s.dev.pins.refE
  if on || !s.dev.pins.pwrgood then .next s else ((Run.start s).sdReturn h).requestDone

/-- `PE_REFCLK_LOST` (R481). -/
def execPeRefclkLost (s : State) : Host.Outcome State Fault Refusal :=
  if !s.dev.pins.refPe || !s.dev.pins.pwrgood then .next s
  else (((Run.start s).mod fun d => { d with linkPe := false, pins := { d.pins with refPe := false } }).bump 0 0xA040 2).close

/-- `SPEED_MONITOR_SAMPLE` (R17, R18, R120, R123). -/
def execSpeedMonitorSample (ps : Vector Nat 16) (s : State) : Host.Outcome State Fault Refusal :=
  ((Run.start s).speedSample ps.toList).close

/-- `SPEED_HOLD_END` (R120): every monitor has read 1.15 ns or less for 100 µs. -/
def execSpeedHoldEnd (s : State) : Host.Outcome State Fault Refusal :=
  if s.dev.now < s.dev.pins.slowAt + us 100 then .next s else ((Run.start s).setHold 1 false).requestDone

/-- `JUNCTION_SENSOR_READ` (R482). -/
def execJunctionSensorRead (mC : Vector Int 72) (s : State) : Host.Outcome State Fault Refusal :=
  ((Run.start s).sensors mC.toList).close

/-- `THERMAL_HOLD_END` (R120): every sensor has read 97 °C or less for 1 ms. -/
def execThermalHoldEnd (s : State) : Host.Outcome State Fault Refusal :=
  if s.dev.now < s.dev.pins.hotAt + us 1000 then .next s else ((Run.start s).setHold 0 false).requestDone

/-- `POWER_SAMPLE` (R480, R121). -/
def execPowerSample (vcoreMA mW : Nat) (s : State) : Host.Outcome State Fault Refusal := ((Run.start s).power vcoreMA mW).close

/-- `AVSBUS_TRANSACTION_FAIL` (R476). -/
def execAvsbusTransactionFail (s : State) : Host.Outcome State Fault Refusal := (Run.start s).avsFail.close

/-- `AVSBUS_RETRY` (R476): a transaction on the failing bus is tried again, with the raised target that waits, if one does; one that
succeeds ends the failure. -/
def execAvsbusRetry (ok : Bool) (s : State) : Host.Outcome State Fault Refusal :=
  if s.dev.o 0 0xA010 1 != 2 then .next s
  else
    let r := Run.start s
    let want := s.dev.pins.want
    let r := if want == 0 then r else r.emit (.avs want)
    if !ok then r.close
    else ((r.setO 0 0xA010 1 1).mod fun d => { d with pins := { d.pins with
      busFails := 0, mv := max d.pins.mv want, lowered := if want == 0 then d.pins.lowered else d.now, want := 0 } }).close

/-- `DYNAMIC_ADDRESS_ASSIGNMENT` (R484). -/
def execDynamicAddressAssignment (addr : BitVec 7) (s : State) : Host.Outcome State Fault Refusal :=
  if !s.dev.pins.pwrgood || s.dev.phase == 0 then .next s
  else ((Run.start s).mod fun d => { d with i3c := some addr.toNat }).close

end Sys2Proof.Machine
end

