-- ==== Sys2Proof/Machine/NyborOps.lean ====
section
/-!
DEFINITION. The dictionary's objects as requests see them (chapter 19): availability (R420), rights (R448-R450), selects (R447),
what a read returns, and what a write of each object does. A write's own rule answers its status; the request's way through
them is in Nybor.lean.
-/

namespace Sys2Proof.Machine

/-- How a request ends: with a status, a reason and data, or it has not completed (R446). -/
inductive NyRes where
  | wait
  | done (st : Status) (reason : Nat) (data : List Byte)

/-- What the outside world or a self-timed unit adds to a write that starts something: the boot flash that a cold reset finds,
findings of a scrub, slots that fail a memory test. -/
structure NyX where
  boot   : Option BootFlash := none
  found  : List (Nat × Finding) := []
  failed : List Nat := []

/-- Is an object a string or octets? -/
def ORow.text (o : ORow) : Bool := o.ty == 8 || o.ty == 9

/-- The bytes of a type (Table 19-2). -/
def ORow.bytes (o : ORow) : Nat := if o.ty == 1 then 1 else if o.ty == 2 then 2 else if o.ty == 3 || o.ty == 5 then 4 else 8

/-- The select objects: a block's, and those of the second level (R447). -/
def isSelect (idx sub : Nat) : Bool :=
  (sub == 0 && [0x3000, 0x4000, 0x5000, 0x6000].contains idx)
    || [(0x1030, 2), (0x3F10, 1), (0x3050, 1), (0x6F10, 1), (0x6F20, 1), (0x7010, 2), (0x7020, 1), (0x9020, 1), (0xB020, 1)].contains (idx, sub)

/-- The select of an object's block, if the object is not device-wide (Table 19-6). -/
def blockSelect (idx : Nat) : Option Nat :=
  if 0x3000 ≤ idx && idx < 0x3F00 then some 0x3000
  else if 0x4000 ≤ idx && idx < 0x4080 then some 0x4000
  else if 0x5000 ≤ idx && idx < 0x5F00 then some 0x5000
  else if 0x6000 ≤ idx && idx < 0x6F00 then some 0x6000
  else none

/-- The partition that names a virtual function (R450). -/
def Dev.vfPart (d : Dev) (n : Nat) : Option Nat := (List.range 256).find? fun p => d.o p 0x6050 2 == n

/-- Does a session arrive over I3C, or at the test port with the rights of I3C (R449, Table 20-5)? -/
def Dev.sesI3c (d : Dev) (ses : Nat) : Bool := ses == 82 || (65 ≤ ses && ses ≤ 80 && 256 ≤ d.eids.getD (ses - 65) 0)

/-- The virtual function of a session. -/
def vfOf (ses : Nat) : Option Nat := if 1 ≤ ses && ses ≤ 64 then some ses else none

/-- The value of a select in a session: a virtual function's partition select holds its partition (R450). -/
def Dev.selVal (d : Dev) (ses idx sub : Nat) : Nat :=
  match vfOf ses with
  | some n => if idx == 0x6000 then (d.vfPart n).getD 0 else d.sel ses idx sub
  | none => d.sel ses idx sub

/-- The instance that an object acts on. -/
def Dev.instOf (d : Dev) (ses idx : Nat) : Nat := match blockSelect idx with | some i => d.selVal ses i 0 | none => 0

/-- Does an object apply to the kind of instance selected (R447)? -/
def instFits (idx inst : Nat) : Bool :=
  if idx == 0x5010 || idx == 0x5030 then inst < 256 else if idx == 0x5100 || idx == 0x5110 then 256 ≤ inst else true

/-- The phase reached, a failed one counting as the phase it failed in. -/
def Dev.phaseNo (d : Dev) : Nat := if 0x80 ≤ d.phase then d.phase - 0x80 else d.phase

/-- Is a request answered `BUSY`, reason BRINGUP (R420, R451)? -/
def Dev.nyClosed (d : Dev) (ses : Nat) (q : NReq) : Bool :=
  if ses == imageSes then false
  else if d.bring.draining then true
  else if d.ready then false
  else
    let served := (if d.sesI3c ses then 2 else 3) ≤ d.phaseNo
    let open_ := q.index / 0x1000 == 1 || q.index / 0x1000 == 9
    !served || (if q.opc == 2 then !(q.index == 0x6F00 && q.sub == 1) else !open_)

/-- What R450 gives a virtual function to read. -/
def vfReads (named : Bool) (idx : Nat) : Bool :=
  idx / 0x1000 == 1 || (named && (idx == 0x2010 || (0x6000 ≤ idx && idx < 0x6F00) || idx == 0x9020))

/-- Does a session lack the right for a request (R449, R450)? -/
def Dev.nyDenied (d : Dev) (ses : Nat) (q : NReq) (row : Option ORow) : Bool :=
  match vfOf ses with
  | some n =>
    match d.vfPart n with
    | none => q.opc == 2 || !vfReads false q.index
    | some p =>
      if q.opc != 2 then !vfReads true q.index
      else if q.index == 0x6000 && q.sub == 0 then leNat q.data != p
      else match row with
        | some o => !bit o.acc 5 || (q.index == 0x6070 && q.sub == 1 && leNat q.data != 2)
        | none => true
  | none => match row with
    | some o => q.opc == 2 && bit o.acc 2 && d.sesI3c ses
    | none => false

/-! ### Reads -/

/-- The bit of a condition at a place. -/
def flag (i : Nat) (b : Bool) : Nat := if b then 2 ^ i else 0

/-- The phase of the last cold bring-up, READY as 7: a warm fast path leaves domains and clocks on (Tables 18-1, 21-6). -/
def Dev.reached (d : Dev) : Nat :=
  if d.o 0 0x1020 2 == 0 then d.phaseNo else match d.bring.coldFail with | some (p, _) => p | none => 7

/-- Domains other than the slice groups that are on (Table 21-6, R479). -/
def Dev.domains (d : Dev) : Nat :=
  let n := d.reached
  let unused := d.o 0 0xA020 3
  (if 4 ≤ n then 255 else 0) + ((List.range 16).map fun p => flag (8 + p) (5 ≤ n && !bit unused p)).sum + flag 24 (2 ≤ n)
    + ((List.range 4).map fun g => flag (25 + g) (4 ≤ n && (List.range 8).any fun c => !d.bring.nandBad.contains (8 * g + c))).sum
    + ((List.range 8).map fun k => flag (29 + k) (6 ≤ n && d.o (256 + k) 0x5100 1 != 2)).sum
    + flag 37 d.pins.pwrgood + flag 38 (2 ≤ n) + flag 39 (2 ≤ n)

/-- The lock state of the 40 clock domains, in the order of R481. -/
def Dev.locks (d : Dev) : Nat :=
  let n := d.reached
  let unused := d.o 0 0xA020 3
  ((List.range 40).map fun i => flag i (
    if 8 ≤ i && i < 16 then 2 ≤ n && d.pins.refW && !bit unused (i - 8)
    else if 16 ≤ i && i < 24 then 2 ≤ n && d.pins.refE && !bit unused (i - 8)
    else if i == 24 then 2 ≤ n && d.pins.refPe
    else if i == 39 then 2 ≤ n
    else 2 ≤ n && d.pins.refSys)).sum

/-- The highest of some readings, in two's complement of 32 bits; 0 where there are none. -/
def hottest (ts : List Int) : Nat :=
  match ts with
  | [] => 0
  | t :: rest => (rest.foldl max t % 4294967296).toNat

/-- The 64 bytes of an error record, Table 17-3. -/
def recBytes (e : ERec) : List Byte :=
  leBytes 4 e.seq ++ leBytes 2 e.kind ++ leBytes 1 e.sev ++ leBytes 1 e.unit ++ leBytes 2 e.loc
    ++ leBytes 2 (match e.part with | some p => 256 + p | none => 0) ++ leBytes 1 e.agent ++ leBytes 1 e.count ++ zeros 2
    ++ leBytes 8 e.addr ++ leBytes 8 e.time ++ leBytes 8 e.d0 ++ leBytes 8 e.d1 ++ leBytes 8 e.d2 ++ zeros 8

/-- The physical cluster of a logical one. -/
def Dev.physCluster (d : Dev) (k : Nat) : Nat :=
  match d.cmap.get? k with | some x => x | none => if h : k < 8 then (Config.fusedCluster ⟨k, h⟩).val else 0

/-- Lines poisoned now (R413): in T0, T1 and the cache, in flash where no valid cache line hides them, and in copies; not of LOST
granules. -/
def State.poisonedNow (s : State) : Nat :=
  let live (l : Nat) : Bool := match s.dev.g? (l * 64) with | some g => g.state != 2 | none => false
  (s.bad.filter live).length + (s.fbad.filter fun l => live l && !s.dev.lineValid (l * 64)).length + s.cbad.length

/-- Dirty lines in the cache (0x4080:06). -/
def Dev.dirtyLines (d : Dev) : Nat :=
  (d.frames.map fun f => ((List.range 256).filter fun i => f.2.dirty.getLsbD i).length).sum

/-- Objects whose value is not one that is stored: identity, counts of what is there now, the state of units. -/
def State.shown (s : State) (ses inst idx sub : Nat) : Nat :=
  let d := s.dev
  let key := idx * 256 + sub
  let ts := d.pins.temps
  let x := d.ses.getD ses {}
  if isSelect idx sub then d.selVal ses idx sub
  else match key with
  | 0x100005 => Config.serial.toNat
  | 0x100006 => match Config.fwHeader d.bring.firmware with | some f => f.1 | none => 0
  | 0x102003 => if 1 ≤ d.phase && d.phase ≤ 6 then d.upMs else d.o 0 0x1020 3
  | 0x102009 => d.waitMs
  | 0x103001 => d.bring.report.length
  | 0x3F0002 => d.relief.length
  | 0x301001 => d.roleSet inst
  | 0x305002 => d.identP.getD (inst * 128 + d.sel ses 0x3050 1) 0xFFFF
  | 0x401003 => hottest ((ts.drop (64 + inst)).take 1)
  | 0x408002 => d.freeCount 0
  | 0x408003 => d.freeCount 1
  | 0x408004 => if d.reached < 5 then 0 else d.freeCount 2
  | 0x408005 => d.frameCount - d.badFrames.length
  | 0x408006 => d.dirtyLines
  | 0x501002 => d.physSliceNo inst
  | 0x503001 => (d.dir.filter fun e => d.homeSlice (e.1 * 64) == inst).length
  | 0x503002 => (d.dir.filter fun e => e.2.ovf && d.homeSlice (e.1 * 64) == inst).length
  | 0x510003 => d.physCluster (inst % 256)
  | 0x510006 => 0
  | 0x605007 => d.tierUse inst 0
  | 0x605008 => d.tierUse inst 1
  | 0x605009 => d.tierUse inst 2
  | 0x60500A => ((d.gran.filter fun g => g.2.part == inst && !d.revoked.contains (g.1 / 512)).map fun g => g.1 / 512).dedup.length
  | 0x607001 => 0
  | 0x607005 => d.drainCount inst
  | 0x6F0001 => 0
  | 0x6F0002 => 255
  | 0x6F1002 => d.ctrOwn.getD (d.sel ses 0x6F10 1) 0
  | 0x6F2002 => d.castOwn.getD (d.sel ses 0x6F20 1) 0
  | 0x700003 => match d.kpairs.find? fun k => k.2.1 == d.self || k.2.2 == d.self with
    | some (i, _) => i + 256 * b2n (d.keeperOf i == d.self)
    | none => 0xFFFF
  | 0x701003 => let (a, b) := d.kpairs.getD (d.sel ses 0x7010 2) (0, 0); a + 65536 * b
  | 0x703006 => b2n d.prop.isSome
  | 0x704004 => d.depart.length
  | 0x704005 => d.fwds.length
  | 0x800003 => flag 0 (d.twinPorts.contains 14) + flag 1 (d.twinPorts.contains 15)
  | 0x801001 => d.protCount false
  | 0x801002 => d.protCount true
  | 0x801003 => d.copies.length
  | 0x801004 => d.exposed.length
  | 0x801005 => d.resync.length
  | 0x900005 => s.poisonedNow
  | 0x901003 => if d.patinaLines == 0 then 0 else d.patSeen.length * 100 / d.patinaLines
  | 0xA00001 => floorMv
  | 0xA00002 => if d.pins.mv == 0 then nominalMv else d.pins.mv
  | 0xA00003 => hottest ts
  | 0xA02001 => if 2 ≤ d.reached then 2 ^ 64 - 1 else 0
  | 0xA02002 => d.domains
  | 0xA03001 => hottest (ts.take 64)
  | 0xA03002 => hottest (ts.drop 64)
  | 0xA04001 => d.locks
  | 0xB00001 => Config.vendorRevoked.toNat % 16
  | 0xB00002 => flag 0 (d.ownerBurnt 0) + flag 1 (d.ownerBurnt 1) + flag 2 (d.ownRev.contains 0) + flag 3 (d.ownRev.contains 1)
  | 0xB00003 => d.fusedSvn
  | 0xB02003 => 0
  | 0xB02004 => d.keyIds.getD (d.sel ses 0xB020 1) 0
  | 0xB03009 => 0
  | 0xB0300A => x.rstate
  | 0xB04002 => d.chal.toNat
  | 0xB04003 => 0
  | 0xC00001 => (d.pairs.filter fun p => p.2.chain.isSome).length
  | _ =>
    if idx == 0x1030 then leNat (((d.bring.report.getD (d.sel ses 0x1030 2) []).drop (8 * (sub - 3))).take 8)
    else if idx == 0x3F10 then d.pathEnt (d.sel ses 0x3F10 1) (sub - 2)
    else if idx == 0xB030 && sub ≤ 8 then x.nonce.getD sub 0
    else d.o inst idx sub

/-- The bytes of a string or octet object. -/
def Dev.octets (d : Dev) (ses idx sub : Nat) : List Byte :=
  if idx == 0x1000 then "K96-8H".toUTF8.toList.map fun c => BitVec.ofNat 8 c.toNat
  else if idx == 0xB010 then (if sub == 1 then d.bring.boot.cert else Config.certificate sub d.bring.firmware).take 57344
  else (d.ses.getD ses {}).report

/-- The largest size of a string or octet object. -/
def textSize (idx : Nat) : Nat := if idx == 0x1000 then 6 else if idx == 0xB010 then 57344 else 50368

/-- Objects whose default the fuses or the firmware give. -/
def fusedObject (idx sub : Nat) : Bool :=
  [(0x1000, 5), (0x1000, 6), (0x5010, 2), (0x5100, 3), (0xA000, 1), (0xA000, 2), (0xB000, 1), (0xB000, 2), (0xB000, 3)].contains (idx, sub)

/-- The description of an object, Table 19-5. -/
def State.describe (s : State) (ses : Nat) (q : NReq) (o : ORow) : List Byte :=
  let inst := s.dev.instOf ses q.index
  let dflt := if fusedObject q.index q.sub then s.shown ses inst q.index q.sub else objDefault inst q.index q.sub
  leBytes 1 o.ty ++ leBytes 1 o.acc ++ zeros 2 ++ leBytes 4 (if o.text then textSize q.index else o.bytes)
    ++ (if o.text then zeros 24 else leBytes 8 dflt ++ leBytes 8 o.min_ ++ leBytes 8 o.max_)

section
variable {s₀ : State}

/-- Read the selected error record (R417): `BUSY` if it has been overwritten; a virtual function reads those of its partition. -/
def Run.readRecord (r : Run s₀) (ses sub : Nat) : NyRes :=
  let d := r.d
  let n := d.sel ses 0x9020 1
  match d.ring.find? fun e => e.seq % 2 ^ 32 == n with
  | some e =>
    let mine := match vfOf ses with | some f => (d.vfPart f).isSome && e.part == d.vfPart f | none => true
    if mine then .done .ok 0 (((recBytes e).drop (8 * (sub - 2))).take 8) else .done .denied 5 []
  | none =>
    let back := (d.eseq + 2 ^ 32 - n) % 2 ^ 32
    if 1 ≤ back && back ≤ min d.eseq (2 ^ 31) then .done .busy 7 [] else .done .ok 0 (zeros 8)

/-- Read the selected extent's entry, fetched from its keeper (R364, R369). -/
def Run.readEntry (r : Run s₀) (ses sub : Nat) (again : Bool) : NyRes × Run s₀ :=
  let e := r.d.sel ses 0x7020 1
  let give (x : MaqEntry) : NyRes := .done .ok 0 (((maqBytes x).drop (8 * (sub - 2))).take 8)
  if r.d.keeperFor e == r.d.self then (give (r.d.kept e), r)
  else if !again then (.wait, r.fetchEntry e)
  else if r.d.fetch.has e then (.wait, r)
  else (give (match r.d.maq.get? e with | some c => c.entry | none => {}), r)

/-! ### Writes -/

/-- A write that is stored and has no rule beyond its range. -/
def Run.stores (r : Run s₀) (inst idx sub v : Nat) : NyRes × Run s₀ := (.done .ok 0 [], r.setO inst idx sub v)

/-- The status of an object's own rule. -/
def ruled (x : Status × Run s₀) : NyRes × Run s₀ := (.done x.1 (if x.1 == .ok then 0 else 7) [], x.2)

/-- The same of a rule that may complete later. -/
def ruledLater (x : Option Status × Run s₀) : NyRes × Run s₀ :=
  match x with
  | (some st, r) => ruled (st, r)
  | (none, r) => (.wait, r)

/-- A value outside the object's range. -/
def outOfRange (r : Run s₀) : NyRes × Run s₀ := (.done .fault 3 [], r)

/-- A limit of R101: the sum of an object over all partitions, with the new value in place of the old one. -/
def Dev.sumWith (d : Dev) (part idx sub v : Nat) : Nat :=
  ((List.range 256).map fun p => if p == part then v else d.o p idx sub).sum

/-- Does a partition use a port (R101): is one of the port's identities bound to it, or is the port one that any partition's requests
may cross (DEDUCED, log entry 171)? -/
def Dev.usesPort (d : Dev) (p part : Nat) : Bool :=
  match d.roleSet p with
  | 1 | 2 => d.identP.any fun e => e.1 / 128 == p && e.2 == part
  | 0 => false
  | _ => true

/-- The per-port B rates of the partitions that use port `p`, with the new value of partition `part` in place of the old one. -/
def Dev.portSumWith (d : Dev) (p part v : Nat) : Nat :=
  ((List.range 256).map fun q => if d.usesPort p q then (if q == part then v else d.o q 0x6010 4) else 0).sum

/-- A write of a Table 4-5 object under R101. -/
def Run.shareWrite (r : Run s₀) (part sub v : Nat) : NyRes × Run s₀ :=
  let beyond : Bool := match sub with
    | 2 => r.d.o 0 0x2000 4 < r.d.sumWith part 0x6010 2 v
    | 3 => 6000000 < r.d.sumWith part 0x6010 3 v
    | 4 => (List.range 16).any fun p => 50000 < r.d.portSumWith p part v
    | 5 => 80000 < r.d.sumWith part 0x6010 5 v
    | 6 => 25000 < r.d.sumWith part 0x6010 6 v
    | _ => false
  if sub == 2 && v == 1 then outOfRange r
  else if beyond then ruled (.denied, r)
  else r.stores part 0x6010 sub v

/-- A write of an ASID range (R63, Table 14-3). -/
def Run.asidWrite (r : Run s₀) (part sub v : Nat) : Status × Run s₀ :=
  let first := if sub == 3 then v else r.d.o part 0x6050 3
  let count := if sub == 4 then v else r.d.o part 0x6050 4
  let clash := (List.range 256).any fun p => p != part &&
    (let a := r.d.o p 0x6050 3
     let n := r.d.o p 0x6050 4
     0 < n && 0 < count && first < a + n && a < first + count)
  if v == r.d.o part 0x6050 sub then (.ok, r)
  else if clash || 65536 < first + count || r.d.roots.any fun x => r.d.ownsAsid part x.1 then (.denied, r)
  else (.ok, r.setO part 0x6050 sub v)

/-- A write of the control function (R347, R450): the functions it concerns lose their requests and selects. -/
def Run.controlFunction (r : Run s₀) (part n : Nat) : Status × Run s₀ :=
  let old := r.d.o part 0x6050 2
  if n != 0 && ((List.range 256).any fun p => p != part && r.d.o p 0x6050 2 == n) then (.denied, r)
  else if n == old then (.ok, r)
  else
    let r := r.setO part 0x6050 2 n
    (.ok, r.each ([old, n].filter (· != 0)) fun r f => (r.nyFlush f .denied 5).updSes f fun x => { x with sel := [] })

/-- A write of a queue's object (R215, Table 8-1). -/
def Run.queueWrite (r : Run s₀) (part q sub v : Nat) : NyRes × Run s₀ :=
  let pow2 := v != 0 && v &&& (v - 1) == 0
  match sub with
  | 1 => if v % 4096 != 0 then outOfRange r else ruled (r.ringBase part q v)
  | 0x0C => r.stores part (0x6040 + q) sub v
  | _ =>
    if (sub == 2 && !pow2) || (sub == 3 && v % 4096 != 0) || (sub == 8 && v % 64 != 0) || (sub == 7 && 0x7FFF < v && v != 0xFFFF) then outOfRange r
    else if r.d.o part (0x6040 + q) 1 != 0 then ruled (.busy, r)
    else if sub == 7 then ruled (r.doorbellCtr part q v)
    else r.stores part (0x6040 + q) sub v

/-- A write of a path entry (R198). An entry that changes is another path: it is not lost, and the streams pinned to the old one move. A
device without a valid entry is unreachable at once. -/
def Run.pathWrite (r : Run s₀) (dst i v : Nat) : Status × Run s₀ :=
  if v / 128 != 0 || (bit v 6 && r.d.roleSet (v % 16) != 3) then (.denied, r)
  else if v == r.d.pathEnt dst i then (.ok, r)
  else
    let e (j : Nat) : Nat := if j == i then v else r.d.pathEnt dst j
    let r := r.mod fun d => { d with paths := d.paths.set dst (e 0, e 1, e 2, e 3), lost := d.lost.del (dst * 4 + i) }
    if bit v 6 then (.ok, r.pathBack dst i)
    else
      let r := r.movePath dst i
      (.ok, if (r.d.validPaths dst).isEmpty && !r.d.unreach.has dst then r.cutOff dst else r)

/-- A write of the aperture generation (R335): every cluster drops its cached entries; it completes when every access translated
before has ended. -/
def Run.apertureWrite (r : Run s₀) (v : Nat) (again : Bool) : NyRes × Run s₀ :=
  let r := if again then r
    else
      let hs := (r.d.harts.filter fun h => match h.2.pend with | some x => x.sa.isSome | none => false).map Prod.fst
      (r.setO 0 0x5F00 2 v).mod fun d => { d with apert := [], apDrain := hs }
  let open_ := r.d.apDrain.any fun h => ((r.d.harts.getD h {}).pend).isSome
  (if open_ then .wait else .done .ok 0 [], r)

/-- An owner of a block: a partition, or 0xFFFF. -/
def ownerOk (v : Nat) : Bool := v ≤ 255 || v == 0xFFFF

/-- What a write of an object within its row's range does. -/
def Run.oWrite (r : Run s₀) (ses inst idx sub v : Nat) (x : NyX) (again : Bool) : NyRes × Run s₀ :=
  if 0x6040 ≤ idx && idx ≤ 0x604F then r.queueWrite inst (idx - 0x6040) sub v
  else match idx with
  | 0x1040 => (match sub with
    | 2 => ruled (r.testCommand v x.found x.failed)
    | 4 => if v % 2 ^ 21 != 0 then outOfRange r else r.stores 0 idx sub v
    | _ => r.stores 0 idx sub v)
  | 0x2000 => if v < r.d.sumWith 256 0x6010 2 0 then ruled (.denied, r) else r.stores 0 idx sub v
  | 0x3010 => ruled (r.roleWrite inst v)
  | 0x3050 => if ownerOk v then ruled (r.identity inst (r.d.sel ses 0x3050 1) v) else outOfRange r
  | 0x3F10 => ruled (r.pathWrite (r.d.sel ses 0x3F10 1) (sub - 2) v)
  | 0x4080 => if splitOk v then ruledLater (r.splitChange ses v) else outOfRange r
  | 0x4090 => if v == 0xFFFFFFFF then (.done .ok 0 [], r) else (.done .ok 0 [], (r.setO 0 idx sub v).mod fun d => { d with bring := { d.bring with rows := Marks.add d.bring.rows v } })
  | 0x5010 => ruled (r.quarantineWrite inst v)
  | 0x5100 =>
    if sub == 4 then (if v % 100 != 0 then outOfRange r else r.stores inst idx sub v)
    else (.done .ok 0 [], if v == 1 && r.d.ready then r.clusterReset (inst % 256) else r)
  | 0x5F00 =>
    if sub == 2 then r.apertureWrite v again
    else if v % 16384 != 0 then outOfRange r else r.stores 0 idx sub v
  | 0x6010 => r.shareWrite inst sub v
  | 0x6020 =>
    if (sub == 1 && v % 4096 != 0) || (sub == 2 && v &&& (v - 1) != 0) then outOfRange r else r.stores inst idx sub v
  | 0x6030 =>
    if sub == 1 && 768 < r.d.sumWith inst idx 1 v then ruled (.denied, r) else r.stores inst idx sub v
  | 0x6050 =>
    if sub == 2 then ruled (r.controlFunction inst v)
    else if sub == 3 || sub == 4 then ruled (r.asidWrite inst sub v)
    else r.stores inst idx sub v
  | 0x6060 => ruled (r.routeWrite inst sub v)
  | 0x6070 =>
    if sub == 1 then ruled (r.partCommand inst v)
    else if sub == 2 then ruledLater (r.revoke inst v again)
    else ruledLater (r.grant inst v again)
  | 0x6F00 =>
    if sub == 2 then (.done .ok 0 [], ((r.portReset v none).portResetEnd v)) else (.done .ok 0 [], r)
  | 0x6F10 => if ownerOk v then ruled (r.ctrBlock (r.d.sel ses 0x6F10 1) v) else outOfRange r
  | 0x6F20 => if ownerOk v then ruled (r.castBlock (r.d.sel ses 0x6F20 1) v) else outOfRange r
  | 0x7010 =>
    if sub == 3 then (.done .ok 0 [], r.mod fun d => { d with kpairs := d.kpairs.set (d.sel ses 0x7010 2) (v % 16384, v / 65536 % 16384) })
    else r.stores 0 idx sub v
  | 0x7030 => if sub == 6 then ruled r.propose else r.stores 0 idx sub v
  | 0x8000 => if sub == 5 then ruled (r.pairCommand v) else r.stores 0 idx sub v
  | 0xB000 => if sub == 4 then ruled (r.ownerBurn v) else ruled (r.ownerRevoke v)
  | 0xB020 => if sub == 3 then ruledLater (r.keyCommand (r.d.sel ses 0xB020 1) v) else r.stores 0 idx sub v
  | 0xB030 =>
    if sub == 9 then ruled (r.reportStart ses)
    else (.done .ok 0 [], r.updSes ses fun x => { x with nonce := x.nonce.set sub v })
  | 0xB040 => (.done .ok 0 [], r.debugEnd)
  | _ => r.stores inst idx sub v

end

end Sys2Proof.Machine
end

