-- ==== Sys2Proof/Machine/Nybor.lean ====
section
/-!
DEFINITION. Requests of dictionary sessions (R443-R450): the way a READ, WRITE or DESCRIBE takes through the checks of Table
19-4, the order of a session's requests, and the commands that are writes of one object in a session.
-/

namespace Sys2Proof.Machine

/-- The WRITE of a number to an object. -/
def wr (idx sub v : Nat) : NReq :=
  let n := match oRow? idx sub with | some o => o.bytes | none => 1
  { opc := 2, index := idx, sub := sub, length := n, data := leBytes n v }

section
variable {s₀ : State}

/-- A WRITE whose session may make it: LENGTH, SELECT, RANGE, then the object's own rule. -/
def Run.nyWrite (r : Run s₀) (ses : Nat) (q : NReq) (o : ORow) (x : NyX) (again : Bool) : NyRes × Run s₀ :=
  let inst := r.d.instOf ses q.index
  let v := leNat q.data
  if q.length != o.bytes || q.data.length != o.bytes || q.offset != 0 then (.done .fault 2 [], r)
  else if isSelect q.index q.sub then
    if o.max_ < v || (q.index == 0x7010 && r.d.o 0 0x7010 1 ≤ v && v != 0) then (.done .fault 6 [], r)
    else if q.index == 0x6000 && (vfOf ses).isSome then (.done .ok 0 [], r)
    else (.done .ok 0 [], r.updSes ses fun y => { y with sel := y.sel.set (q.index * 256 + q.sub) v })
  else if !instFits q.index inst then (.done .fault 6 [], r)
  else if v < o.min_ || o.max_ < v then (.done .fault 3 [], r)
  else r.oWrite ses inst q.index q.sub v x again

/-- A READ: of a number, or of a string's bytes from OFFSET on. -/
def Run.nyRead (r : Run s₀) (ses : Nat) (q : NReq) (o : ORow) (again : Bool) : NyRes × Run s₀ :=
  if o.text then
    let bs := r.d.octets ses q.index q.sub
    if bs.length < q.offset || 1024 < q.length then (.done .fault 2 [], r)
    else (.done .ok 0 ((bs.drop q.offset).take q.length), r)
  else if q.length != 0 || q.offset != 0 then (.done .fault 2 [], r)
  else
    let inst := r.d.instOf ses q.index
    if !instFits q.index inst then (.done .fault 6 [], r)
    else if q.index == 0x9020 && q.sub != 1 then (r.readRecord ses q.sub, r)
    else if q.index == 0x7020 && q.sub != 1 then r.readEntry ses q.sub again
    else (.done .ok 0 (leBytes o.bytes (r.cur.shown ses inst q.index q.sub)), r)

/-- One request through the checks of Table 19-4. -/
def Run.nyDo (r : Run s₀) (ses : Nat) (q : NReq) (x : NyX) (again : Bool) : NyRes × Run s₀ :=
  let row := oRow? q.index q.sub
  if !q.formed then (.done .fault 9 [], r)
  else if r.d.nyClosed ses q then (.done .busy 8 [], r)
  else if r.d.nyDenied ses q row then (.done .denied 5 [], r)
  else match row with
    | none => (.done .fault 1 [], r)
    | some o =>
      if q.opc == 3 then
        (if q.length != 0 || q.offset != 0 then .done .fault 2 [] else .done .ok 0 (r.cur.describe ses q o), r)
      else if q.opc == 1 then r.nyRead ses q o again
      else if !bit o.acc 1 || o.text || (bit o.acc 3 && ses != imageSes) then (.done .denied 4 [], r)
      else r.nyWrite ses q o x again

/-- Perform a request and answer it, or hold its session; a write of 0x6F00:01 is acknowledged before the reset it starts. -/
def Run.nyTry (r : Run s₀) (ses : Nat) (q : NReq) (x : NyX) (again : Bool) : Bool × Run s₀ :=
  match r.nyDo ses q x again with
  | (.wait, r) =>
    let r := r.updSes ses fun y => { y with busy := some q }
    (false, if ses ≤ 64 then r.mod fun d => { d with fns := d.fns.upd ses fun f => { f with mbxState := 1 } } else r)
  | (.done st reason data, r) =>
    let r := (r.updSes ses fun y => { y with busy := none }).nyAnswer ses q st reason data
    if q.opc == 2 && q.index == 0x6F00 && q.sub == 1 && st == .ok then (false, r.deviceReset (leNat q.data) x.boot) else (true, r)

/-- The requests held behind one that has completed (R444). -/
def Run.nyNext (r : Run s₀) (ses : Nat) : Nat → Run s₀
  | 0 => r
  | n + 1 =>
    match (r.d.ses.getD ses {}).queue with
    | [] => r
    | q :: rest =>
      match (r.updSes ses fun y => { y with queue := rest }).nyTry ses q {} false with
      | (true, r) => r.nyNext ses n
      | (false, r) => r

/-- A request that arrives in a session. While one is under way, a mailbox takes none (R439) and an MCTP session holds up to
eight (R442, R444); the same request again asks whether it can complete now. Nothing arrives over a link that is down, or while
the device is held in reset. -/
def Run.nyReq (r : Run s₀) (ses : Nat) (q : NReq) (x : NyX) : Run s₀ :=
  let y := r.d.ses.getD ses {}
  let pcie := ses ≤ 64 || (ses ≤ 80 && !r.d.sesI3c ses)
  if !r.d.pins.pwrgood || r.d.phase == 0 || (pcie && !r.d.linkPe) || (ses == 82 && r.d.debug != 1) then r
  else
    let go (again : Bool) : Run s₀ := match r.nyTry ses q x again with
      | (true, r) => r.nyNext ses 8
      | (false, r) => r
    match y.busy with
    | none => go false
    | some b =>
      if b == q then go true
      else if ses ≤ 64 || 7 ≤ y.queue.length then r
      else r.updSes ses fun y => { y with queue := y.queue ++ [q] }

/-- Requests that wait for an event are tried again. -/
def Run.nyPoke (r : Run s₀) : Run s₀ :=
  r.each r.d.ses fun r e => match e.2.busy with
    | none => r
    | some q => match r.nyTry e.1 q {} true with
      | (true, r) => r.nyNext e.1 8
      | (false, r) => r

/-- The end of a command in a session: what it let go on goes on. -/
def Run.session (r : Run s₀) (ses : Session) (q : NReq) (x : NyX := {}) : Host.Outcome State Fault Refusal :=
  (r.nyReq (sesNum ses) q x).requestDone

/-- A proposal of a kind: its start in a session (R371), or the answer that it waits for. -/
def Run.proposal (r : Run s₀) (ses : Session) (kind : Nat) (answer : Option PropAnswer) : Host.Outcome State Fault Refusal :=
  match answer with
  | some a => (r.propAnswer kind a.status.toNat a.epoch.toNat).requestDone
  | none => if r.d.o 0 0x7030 1 == kind then r.session ses (wr 0x7030 6 1) else r.close

end

/-! ### The commands -/

/-- `NYBOR_READ` (R443-R449): of a number, or of the first 1,024 bytes of a string. -/
def execNyborRead (ses : Session) (index : BitVec 16) (sub : BitVec 8) (s : State) : Host.Outcome State Fault Refusal :=
  let text := match oRow? index.toNat sub.toNat with | some o => o.text | none => false
  (Run.start s).session ses { opc := 1, index := index.toNat, sub := sub.toNat, length := if text then 1024 else 0 }

/-- `NYBOR_WRITE` (R443-R449). -/
def execNyborWrite (ses : Session) (index : BitVec 16) (sub : BitVec 8) (value : List Byte) (s : State) :
    Host.Outcome State Fault Refusal :=
  (Run.start s).session ses { opc := 2, index := index.toNat, sub := sub.toNat, length := value.length, data := value }

/-- `NYBOR_DESCRIBE` (R445, Table 19-5). -/
def execNyborDescribe (ses : Session) (index : BitVec 16) (sub : BitVec 8) (s : State) : Host.Outcome State Fault Refusal :=
  (Run.start s).session ses { opc := 3, index := index.toNat, sub := sub.toNat }

/-- `SPLIT_CHANGE` (R31). -/
def execSplitChange (ses : Session) (c : BitVec 64) (s : State) : Host.Outcome State Fault Refusal :=
  (Run.start s).session ses (wr 0x4080 1 c.toNat)

/-- `APERTURE_GENERATION` (R335). -/
def execApertureGeneration (ses : Session) (value : BitVec 64) (s : State) : Host.Outcome State Fault Refusal :=
  (Run.start s).session ses (wr 0x5F00 2 value.toNat)

/-- `ROUTE_WRITE` (R349, R350). -/
def execRouteWrite (ses : Session) (sub : Fin 21) (value : BitVec 64) (s : State) : Host.Outcome State Fault Refusal :=
  (Run.start s).session ses (wr 0x6060 (sub.val + 1) value.toNat)

/-- `PARTITION_ACTIVATE` (R354). -/
def execPartitionActivate (ses : Session) (s : State) : Host.Outcome State Fault Refusal :=
  (Run.start s).session ses (wr 0x6070 1 1)

/-- `PARTITION_RESET` (R353). -/
def execPartitionReset (ses : Session) (s : State) : Host.Outcome State Fault Refusal :=
  (Run.start s).session ses (wr 0x6070 1 2)

/-- `PARTITION_RELEASE` (R354). -/
def execPartitionRelease (ses : Session) (s : State) : Host.Outcome State Fault Refusal :=
  (Run.start s).session ses (wr 0x6070 1 3)

/-- `REVOKE_EXTENT` (R359). -/
def execRevokeExtent (ses : Session) (e : BitVec 32) (s : State) : Host.Outcome State Fault Refusal :=
  (Run.start s).session ses (wr 0x6070 2 e.toNat)

/-- `GRANT_EXTENT` (R362). -/
def execGrantExtent (ses : Session) (e : BitVec 32) (s : State) : Host.Outcome State Fault Refusal :=
  (Run.start s).session ses (wr 0x6070 3 e.toNat)

/-- `COUNTER_BLOCK_OWNER` (R346). -/
def execCounterBlockOwner (ses : Session) (value : BitVec 16) (s : State) : Host.Outcome State Fault Refusal :=
  (Run.start s).session ses (wr 0x6F10 2 value.toNat)

/-- `CAST_BLOCK_OWNER` (R346). -/
def execCastBlockOwner (ses : Session) (value : BitVec 16) (s : State) : Host.Outcome State Fault Refusal :=
  (Run.start s).session ses (wr 0x6F20 2 value.toNat)

/-- `IDENTITY_PARTITION` (R345). -/
def execIdentityPartition (ses : Session) (value : BitVec 16) (s : State) : Host.Outcome State Fault Refusal :=
  (Run.start s).session ses (wr 0x3050 2 value.toNat)

/-- `DOORBELL_COUNTER_WRITE` (R143, R215). -/
def execDoorbellCounterWrite (ses : Session) (q : Fin 16) (value : BitVec 16) (s : State) : Host.Outcome State Fault Refusal :=
  (Run.start s).session ses (wr (0x6040 + q.val) 7 value.toNat)

/-- `QUEUE_RING_BASE_WRITE` (R215, R216). -/
def execQueueRingBaseWrite (ses : Session) (q : Fin 16) (value : BitVec 64) (s : State) : Host.Outcome State Fault Refusal :=
  (Run.start s).session ses (wr (0x6040 + q.val) 1 value.toNat)

/-- `DEVICE_RESET_WARM` (R352, Table 14-6). -/
def execDeviceResetWarm (ses : Session) (s : State) : Host.Outcome State Fault Refusal :=
  (Run.start s).session ses (wr 0x6F00 1 1)

/-- `DEVICE_RESET_COLD` (R419, Table 14-6). -/
def execDeviceResetCold (ses : Session) (boot : Option BootFlash) (s : State) : Host.Outcome State Fault Refusal :=
  (Run.start s).session ses (wr 0x6F00 1 2) { boot := boot }

/-- `PORT_ROLE_WRITE` (R20, R21, R479). -/
def execPortRoleWrite (ses : Session) (role : BitVec 8) (s : State) : Host.Outcome State Fault Refusal :=
  (Run.start s).session ses (wr 0x3010 1 role.toNat)

/-- `PROPOSAL_ASSIGN` (R371, R372). -/
def execProposalAssign (ses : Session) (answer : Option PropAnswer) (s : State) : Host.Outcome State Fault Refusal :=
  (Run.start s).proposal ses 1 answer

/-- `PROPOSAL_UNASSIGN` (R371, R373). -/
def execProposalUnassign (ses : Session) (answer : Option PropAnswer) (s : State) : Host.Outcome State Fault Refusal :=
  (Run.start s).proposal ses 2 answer

/-- `PROPOSAL_ROLE` (R371, R381). -/
def execProposalRole (ses : Session) (answer : Option PropAnswer) (s : State) : Host.Outcome State Fault Refusal :=
  (Run.start s).proposal ses 3 answer

/-- `PROPOSAL_MARKFAIL` (R371, R382, R393). -/
def execProposalMarkfail (ses : Session) (answer : Option PropAnswer) (s : State) : Host.Outcome State Fault Refusal :=
  (Run.start s).proposal ses 4 answer

/-- `PAIR` (R398). -/
def execPair (ses : Session) (s : State) : Host.Outcome State Fault Refusal :=
  (Run.start s).session ses (wr 0x8000 5 1)

/-- `DETACH` (R398). -/
def execDetach (ses : Session) (s : State) : Host.Outcome State Fault Refusal :=
  (Run.start s).session ses (wr 0x8000 5 2)

/-- `YIELD` (R398). -/
def execYield (ses : Session) (s : State) : Host.Outcome State Fault Refusal :=
  (Run.start s).session ses (wr 0x8000 5 3)

/-- `KATNOW` (R434). -/
def execKatnow (ses : Session) (s : State) : Host.Outcome State Fault Refusal :=
  (Run.start s).session ses (wr 0x1040 2 1)

/-- `SCRUB` (R434, R414). -/
def execScrub (ses : Session) (found : List (BitVec 64 × Finding)) (s : State) : Host.Outcome State Fault Refusal :=
  (Run.start s).session ses (wr 0x1040 2 2) { found := found.map fun f => (f.1.toNat / 64 * 64, f.2) }

/-- `MEMTEST` (R434, R49). -/
def execMemtest (ses : Session) (failed : List (BitVec 32)) (s : State) : Host.Outcome State Fault Refusal :=
  (Run.start s).session ses (wr 0x1040 2 3) { failed := failed.map BitVec.toNat }

/-- `RETRAIN` (R434). -/
def execRetrain (ses : Session) (s : State) : Host.Outcome State Fault Refusal :=
  (Run.start s).session ses (wr 0x1040 2 4)

/-- `CONTROL_FUNCTION_WRITE` (R347, R450). -/
def execControlFunctionWrite (ses : Session) (value : BitVec 8) (s : State) : Host.Outcome State Fault Refusal :=
  (Run.start s).session ses (wr 0x6050 2 value.toNat)

/-- `REPORT_START` (R461). -/
def execReportStart (ses : Session) (s : State) : Host.Outcome State Fault Refusal :=
  (Run.start s).session ses (wr 0xB030 9 1)

/-- `KEY_LOAD` (R464). -/
def execKeyLoad (ses : Session) (s : State) : Host.Outcome State Fault Refusal :=
  (Run.start s).session ses (wr 0xB020 3 1)

/-- `KEY_CLEAR` (R464). -/
def execKeyClear (ses : Session) (s : State) : Host.Outcome State Fault Refusal :=
  (Run.start s).session ses (wr 0xB020 3 2)

/-- `DEBUG_CLOSE` (R467). -/
def execDebugClose (ses : Session) (s : State) : Host.Outcome State Fault Refusal :=
  (Run.start s).session ses (wr 0xB040 3 0)

end Sys2Proof.Machine
end

