-- ==== Sys2Proof/Machine/Transports.lean ====
section
/-!
DEFINITION. How requests reach the dictionary (chapter 19): the mailbox and the doorbell page of a function's BAR0, its MSI-X
table, resets of the endpoint (R435-R441), and MCTP on both bindings (R442).
-/

namespace Sys2Proof.Machine

/-- A Nybor request as its bytes spell it (Table 19-3). -/
def parseReq (bs : List Byte) : NReq :=
  let opc := fld bs 1 1
  let n := fld bs 0x0C 2
  { opc := opc, tag := fld bs 2 1, index := fld bs 4 2, sub := fld bs 6 1, offset := fld bs 8 4, length := n
    data := if opc == 2 then (bs.drop 16).take n else []
    formed := fld bs 0 1 == 1 && 1 ≤ opc && opc ≤ 3 && fld bs 0x0E 2 == 0 }

/-- Does an access of the PCI Express link reach the endpoint? -/
def Dev.peUp (d : Dev) : Bool := d.pins.pwrgood && d.linkPe

/-- Does the I3C target answer? -/
def Dev.i3cUp (d : Dev) : Bool := d.pins.pwrgood && d.phase != 0

/-- The table size of a function (R438). -/
def tableSize (f : Nat) : Nat := if f == 0 then 64 else 31

section
variable {s₀ : State}

/-- GO (R439): the buffer is read once; a GO while the mailbox is busy is ignored. -/
def Run.mailbox (r : Run s₀) (f : Nat) (irq : Bool) (request : List Byte) : Run s₀ :=
  let x := r.d.fns.getD f {}
  if !r.d.peUp || x.mbxState == 1 then r
  else
    let buf := (request ++ (x.mbxReq ++ zeros 1040).drop request.length).take 1040
    let r := r.mod fun d => { d with fns := d.fns.set f { x with mbxReq := buf, irq := irq, mbxState := 1 } }
    r.nyReq f (parseReq buf) {}

/-- A write to a doorbell page (R440). -/
def Run.doorbell (r : Run s₀) (f entry v : Nat) : Run s₀ :=
  if !r.d.peUp || (f != 0 && 16 ≤ entry) then r
  else
    let part := if f == 0 then some (entry / 16) else r.d.vfPart f
    match part with
    | none => r.bump 0 0x6F00 3
    | some p =>
      let c := r.d.o p (0x6040 + entry % 16) 7
      if c == 0xFFFF || (f != 0 && r.d.partState p == 0) || !r.d.ready || r.d.noAdmit then r.bump 0 0x6F00 3
      else r.addCtr c (BitVec.ofNat 64 v)

/-- A write to a function's MSI-X table: unmasking a pending vector sends its message (R351). -/
def Run.msixWrite (r : Run s₀) (f vec addr data : Nat) (mask : Bool) : Run s₀ :=
  if !r.d.peUp || tableSize f ≤ vec then r
  else
    let v := vector0 f + vec
    let pend := match r.d.msix.get? v with | some (_, _, _, p) => p | none => false
    let r := r.mod fun d => { d with msix := d.msix.set v (addr, data, mask, pend && mask) }
    if pend && !mask then r.emit (.msix f v addr data) else r

/-- Reset a function (R437): its mailbox is idle, its MSI-X table as at reset, its session's selects zero. A request under way goes
on, and its response is discarded. -/
def Run.functionReset (r : Run s₀) (f : Nat) : Run s₀ :=
  (r.updSes f fun x => { x with sel := [], busy := none, queue := [] }).mod fun d => { d with
    fns := d.fns.del f
    msix := d.msix.keep fun v _ => vecFunc v != f }

/-- A conventional or hot reset of the endpoint (R437). -/
def Run.endpointReset (r : Run s₀) : Run s₀ :=
  let fs := List.range 65
  let r := r.each (fs.filter fun f => r.d.ses.has f) fun r f => r.updSes f fun x => { x with busy := none, queue := [] }
  r.mod fun d => { d with
    fns := [], msix := [], myEid := d.myEid.del 0
    linkPe := d.pins.pwrgood && 3 ≤ d.reached
    pins := { d.pins with refPe := true } }

/-- The MCTP session of a source endpoint: its own, a free one, or the least recently used (R443). -/
def Run.mctpSession (r : Run s₀) (ep : Nat) : Nat × Run s₀ :=
  let use (r : Run s₀) (k : Nat) : Nat × Run s₀ := (k, r.mod fun d => { d with mctpUse := d.mctpUse.filter (· != k) ++ [k] })
  match r.d.eids.find? fun e => e.2 == ep with
  | some e => use r e.1
  | none =>
    let k := (r.d.eids.free 0 16).getD (r.d.mctpUse.headD 0)
    use (r.mod fun d => { d with eids := d.eids.set k ep, ses := d.ses.set (65 + k) {} }) k

/-- A vendor-defined message with a Nybor request (R442). -/
def Run.mctpIn (r : Run s₀) (i3c : Bool) (ep : Nat) (body : List Byte) : Run s₀ :=
  if !(if i3c then r.d.i3cUp else r.d.peUp) || fld body 0 2 != r.d.o 0 0x1000 2 || fld body 2 1 != 1 then r
  else
    let (k, r) := r.mctpSession (ep + 256 * b2n i3c)
    r.nyReq (65 + k) (parseReq (body.drop 3 ++ zeros (19 - body.length))) {}

/-- Answer an MCTP control command: its command code, completion code and data. -/
def Run.control (r : Run s₀) (i3c : Bool) (code cc : Nat) (data : List Byte) : Run s₀ :=
  if (if i3c then r.d.i3cUp else r.d.peUp) then r.emit (.mctp i3c 0 (leBytes 1 code ++ leBytes 1 cc ++ data)) else r

/-- Set Endpoint ID: operations 0 set and 1 force take an endpoint ID; 0 and 255 are none. -/
def Run.setEid (r : Run s₀) (i3c : Bool) (op eid : Nat) : Run s₀ :=
  if 2 ≤ op || eid == 0 || eid == 255 then r.control i3c 1 2 []
  else if !(if i3c then r.d.i3cUp else r.d.peUp) then r
  else (r.mod fun d => { d with myEid := d.myEid.set (b2n i3c) eid }).control i3c 1 0 (leBytes 1 0 ++ leBytes 1 eid ++ zeros 1)

end

/-! ### The commands -/

/-- `MAILBOX_GO` (R439). -/
def execMailboxGo (f : Func) (irq : Bool) (request : List Byte) (s : State) : Host.Outcome State Fault Refusal :=
  ((Run.start s).mailbox f.val irq request).requestDone

/-- `DOORBELL_PAGE_WRITE` (R440, R441). -/
def execDoorbellPageWrite (f : Func) (entry : Fin 4096) (value : BitVec 64) (s : State) : Host.Outcome State Fault Refusal :=
  ((Run.start s).doorbell f.val entry.val value.toNat).requestDone

/-- `MCTP_MESSAGE` (R442-R444). -/
def execMctpMessage (i3c : Bool) (ep : BitVec 8) (body : List Byte) (s : State) : Host.Outcome State Fault Refusal :=
  ((Run.start s).mctpIn i3c ep.toNat body).requestDone

/-- `SET_ENDPOINT_ID` (R442). -/
def execSetEndpointId (i3c : Bool) (op : BitVec 2) (eid : BitVec 8) (s : State) : Host.Outcome State Fault Refusal :=
  ((Run.start s).setEid i3c op.toNat eid.toNat).close

/-- `GET_ENDPOINT_ID` (R442). -/
def execGetEndpointId (i3c : Bool) (s : State) : Host.Outcome State Fault Refusal :=
  ((Run.start s).control i3c 2 0 (leBytes 1 (s.dev.myEid.getD (b2n i3c) 0) ++ zeros 2)).close

/-- `GET_ENDPOINT_UUID` (R442). -/
def execGetEndpointUuid (i3c : Bool) (s : State) : Host.Outcome State Fault Refusal :=
  ((Run.start s).control i3c 3 0 (leBytes 16 Config.uuid.toNat)).close

/-- `GET_MCTP_VERSION_SUPPORT` (R442). -/
def execGetMctpVersionSupport (i3c : Bool) (kind : BitVec 8) (s : State) : Host.Outcome State Fault Refusal :=
  ((Run.start s).control i3c 4 0 (Config.mctpVersions kind.toNat)).close

/-- `GET_MESSAGE_TYPE_SUPPORT` (R442): one type beside control messages, 0x7E. -/
def execGetMessageTypeSupport (i3c : Bool) (s : State) : Host.Outcome State Fault Refusal :=
  ((Run.start s).control i3c 5 0 (leBytes 1 1 ++ leBytes 1 0x7E)).close

/-- `GET_VENDOR_DEFINED_MSG_SUPPORT` (R442): one vendor, of PCI. -/
def execGetVendorDefinedMsgSupport (i3c : Bool) (sel : BitVec 8) (s : State) : Host.Outcome State Fault Refusal :=
  let r := Run.start s
  (if sel == 0 then r.control i3c 6 0 (leBytes 1 0xFF ++ zeros 1 ++ leBytes 2 (s.dev.o 0 0x1000 2) ++ leBytes 2 Config.vendorSet.toNat)
    else r.control i3c 6 2 []).close

/-- `FUNCTION_LEVEL_RESET` (R437). -/
def execFunctionLevelReset (f : Func) (s : State) : Host.Outcome State Fault Refusal :=
  if !s.dev.peUp then .next s else ((Run.start s).functionReset f.val).close

/-- `PCIE_RESET` (R437). -/
def execPcieReset (s : State) : Host.Outcome State Fault Refusal := (Run.start s).endpointReset.close

/-- `MSIX_TABLE_WRITE` (R351, R438). -/
def execMsixTableWrite (f : Func) (vec : Fin 2048) (addr : BitVec 64) (data : BitVec 32) (mask : Bool) (s : State) :
    Host.Outcome State Fault Refusal :=
  ((Run.start s).msixWrite f.val vec.val addr.toNat data.toNat mask).close

end Sys2Proof.Machine
end

