-- ==== Sys2Proof/Machine/Bringup.lean ====
section
/-!
DEFINITION. Bring-up (chapter 18): its phases and their ends (R419-R422), the configuration image (R423, R424, R452, R453, R459),
repair (R425), training (R426), known-answer runs (R427), what a cold reset leaves of the store (R37, R61), journal replay (R59,
R54, R209), joining the composition (R429-R431), the cold wait (R482), READY; and what time alone does.
-/

namespace Sys2Proof.Machine

/-- The bound of a phase in milliseconds (Table 18-1); retraining may stretch the warm phase 4 by 300 ms (R426). -/
def phaseBound (warm : Bool) (n : Nat) : Nat :=
  (if warm then [80, 60, 0, 550, 150, 60] else [600, 300, 800, 3000, 2500, 800]).getD (n - 1) 0

/-- Is a port unused on this board (0xA020:03)? -/
def Dev.unused (d : Dev) (p : Nat) : Bool := bit (d.o 0 0xA020 3) p

/-- Has a port its reference clock? -/
def Dev.portClock (d : Dev) (p : Nat) : Bool := if p < 8 then d.pins.refW else d.pins.refE

/-- The sensors that a cold bring-up checks in a phase (R482): the die sensors in phase 2, the stack sensors in phase 4. -/
def Dev.coldSensors (d : Dev) (n : Nat) : List Int :=
  if n == 2 then d.pins.temps.take 64 else if n == 4 then d.pins.temps.drop 64 else []

/-- Does one of them read below 0 °C? -/
def Dev.tooCold (d : Dev) (n : Nat) : Bool := (d.coldSensors n).any (· < 0)

/-! ### The configuration image -/

/-- The entries of an image (Table 19-8): `n` of them fill `bs` exactly; none where they do not, or a reserved field is not zero. -/
def imageEntries : Nat → List Byte → Option (List NReq)
  | 0, bs => if bs.isEmpty then some [] else none
  | n + 1, bs =>
    let len := fld bs 4 2
    let size := 8 + cdiv len 8 * 8
    if bs.length < size || bs.length < 8 || fld bs 3 1 != 0 || fld bs 6 2 != 0 then none
    else
      let q : NReq := { opc := 2, index := fld bs 0 2, sub := fld bs 2 1, length := len, data := (bs.drop 8).take len }
      (imageEntries n (bs.drop size)).map (q :: ·)

/-- An image that passes R452 and R459: its bytes, generation, entries, the digest of its PK, the owner slot it is signed under. -/
structure Image where
  bytes   : List Byte
  gen     : Nat
  entries : List NReq
  key     : Option (BitVec 256)
  slot    : Option Nat

/-- The signature block (R459, Table 20-2): none where the device does not accept it. -/
def Dev.sigOk (d : Dev) (im : List Byte) (sigoff : Nat) : Option (Option (BitVec 256) × Option Nat) :=
  let b := im.drop sigoff
  let kind := fld b 4 1
  let slot := fld b 5 1
  let form := fld b 0 4 == 0x4E595347 && fld b 6 2 == 0 && fld b 0x0C 4 == 0
  if !form then none
  else if kind == 0 then (if b.length == 16 && slot == 0 && fld b 8 4 == 0 && !d.owned then some (none, none) else none)
  else
    let pk := (b.drop 0x10).take 64
    if kind == 1 && b.length == 29872 && slot < 2 && fld b 8 4 == 29792 && (!d.owned || d.ownerKey slot pk)
        && Config.slhVerify pk (im.take sigoff) (b.drop 0x50) then
      some (some (Config.shake256 pk), if d.owned then some slot else none)
    else none

/-- The checks of an image. -/
def Dev.imageOk (d : Dev) (bs : List Byte) : Option Image :=
  let total := fld bs 8 4
  let sigoff := fld bs 0x1C 4
  let im := bs.take total
  let serial := fld bs 0x10 8
  if bs.length < 64 || fld bs 0 4 != 0x4E594349 || fld bs 4 1 != 1 || 1048576 < total || bs.length < total || sigoff < 0x40
      || sigoff % 8 != 0 || total < sigoff || (serial != 0 && serial != Config.serial.toNat)
      || fld bs 5 3 != 0 || ((bs.drop 0x20).take 32).any (· != 0) then none
  else match d.sigOk im sigoff, imageEntries (fld bs 0x0C 4) ((im.take sigoff).drop 0x40) with
    | some (key, slot), some es => some { bytes := im, gen := fld bs 0x18 4, entries := es, key := key, slot := slot }
    | _, _ => none

/-- How the application of an image ends. -/
inductive Applied where
  | all
  | failed (pos : Nat)
  /-- an entry asks for a cold reset -/
  | reset
deriving DecidableEq, Repr

section
variable {s₀ : State}

/-- Apply the entries in order (R424, R453), from position `i` on. -/
def Run.applyImage (r : Run s₀) (i : Nat) : List NReq → Applied × Run s₀
  | [] => (.all, r)
  | q :: qs => match r.nyDo imageSes q {} false with
    | (.done .ok _ _, r) => if q.index == 0x6F00 && q.sub == 1 && leNat q.data == 2 then (.reset, r) else r.applyImage (i + 1) qs
    | (_, r) => (.failed i, r)

/-! ### Repair (R425, Table 18-2) -/

/-- Repair failing physical slices, numbered over the device: a spare of the region takes the logical slice. Answers whether every
one that is in use could be repaired. -/
def Run.repairSlices (r : Run s₀) (phase : Nat) : List Nat → Bool × Run s₀
  | [] => (true, r)
  | p :: ps =>
    let r := r.mod fun d => { d with badSlices := Marks.add d.badSlices p }
    match (List.range 256).find? fun s => r.d.physSliceNo s == p with
    | none => r.repairSlices phase ps
    | some s => match r.d.spares s with
      | [] => (false, r)
      | sp :: _ =>
        let r := r.mod fun d => { d with smap := d.smap.set s sp, bring := { d.bring with katBad := d.bring.katBad.filter fun n => n / 4 != s } }
        (r.reportRec 2 phase 0 1 (0x8000 + p) s (s / 32 * 34 + sp)).repairSlices phase ps

/-- Repair a DRAM row: with a spare row of its bank, or by retiring what has a line in it (Table 18-2). -/
def Run.repairRow (r : Run s₀) (row : Nat) : Run s₀ :=
  let stack := bits row 0 3
  let ch := 32 * stack + bits row 3 5
  if Config.rowSpare r.d.boots row then (r.bump stack 0x4010 2).reportRec 2 4 1 1 ch ch row
  else
    let slots := (Config.rowSlots row).dedup.filter fun t => t < r.d.slotCount 1 && !r.d.badSlots.contains (1, t)
    let sets := Config.rowFrames row
    let r := r.mod fun d => { d with badSlots := slots.map (fun t => (1, t)) ++ d.badSlots, badFrames := sets ++ d.badFrames }
    r.bumpBy 0 0x1020 7 (slots.length + sets.length)

/-- Clusters found failing (phase 6): the spare takes the logical number, or there is one fewer. `bad` are physical clusters found
failing before. -/
def Run.repairClusters (r : Run s₀) (bad : List Nat) : List Nat → Run s₀
  | [] => r
  | k :: ks =>
    let p := r.d.physCluster k
    let bad := p :: bad
    let used := (List.range 8).map r.d.physCluster
    match (List.range 9).find? fun c => !used.contains c && !bad.contains c with
    | some c => ((r.mod fun d => { d with cmap := d.cmap.set k c }).reportRec 2 6 4 1 (0x8000 + p) k c).repairClusters bad ks
    | none => ((r.mod fun d => { d with bring := { d.bring with noCluster := Marks.add d.bring.noCluster k } }).setO (256 + k) 0x5100 1 2
        |>.setO 0 0x1020 8 (r.d.o 0 0x1020 8 - 1)).repairClusters bad ks

/-! ### The store after a reset -/

/-- The granule table is rebuilt from the flash log (R37, R61, R429): closed granules come back; copies held for the twin are
discarded; a granule recorded open is lost, and its record dropped; so is one with a block that the flash map places on a channel that
is left out, which keeps its slot. -/
def Run.rebuildStore (r : Run s₀) : Run s₀ :=
  let bad := r.d.bring.nandBad
  let out (g : Nat) : Bool := r.d.fmap.any fun b => b.1 / 128 == g && bad.contains b.2
  let gone := r.d.flog.filter fun g => g.2.copy || g.2.opened
  let r := r.each gone fun r g => r.clear .flash (g.1 * 2 ^ 21) ((g.1 + 1) * 2 ^ 21)
  let r := r.mod fun d => { d with
    flog := d.flog.filter fun g => !(g.2.copy || g.2.opened), fmap := d.fmap.keep fun b _ => !gone.any fun g => g.1 == b / 128 }
  r.mod fun d => { d with gran := d.flog.map fun g =>
    (g.1, { tier := 2, state := if out g.1 then 2 else 0, prot := g.2.prot, part := g.2.part, slot := g.2.slot }) }

/-- The latest record of a granule's move, or of an extent's from phase to phase, whose CRC matches (R59). -/
def Dev.latest (d : Dev) (g : Nat) (ext : Bool) : Option JRec :=
  d.journal.find? fun j => j.granule == g && j.whole && (j.step == 4 || j.step == 8 || (5 ≤ j.step && j.step ≤ 7) == ext)

/-- Replay of the open move of a granule by its latest record (R59): it stays at the target of a move that was flipped; else it stays at its
source, and the move is abandoned. One whose OPEN record does not match counts as not written: no move began. -/
def Run.replayMove (r : Run s₀) (g : Nat) (m : Move) : Run s₀ :=
  match r.d.latest g false, r.d.gran.get? g with
  | some j, some x =>
    if j.step == 3 then
      let toT := j.tiers / 4 % 4
      if x.tier == toT && x.slot == j.to_ then
        (((r.mod fun d => { d with gran := d.gran.set g { x with state := 0, jidx := 0 } }).journal 4 j.tiers x.part g j.from_ j.to_ j.optag).moveOut
          g m id)
      else (r.flipTo g x toT j.to_ j.optag).moveOut g m id
    else if j.step == 1 || j.step == 2 then r.moveAbandon g m
    else (r.mod fun d => { d with gran := d.gran.set g { x with state := 0, jidx := 0 } }).moveOut g m id
  | none, some x => (r.mod fun d => { d with gran := d.gran.set g { x with state := 0, jidx := 0 } }).moveOut g m id
  | _, none => r

/-- Replay of an extent's move by its latest record (R54): after HANDOVER its keeper says whether it committed. -/
def Run.replayExt (r : Run s₀) (e : Nat) (x : ExtMove) : Run s₀ :=
  match r.d.latest (e * 512) true with
  | some { step := 7, .. } => r.tellOrDo (r.d.keeperFor e) (.extentAsk e) fun r =>
      let k := r.d.kept e
      r.handoverTold e k (k.home.toNat == x.dest)
  | _ => r.extAbandon e .indet false

/-- The journals are replayed on the warm fast path (R209, R59, R54). The granules of an extent that moves out have no records of their
own: they stay home with its own. -/
def Run.replayJournals (r : Run s₀) : Run s₀ :=
  let open_ := r.d.phases.filter fun p => p.2.phase < 255
  let r := r.each open_ fun r p => r.suspect (p.2.target / 2 ^ 30) p.2.part p.2.op p.2.phase p.2.reqid
  let r := (r.mod fun d => { d with phases := d.phases.map fun p => (p.1, if p.2.phase < 255 then p.2.inPhase 255 else p.2) }).countPhases
  let r := r.each (r.d.moves.filter fun m => !m.2.outbound) fun r m => r.replayMove m.1 m.2
  r.each r.d.exts fun r x => r.replayExt x.1 x.2

/-! ### Joining the composition (R429-R431) -/

/-- The other device of a keeper pair that this device belongs to. -/
def Dev.otherKeeper (d : Dev) (i : Nat) : Option Nat :=
  match d.kpairs.get? i with
  | none => none
  | some (a, b) => if a == d.self then some b else if b == d.self then some a else none

/-- Phase 5 of a cold bring-up begins: the device table is asked for and each extent recovered is reported to its keeper, to the
other device where this one is of the pair; the tables of this device's own indices are rebuilt unless the other device turns out to
serve them. -/
def Run.join (r : Run s₀) : Run s₀ :=
  let es := r.d.extents
  let mine := (r.d.kpairs.filter fun k => (r.d.otherKeeper k.1).isSome).map Prod.fst
  let r := r.mod fun d => { d with rebuild := mine, regen := [], bring := { d.bring with reclaim := es, found := es.length } }
  let r := if r.d.keeperOf 0 == r.d.self then r else r.tell (r.d.keeperOf 0) .tableAsk
  let who (e : Nat) : Nat := (r.d.otherKeeper (r.d.indexOf e)).getD (r.d.keeperFor e)
  r.each (es.map who).dedup fun r k => if k == r.d.self then r else r.tell k (.reclaim (es.filter fun e => who e == k))

/-- The extents whose keeper this device is, their table rebuilt (R431), and no answer came for. -/
def Dev.ownReclaim (d : Dev) : List Nat := d.bring.reclaim.filter fun e => d.rebuild.contains (d.indexOf e)

/-- This device rebuilds its own reports. -/
def Run.reclaimOwn (r : Run s₀) : Run s₀ :=
  let me := r.d.self
  let r := r.each r.d.ownReclaim fun r e =>
    let (part, prot) := match r.d.gran.find? fun g => g.1 / 512 == e with | some g => (g.2.part, g.2.prot) | none => (0, false)
    let x := r.d.kept e
    if x.state == 0 then
      let r := r.rebuilt me e part prot
      r.reclaimed me [{ extent := BitVec.ofNat 32 e, keep := true, entry := r.d.kept e }]
    else r.reclaimed me [{ extent := BitVec.ofNat 32 e, keep := x.home.toNat == me, entry := x }]
  let es := r.d.extents
  let found := r.d.bring.found
  if found == 0 then r else r.reportRec 6 5 5 0 0 es.length (found - es.length)

/-! ### Entering a phase, and READY -/

/-- A phase begins. -/
def Run.enter (r : Run s₀) (n : Nat) : Run s₀ :=
  let r := (r.setO 0 0x1020 1 n).mod fun d => { d with bring := { d.bring with phaseAt := d.now } }
  let cold := r.d.o 0 0x1020 2 == 0
  if cold && (n == 2 || n == 4) && r.d.tooCold n then r.mod fun d => { d with bring := { d.bring with coldWait := some d.now } }
  else if n == 5 then
    let r := r.each (List.range 16) fun r p => if r.d.unused p then r else r.setO p 0x3040 1 1
    if cold then r.join else r
  else r

/-- READY: the time is frozen, the security version number raised where the firmware asks for it (R455), retired versions leave
(R274), and ports that are up open for requests. -/
def Run.goReady (r : Run s₀) : Run s₀ :=
  let r := (r.setO 0 0x1020 3 r.d.upMs).setO 0 0x1020 1 7
  let r := match Config.fwHeader r.d.bring.firmware with
    | some (_, svn, true) => r.mod fun d => { d with svn := max d.svn svn }
    | _ => r
  let cold := r.d.o 0 0x1020 2 == 0
  let r := if cold then r.mod fun d => { d with bring := { d.bring with coldFail := none } } else r
  let r := r.each (r.d.emb.map Prod.fst) fun r s => r.retire false s
  let r := r.each (r.d.idx.map Prod.fst) fun r s => r.retire true s
  r.each ((List.range 16).filter fun p => r.d.o p 0x3040 1 == 2) Run.portOpen

/-! ### The end of a phase -/

/-- What phase 2 does and checks: cause 0 where it passes. -/
def Run.coreUp (r : Run s₀) (found : PhaseFound) (cold : Bool) : Nat × Run s₀ :=
  let bad := found.slices.map fun p => p.val
  if !found.network then (3, r)
  else if !cold then (if bad.any fun p => (List.range 256).any fun s => r.d.physSliceNo s == p then (5, r) else (0, r))
  else if !found.speed then (2, r)
  else match r.repairSlices 2 bad with
    | (false, r) => (5, r)
    | (true, r) =>
      let r := r.mod fun d => { d with
        key := Config.hashKey d.boots, linkPe := d.pins.refPe
        pins := { d.pins with mv := nominalMv, lowered := d.now, busFails := 0 } }
      (0, (r.setO 0 0xA010 1 1).emit (.avs nominalMv))

/-- What phase 3 does: the image is obtained (R423), checked and applied; cause 0 where it passes, none where an entry restarts
the device. -/
def Run.imageUp (r : Run s₀) : Option Nat × Run s₀ :=
  let src := if r.d.bring.image.isSome then 1 else 2
  let bs := r.d.bring.image.getD r.d.bring.boot.image
  match r.d.imageOk bs with
  | none => (some 4, r)
  | some im =>
    let r := r.mod fun d => { d with ses := d.ses.del imageSes, bring := { d.bring with imgKey := im.key, imgSlot := im.slot } }
    match r.applyImage 0 im.entries with
    | (.failed i, r) => (some 4, r.setO 0 0x1020 6 i)
    | (.reset, r) => (none, r)
    | (.all, r) =>
      let r := r.mod fun d => { d with ses := d.ses.del imageSes, meas := d.meas.set 2 (Config.shake512 im.bytes) }
      let r := (r.setO 0 0x1000 8 im.gen).setO 0 0x1000 9 src
      (some 0, r.each (List.range 16) fun r p =>
        let r := r.setO p 0x3010 2 (if r.d.unused p then 0 else r.d.o p 0x3010 1)
        r.mod fun d => { d with egrant := d.egrant.set p (d.o p 0x3030 3) })

/-- What phase 4 does. -/
def Run.memoryUp (r : Run s₀) (found : PhaseFound) (cold : Bool) : Nat × Run s₀ :=
  if !cold then
    let r := if found.retrained == 0 then r else r.bump 0 0x1020 4
    (0, (r.replayJournals.each (List.range 8)) fun r k => r.setO k 0x4010 1 0xFFFFFFFF)
  else match r.repairSlices 4 (found.slices.map fun p => p.val) with
    | (false, r) => (5, r)
    | (true, r) =>
      let r := r.each (List.range 8) fun r k => r.setO k 0x4010 1 0xFFFFFFFF
      let r := (r.each r.d.bring.rows Run.repairRow).rebuildStore
      (0, r.mod fun d => { d with meas := d.meas.set 3 (Config.shake512 (Config.fuseBytes ++ d.repairBytes)) })

/-- What phase 6 does. -/
def Run.computeUp (r : Run s₀) (found : PhaseFound) (cold : Bool) : Run s₀ :=
  let r := if cold then r.repairClusters [] ((found.clusters.map fun k => k.val).dedup) else r
  r.each (List.range 8) fun r k => if r.d.bring.noCluster.contains k then r else r.setO (256 + k) 0x5100 1 1

/-- The phase that follows, after its record (R428): the warm fast path skips phase 3. -/
def Run.phaseEnds (r : Run s₀) (n : Nat) (cold : Bool) : Run s₀ :=
  let r := r.reportRec 1 n 5 0 0 ((r.now - r.d.bring.phaseAt) / us 1) 0
  if n == 6 then r.goReady else r.enter (if n == 2 && !cold then 4 else n + 1)

/-- The running phase ends, its checks having found `found` (R419, Tables 18-1 and 18-2). A phase does not end during the cold wait,
nor phase 5 while a reclaimed extent has no answer. A warm fast path repairs nothing that failed the cold bring-up before it. -/
def Run.phaseDone (r : Run s₀) (found : PhaseFound) : Run s₀ :=
  let n := r.d.phase
  let cold := r.d.o 0 0x1020 2 == 0
  let old := match r.d.bring.coldFail with
    | some (p, c) => if !cold && (p == n || (p == 3 && n == 2)) then some (p, c) else none
    | none => none
  if n == 0 || 7 ≤ n || r.d.bring.coldWait.isSome then r
  else match old with
    | some (p, c) => r.bringFail p c
    | none => match n with
      | 1 => if found.plinth then r.phaseEnds 1 cold else r.bringFail 1 1
      | 2 => match r.coreUp found cold with
        | (0, r) => r.phaseEnds 2 cold
        | (c, r) => r.bringFail 2 c
      | 3 => match r.imageUp with
        | (some 0, r) => r.phaseEnds 3 cold
        | (some c, r) => r.bringFail 3 c
        | (none, r) => r.coldReset none
      | 4 => match r.memoryUp found cold with
        | (0, r) => r.phaseEnds 4 cold
        | (c, r) => r.bringFail 4 c
      | 5 =>
        if !cold then r.phaseEnds 5 cold
        else if r.d.bring.reclaim.any fun e => !r.d.ownReclaim.contains e then r
        else r.reclaimOwn.phaseEnds 5 cold
      | _ => (r.computeUp found cold).phaseEnds 6 cold

/-- A phase runs past its bound (R422); the cold wait is outside it (R419). -/
def Run.phaseTimeout (r : Run s₀) : Run s₀ :=
  let n := r.d.phase
  if n == 0 || 7 ≤ n || r.d.bring.coldWait.isSome || r.now ≤ r.d.bring.phaseAt + us (1000 * phaseBound (r.d.o 0 0x1020 2 == 1) n) then r
  else r.bringFail n 7

/-! ### The cold wait (R482) -/

/-- The cold wait ends: its time is outside the phase. -/
def Run.coldWaitEnd (r : Run s₀) : Run s₀ :=
  match r.d.bring.coldWait with
  | none => r
  | some t => (r.setO 0 0x1020 9 r.d.waitMs).mod fun d => { d with bring := { d.bring with coldWait := none, phaseAt := d.bring.phaseAt + (d.now - t) } }

/-- The sensors are read again. -/
def Run.coldRecheck (r : Run s₀) (ts : List Int) : Run s₀ :=
  match r.d.bring.coldWait with
  | none => r
  | some _ =>
    let r := r.mod fun d => { d with pins := { d.pins with temps := ts } }
    if r.d.tooCold r.d.phase then r else r.coldWaitEnd

/-- After 60 s in all with a sensor still below 0 °C, bring-up fails with cause THERMAL. -/
def Run.coldExpire (r : Run s₀) : Run s₀ :=
  if r.d.bring.coldWait.isNone || r.d.waitMs < 60000 || !r.d.tooCold r.d.phase then r else r.bringFail r.d.phase 8

/-! ### Training (R426) -/

/-- A unit's training ends. Channels train in phase 4, a port from phase 5 on until its link is up. -/
def Run.trained (r : Run s₀) (u : TrainUnit) (t : TrainResult) : Run s₀ :=
  let n := r.d.phase
  let cold := r.d.o 0 0x1020 2 == 0
  match u with
  | .hbm ch =>
    if n != 4 || r.d.bring.coldWait.isSome then r
    else if !t.good then (r.reportRec 3 4 1 3 ch.val t.detail.toNat 0).bringFail 4 6
    else
      let k := ch.val / 32
      let had := r.d.o k 0x4010 1
      let r := if bit had (ch.val % 32) then r else r.setO k 0x4010 1 (had + 2 ^ (ch.val % 32))
      if t.repaired && cold then r.mod fun d => { d with bring := { d.bring with rows := Marks.add d.bring.rows (t.detail.toNat % 2 ^ 32) } } else r
  | .nand ch =>
    if n != 4 || t.good || r.d.bring.coldWait.isSome then r
    else (r.mod fun d => { d with bring := { d.bring with nandBad := Marks.add d.bring.nandBad ch.val } }).reportRec 3 4 3 3 ch.val t.detail.toNat 0
  | .port p =>
    if n < 5 || 7 < n || r.d.o p 0x3040 1 != 1 then r
    else if !t.good || !r.d.portClock p then (if n == 7 then r else r.reportRec 3 n 2 3 p.val t.detail.toNat 0)
    else
      let r := (r.linkTrained p).setO p 0x3040 2 t.lanes.toNat
      if n == 7 then r.portOpen p else r

/-! ### The known-answer run at cold bring-up (R427, Table 18-2) -/

/-- A pair's run ends at cold bring-up: a failed pair is its slice's fixed standby; with a second one a spare takes the slice. -/
def Run.katBoot (r : Run s₀) (n : Nat) (digest : BitVec 256) : Run s₀ :=
  let s := n / 4
  if digest == Config.katDigest r.d.bring.firmware || r.d.bring.katBad.contains n then r
  else
    let two := r.d.bring.katBad.any fun m => m / 4 == s
    let r := (r.reportRec 4 6 0 (if two then 1 else 2) s (n % 4) 0).bump s 0x5010 4
    if two then
      match r.repairSlices 6 [r.d.physSliceNo s] with
      | (true, r) => r.setO s 0x5010 3 3
      | (false, r) => r.bringFail 6 5
    else (r.mod fun d => { d with bring := { d.bring with katBad := Marks.add d.bring.katBad n } }).setO s 0x5010 3 (128 + n % 4)

/-- A known-answer run ends. -/
def Run.katDone (r : Run s₀) (n : Nat) (digest : BitVec 256) : Run s₀ :=
  if r.d.phase == 6 && r.d.o 0 0x1020 2 == 0 then r.katBoot n digest else r.katEnd n digest

/-- The board management controller announces an image over MCTP on I3C, by the end of phase 2 (R423). -/
def Run.announceImage (r : Run s₀) (im : List Byte) : Run s₀ :=
  let n := r.d.phase
  if !r.d.i3cUp || r.d.o 0 0x1020 2 != 0 || n == 0 || 2 < n then r
  else r.mod fun d => { d with bring := { d.bring with image := some im } }

/-! ### Time -/

/-- The time of one tick of the local timer passes: what waits inside the device for its time goes on. -/
def Run.idle (r : Run s₀) (ps : Nat) : Run s₀ :=
  let r := r.mod fun d => { d with now := d.now + ps }
  let r := if r.d.pins.pwrgood then r.nyPoke else r
  (r.each (r.d.portRst.map Prod.fst) Run.portResetEnd).yieldNext.retryWaits.poke

end

/-! ### The commands -/

/-- `BRINGUP_PHASE_DONE` (R419). -/
def execBringupPhaseDone (found : PhaseFound) (s : State) : Host.Outcome State Fault Refusal :=
  ((Run.start s).phaseDone found).requestDone

/-- `BRINGUP_PHASE_TIMEOUT` (R422). -/
def execBringupPhaseTimeout (s : State) : Host.Outcome State Fault Refusal := (Run.start s).phaseTimeout.close

/-- `COLD_WAIT_RECHECK` (R482): every 10 ms. -/
def execColdWaitRecheck (mC : Vector Int 72) (s : State) : Host.Outcome State Fault Refusal :=
  ((Run.start s).coldRecheck mC.toList).close

/-- `COLD_WAIT_EXPIRE` (R482). -/
def execColdWaitExpire (s : State) : Host.Outcome State Fault Refusal := (Run.start s).coldExpire.close

/-- `TRAINING_DONE` (R426, R182). -/
def execTrainingDone (u : TrainUnit) (t : TrainResult) (s : State) : Host.Outcome State Fault Refusal :=
  ((Run.start s).trained u t).requestDone

/-- `PORT_TRAIN_ATTEMPT_EXPIRE` (R426, R182): the port leaves phase 5 untrained and goes on trying. -/
def execPortTrainAttemptExpire (p : Fin 16) (s : State) : Host.Outcome State Fault Refusal :=
  if s.dev.phase != 5 || s.dev.o p.val 0x3040 1 != 1 then .next s
  else ((Run.start s).reportRec 3 5 2 3 p.val 0 0).close

/-- `KAT_RUN_DONE` (R427, R433). -/
def execKatRunDone (n : Fin 1024) (digest : BitVec 256) (s : State) : Host.Outcome State Fault Refusal :=
  ((Run.start s).katDone n.val digest).requestDone

/-- `CONFIG_IMAGE_ANNOUNCE` (R423). -/
def execConfigImageAnnounce (image : List Byte) (s : State) : Host.Outcome State Fault Refusal :=
  ((Run.start s).announceImage image).close

end Sys2Proof.Machine
end

