-- ==== Sys2Proof/Machine/Dispatch.lean ====
section
/-!
DEFINITION. The dispatch: one arm per command, each one direct call of its meaning.
-/

namespace Sys2Proof.Machine

/-- The effect of a command on everything but the queue. -/
def exec (i : Instr) (s : State) : Host.Outcome State Fault Refusal :=
  match i with
  | .pwrgoodDeassert => Sys2Proof.Machine.execPwrgoodDeassert s
  | .coldRst boot => Sys2Proof.Machine.execColdRst boot s
  | .warmRst => Sys2Proof.Machine.execWarmRst s
  | .thermtrip => Sys2Proof.Machine.execThermtrip s
  | .refclkSysLost => Sys2Proof.Machine.execRefclkSysLost s
  | .refclkSdLost h => Sys2Proof.Machine.execRefclkSdLost h s
  | .refclkSdReturn h => Sys2Proof.Machine.execRefclkSdReturn h s
  | .peRefclkLost => Sys2Proof.Machine.execPeRefclkLost s
  | .speedMonitorSample ps => Sys2Proof.Machine.execSpeedMonitorSample ps s
  | .speedHoldEnd => Sys2Proof.Machine.execSpeedHoldEnd s
  | .junctionSensorRead mC => Sys2Proof.Machine.execJunctionSensorRead mC s
  | .thermalHoldEnd => Sys2Proof.Machine.execThermalHoldEnd s
  | .powerSample vcoreMA mW => Sys2Proof.Machine.execPowerSample vcoreMA mW s
  | .avsbusTransactionFail => Sys2Proof.Machine.execAvsbusTransactionFail s
  | .avsbusRetry ok => Sys2Proof.Machine.execAvsbusRetry ok s
  | .bringupPhaseDone found => Sys2Proof.Machine.execBringupPhaseDone found s
  | .bringupPhaseTimeout => Sys2Proof.Machine.execBringupPhaseTimeout s
  | .coldWaitRecheck mC => Sys2Proof.Machine.execColdWaitRecheck mC s
  | .coldWaitExpire => Sys2Proof.Machine.execColdWaitExpire s
  | .trainingDone u t => Sys2Proof.Machine.execTrainingDone u t s
  | .portTrainAttemptExpire p => Sys2Proof.Machine.execPortTrainAttemptExpire p s
  | .katRunDone n digest => Sys2Proof.Machine.execKatRunDone n digest s
  | .katPeriodicStart n => Sys2Proof.Machine.execKatPeriodicStart n s
  | .configImageAnnounce image => Sys2Proof.Machine.execConfigImageAnnounce image s
  | .reclaimList reporter answers => Sys2Proof.Machine.execReclaimList reporter answers s
  | .flitReceive p flit fecBad => Sys2Proof.Machine.execFlitReceive p flit fecBad s
  | .nak p first => Sys2Proof.Machine.execNak p first s
  | .linkRetrainDone p ns => Sys2Proof.Machine.execLinkRetrainDone p ns s
  | .creditGrant p words => Sys2Proof.Machine.execCreditGrant p words s
  | .memLoad p h found => Sys2Proof.Machine.execMemLoad p h found s
  | .memStore p h data found => Sys2Proof.Machine.execMemStore p h data found s
  | .memStorep p h data => Sys2Proof.Machine.execMemStorep p h data s
  | .reduceAdd p h data => Sys2Proof.Machine.execReduceAdd p h data s
  | .reduceMin p h data => Sys2Proof.Machine.execReduceMin p h data s
  | .reduceMax p h data => Sys2Proof.Machine.execReduceMax p h data s
  | .reliefWindowExpire n => Sys2Proof.Machine.execReliefWindowExpire n s
  | .combiningEntryIdle addr => Sys2Proof.Machine.execCombiningEntryIdle addr s
  | .castStore p h data => Sys2Proof.Machine.execCastStore p h data s
  | .atomicAdd p h => Sys2Proof.Machine.execAtomicAdd p h s
  | .atomicMin p h => Sys2Proof.Machine.execAtomicMin p h s
  | .atomicMax p h => Sys2Proof.Machine.execAtomicMax p h s
  | .atomicCas p h => Sys2Proof.Machine.execAtomicCas p h s
  | .rds c => Sys2Proof.Machine.execRds c s
  | .rdx c => Sys2Proof.Machine.execRdx c s
  | .upg c => Sys2Proof.Machine.execUpg c s
  | .evc c => Sys2Proof.Machine.execEvc c s
  | .wbd c data => Sys2Proof.Machine.execWbd c data s
  | .rsp p h data => Sys2Proof.Machine.execRsp p h data s
  | .rspWbp p h => Sys2Proof.Machine.execRspWbp p h s
  | .snoopRoundExpire addr => Sys2Proof.Machine.execSnoopRoundExpire addr s
  | .directorySweepDone agent => Sys2Proof.Machine.execDirectorySweepDone agent s
  | .creditWindowLapse n => Sys2Proof.Machine.execCreditWindowLapse n s
  | .completionReceive p c => Sys2Proof.Machine.execCompletionReceive p c s
  | .responseDataReceive p d => Sys2Proof.Machine.execResponseDataReceive p d s
  | .streamAck p id dst seq => Sys2Proof.Machine.execStreamAck p id dst seq s
  | .streamAckSend id => Sys2Proof.Machine.execStreamAckSend id s
  | .streamGapTimeout id => Sys2Proof.Machine.execStreamGapTimeout id s
  | .gapReport p id dst seq => Sys2Proof.Machine.execGapReport p id dst seq s
  | .streamIdleClose id dst => Sys2Proof.Machine.execStreamIdleClose id dst s
  | .streamClose p id => Sys2Proof.Machine.execStreamClose p id s
  | .streamReset p id dst => Sys2Proof.Machine.execStreamReset p id dst s
  | .pathAckTimeout id dst => Sys2Proof.Machine.execPathAckTimeout id dst s
  | .pathProbeStart dst path => Sys2Proof.Machine.execPathProbeStart dst path s
  | .pathProbe p h => Sys2Proof.Machine.execPathProbe p h s
  | .pathProbeTimeout dst path => Sys2Proof.Machine.execPathProbeTimeout dst path s
  | .deviceUnreachable dst => Sys2Proof.Machine.execDeviceUnreachable dst s
  | .phaseAdvance n => Sys2Proof.Machine.execPhaseAdvance n s
  | .syncSet c => Sys2Proof.Machine.execSyncSet c s
  | .syncAdd c => Sys2Proof.Machine.execSyncAdd c s
  | .syncRead c => Sys2Proof.Machine.execSyncRead c s
  | .syncArm c => Sys2Proof.Machine.execSyncArm c s
  | .syncWait c => Sys2Proof.Machine.execSyncWait c s
  | .syncWaitTimeout n => Sys2Proof.Machine.execSyncWaitTimeout n s
  | .orderFence c => Sys2Proof.Machine.execOrderFence c s
  | .regionFlushout n => Sys2Proof.Machine.execRegionFlushout n s
  | .regionDiscardin n => Sys2Proof.Machine.execRegionDiscardin n s
  | .castDefine n => Sys2Proof.Machine.execCastDefine n s
  | .placeTier n => Sys2Proof.Machine.execPlaceTier n s
  | .placeExtent n => Sys2Proof.Machine.execPlaceExtent n s
  | .placeAdvisePrefetch n => Sys2Proof.Machine.execPlaceAdvisePrefetch n s
  | .placeAdviseOpen n => Sys2Proof.Machine.execPlaceAdviseOpen n s
  | .placeAdviseCold n => Sys2Proof.Machine.execPlaceAdviseCold n s
  | .placeAdviseWriteback n => Sys2Proof.Machine.execPlaceAdviseWriteback n s
  | .placeDiscard n => Sys2Proof.Machine.execPlaceDiscard n s
  | .placeQuery n => Sys2Proof.Machine.execPlaceQuery n s
  | .movePassDone g failed => Sys2Proof.Machine.execMovePassDone g failed s
  | .granuleFlip x => Sys2Proof.Machine.execGranuleFlip x s
  | .extentAllocateDone e st => Sys2Proof.Machine.execExtentAllocateDone e st s
  | .extentFinalPassDone e => Sys2Proof.Machine.execExtentFinalPassDone e s
  | .handover src e dest epoch => Sys2Proof.Machine.execHandover src e dest epoch s
  | .handoverTold e entry committed => Sys2Proof.Machine.execHandoverTold e entry committed s
  | .granuleOpenDone g => Sys2Proof.Machine.execGranuleOpenDone g s
  | .granuleClose g => Sys2Proof.Machine.execGranuleClose g s
  | .backgroundWriteback block => Sys2Proof.Machine.execBackgroundWriteback block s
  | .flashProgramDone block ok retired replacement => Sys2Proof.Machine.execFlashProgramDone block ok retired replacement s
  | .fillDone block step loc => Sys2Proof.Machine.execFillDone block step loc s
  | .deepRecoveryStepDone block ok loc => Sys2Proof.Machine.execDeepRecoveryStepDone block ok loc s
  | .splitChange ses c => Sys2Proof.Machine.execSplitChange ses c s
  | .walkDone blk asid va => Sys2Proof.Machine.execWalkDone blk asid va s
  | .xlatePinExpire blk asid va => Sys2Proof.Machine.execXlatePinExpire blk asid va s
  | .faultTimeout fidx => Sys2Proof.Machine.execFaultTimeout fidx s
  | .xlateBind n => Sys2Proof.Machine.execXlateBind n s
  | .xlateUnbind n => Sys2Proof.Machine.execXlateUnbind n s
  | .xlateInvalPages n => Sys2Proof.Machine.execXlateInvalPages n s
  | .xlateInvalAsid n => Sys2Proof.Machine.execXlateInvalAsid n s
  | .xlateInvalPartition n => Sys2Proof.Machine.execXlateInvalPartition n s
  | .xlateInvalDrained n => Sys2Proof.Machine.execXlateInvalDrained n s
  | .xlateResolveReplay n => Sys2Proof.Machine.execXlateResolveReplay n s
  | .xlateResolveFail n => Sys2Proof.Machine.execXlateResolveFail n s
  | .xlatePrefetch n => Sys2Proof.Machine.execXlatePrefetch n s
  | .chainStart part q n => Sys2Proof.Machine.execChainStart part q n s
  | .engineCreditedRetry n => Sys2Proof.Machine.execEngineCreditedRetry n s
  | .descriptorComplete n => Sys2Proof.Machine.execDescriptorComplete n s
  | .chainLoop n => Sys2Proof.Machine.execChainLoop n s
  | .tileCopy n => Sys2Proof.Machine.execTileCopy n s
  | .tileFill n => Sys2Proof.Machine.execTileFill n s
  | .tileReduceAdd n => Sys2Proof.Machine.execTileReduceAdd n s
  | .tileReduceMin n => Sys2Proof.Machine.execTileReduceMin n s
  | .tileReduceMax n => Sys2Proof.Machine.execTileReduceMax n s
  | .tileMatmul n => Sys2Proof.Machine.execTileMatmul n s
  | .tileEwiseAdd n => Sys2Proof.Machine.execTileEwiseAdd n s
  | .tileEwiseSub n => Sys2Proof.Machine.execTileEwiseSub n s
  | .tileEwiseMul n => Sys2Proof.Machine.execTileEwiseMul n s
  | .tileEwiseMin n => Sys2Proof.Machine.execTileEwiseMin n s
  | .tileEwiseMax n => Sys2Proof.Machine.execTileEwiseMax n s
  | .tileEwiseAxpb n => Sys2Proof.Machine.execTileEwiseAxpb n s
  | .tileEwiseExp n => Sys2Proof.Machine.execTileEwiseExp n s
  | .tileEwiseRecip n => Sys2Proof.Machine.execTileEwiseRecip n s
  | .tileEwiseRsqrt n => Sys2Proof.Machine.execTileEwiseRsqrt n s
  | .tileEwiseRowsum n => Sys2Proof.Machine.execTileEwiseRowsum n s
  | .tileEwiseRowmax n => Sys2Proof.Machine.execTileEwiseRowmax n s
  | .optStep n => Sys2Proof.Machine.execOptStep n s
  | .wioPack n => Sys2Proof.Machine.execWioPack n s
  | .wioUnpack n => Sys2Proof.Machine.execWioUnpack n s
  | .ckptWrite n => Sys2Proof.Machine.execCkptWrite n s
  | .ckptRestore n => Sys2Proof.Machine.execCkptRestore n s
  | .lookupPool n => Sys2Proof.Machine.execLookupPool n s
  | .embUpdate n => Sys2Proof.Machine.execEmbUpdate n s
  | .embPublish n => Sys2Proof.Machine.execEmbPublish n s
  | .embQuery n => Sys2Proof.Machine.execEmbQuery n s
  | .vsSearch n => Sys2Proof.Machine.execVsSearch n s
  | .vsMerge n => Sys2Proof.Machine.execVsMerge n s
  | .vsCast n => Sys2Proof.Machine.execVsCast n s
  | .vsPublish n => Sys2Proof.Machine.execVsPublish n s
  | .vsInfo n => Sys2Proof.Machine.execVsInfo n s
  | .attendDecode n => Sys2Proof.Machine.execAttendDecode n s
  | .kvProbe n => Sys2Proof.Machine.execKvProbe n s
  | .hartLoad hart pa width => Sys2Proof.Machine.execHartLoad hart pa width s
  | .hartStore hart pa width value => Sys2Proof.Machine.execHartStore hart pa width value s
  | .hartFetch hart pa => Sys2Proof.Machine.execHartFetch hart pa s
  | .clusterCreditedRetry k => Sys2Proof.Machine.execClusterCreditedRetry k s
  | .cboClean hart pa => Sys2Proof.Machine.execCboClean hart pa s
  | .cboFlush hart pa => Sys2Proof.Machine.execCboFlush hart pa s
  | .cboInval hart pa => Sys2Proof.Machine.execCboInval hart pa s
  | .counterWindowLoadValue hart ctr => Sys2Proof.Machine.execCounterWindowLoadValue hart ctr s
  | .counterWindowAdd hart ctr value => Sys2Proof.Machine.execCounterWindowAdd hart ctr value s
  | .counterWindowSet hart ctr value => Sys2Proof.Machine.execCounterWindowSet hart ctr value s
  | .counterWindowLoadMode hart ctr => Sys2Proof.Machine.execCounterWindowLoadMode hart ctr s
  | .counterWindowSetMode hart ctr value => Sys2Proof.Machine.execCounterWindowSetMode hart ctr value s
  | .counterWindowArm hart ctr value => Sys2Proof.Machine.execCounterWindowArm hart ctr value s
  | .counterWindowLoadThresh hart ctr => Sys2Proof.Machine.execCounterWindowLoadThresh hart ctr s
  | .apertureGeneration ses value => Sys2Proof.Machine.execApertureGeneration ses value s
  | .routeWrite ses sub value => Sys2Proof.Machine.execRouteWrite ses sub value s
  | .partitionActivate ses => Sys2Proof.Machine.execPartitionActivate ses s
  | .partitionReset ses => Sys2Proof.Machine.execPartitionReset ses s
  | .partitionRelease ses => Sys2Proof.Machine.execPartitionRelease ses s
  | .partitionResetDrained part => Sys2Proof.Machine.execPartitionResetDrained part s
  | .revokeExtent ses e => Sys2Proof.Machine.execRevokeExtent ses e s
  | .revocationComplete e => Sys2Proof.Machine.execRevocationComplete e s
  | .grantExtent ses e => Sys2Proof.Machine.execGrantExtent ses e s
  | .counterBlockOwner ses value => Sys2Proof.Machine.execCounterBlockOwner ses value s
  | .castBlockOwner ses value => Sys2Proof.Machine.execCastBlockOwner ses value s
  | .identityPartition ses value => Sys2Proof.Machine.execIdentityPartition ses value s
  | .doorbellCounterWrite ses q value => Sys2Proof.Machine.execDoorbellCounterWrite ses q value s
  | .queueRingBaseWrite ses q value => Sys2Proof.Machine.execQueueRingBaseWrite ses q value s
  | .deviceResetWarm ses => Sys2Proof.Machine.execDeviceResetWarm ses s
  | .deviceResetCold ses boot => Sys2Proof.Machine.execDeviceResetCold ses boot s
  | .warmResetDrained => Sys2Proof.Machine.execWarmResetDrained s
  | .portReset p => Sys2Proof.Machine.execPortReset p s
  | .portRoleWrite ses role => Sys2Proof.Machine.execPortRoleWrite ses role s
  | .quarantine slice trigger => Sys2Proof.Machine.execQuarantine slice trigger s
  | .clusterReset k => Sys2Proof.Machine.execClusterReset k s
  | .clusterFailure k => Sys2Proof.Machine.execClusterFailure k s
  | .proposalAssign ses answer => Sys2Proof.Machine.execProposalAssign ses answer s
  | .proposalUnassign ses answer => Sys2Proof.Machine.execProposalUnassign ses answer s
  | .proposalRole ses answer => Sys2Proof.Machine.execProposalRole ses answer s
  | .proposalMarkfail ses answer => Sys2Proof.Machine.execProposalMarkfail ses answer s
  | .markfailProbeTimeout dev => Sys2Proof.Machine.execMarkfailProbeTimeout dev s
  | .assignSlots keeper e tier prot part => Sys2Proof.Machine.execAssignSlots keeper e tier prot part s
  | .keeperCommit x => Sys2Proof.Machine.execKeeperCommit x s
  | .keeperFetchReply e entry => Sys2Proof.Machine.execKeeperFetchReply e entry s
  | .maquettePinExpire e => Sys2Proof.Machine.execMaquettePinExpire e s
  | .deviceTableUpdate dev row gens => Sys2Proof.Machine.execDeviceTableUpdate dev row gens s
  | .departedRecordExpire e => Sys2Proof.Machine.execDepartedRecordExpire e s
  | .forwardRecordExpire dev agent reqid => Sys2Proof.Machine.execForwardRecordExpire dev agent reqid s
  | .twinHandshake p dev => Sys2Proof.Machine.execTwinHandshake p dev s
  | .pointingWrite p h data => Sys2Proof.Machine.execPointingWrite p h data s
  | .pointingAck addr => Sys2Proof.Machine.execPointingAck addr s
  | .heartbeat => Sys2Proof.Machine.execHeartbeat s
  | .twinSilent => Sys2Proof.Machine.execTwinSilent s
  | .twinWarmResetAnnounce => Sys2Proof.Machine.execTwinWarmResetAnnounce s
  | .takeover => Sys2Proof.Machine.execTakeover s
  | .twinReturn copiesLost => Sys2Proof.Machine.execTwinReturn copiesLost s
  | .resyncDone => Sys2Proof.Machine.execResyncDone s
  | .pair ses => Sys2Proof.Machine.execPair ses s
  | .detach ses => Sys2Proof.Machine.execDetach ses s
  | .yield ses => Sys2Proof.Machine.execYield ses s
  | .patinaScrub addr found => Sys2Proof.Machine.execPatinaScrub addr found s
  | .flashPatina block step loc => Sys2Proof.Machine.execFlashPatina block step loc s
  | .katnow ses => Sys2Proof.Machine.execKatnow ses s
  | .scrub ses found => Sys2Proof.Machine.execScrub ses found s
  | .memtest ses failed => Sys2Proof.Machine.execMemtest ses failed s
  | .retrain ses => Sys2Proof.Machine.execRetrain ses s
  | .mailboxGo f irq request => Sys2Proof.Machine.execMailboxGo f irq request s
  | .doorbellPageWrite f entry value => Sys2Proof.Machine.execDoorbellPageWrite f entry value s
  | .mctpMessage i3c ep body => Sys2Proof.Machine.execMctpMessage i3c ep body s
  | .setEndpointId i3c op eid => Sys2Proof.Machine.execSetEndpointId i3c op eid s
  | .getEndpointId i3c => Sys2Proof.Machine.execGetEndpointId i3c s
  | .getEndpointUuid i3c => Sys2Proof.Machine.execGetEndpointUuid i3c s
  | .getMctpVersionSupport i3c kind => Sys2Proof.Machine.execGetMctpVersionSupport i3c kind s
  | .getMessageTypeSupport i3c => Sys2Proof.Machine.execGetMessageTypeSupport i3c s
  | .getVendorDefinedMsgSupport i3c sel => Sys2Proof.Machine.execGetVendorDefinedMsgSupport i3c sel s
  | .nyborRead ses index sub => Sys2Proof.Machine.execNyborRead ses index sub s
  | .nyborWrite ses index sub value => Sys2Proof.Machine.execNyborWrite ses index sub value s
  | .nyborDescribe ses index sub => Sys2Proof.Machine.execNyborDescribe ses index sub s
  | .functionLevelReset f => Sys2Proof.Machine.execFunctionLevelReset f s
  | .pcieReset => Sys2Proof.Machine.execPcieReset s
  | .controlFunctionWrite ses value => Sys2Proof.Machine.execControlFunctionWrite ses value s
  | .reportStart ses => Sys2Proof.Machine.execReportStart ses s
  | .reportSigned signature => Sys2Proof.Machine.execReportSigned signature s
  | .keyLoad ses => Sys2Proof.Machine.execKeyLoad ses s
  | .keyClear ses => Sys2Proof.Machine.execKeyClear ses s
  | .debugToken token => Sys2Proof.Machine.execDebugToken token s
  | .debugClose ses => Sys2Proof.Machine.execDebugClose ses s
  | .hbm4PeriodicCalibration ch => Sys2Proof.Machine.execHbm4PeriodicCalibration ch s
  | .portLaneAdaptation p => Sys2Proof.Machine.execPortLaneAdaptation p s
  | .takeoverReport twin e => Sys2Proof.Machine.execTakeoverReport twin e s
  | .assignTold e entry => Sys2Proof.Machine.execAssignTold e entry s
  | .preparePointingCopy home e tier part => Sys2Proof.Machine.execPreparePointingCopy home e tier part s
  | .unassignDrained e => Sys2Proof.Machine.execUnassignDrained e s
  | .quarantineCopyDone slice => Sys2Proof.Machine.execQuarantineCopyDone slice s
  | .msixTableWrite f vec addr data mask => Sys2Proof.Machine.execMsixTableWrite f vec addr data mask s
  | .dynamicAddressAssignment addr => Sys2Proof.Machine.execDynamicAddressAssignment addr s

end Sys2Proof.Machine
end

