-- ==== Sys2Proof/Machine/Step.lean ====
section
/-!
DEFINITION. One step of the block: the command at the front of the queue is run on the rest; with no command waiting, the
local timer goes on by one tick of 8 ns (R116, R416; log entry 6).
-/

namespace Sys2Proof.Machine

/-- The length of a tick of the local timer in picoseconds: 8 ns, the unit of R116 and R416. -/
def tickPs : Nat := 8000

/-- What an empty queue does: the local timer goes on by one tick, and what waits inside the device is tried again. -/
def State.tick (s : State) : State := ((Run.start s).idle tickPs).cur

/-- One step. -/
def step (s : State) : Host.Outcome State Fault Refusal :=
  match s.pending with
  | [] => .next s.tick
  | c :: rest => exec c { s with pending := rest }

/-- The state with the command that a word spells at the front of its queue; unchanged where the word spells none. -/
def State.withFetchWord (s : State) (nbits w : Nat) : State :=
  match decodeTableWord nbits w with
  | some c => { s with pending := c :: s.pending }
  | none => s

end Sys2Proof.Machine
end

