-- ==== Sys2Proof/Safety.lean ====
section
/-!
DEFINITION. What a safe run is, in the terms the statements use: the three stores of bytes stay in canonical form, so that
equal stores are equal data, and the marks of poisoned lines stay rising; nothing waits inside the device; a command answers a
next state of which something holds.
-/

namespace Sys2Proof.Machine

/-- A list of marks rises strictly. -/
abbrev Marks.wf (m : List Nat) : Prop := m.Pairwise (· < ·)

/-- The stores and marks are in canonical form. -/
structure State.Inv (s : State) : Prop where
  mem : Mem.wf s.mem
  flash : Mem.wf s.flash
  copy : Mem.wf s.copy
  bad : Marks.wf s.bad
  fbad : Marks.wf s.fbad
  cbad : Marks.wf s.cbad

/-- Nothing waits inside the device for a command to let it go on: no replayed request, object load, hart access, line under
recovery, held reduction, late credit, request behind another, cast store or fence. -/
structure Dev.Quiet (d : Dev) : Prop where
  again : d.again = []
  objWait : d.objWait = []
  harts : ∀ x ∈ d.harts, x.2.pend = none
  recov : d.recov = []
  relief : d.relief = []
  lates : d.lates = []
  after : d.after = []
  castOps : d.castOps = []
  fences : d.fences = []

/-- The command answers a next state, and the state has the property. -/
def Answers (c : Instr) (s : State) (P : State → Prop) : Prop := ∃ t, exec c s = .next t ∧ P t

/-- Between two states the block sent `o`. -/
def Sends (s t : State) (o : Out) : Prop := ∃ new, t.out = new ++ s.out ∧ o ∈ new

/-- The bytes of the three stores and their poison marks are what they were. -/
structure SameBytes (s t : State) : Prop where
  mem : t.mem = s.mem
  flash : t.flash = s.flash
  copy : t.copy = s.copy
  bad : t.bad = s.bad
  fbad : t.fbad = s.fbad
  cbad : t.cbad = s.cbad

/-- Every dictionary object but those listed (instance, index, subindex) reads as it did. -/
def SameObjects (s t : State) (but : List (Nat × Nat × Nat)) : Prop :=
  ∀ i x u, x < 65536 → u < 256 → (i, x, u) ∉ but → t.dev.o i x u = s.dev.o i x u

/-- The line at a store address as the home tier holds it, with its poison. -/
def State.lineAt (s : State) (a : Nat) : DLine :=
  if s.bad.contains (lineNo a) then Machine.bad else good (lineOf (Mem.read s.mem (64 * lineNo a) 64))

/-- Of the bytes and poison marks, only those of line `l` of the store may have changed. -/
structure OnlyLine (s t : State) (l : Nat) : Prop where
  bytes : ∀ x, x / 64 ≠ l → Mem.get t.mem x = Mem.get s.mem x
  marks : ∀ k, k ≠ l → (k ∈ t.bad ↔ k ∈ s.bad)
  flash : t.flash = s.flash
  copy : t.copy = s.copy
  fbad : t.fbad = s.fbad
  cbad : t.cbad = s.cbad

/-- Nothing is under way at the home slices, the ports or the plinth. -/
structure Dev.Idle (d : Dev) : Prop extends Dev.Quiet d where
  jobs : d.jobs = []
  txns : d.txns = []
  dir : d.dir = []
  comb : d.comb = []
  fills : d.fills = []
  moves : d.moves = []
  exts : d.exts = []
  quar : d.quar = []
  revokes : d.revokes = []
  revoked : d.revoked = []
  assigned : d.assigned = []
  credits : d.credits = []
  origs : d.origs = []
  fents : d.fents = []
  walks : d.walks = []
  waits : d.waits = []
  portRst : d.portRst = []
  resets : d.resets = []
  fwds : d.fwds = []
  inval : d.inval = []
  transit : d.transit = []
  places : d.places = []
  split : d.split = none
  clRst : d.clRst = []

/-- The line at `a` is homed here in SRAM or placed DRAM, unprotected, and belongs to the partition. -/
def Dev.Placed (d : Dev) (a part : Nat) : Prop :=
  ∃ g, d.g? a = some g ∧ g.tier < 2 ∧ g.state = 0 ∧ g.prot = false ∧ g.part = part

/-- Port `p`'s link sends a message of up to 64 flits at once: no message waits there, and that many more flits may be outstanding
(R184). -/
structure Dev.LinkFree (d : Dev) (p : Nat) : Prop where
  idle : (d.link p).txq = []
  room : 64 ≤ d.lackRoom p

/-- It sends requests of a class and partition at once too: the receiver has granted credits for them (R186). -/
structure Dev.LinkTakes (d : Dev) (p cls part : Nat) : Prop extends Dev.LinkFree d p where
  flits : 64 ≤ (d.link p).flitCr.getD cls 0
  heads : 64 ≤ (d.link p).reqCr.getD part 0

/-- A request of an attached device stands in front of its lines: the first try of a well-formed header of the class, no hold, its identity
bound to an active partition below its cap; an agent there has not failed; the link takes the answer. -/
structure Dev.FromPort (d : Dev) (p code cls : Nat) (h : Hdr) (part : Nat) : Prop where
  ready : d.ready = true
  work : d.noAdmit = false
  link : d.o p 0x3040 1 = 2
  role : d.role p = 1 ∨ d.role p = 2
  agentUp : d.role p = 2 → d.agentState (8 + p) < 2
  header : headerOk (d.role p) code h = true
  cls : h.cls = cls
  first : h.cred = false
  hold : d.o 0 0x2000 1 = 0
  ident : d.identP.get? (p * 128 + bits h.stream.toNat 0 7) = some part
  active : d.partState part = 1
  cap : 0 < d.o part 0x6010 7
  sends : d.LinkFree p

/-- A request of class G of one line whose translation is resident, its ASID the partition's, with the permission the operation needs; it
names no counter. -/
structure Dev.Request (d : Dev) (p code : Nat) (h : Hdr) (part a : Nat) : Prop extends Dev.FromPort d p code 3 h part where
  one : h.n = 1
  ctr : h.counter = none
  asid : d.ownsAsid part h.asid.toNat = true
  page : d.lookUp (blkOfPort p) h.asid.toNat (accessOf code) [h.a] = .ok [a]

/-- The lanes are empty, and the partition is served from the whole common part: every first request of class S or L of few
flits is admitted (R97). -/
structure Dev.FreeLanes (d : Dev) (part : Nat) : Prop where
  lanes : d.lanes = []
  events : d.laneEv = []
  share : d.reserved part = 0
  common : d.commonPct = 100

/-- A first try of a request of class L of one line, such as an atomic, whose translation is resident, its ASID the partition's, with the
permission the operation needs, where every lane is free; it names no counter and sets no deadline. -/
structure Dev.RequestL (d : Dev) (p code : Nat) (h : Hdr) (part a : Nat) : Prop extends Dev.FromPort d p code 1 h part, Dev.FreeLanes d part where
  ctr : h.counter = none
  late : h.dl = false
  asid : d.ownsAsid part h.asid.toNat = true
  page : d.lookUp (blkOfPort p) h.asid.toNat (accessOf code) [h.a] = .ok [a]

/-- A first try of a coherence request of a port's active agent, whose translation is resident, where every lane and every way of
the directory is free; the link takes the grant, of class L. -/
structure Dev.CohPort (d : Dev) (p code : Nat) (h : Hdr) (part a : Nat) : Prop extends Dev.FromPort d p code 1 h part, Dev.FreeLanes d part where
  two : d.role p = 2
  agent : d.agentState (8 + p) = 1
  late : h.dl = false
  asid : d.ownsAsid part h.asid.toNat = true
  page : d.lookUp (blkOfPort p) h.asid.toNat (accessOf code) [h.a] = .ok [a]
  ways : d.resWay = []
  grants : 64 ≤ (d.link p).flitCr.getD 1 0

/-- A coherence request of an active cluster, whose first core belongs to the partition, where every lane and every way of the
directory is free. -/
structure Dev.CohCluster (d : Dev) (k part : Nat) : Prop extends Dev.FreeLanes d part where
  agent : d.agentState k = 1
  ready : d.ready = true
  work : d.noAdmit = false
  hold : d.o 0 0x2000 1 = 0
  owner : d.corePart k 0 = part
  ways : d.resWay = []

/-- A message of a port's active agent in the name of a partition. -/
structure Dev.CohMsg (d : Dev) (p code : Nat) (h : Hdr) (part : Nat) : Prop where
  takes : d.takes p = true
  two : d.role p = 2
  header : headerOk 2 code h = true
  agent : d.agentState (8 + p) = 1
  ident : d.identP.get? (p * 128 + bits h.stream.toNat 0 7) = some part
  sends : d.LinkFree p

/-- The one path to a device goes by this port, which takes requests; no stream is open, no path is lost. -/
structure Dev.OnePath (d : Dev) (dst port : Nat) : Prop where
  path : ∃ w, d.paths.get? dst = some (w, 0, 0, 0) ∧ bit w 6 = true ∧ bits w 0 4 = port
  lost : d.lost = []
  unreach : d.unreach = []
  sends : d.sends = []

/-- Pair `n` of the device's engines stands at the start of a descriptor of operation `code` that keeps the header's rules, without VIRT,
of class G where the class is chosen. -/
structure Dev.Engine (d : Dev) (n code : Nat) (b : List Byte) (c : Chain) : Prop where
  chain : (d.pair n).chain = some c
  desc : c.desc = b
  start : c.stage = .ready
  goes : c.ended = false
  ready : d.ready = true
  clock : d.pins.refSys = true
  op : dOp b = code
  header : hdrOk b = true
  inside : ¬ (c.pos = 255 ∧ dCtl b 0 = true)
  plain : dSvc b 6 = false
  cls : dFixed code = true ∨ dCls b = 3
  hold : d.o 0 0x2000 1 = 0

/-- Pair `n` is in the middle of such a descriptor, and nothing of it is under way. -/
structure Dev.GoesOn (d : Dev) (n code : Nat) (b : List Byte) (c : Chain) : Prop where
  chain : (d.pair n).chain = some c
  desc : c.desc = b
  busy : c.stage = .busy
  goes : c.ended = false
  ready : d.ready = true
  clock : d.pins.refSys = true
  op : dOp b = code
  plain : dSvc b 6 = false
  parked : (d.pair n).parked = []
  held : (d.pair n).held = none
  sent : (d.pair n).sent = 0
  worst : (d.pair n).worst = none

/-- The current descriptor of pair `n` has ended. -/
def Dev.Ended (d : Dev) (n : Nat) (st : Status) (word : Nat) : Prop := (d.pair n).chain.map (·.stage) = some (.done st word)

/-- The directory names this agent as the one holder of a line, which it may change. -/
def State.Owns (s : State) (line agent : Nat) : Prop := (s.dev.dir.get? line).map (fun e => (e.st, e.p0)) = some (.dx, agent)

/-- The bytes of a line. -/
def State.bytesAt (s : State) (a : Nat) : List Byte := lineBytes (s.lineAt a).data

/-- A line at a store address is placed here for the partition, on a line boundary, without poison. -/
structure State.Readable (s : State) (a part : Nat) : Prop where
  line : a % 64 = 0
  range : a < 2 ^ 62
  placed : s.dev.Placed a part
  good : (s.lineAt a).poison = false

/-- A line of one of the three stores, with its poison. -/
def State.stored (s : State) (w : Store) (l : Nat) : DLine :=
  if (s.marks w).contains l then Machine.bad else good (lineOf (Mem.read (s.cells w) (64 * l) 64))

/-- Pair `n` stands at a placement descriptor of one granule, class G, without VIRT: it keeps R40, and the granule is homed here for the chain's partition. -/
structure Dev.Placing (d : Dev) (n code kinds : Nat) (b : List Byte) (c : Chain) (g : Nat) (x : GEnt) : Prop extends
    Dev.Idle d, Dev.Engine d n code b c where
  body : placeOk b kinds 64 = true
  one : fld b 0x18 4 = 1
  svc : fld b 0x1D 1 = 0
  range : fld b 0x10 8 < 2 ^ 62
  granule : granuleOf (fld b 0x10 8) = g
  found : d.gran.get? g = some x
  part : x.part = c.part

/-- The word of a placement operation that ends `OK`: the bytes of its result record. -/
def placeWord (b : List Byte) : Nat := if fld b 0x28 8 = 0 then 0 else 64

/-- Of the bytes of the store, only `n` from `a` on may have changed; no poison mark has. -/
structure OnlyBytes (s t : State) (a n : Nat) : Prop where
  bytes : ∀ x, x < a ∨ a + n ≤ x → Mem.get t.mem x = Mem.get s.mem x
  flash : t.flash = s.flash
  copy : t.copy = s.copy
  bad : t.bad = s.bad
  fbad : t.fbad = s.fbad
  cbad : t.cbad = s.cbad

/-- Commands that touch no byte of a store: pins, sensors, timers, control messages and upkeep. -/
def touchesNoBytes : Sys2Proof.Instr → Bool
  | .assignTold .. | .avsbusRetry .. | .backgroundWriteback .. | .coldWaitExpire .. | .coldWaitRecheck ..
  | .configImageAnnounce .. | .creditGrant .. | .debugToken .. | .departedRecordExpire .. | .dynamicAddressAssignment ..
  | .functionLevelReset .. | .getEndpointId .. | .getEndpointUuid .. | .getMctpVersionSupport .. | .getMessageTypeSupport ..
  | .getVendorDefinedMsgSupport .. | .granuleClose .. | .granuleOpenDone .. | .hbm4PeriodicCalibration .. | .heartbeat ..
  | .katPeriodicStart .. | .maquettePinExpire .. | .msixTableWrite .. | .nak .. | .pcieReset .. | .peRefclkLost ..
  | .portLaneAdaptation .. | .portTrainAttemptExpire .. | .powerSample .. | .refclkSdReturn .. | .reportSigned ..
  | .setEndpointId .. | .speedHoldEnd .. | .thermalHoldEnd .. | .thermtrip .. | .trainingDone .. | .xlatePinExpire .. => true
  | _ => false

/-- The requests a compute-attach port can carry, each with its operation code (Table 7-7), of one header. -/
def portRequests (p : Fin 16) (h : Hdr) (data : List DLine) (x : DLine) : List (Nat × Sys2Proof.Instr) :=
  [(0x01, .memLoad p h []), (0x02, .memStore p h data []), (0x03, .memStorep p h x), (0x08, .reduceAdd p h data), (0x09, .reduceMin p h data),
    (0x0A, .reduceMax p h data), (0x0C, .castStore p h data), (0x10, .atomicAdd p h), (0x11, .atomicMin p h), (0x12, .atomicMax p h),
    (0x13, .atomicCas p h), (0x20, .rds (.port p h)), (0x21, .rdx (.port p h)), (0x22, .upg (.port p h)), (0x50, .syncSet (.port p h)),
    (0x51, .syncAdd (.port p h)), (0x52, .syncRead (.port p h)), (0x53, .syncArm (.port p h)), (0x58, .orderFence (.port p h))]

/-! ### Harts and sessions -/

/-- Hart `h` is ready for an access: its cluster active, its partition active, no credit held. -/
structure Dev.HartFree (d : Dev) (h part : Nat) : Prop where
  agent : d.agentState (h / 4) = 1
  ready : d.ready = true
  work : d.noAdmit = false
  owner : d.corePart (h / 4) (h % 4) = part
  active : d.o part 0x6050 1 = 1
  credit : (d.harts.getD h {}).credit = none

/-- The store aperture, as hart `h`'s cluster holds it, maps physical address `pa` to store address `sa`, for a write where `w` says so. -/
structure Dev.Window (d : Dev) (h pa sa : Nat) (w : Bool) : Prop where
  below : pa < 2 ^ 55
  entry : ∃ x, d.apert.get? (h / 4 * 2048 + bits pa 44 11) = some x ∧ bit x 0 = true ∧ (w = true → bit x 1 = false)
    ∧ sa = bits x 44 18 * 2 ^ 44 + pa % 2 ^ 44

/-- Where the answer of a session's request goes (R439, R442, R469). -/
def Dev.sessionAnswer (d : Dev) (n : Nat) (m : List Byte) : Out :=
  if n ≤ 64 then .mailbox n m
  else if n ≤ 80 then .mctp (256 ≤ d.eids.getD (n - 65) 0) (d.eids.getD (n - 65) 0 % 256) (leBytes 2 (d.o 0 0x1000 2) ++ leBytes 1 1 ++ m)
  else .tap m

/-- In READY, a session that has the right to make a request makes it, while no session waits for anything. -/
structure Dev.Desk (d : Dev) (ses : Session) (q : NReq) : Prop extends Dev.Quiet d where
  power : d.pins.pwrgood = true
  ready : d.ready = true
  work : d.bring.draining = false
  free : ∀ x ∈ d.ses, x.2.busy = none ∧ x.2.queue = []
  link : sesNum ses ≤ 64 ∨ (sesNum ses ≤ 80 ∧ d.sesI3c (sesNum ses) = false) → d.linkPe = true
  tap : ses = .tap → d.debug = 1
  right : d.nyDenied (sesNum ses) q (oRow? q.index q.sub) = false
  inst : instFits q.index (d.instOf (sesNum ses) q.index) = true

/-- The request was answered `OK`. -/
def Replied (s t : State) (ses : Session) (q : NReq) : Prop := Sends s t (s.dev.sessionAnswer (sesNum ses) (nyMsg q .ok 0 []))

/-- The indices whose objects have a rule of their own beyond their range, or are composed when they are read or written (chapter 19). -/
def ruledObjects : List Nat :=
  [0x1030, 0x1040, 0x2000, 0x3010, 0x3050, 0x3F10, 0x4080, 0x4090, 0x5010, 0x5100, 0x5F00, 0x6010, 0x6020, 0x6030, 0x6050, 0x6060, 0x6070, 0x6F00,
    0x6F10, 0x6F20, 0x7010, 0x7030, 0x8000, 0xB000, 0xB020, 0xB030, 0xB040]

/-- A proposal of a kind starts by a write of 1 to 0x7030:06 and goes to the keeper that decides it; the keeper's answer ends it (R371). -/
def Proposes (i : Session → Option PropAnswer → Sys2Proof.Instr) (kind : Nat) : Prop :=
  (∀ (ses : Session) (keeper : Nat) (s : State), s.dev.Desk ses (wr 0x7030 6 1) → s.dev.o 0 0x7030 1 = kind → s.dev.prop = none →
    keeper = (if kind ≤ 2 then s.dev.keeperFor (s.dev.o 0 0x7030 2) else s.dev.keeperOf 0) → keeper ≠ s.dev.self →
    s.dev.unreachable keeper = false → (3 ≤ kind → s.dev.o 0 0x7030 3 < 16384) →
    Answers (i ses none) s fun t => Replied s t ses (wr 0x7030 6 1) ∧ SameBytes s t
      ∧ Sends s t (.plinth keeper (.propose kind (s.dev.o 0 0x7030 2) (s.dev.o 0 0x7030 3) (s.dev.o 0 0x7030 4) (s.dev.o 0 0x7030 5)))
      ∧ t.dev.prop.map (fun p => (p.kind, p.keeper)) = some (kind, keeper))
  ∧ (∀ (ses : Session) (a : PropAnswer) (p : Prop_) (s : State), s.dev.Quiet → s.dev.self < 16384 → s.dev.prop = some p → p.kind = kind → p.keeper ≠ s.dev.self →
    Answers (i ses (some a)) s fun t => t.dev.prop = none ∧ t.dev.o 0 0x7030 7 = (Status.ofCode a.status.toNat).code
      ∧ t.dev.o 0 0x7030 8 = a.epoch.toNat ∧ SameBytes s t)

/-! ### Tiles of one element -/

/-- A mould of one element, of a type that is not MX. -/
structure Mould.One (m : Mould) : Prop where
  ok : m.ok = true
  plain : m.wio = false
  n : m.n = [1, 1, 1]
  v : m.v = [1, 1, 1]
  type : m.t.isMx = false

/-- Mould `i` of a queue of a partition is `m`. -/
structure State.HasMould (s : State) (part q i : Nat) (m : Mould) : Prop where
  inside : i < s.dev.o part (0x6040 + q) 9
  record : s.Readable (s.dev.o part (0x6040 + q) 8 + 64 * i) part
  is : mouldOf (s.bytesAt (s.dev.o part (0x6040 + q) 8 + 64 * i)) = m

/-- A tile of the one element at `a` is held here, in a line without poison. -/
structure State.Tile1 (s : State) (part : Nat) (m : Mould) (a : Nat) : Prop where
  one : m.One
  aligned : a % m.t.unit = 0
  range : a + m.t.unit ≤ 2 ^ 62
  placed : s.dev.Placed a part
  good : (s.lineAt a).poison = false

/-- That element. -/
def State.elem (s : State) (m : Mould) (a : Nat) : TE := { v := leNat (Mem.read s.mem a m.t.unit) }

/-- A tile operation of one element ended well: it wrote this element there, and nothing else of the store. -/
structure Wrote (s t : State) (n : Nat) (m : Mould) (a v : Nat) : Prop where
  ended : t.dev.Ended n .ok m.t.unit
  elem : t.elem m a = { v := v % 2 ^ m.t.w }
  only : OnlyBytes s t a m.t.unit

/-- An elementwise operation of two tiles writes `f` of their elements, each taken and stored through FP32 (R240). -/
def EwiseBinary (i : Fin 1024 → Sys2Proof.Instr) (kind : Nat) (f : Nat → Nat → Nat) : Prop :=
  ∀ (n : Fin 1024) (b : List Byte) (c : Chain) (mx my mz : Mould) (s : State), s.dev.Idle → s.dev.Engine n.val 0x64 b c → tOpc b = kind →
    bodyOk b [0, 1, 2] false false 0 = true → tCtr b = none → s.HasMould c.part c.queue (tMould b 0) mx →
    s.HasMould c.part c.queue (tMould b 1) my → s.HasMould c.part c.queue (tMould b 2) mz →
    ewOk mx.code = true → ewOk my.code = true → ewOk mz.code = true →
    s.Tile1 c.part mx (tAddr b 0) → s.Tile1 c.part my (tAddr b 1) → s.Tile1 c.part mz (tAddr b 2) →
    Answers (i n) s fun t => Wrote s t n.val mz (tAddr b 2)
      (mz.t.of32 (f (mx.t.f32 (s.elem mx (tAddr b 0))) (my.t.f32 (s.elem my (tAddr b 1)))))

/-- An elementwise operation of one tile writes `f` of its element; `param` says whether it takes its two parameters. -/
def EwiseUnary (i : Fin 1024 → Sys2Proof.Instr) (kind : Nat) (param : Bool) (f : List Byte → Nat → Nat) : Prop :=
  ∀ (n : Fin 1024) (b : List Byte) (c : Chain) (mx mz : Mould) (s : State), s.dev.Idle → s.dev.Engine n.val 0x64 b c → tOpc b = kind →
    bodyOk b [0, 2] false param (if param then 32 else 0) = true → tCtr b = none → s.HasMould c.part c.queue (tMould b 0) mx →
    s.HasMould c.part c.queue (tMould b 2) mz → ewOk mx.code = true → ewOk mz.code = true →
    s.Tile1 c.part mx (tAddr b 0) → s.Tile1 c.part mz (tAddr b 2) →
    Answers (i n) s fun t => Wrote s t n.val mz (tAddr b 2) (mz.t.of32 (f b (mx.t.f32 (s.elem mx (tAddr b 0)))))

/-- A reduction of one tile into another is one reduction of the destination's line: the element where it stands, the operation's
identity elsewhere (R245). -/
def TileReduces (i : Fin 1024 → Sys2Proof.Instr) (kind : Nat) (op : ROp) : Prop :=
  ∀ (n : Fin 1024) (b : List Byte) (c : Chain) (mx mz : Mould) (et : EType) (s : State), s.dev.Idle → s.dev.Engine n.val 0x62 b c →
    tOpc b = kind → bodyOk b [0, 2] false false 0 = true → tCtr b = none → s.HasMould c.part c.queue (tMould b 0) mx →
    s.HasMould c.part c.queue (tMould b 2) mz → mx.code = mz.code → EType.of? mz.code = some et → et.reduces op = true →
    s.Tile1 c.part mx (tAddr b 0) → s.Tile1 c.part mz (tAddr b 2) →
    Answers (i n) s fun t => (∃ w, t.dev.Ended n.val .ok w) ∧ SameBytes s t
      ∧ (t.dev.comb.get? (lineNo (tAddr b 2))).map (·.data) = some (good (reduceLine op et (s.lineAt (tAddr b 2)).data
          (redLine op et ((2 ^ mz.t.unit - 1) * 2 ^ (tAddr b 2 % 64),
            (s.elem mx (tAddr b 0)).v * 2 ^ (8 * (tAddr b 2 % 64)), false)).data))

/-- What `KV.PROBE` counts a block of one granule as (R327): 0 in SRAM or DRAM, 1 in flash, 2 moving, 3 lost. -/
def residence (g : GEnt) : Nat := if g.state = 2 then 3 else if g.state = 1 ∨ g.state = 3 then 2 else if g.tier = 2 then 1 else 0

/-- The completion of a port's request: the flit of Table 7-5 that answers it. -/
def portAnswer (p : Nat) (h : Hdr) (c : Compl) : Out := .compl p h.src h.path h.reqid.toNat c

end Sys2Proof.Machine
end

