-- ==== Sys2Proof/Certificates/Slice0/Obligations.lean ====
section
/-!
DEFINITION. The statements for the provers, family by family. A clause about a command has the form: in every state that meets these
conditions, the command answers a next state, and this holds of it (`Answers`). Most clauses ask that nothing waits inside the device
(`Dev.Quiet`), since what waits goes on at the end of a command.
-/

open Sys2Proof Sys2Proof.Machine

/-! ### The block -/

/-- A step takes the command at the front of the queue and is its effect on the state with the queue's rest. -/
def Obligations.StepRunsCommand : Prop :=
  ∀ (c : Sys2Proof.Instr) (rest : List Sys2Proof.Instr) (s : State),
    step { s with pending := c :: rest } = exec c { s with pending := rest }

/-- On an empty queue one tick of the local timer passes, 8 ns (R116, R481); that the idle step is the tick is the model's choice (log
entry 6). Where nothing waits inside, nothing else changes. -/
def Obligations.EmptyQueueTicks : Prop :=
  ∀ s : State, s.pending = [] → s.dev.Quiet → s.dev.ses = [] → s.dev.portRst = [] → s.dev.exts = [] →
    step s = .next { s with dev := { s.dev with now := s.dev.now + 8000 } }

/-- No command stops: the spec gives every command an effect (log entry 1), so each answers a next state, in every state. -/
def Obligations.EveryCommandAnswers : Prop := ∀ (c : Sys2Proof.Instr) (s : State), ∃ t, exec c s = .next t

/-- A command leaves the queue alone, takes back nothing that was sent, and draws free values only forward. -/
def Obligations.CommandsOnlyAdd : Prop :=
  ∀ (c : Sys2Proof.Instr) (s t : State), exec c s = .next t →
    t.pending = s.pending ∧ s.fresh ≤ t.fresh ∧ ∃ new, t.out = new ++ s.out

/-- Every step keeps the stores of bytes and the poison marks in canonical form: equal stores are equal data. -/
def Obligations.StepKeepsStores : Prop := ∀ s t : State, s.Inv → step s = .next t → t.Inv

/-- After reset nothing is stored, nothing waits, and the block is held in cold reset (R474): phase 0. -/
def Obligations.ResetState : Prop :=
  State.reset.Inv ∧ State.reset.pending = [] ∧ State.reset.dev.Quiet ∧ State.reset.dev.phase = 0
    ∧ ∀ i x u, State.reset.dev.o i x u = objDefault i x u

/-! ### Core voltage (chapters 1 and 21) -/

/-- R14: whatever the hash key, the 256 lines of every aligned block of 16 KiB go to the 256 logical slices, one to each, so that each
granule places 128 lines in every slice. -/
def Obligations.HomeSlicesEven : Prop :=
  ∀ (d : Dev) (k : Fin 256),
    (∀ b : Nat, b < 2 ^ 48 → ((List.range 256).filter fun i => d.homeSlice (16384 * b + 64 * i) == k.val).length = 1)
    ∧ (∀ g : Nat, g < 2 ^ 41 → ((List.range 32768).filter fun i => d.homeSlice (2 ^ 21 * g + 64 * i) == k.val).length = 128)

/-- R18: a speed monitor that reports a step longer than 1.20 ns raises the AVSBus target by 10 mV, in a sample taken inside the test
reserve (R94), while the regulator takes more (R475) and answers (R476), and the event is recorded: a SPEED record naming the reading and
the new target. -/
def Obligations.SlowMonitorRaisesVoltage : Prop :=
  ∀ (ps : Vector Nat 16) (s : State), s.dev.Quiet → s.dev.pins.pwrgood = true → s.dev.pins.mv ≠ 0 → s.dev.o 0 0xA010 1 ≠ 2 →
    s.dev.mayBurst speedBurst = true → 1200 < ps.toList.foldl max 0 → s.dev.pins.mv + 10 ≤ 900 →
    Answers (.speedMonitorSample ps) s fun t =>
      t.dev.pins.mv = s.dev.pins.mv + 10 ∧ Sends s t (.avs (s.dev.pins.mv + 10))
      ∧ bit (t.dev.o 0 0x2000 1) 1 = true ∧ SameBytes s t
      ∧ (∃ e ∈ t.dev.ring, e.kind = 0x11 ∧ e.sev = 4 ∧ bits e.d0 0 48 = ps.toList.foldl max 0 % 2 ^ 48 ∧ e.d1 = s.dev.pins.mv + 10)
      ∧ (ps.toList.foldl max 0 ≤ 1250 → t.dev.o 0 0xA000 5 = ps.toList.foldl max 0 ∧ t.dev.ring.tail = s.dev.ring.take 4095)

/-- The rest of the core voltage: a target above the nominal one goes down by 5 mV where every monitor reads 1.15 ns or less and the last
change is 1 ms old; three failed AVSBus transactions in a row during work set 0xA010:01 to 2, assert DEVALERT_N and write a SPEED
record with the last target acknowledged (R476); a retry that succeeds sets it to 1 again. While the bus fails a long step raises the
target all the same (R18); it waits for that retry, which sends it (log entry 36). The millisecond from the last change and the lower
end, floor plus 60 mV, are the model's (log entry 113). -/
def Obligations.VoltageAndBus : Prop :=
  (∀ (ps : Vector Nat 16) (s : State), s.dev.Quiet → s.dev.pins.pwrgood = true → s.dev.pins.mv ≠ 0 → s.dev.o 0 0xA010 1 ≠ 2 →
    s.dev.mayBurst speedBurst = true → ps.toList.foldl max 0 ≤ 1150 → nominalMv + 5 ≤ s.dev.pins.mv →
    s.dev.pins.lowered + us 1000 ≤ s.dev.now →
    Answers (.speedMonitorSample ps) s fun t => t.dev.pins.mv = s.dev.pins.mv - 5 ∧ Sends s t (.avs (s.dev.pins.mv - 5))
      ∧ t.dev.ring = s.dev.ring ∧ SameBytes s t)
  ∧ (∀ s : State, s.dev.Quiet → s.dev.pins.pwrgood = true → s.dev.phase = 7 → s.dev.pins.mv ≠ 0 → s.dev.o 0 0xA010 1 ≠ 2 →
    2 ≤ s.dev.pins.busFails →
    Answers .avsbusTransactionFail s fun t => t.dev.o 0 0xA010 1 = 2 ∧ t.dev.pins.devalert = true ∧ t.dev.pins.mv = s.dev.pins.mv
      ∧ Sends s t (.pin "DEVALERT_N" true) ∧ ∃ e, t.dev.ring.head? = some e ∧ e.kind = 0x11 ∧ e.d1 = s.dev.pins.mv)
  ∧ (∀ s : State, s.dev.Quiet → s.dev.o 0 0xA010 1 = 2 →
    Answers (.avsbusRetry true) s fun t => t.dev.o 0 0xA010 1 = 1 ∧ t.dev.pins.busFails = 0
      ∧ t.dev.pins.mv = max s.dev.pins.mv s.dev.pins.want ∧ t.dev.pins.want = 0
      ∧ (s.dev.pins.want ≠ 0 → Sends s t (.avs s.dev.pins.want)) ∧ SameObjects s t [(0, 0xA010, 1)])
  ∧ (∀ (ps : Vector Nat 16) (s : State), s.dev.Quiet → s.dev.pins.pwrgood = true → s.dev.pins.mv ≠ 0 → s.dev.o 0 0xA010 1 = 2 →
    s.dev.mayBurst speedBurst = true → 1200 < ps.toList.foldl max 0 → max s.dev.pins.mv s.dev.pins.want + 10 ≤ 900 →
    Answers (.speedMonitorSample ps) s fun t => t.dev.pins.mv = s.dev.pins.mv ∧ bit (t.dev.o 0 0x2000 1) 1 = true
      ∧ t.dev.pins.want = max s.dev.pins.mv s.dev.pins.want + 10 ∧ Sends s t (.avs t.dev.pins.want) ∧ SameBytes s t)

/-! ### Holds, sensors and power (chapters 4 and 21) -/

/-- The thermal hold begins at 100 °C and is counted once (Table 4-9, R482); the speed hold ends where every monitor has read 1.15 ns or
less for 100 µs, the thermal hold where every sensor has read 97 °C or less for 1 ms; the power throttle begins above 720 W and ends
below 700 W (R480, R121). THERMTRIP_N stays asserted until PWRGOOD falls (R482). -/
def Obligations.HoldsAndSensors : Prop :=
  (∀ (ts : Vector Int 72) (s : State), s.dev.Quiet → s.dev.pins.pwrgood = true → bit (s.dev.o 0 0x2000 1) 0 = false →
    100000 ≤ ts.toList.foldl max (-273150) → ts.toList.foldl max (-273150) ≤ 105000 →
    Answers (.junctionSensorRead ts) s fun t => bit (t.dev.o 0 0x2000 1) 0 = true
      ∧ t.dev.o 0 0xA030 3 = (s.dev.o 0 0xA030 3 + 1) % 2 ^ oWidth 0xA030 3 ∧ t.dev.pins.hotAt = s.dev.now
      ∧ SameObjects s t [(0, 0x2000, 1), (0, 0xA030, 3)] ∧ SameBytes s t ∧ t.out = s.out)
  ∧ (∀ s : State, s.dev.Quiet → s.dev.o 0 0x2000 1 = 2 → s.dev.pins.slowAt + us 100 ≤ s.dev.now →
    Answers .speedHoldEnd s fun t => t.dev.o 0 0x2000 1 = 0 ∧ SameObjects s t [(0, 0x2000, 1)] ∧ SameBytes s t
      ∧ ∀ c ∈ t.dev.credits, c.2.held ≠ some 12)
  ∧ (∀ s : State, s.dev.Quiet → s.dev.o 0 0x2000 1 = 1 → s.dev.pins.hotAt + us 1000 ≤ s.dev.now →
    Answers .thermalHoldEnd s fun t => t.dev.o 0 0x2000 1 = 0 ∧ SameObjects s t [(0, 0x2000, 1)] ∧ SameBytes s t
      ∧ ∀ c ∈ t.dev.credits, c.2.held ≠ some 11)
  ∧ (∀ (mA mW : Nat) (s : State), s.dev.Quiet → s.dev.pins.pwrgood = true → s.dev.pins.samples = [] → 720000 < mW →
    bit (s.dev.o 0 0x2000 1) 2 = false → s.dev.o 0 0xA010 3 ≤ mW →
    Answers (.powerSample mA mW) s fun t => bit (t.dev.o 0 0x2000 1) 2 = true ∧ t.dev.o 0 0xA010 2 = mA ∧ t.dev.o 0 0xA000 4 = mW
      ∧ t.dev.o 0 0xA010 3 = mW ∧ SameBytes s t)
  ∧ (∀ s : State, s.dev.Quiet → s.dev.pins.pwrgood = true → s.dev.pins.thermtrip = false →
    Answers .thermtrip s fun t => t.dev.pins.thermtrip = true ∧ Sends s t (.pin "THERMTRIP_N" true)
      ∧ t.dev = { s.dev with pins := { s.dev.pins with thermtrip := true } } ∧ SameBytes s t)

/-! ### Supplies and reference clocks (chapter 21) -/

/-- While PWRGOOD is deasserted the block is held in cold reset: phase 0, no byte of the store or of a copy kept, the flash log kept
(R474, Table 14-6). -/
def Obligations.PowerLost : Prop :=
  ∀ s : State, Answers .pwrgoodDeassert s fun t =>
    t.dev.pins.pwrgood = false ∧ t.dev.pins.thermtrip = false ∧ t.dev.phase = 0 ∧ t.dev.flog = s.dev.flog ∧ t.dev.gran = []
      ∧ t.dev.jobs = [] ∧ t.dev.credits = [] ∧ t.dev.keys = [] ∧ t.flash = s.flash
      ∧ ∀ a, a < 2 ^ 64 → Mem.get t.mem a = 0 ∧ Mem.get t.copy a = 0

/-- A lost reference (R481). REFCLK_SYS: the device admits no new work, asserts DEVALERT_N and writes an error record. PE_REFCLK: the
endpoint's link goes down and nothing else is touched. REFCLK_SDW and REFCLK_SDE: the links of that half go down, and
are retrained when it returns; a half without links that were up only loses its reference. Each loss is counted at 0xA040:02. -/
def Obligations.ReferenceLost : Prop :=
  (∀ s : State, s.dev.Quiet → s.dev.pins.pwrgood = true → s.dev.pins.refSys = true →
    Answers .refclkSysLost s fun t => t.dev.noAdmit = true ∧ t.dev.pins.devalert = true ∧ Sends s t (.pin "DEVALERT_N" true)
      ∧ t.dev.o 0 0xA040 2 = (s.dev.o 0 0xA040 2 + 1) % 2 ^ 32 ∧ t.dev.ring ≠ [] ∧ SameBytes s t)
  ∧ (∀ s : State, s.dev.Quiet → s.dev.pins.pwrgood = true → s.dev.pins.refPe = true →
    Answers .peRefclkLost s fun t => t.dev.linkPe = false ∧ t.dev.pins.refPe = false
      ∧ t.dev.o 0 0xA040 2 = (s.dev.o 0 0xA040 2 + 1) % 2 ^ 32 ∧ SameObjects s t [(0, 0xA040, 2)] ∧ SameBytes s t ∧ t.out = s.out)
  ∧ (∀ (h : Half) (s : State), s.dev.Quiet → s.dev.pins.pwrgood = true → s.dev.pins.refW = true → s.dev.pins.refE = true →
    (∀ p ∈ halfPorts h, s.dev.o p 0x3040 1 = 0) →
    Answers (.refclkSdLost h) s fun t => (match h with | .west => t.dev.pins.refW | .east => t.dev.pins.refE) = false
      ∧ (match h with | .west => t.dev.pins.refE | .east => t.dev.pins.refW) = true
      ∧ t.dev.o 0 0xA040 2 = (s.dev.o 0 0xA040 2 + 1) % 2 ^ 32 ∧ SameObjects s t [(0, 0xA040, 2)] ∧ SameBytes s t ∧ t.out = s.out)
  ∧ (∀ (p : Fin 16) (s : State), s.dev.Quiet → s.dev.pins.pwrgood = true → s.dev.pins.refW = true → s.dev.pins.refE = true →
    s.dev.paths = [] → s.dev.sends = [] → s.dev.role p.val ≠ 2 → s.dev.o p.val 0x3040 1 = 2 →
    (∀ q ∈ List.range 16, q ≠ p.val → s.dev.o q 0x3040 1 = 0) →
    Answers (.refclkSdLost (if p.val < 8 then .west else .east)) s fun t =>
      t.dev.o p.val 0x3040 1 = 0 ∧ Sends s t (.linkDown p.val) ∧ SameBytes s t)
  ∧ (∀ (h : Half) (s : State), s.dev.Quiet → s.dev.pins.pwrgood = true → s.dev.pins.refW = false → s.dev.pins.refE = false →
    s.dev.ready = true →
    Answers (.refclkSdReturn h) s fun t => (match h with | .west => t.dev.pins.refW | .east => t.dev.pins.refE) = true
      ∧ (∀ p ∈ halfPorts h, s.dev.o p 0x3040 1 = 0 → bit (s.dev.o 0 0xA020 3) p = false →
          t.dev.o p 0x3040 1 = 3 ∧ Sends s t (.retrain p)) ∧ SameBytes s t)

/-! ### Resets and bring-up (chapters 14 and 18) -/

/-- A cold reset: the boot flash's firmware copy that passes is run (R454), bring-up begins in phase 1 as a cold one (R419), nothing of
the store is kept (R474), the hash key and challenge are new; a failed copy check ends in 0x81 with cause 1 (R422). A warm reset asked
for in READY drains (R352). A drain that finds nothing open clears the die and begins the warm fast path. -/
def Obligations.ResetsBegin : Prop :=
  (∀ (b : BootFlash) (s : State), Answers (.coldRst (some b)) s fun t =>
      t.dev.phase = (if s.dev.copyOk b.copyA || s.dev.copyOk b.copyB then 1 else 0x81) ∧ t.dev.o 0 0x1020 2 = 0
      ∧ t.dev.pins.pwrgood = true ∧ t.dev.bring.upAt = s.dev.now ∧ t.dev.flog = s.dev.flog ∧ t.dev.gran = []
      ∧ (s.dev.copyOk b.copyA = true → t.dev.bring.firmware = b.copyA ∧ t.dev.meas.get? 0 = some Config.m0)
      ∧ (s.dev.copyOk b.copyA = false → s.dev.copyOk b.copyB = false → t.dev.o 0 0x1020 5 = 1 ∧ Sends s t .ibi)
      ∧ ∀ a, a < 2 ^ 64 → Mem.get t.mem a = 0)
  ∧ (∀ s : State, s.dev.Quiet → s.dev.pins.pwrgood = true → s.dev.phase = 7 → s.dev.bring.draining = false → s.dev.ses = [] →
    s.dev.comb = [] → s.dev.pointing = false →
    Answers .warmRst s fun t => t.dev.bring.draining = true ∧ t.dev.noAdmit = true ∧ t.dev.bring.upAt = s.dev.now ∧ t.dev.phase = 7
      ∧ (∀ n, ∀ c, (t.dev.pair n).chain = some c → c.ended = true) ∧ SameBytes s t)
  ∧ (∀ s : State, s.dev.Quiet → s.dev.bring.draining = true → s.dev.jobs = [] → s.dev.txns = [] → s.dev.origs = [] →
    s.dev.pairs = [] → s.dev.fents = [] → s.dev.resets = [] → s.dev.comb = [] → s.dev.l2 = [] → s.dev.dir = [] → s.dev.quar = [] →
    s.dev.revokes = [] → s.dev.prop = none → s.dev.probing = [] → s.dev.pairState = 0 →
    Answers .warmResetDrained s fun t => t.dev.phase = 1 ∧ t.dev.o 0 0x1020 2 = 1 ∧ t.dev.bring.draining = false
      ∧ t.dev.ctrs = s.dev.ctrs0 ∧ t.dev.credits = [] ∧ t.dev.gran = s.dev.gran ∧ t.dev.journal = s.dev.journal ∧ SameBytes s t)

/-- The phases of bring-up (R419, Table 18-1): phase 1 ends in phase 2, held there where a die sensor is below 0 °C (R482); a failed
plinth check or a phase past its bound fails bring-up: 0x80 + phase, the cause, a FAIL record and an in-band interrupt (R422); phase 6
ends in READY (Table 18-6), every cluster that works active. A port that has not trained leaves the phase with its record and goes on
trying (R426). An announced image is kept for phase 3 (R423). -/
def Obligations.BringupPhases : Prop :=
  (∀ (f : PhaseFound) (s : State), s.dev.Quiet → s.dev.phase = 1 → s.dev.o 0 0x1020 2 = 0 → s.dev.bring.coldWait = none →
    f.plinth = true → s.dev.bring.report.length < 1024 →
    Answers (.bringupPhaseDone f) s fun t => t.dev.phase = 2 ∧ t.dev.bring.phaseAt = s.dev.now
      ∧ t.dev.bring.coldWait = (if s.dev.tooCold 2 then some s.dev.now else none)
      ∧ t.dev.bring.report.length = s.dev.bring.report.length + 1 ∧ SameBytes s t ∧ SameObjects s t [(0, 0x1020, 1)])
  ∧ (∀ (f : PhaseFound) (s : State), s.dev.Quiet → s.dev.phase = 1 → s.dev.o 0 0x1020 2 = 0 → s.dev.bring.coldWait = none →
    f.plinth = false →
    Answers (.bringupPhaseDone f) s fun t => t.dev.phase = 0x81 ∧ t.dev.o 0 0x1020 5 = 1 ∧ Sends s t .ibi)
  ∧ (∀ (f : PhaseFound) (s : State), s.dev.Quiet → s.dev.phase = 6 → s.dev.o 0 0x1020 2 = 0 → s.dev.bring.coldWait = none →
    s.dev.bring.coldFail = none → f.clusters = [] → s.dev.emb = [] → s.dev.idx = [] → (∀ p, p < 16 → s.dev.o p 0x3040 1 ≠ 2) →
    Answers (.bringupPhaseDone f) s fun t => t.dev.ready = true ∧ t.dev.o 0 0x1020 3 = s.dev.upMs
      ∧ (∀ k, k < 8 → k ∉ s.dev.bring.noCluster → t.dev.o (256 + k) 0x5100 1 = 1) ∧ SameBytes s t)
  ∧ (∀ s : State, s.dev.Quiet → 0 < s.dev.phase → s.dev.phase < 7 → s.dev.bring.coldWait = none →
    s.dev.bring.phaseAt + us (1000 * phaseBound (s.dev.o 0 0x1020 2 == 1) s.dev.phase) < s.dev.now →
    s.dev.bring.report.length < 1024 →
    Answers .bringupPhaseTimeout s fun t => t.dev.phase = 0x80 + s.dev.phase ∧ t.dev.o 0 0x1020 5 = 7 ∧ Sends s t .ibi
      ∧ (∃ x, t.dev.bring.report = s.dev.bring.report ++ [x] ∧ fld x 0 1 = 5 ∧ fld x 16 8 = 7) ∧ SameBytes s t)
  ∧ (∀ (p : Fin 16) (s : State), s.dev.Quiet → s.dev.phase = 5 → s.dev.o p.val 0x3040 1 = 1 → s.dev.bring.report.length < 1024 →
    Answers (.portTrainAttemptExpire p) s fun t => t.dev.obj = s.dev.obj ∧ SameBytes s t
      ∧ ∃ x, t.dev.bring.report = s.dev.bring.report ++ [x] ∧ fld x 0 1 = 3 ∧ fld x 3 1 = 3 ∧ fld x 4 2 = p.val)
  ∧ (∀ (im : List Byte) (s : State), s.dev.Quiet → s.dev.pins.pwrgood = true → s.dev.phase = 1 ∨ s.dev.phase = 2 →
    s.dev.o 0 0x1020 2 = 0 → Answers (.configImageAnnounce im) s fun t => t.dev.bring.image = some im ∧ t.dev.obj = s.dev.obj)

/-- The cold wait (R482): it ends, its length outside the phase's bound (R419), when no sensor checked in the phase reads below 0 °C; after
60 s in all bring-up fails with cause THERMAL, 8. -/
def Obligations.ColdWait : Prop :=
  (∀ (ts : Vector Int 72) (s : State) (t0 : Nat), s.dev.Quiet → s.dev.bring.coldWait = some t0 →
    ({ s.dev with pins := { s.dev.pins with temps := ts.toList } } : Dev).tooCold s.dev.phase = false →
    Answers (.coldWaitRecheck ts) s fun t => t.dev.bring.coldWait = none ∧ t.dev.phase = s.dev.phase
      ∧ t.dev.bring.phaseAt = s.dev.bring.phaseAt + (s.dev.now - t0) ∧ t.dev.o 0 0x1020 9 = s.dev.waitMs
      ∧ SameObjects s t [(0, 0x1020, 9)])
  ∧ (∀ (ts : Vector Int 72) (s : State) (t0 : Nat), s.dev.Quiet → s.dev.bring.coldWait = some t0 →
    ({ s.dev with pins := { s.dev.pins with temps := ts.toList } } : Dev).tooCold s.dev.phase = true →
    Answers (.coldWaitRecheck ts) s fun t => t.dev.bring.coldWait = some t0 ∧ t.dev.phase = s.dev.phase
      ∧ t.dev.pins.temps = ts.toList)
  ∧ (∀ (s : State) (t0 : Nat), s.dev.Quiet → s.dev.bring.coldWait = some t0 → 60000 ≤ s.dev.waitMs →
    s.dev.tooCold s.dev.phase = true →
    Answers .coldWaitExpire s fun t => t.dev.phase = 0x80 + s.dev.phase ∧ t.dev.o 0 0x1020 5 = 8 ∧ t.dev.bring.coldWait = none
      ∧ Sends s t .ibi)

/-- Training (R426, Table 18-2): an HBM4 channel that trains sets its bit of 0x4010:01; one that does not fails bring-up with cause HBM, 6;
a failing NAND channel is left out; a port that trains brings its link up with its lane map (R182). -/
def Obligations.Training : Prop :=
  (∀ (ch : Fin 256) (t' : TrainResult) (s : State), s.dev.Quiet → s.dev.phase = 4 → s.dev.bring.coldWait = none → t'.good = true →
    bit (s.dev.o (ch.val / 32) 0x4010 1) (ch.val % 32) = false →
    Answers (.trainingDone (.hbm ch) t') s fun t =>
      t.dev.o (ch.val / 32) 0x4010 1 = s.dev.o (ch.val / 32) 0x4010 1 + 2 ^ (ch.val % 32)
      ∧ SameObjects s t [(ch.val / 32, 0x4010, 1)] ∧ SameBytes s t)
  ∧ (∀ (ch : Fin 256) (t' : TrainResult) (s : State), s.dev.Quiet → s.dev.phase = 4 → s.dev.bring.coldWait = none → t'.good = false →
    Answers (.trainingDone (.hbm ch) t') s fun t => t.dev.phase = 0x84 ∧ t.dev.o 0 0x1020 5 = 6 ∧ Sends s t .ibi)
  ∧ (∀ (ch : Fin 32) (t' : TrainResult) (s : State), s.dev.Quiet → s.dev.phase = 4 → s.dev.bring.coldWait = none → t'.good = false →
    Answers (.trainingDone (.nand ch) t') s fun t => ch.val ∈ t.dev.bring.nandBad ∧ t.dev.phase = 4 ∧ t.dev.obj = s.dev.obj)
  ∧ (∀ (p : Fin 16) (t' : TrainResult) (s : State), s.dev.Quiet → s.dev.phase = 5 → s.dev.o p.val 0x3040 1 = 1 → t'.good = true →
    s.dev.portClock p.val = true →
    Answers (.trainingDone (.port p) t') s fun t => t.dev.o p.val 0x3040 1 = 2 ∧ t.dev.o p.val 0x3040 2 = t'.lanes.toNat
      ∧ (t.dev.link p.val).expect = 0 ∧ SameObjects s t [(p.val, 0x3040, 1), (p.val, 0x3040, 2)])

/-- Known-answer runs during work (R433): the standby role moves to the pair due, and its run begins; a run whose digest is the firmware's
changes nothing else; a failing one fixes the pair as its slice's standby with a QUARANTINE record of trigger 2. -/
def Obligations.KnownAnswerRuns : Prop :=
  (∀ (n : Fin 1024) (s : State), s.dev.Quiet → s.dev.ready = true → s.dev.bring.draining = false →
    s.dev.standbyFixed (n.val / 4) = false → s.dev.quar = [] → s.dev.bring.katRun = [] → (s.dev.pair n.val).chain = none →
    (s.dev.pair n.val).held = none → (s.dev.pair n.val).helps = none →
    Answers (.katPeriodicStart n) s fun t => t.dev.bring.katRun = [n.val] ∧ t.dev.o (n.val / 4) 0x5010 3 = n.val % 4
      ∧ SameObjects s t [(n.val / 4, 0x5010, 3), (0, 0xC000, 4)] ∧ SameBytes s t)
  ∧ (∀ (n : Fin 1024) (dg : BitVec 256) (s : State), s.dev.Quiet → s.dev.ready = true → n.val ∈ s.dev.bring.katRun →
    s.dev.bring.katDue = [] → s.dev.bring.katBad = [] →
    Answers (.katRunDone n dg) s fun t => n.val ∉ t.dev.bring.katRun ∧ SameBytes s t
      ∧ (dg = Config.katDigest s.dev.bring.firmware → t.dev.obj = s.dev.obj ∧ t.dev.ring = s.dev.ring)
      ∧ (dg ≠ Config.katDigest s.dev.bring.firmware → t.dev.o (n.val / 4) 0x5010 3 = 128 + n.val % 4 ∧ n.val ∈ t.dev.bring.katBad
        ∧ ∃ e, t.dev.ring.head? = some e ∧ e.kind = 0x17 ∧ e.loc = n.val / 4 ∧ e.d0 = 2))

/-! ### The link (chapter 7) -/

/-- R184: a good flit is taken in sequence; a bad one is discarded and answered with a NAK that names the first flit lacking; a NAK
resends from the flit it names while that is held. A link that has retrained is up again from sequence number 0, with its LINK record
(R185, written when the retraining is done: log entry 61). A grant word raises the flit credits of its class or the
request credits of its partition, a word with COUNT 0 or reserved bits none (Table 7-6). A request that waits for its partition's
request credit leaves when one is granted, and both kinds of credit are spent (R186). -/
def Obligations.LinkFlits : Prop :=
  (∀ (p : Fin 16) (f : BitVec 640) (s : State), s.dev.Quiet → s.dev.o p.val 0x3040 1 = 2 → (s.dev.link p.val).txq = [] →
    crc32c (leBytes 0x4C f.toNat) = bits f.toNat 608 32 → bits f.toNat 0 12 = (s.dev.link p.val).expect →
    Answers (.flitReceive p f false) s fun t => (t.dev.link p.val).expect = ((s.dev.link p.val).expect + 1) % 4096
      ∧ (t.dev.link p.val).nakMode = false ∧ t.out = s.out ∧ SameBytes s t ∧ SameObjects s t [(p.val, 0x3040, 9)])
  ∧ (∀ (p : Fin 16) (f : BitVec 640) (s : State), s.dev.Quiet → s.dev.o p.val 0x3040 1 = 2 → s.dev.LinkFree p.val →
    crc32c (leBytes 0x4C f.toNat) ≠ bits f.toNat 608 32 → (s.dev.link p.val).nakMode = false → (s.dev.link p.val).badCount = 0 →
    (s.dev.link p.val).nakAt = [] →
    Answers (.flitReceive p f false) s fun t => (t.dev.link p.val).expect = (s.dev.link p.val).expect
      ∧ (t.dev.link p.val).nakMode = true ∧ Sends s t (.nak p.val (s.dev.link p.val).expect) ∧ SameBytes s t)
  ∧ (∀ (p : Fin 16) (first : BitVec 12) (s : State), s.dev.Quiet → s.dev.o p.val 0x3040 1 = 2 →
    (first.toNat + 4096 - (s.dev.link p.val).oldest) % 4096 < (s.dev.nextOut p.val + 4096 - (s.dev.link p.val).oldest) % 4096 →
    Answers (.nak p first) s fun t => Sends s t (.resend p.val first.toNat) ∧ t.dev.links = s.dev.links ∧ SameBytes s t)
  ∧ (∀ (p : Fin 16) (time : Nat) (s : State), s.dev.Quiet → s.dev.o p.val 0x3040 1 = 3 → s.dev.role p.val = 0 →
    Answers (.linkRetrainDone p time) s fun t => t.dev.o p.val 0x3040 1 = 2 ∧ (t.dev.link p.val).expect = 0
      ∧ (∃ e, t.dev.ring.head? = some e ∧ e.kind = 0x09 ∧ e.sev = 1 ∧ e.unit = 2 ∧ e.loc = p.val) ∧ SameBytes s t)
  ∧ (∀ (p : Fin 16) (w : BitVec 32) (s : State), s.dev.Quiet → s.dev.o p.val 0x3040 1 = 2 → bits w.toNat 16 16 ≠ 0 →
    bits w.toNat 9 7 = 0 → (s.dev.link p.val).txq = [] →
    Answers (.creditGrant p [w]) s fun t => SameBytes s t ∧ SameObjects s t [(p.val, 0x3040, 9)]
      ∧ (bit w.toNat 8 = true → (t.dev.link p.val).flitCr.getD (bits w.toNat 0 8 % 4) 0
          = (s.dev.link p.val).flitCr.getD (bits w.toNat 0 8 % 4) 0 + bits w.toNat 16 16)
      ∧ (bit w.toNat 8 = false → (t.dev.link p.val).reqCr.getD (bits w.toNat 0 8) 0
          = (s.dev.link p.val).reqCr.getD (bits w.toNat 0 8) 0 + bits w.toNat 16 16))
  ∧ (∀ (p : Fin 16) (part : BitVec 8) (c : Nat) (x : TxItem) (s : State), s.dev.Quiet → s.dev.o p.val 0x3040 1 = 2 →
    (s.dev.link p.val).txq = [x] → x.part = some part.toNat → x.cls = some c → 0 < x.flits → x.flits ≤ s.dev.lackRoom p.val →
    x.flits ≤ (s.dev.link p.val).flitCr.getD c 0 → (s.dev.link p.val).reqCr.getD part.toNat 0 = 0 →
    Answers (.creditGrant p [BitVec.ofNat 32 (65536 + part.toNat)]) s fun t => Sends s t x.out ∧ (t.dev.link p.val).txq = []
      ∧ (t.dev.link p.val).reqCr.getD part.toNat 0 = 0
      ∧ (t.dev.link p.val).flitCr.getD c 0 = (s.dev.link p.val).flitCr.getD c 0 - x.flits ∧ SameBytes s t)

/-! ### Memory requests of a port (chapter 7) -/

/-- A load returns the line of the home tier with its poison (R189, R410); it changes no byte and no mark. -/
def Obligations.LoadReturnsLine : Prop :=
  ∀ (p : Fin 16) (h : Hdr) (s : State) (part a : Nat), s.dev.Idle → s.dev.Request p.val 0x01 h part a → s.dev.Placed a part →
    h.etype = 0 →
    Answers (.memLoad p h []) s fun t => Sends s t (.data p.val h.src h.path h.reqid.toNat 0 (s.lineAt a)) ∧ SameBytes s t
      ∧ t.dev.jobs = [] ∧ t.dev.gran = s.dev.gran ∧ t.dev.ctrs = s.dev.ctrs

/-- A store writes its whole line, poison with it, and clears earlier poison (R191, R411); a partial store writes the bytes of its mask
and leaves a poisoned line poisoned. Either completes `OK` or, for the poisoned line, `POISON`, and no other line of any
store changes. -/
def Obligations.StoresWriteOneLine : Prop :=
  (∀ (p : Fin 16) (h : Hdr) (x : DLine) (s : State) (part a : Nat), s.dev.Idle → s.dev.Request p.val 0x02 h part a →
    s.dev.Placed a part →
    Answers (.memStore p h [x] []) s fun t => t.lineAt a = (if x.poison then bad else x) ∧ OnlyLine s t (lineNo a)
      ∧ Sends s t (portAnswer p.val h (Compl.of .ok)) ∧ t.dev.jobs = [] ∧ t.dev.gran = s.dev.gran ∧ t.dev.ctrs = s.dev.ctrs)
  ∧ (∀ (p : Fin 16) (h : Hdr) (x : DLine) (s : State) (part a : Nat), s.dev.Idle → s.dev.Request p.val 0x03 h part a →
    s.dev.Placed a part → (s.lineAt a).poison = false →
    Answers (.memStorep p h x) s fun t =>
      t.lineAt a = (if x.poison then bad else good (mergeLine h.operand (s.lineAt a).data x.data)) ∧ OnlyLine s t (lineNo a)
      ∧ Sends s t (portAnswer p.val h (Compl.of .ok)) ∧ t.dev.jobs = [] ∧ t.dev.gran = s.dev.gran ∧ t.dev.ctrs = s.dev.ctrs)
  ∧ (∀ (p : Fin 16) (h : Hdr) (x : DLine) (s : State) (part a : Nat), s.dev.Idle → s.dev.Request p.val 0x03 h part a →
    s.dev.Placed a part → (s.lineAt a).poison = true →
    Answers (.memStorep p h x) s fun t => SameBytes s t ∧ Sends s t (portAnswer p.val h (Compl.of .poison)))

/-- A reduction combines its line, in its element type, with the line's value in the home slice's combining cache (R192, R203), and
completes `OK`; a poisoned line answers `POISON`. The home tier itself is written when the entry leaves: an idle entry is
merged into its line. -/
def Obligations.ReductionsCombine : Prop :=
  (∀ (p : Fin 16) (h : Hdr) (x : DLine) (et : EType) (s : State) (part a : Nat), s.dev.Idle → s.dev.Request p.val 0x08 h part a →
    s.dev.Placed a part → EType.of? h.etype.toNat = some et → x.poison = false → (s.lineAt a).poison = false →
    Answers (.reduceAdd p h [x]) s fun t => (t.dev.comb.get? (lineNo a)).map (·.data) = some (good (reduceLine .add et (s.lineAt a).data x.data))
      ∧ SameBytes s t ∧ Sends s t (portAnswer p.val h (Compl.of .ok)) ∧ t.dev.jobs = [])
  ∧ (∀ (p : Fin 16) (h : Hdr) (x : DLine) (et : EType) (s : State) (part a : Nat), s.dev.Idle → s.dev.Request p.val 0x09 h part a →
    s.dev.Placed a part → EType.of? h.etype.toNat = some et → x.poison = false → (s.lineAt a).poison = false →
    Answers (.reduceMin p h [x]) s fun t => (t.dev.comb.get? (lineNo a)).map (·.data) = some (good (reduceLine .min et (s.lineAt a).data x.data))
      ∧ SameBytes s t ∧ Sends s t (portAnswer p.val h (Compl.of .ok)) ∧ t.dev.jobs = [])
  ∧ (∀ (p : Fin 16) (h : Hdr) (x : DLine) (et : EType) (s : State) (part a : Nat), s.dev.Idle → s.dev.Request p.val 0x0A h part a →
    s.dev.Placed a part → EType.of? h.etype.toNat = some et → x.poison = false → (s.lineAt a).poison = false →
    Answers (.reduceMax p h [x]) s fun t => (t.dev.comb.get? (lineNo a)).map (·.data) = some (good (reduceLine .max et (s.lineAt a).data x.data))
      ∧ SameBytes s t ∧ Sends s t (portAnswer p.val h (Compl.of .ok)) ∧ t.dev.jobs = [])
  ∧ (∀ (p : Fin 16) (h : Hdr) (x : DLine) (s : State) (part a : Nat), s.dev.Idle → s.dev.Request p.val 0x08 h part a →
    s.dev.Placed a part → (s.lineAt a).poison = true →
    Answers (.reduceAdd p h [x]) s fun t => t.dev.comb = [] ∧ SameBytes s t ∧ Sends s t (portAnswer p.val h (Compl.of .poison)))

/-- An atomic of class L, every lane free, performs its operation on one word of the line, whole and at once, and returns the word's old
value (R194); the rest of the line and every other line stay. -/
def Obligations.AtomicsReturnOld : Prop :=
  (∀ (p : Fin 16) (h : Hdr) (et : EType) (s : State) (part a : Nat), s.dev.Idle → s.dev.RequestL p.val 0x10 h part a →
    s.dev.Placed a part → EType.of? h.etype.toNat = some et → (s.lineAt a).poison = false →
    Answers (.atomicAdd p h) s fun t =>
      t.lineAt a = good (atomicLine .add et (bits h.a 0 6) h.operand h.operand2 (s.lineAt a).data).1 ∧ OnlyLine s t (lineNo a)
      ∧ Sends s t (portAnswer p.val h ⟨.ok, 0, (atomicLine .add et (bits h.a 0 6) h.operand h.operand2 (s.lineAt a).data).2⟩))
  ∧ (∀ (p : Fin 16) (h : Hdr) (et : EType) (s : State) (part a : Nat), s.dev.Idle → s.dev.RequestL p.val 0x11 h part a →
    s.dev.Placed a part → EType.of? h.etype.toNat = some et → (s.lineAt a).poison = false →
    Answers (.atomicMin p h) s fun t =>
      t.lineAt a = good (atomicLine .min et (bits h.a 0 6) h.operand h.operand2 (s.lineAt a).data).1 ∧ OnlyLine s t (lineNo a)
      ∧ Sends s t (portAnswer p.val h ⟨.ok, 0, (atomicLine .min et (bits h.a 0 6) h.operand h.operand2 (s.lineAt a).data).2⟩))
  ∧ (∀ (p : Fin 16) (h : Hdr) (et : EType) (s : State) (part a : Nat), s.dev.Idle → s.dev.RequestL p.val 0x12 h part a →
    s.dev.Placed a part → EType.of? h.etype.toNat = some et → (s.lineAt a).poison = false →
    Answers (.atomicMax p h) s fun t =>
      t.lineAt a = good (atomicLine .max et (bits h.a 0 6) h.operand h.operand2 (s.lineAt a).data).1 ∧ OnlyLine s t (lineNo a)
      ∧ Sends s t (portAnswer p.val h ⟨.ok, 0, (atomicLine .max et (bits h.a 0 6) h.operand h.operand2 (s.lineAt a).data).2⟩))
  ∧ (∀ (p : Fin 16) (h : Hdr) (et : EType) (s : State) (part a : Nat), s.dev.Idle → s.dev.RequestL p.val 0x13 h part a →
    s.dev.Placed a part → EType.of? h.etype.toNat = some et → (s.lineAt a).poison = false →
    Answers (.atomicCas p h) s fun t =>
      t.lineAt a = good (atomicLine .cas et (bits h.a 0 6) h.operand h.operand2 (s.lineAt a).data).1 ∧ OnlyLine s t (lineNo a)
      ∧ Sends s t (portAnswer p.val h ⟨.ok, 0, (atomicLine .cas et (bits h.a 0 6) h.operand h.operand2 (s.lineAt a).data).2⟩))

/-! ### Cast stores, relief and combining entries (chapter 7) -/

/-- A cast store whose only member is this device writes its copy at the member's base plus the offset, and answers when its copies have
(R196, R197). A relief entry whose window has passed leaves as one reduction that carries the number of requests combined
(R205). A combining-cache entry that has been idle for 10 µs is merged into its line (R203). -/
def Obligations.CastReliefCombining : Prop :=
  (∀ (p : Fin 16) (h : Hdr) (x : DLine) (s : State) (part g size base : Nat), s.dev.Idle → s.dev.FromPort p.val 0x0C 3 h part → h.n = 1 →
    h.counter = none → h.cast = some g → s.dev.casts.get? g = some ⟨part, size, [(s.dev.self, base)]⟩ → h.a + 64 ≤ size → base % 64 = 0 →
    base + h.a < 2 ^ 62 → s.dev.Placed (base + h.a) part → s.dev.sends = [] →
    Answers (.castStore p h [x]) s fun t => t.lineAt (base + h.a) = (if x.poison then bad else x) ∧ OnlyLine s t (lineNo (base + h.a))
      ∧ Sends s t (portAnswer p.val h (Compl.of .ok)) ∧ t.dev.castOps = [] ∧ t.dev.jobs = [])
  ∧ (∀ (n port : Nat) (e : Relief) (s : State), ({ s.dev with relief := [] } : Dev).Quiet → s.dev.relief = [(n, e)] → e.ctr = none →
    e.openedAt + ns (s.dev.o 0 0x3F00 1) ≤ s.dev.now → s.dev.OnePath e.dst port → s.dev.LinkTakes port e.h.cls e.part →
    Answers (.reliefWindowExpire n) s fun t => t.dev.relief = [] ∧ SameBytes s t ∧ t.dev.reliefWho.get? n = some e.who
      ∧ ∃ q, Sends s t (.req port 0 q) ∧ q.code = (match e.op with | .add => 0x08 | .min => 0x09 | .max => 0x0A) ∧ q.data = [e.data]
        ∧ q.h.operand = BitVec.ofNat 64 e.count ∧ q.h.flag 1 = true ∧ q.h.addr = BitVec.ofNat 64 (e.line * 64))
  ∧ (∀ (addr : BitVec 64) (c : Comb) (s : State) (part : Nat), s.dev.Quiet → s.dev.comb.get? (lineNo addr.toNat) = some c →
    c.used + us 10 ≤ s.dev.now → s.dev.Placed addr.toNat part →
    Answers (.combiningEntryIdle addr) s fun t => t.lineAt addr.toNat = (if c.data.poison then bad else c.data)
      ∧ t.dev.comb.get? (lineNo addr.toNat) = none ∧ OnlyLine s t (lineNo addr.toNat) ∧ t.out = s.out)

/-! ### Copies (chapter 6) -/

/-- A core cluster's requests (R168, Tables 6-2, 6-6): `RDS` of a line that no agent holds gives it in E, `RDX` in M; `UPG` of a line that
it alone shares gives M without data; `EVC` of a clean copy frees the entry; `WBD` of a dirty one writes its data home. -/
def Obligations.ClusterCopies : Prop :=
  (∀ (k : Fin 8) (addr : BitVec 64) (s : State) (part : Nat), s.dev.Idle → s.dev.l2 = [] → s.dev.CohCluster k.val part →
    addr.toNat < 2 ^ 62 → s.dev.Placed addr.toNat part → (s.lineAt addr.toNat).poison = false →
    Answers (.rds (.cluster k addr)) s fun t => t.dev.l2.get? (l2Key k.val (lineNo addr.toNat)) = some ⟨.e, (s.lineAt addr.toNat).data⟩
      ∧ t.Owns (lineNo addr.toNat) k.val ∧ SameBytes s t ∧ t.dev.txns = [])
  ∧ (∀ (k : Fin 8) (addr : BitVec 64) (s : State) (part : Nat), s.dev.Idle → s.dev.l2 = [] → s.dev.CohCluster k.val part →
    addr.toNat < 2 ^ 62 → s.dev.Placed addr.toNat part → (s.lineAt addr.toNat).poison = false →
    Answers (.rdx (.cluster k addr)) s fun t => t.dev.l2.get? (l2Key k.val (lineNo addr.toNat)) = some ⟨.m, (s.lineAt addr.toNat).data⟩
      ∧ t.Owns (lineNo addr.toNat) k.val ∧ SameBytes s t ∧ t.dev.txns = [])
  ∧ (∀ (k : Fin 8) (addr : BitVec 64) (x : Line) (s : State) (part : Nat), ({ s.dev with dir := [] } : Dev).Idle →
    s.dev.dir = [(lineNo addr.toNat, { st := .ds, p0 := k.val })] → s.dev.l2 = [(l2Key k.val (lineNo addr.toNat), ⟨.s, x⟩)] →
    s.dev.CohCluster k.val part → addr.toNat < 2 ^ 62 → s.dev.Placed addr.toNat part →
    Answers (.upg (.cluster k addr)) s fun t => t.dev.l2.get? (l2Key k.val (lineNo addr.toNat)) = some ⟨.m, x⟩
      ∧ t.Owns (lineNo addr.toNat) k.val ∧ SameBytes s t ∧ t.dev.txns = [])
  ∧ (∀ (k : Fin 8) (addr : BitVec 64) (x : Line) (s : State), s.dev.Quiet → s.Owns (lineNo addr.toNat) k.val →
    s.dev.l2.get? (l2Key k.val (lineNo addr.toNat)) = some ⟨.e, x⟩ →
    Answers (.evc (.cluster k addr)) s fun t => t.dev.l2.get? (l2Key k.val (lineNo addr.toNat)) = none
      ∧ t.dev.dir.get? (lineNo addr.toNat) = none ∧ SameBytes s t ∧ t.out = s.out)
  ∧ (∀ (k : Fin 8) (addr : BitVec 64) (x : Line) (y : DLine) (s : State), s.dev.Quiet → addr.toNat < 2 ^ 62 →
    s.Owns (lineNo addr.toNat) k.val → (∀ e, s.dev.dir.get? (lineNo addr.toNat) = some e → e.proxy = false) →
    s.dev.l2.get? (l2Key k.val (lineNo addr.toNat)) = some ⟨.m, x⟩ → s.dev.Placed addr.toNat (s.dev.corePart k.val 0) →
    Answers (.wbd (.cluster k addr) y) s fun t => t.lineAt addr.toNat = good x ∧ OnlyLine s t (lineNo addr.toNat)
      ∧ t.dev.l2.get? (l2Key k.val (lineNo addr.toNat)) = none ∧ t.dev.dir.get? (lineNo addr.toNat) = none)

/-- A port agent's requests and answers (R168-R172, Tables 6-5, 6-6): `RDS` and `RDX` are granted with the line's data, E or S as E
grants are set (R169), or M; `EVC` frees its entry; `WBD` writes its data home; a snoop response brings an owner's data home and ends its
round, and `RSP.WBP` ends it after the write-back that came first. -/
def Obligations.PortCopies : Prop :=
  (∀ (p : Fin 16) (h : Hdr) (s : State) (part a : Nat), s.dev.Idle → s.dev.CohPort p.val 0x20 h part a → a % 64 = 0 → s.dev.Placed a part →
    (s.lineAt a).poison = false →
    Answers (.rds (.port p h)) s fun t =>
      Sends s t (.grant p.val h.reqid.toNat (if s.dev.egrant.getD p.val 1 = 1 then 2 else 1) (64 * lineNo a) (some (s.lineAt a).data))
      ∧ (t.dev.dir.get? (lineNo a)).map (fun e => (e.st, e.p0)) = some (if s.dev.egrant.getD p.val 1 = 1 then .dx else .ds, 8 + p.val)
      ∧ SameBytes s t ∧ t.dev.txns = [])
  ∧ (∀ (p : Fin 16) (h : Hdr) (s : State) (part a : Nat), s.dev.Idle → s.dev.CohPort p.val 0x21 h part a → a % 64 = 0 → s.dev.Placed a part →
    (s.lineAt a).poison = false →
    Answers (.rdx (.port p h)) s fun t => Sends s t (.grant p.val h.reqid.toNat 4 (64 * lineNo a) (some (s.lineAt a).data))
      ∧ t.Owns (lineNo a) (8 + p.val) ∧ SameBytes s t ∧ t.dev.txns = [])
  ∧ (∀ (p : Fin 16) (h : Hdr) (s : State) (part a : Nat), ({ s.dev with dir := [] } : Dev).Idle →
    s.dev.dir = [(lineNo a, { st := .ds, p0 := 8 + p.val })] → s.dev.CohPort p.val 0x22 h part a → a % 64 = 0 → s.dev.Placed a part →
    Answers (.upg (.port p h)) s fun t => Sends s t (.grant p.val h.reqid.toNat 4 (64 * lineNo a) none)
      ∧ t.Owns (lineNo a) (8 + p.val) ∧ SameBytes s t ∧ t.dev.txns = [])
  ∧ (∀ (p : Fin 16) (h : Hdr) (s : State) (part : Nat), s.dev.Quiet → s.dev.CohMsg p.val 0x23 h part → s.Owns (lineNo h.a) (8 + p.val) →
    s.dev.linePart (lineNo h.a) = part →
    Answers (.evc (.port p h)) s fun t => t.dev.dir.get? (lineNo h.a) = none ∧ Sends s t (.flitCredits p.val h.cls 1) ∧ SameBytes s t)
  ∧ (∀ (p : Fin 16) (h : Hdr) (x : DLine) (s : State) (part : Nat), s.dev.Quiet → s.dev.CohMsg p.val 0x24 h part →
    s.Owns (lineNo h.a) (8 + p.val) → (∀ e, s.dev.dir.get? (lineNo h.a) = some e → e.proxy = false) → s.dev.Placed h.a part →
    Answers (.wbd (.port p h) x) s fun t => t.lineAt h.a = (if x.poison then bad else x) ∧ OnlyLine s t (lineNo h.a)
      ∧ t.dev.dir.get? (lineNo h.a) = none)
  ∧ (∀ (p : Fin 16) (h : Hdr) (x : DLine) (b : Nat) (counted : Bool) (s : State) (part : Nat), s.dev.Quiet → s.dev.CohMsg p.val 0x30 h part →
    s.dev.txns = [(lineNo h.a, { kind := .evict counted, wait := [8 + p.val], began := b })] → s.Owns (lineNo h.a) (8 + p.val) →
    (∀ e, s.dev.dir.get? (lineNo h.a) = some e → e.proxy = false) → s.dev.Placed h.a part →
    Answers (.rsp p h (some x)) s fun t => t.lineAt h.a = (if x.poison then bad else x) ∧ OnlyLine s t (lineNo h.a) ∧ t.dev.txns = []
      ∧ t.dev.dir.get? (lineNo h.a) = none)
  ∧ (∀ (p : Fin 16) (h : Hdr) (b : Nat) (counted : Bool) (s : State) (part : Nat), s.dev.Quiet → s.dev.CohMsg p.val 0x31 h part →
    s.dev.txns = [(lineNo h.a, { kind := .evict counted, wait := [8 + p.val], began := b })] → s.dev.dir = [] → s.dev.Placed h.a part →
    Answers (.rspWbp p h) s fun t => t.dev.txns = [] ∧ t.dev.dir = [] ∧ SameBytes s t)

/-- A snoop round that an agent leaves unanswered ends after 0.35 µs: the agent is failed, and a line it owned is poisoned (R175-R178,
Table 6-8). The sweep of a failed agent ends, and the agent is active again on a link that is up (R179); while a transaction is open on a
line that names it, the agent shows sweeping. A credit whose window has passed lapses, and its request credit is granted again (R109,
R114). -/
def Obligations.RoundsAndCredits : Prop :=
  (∀ (p : Fin 16) (addr : BitVec 64) (b part : Nat) (counted : Bool) (s : State), s.dev.Quiet → addr.toNat < 2 ^ 62 →
    s.dev.txns = [(lineNo addr.toNat, { kind := .evict counted, wait := [8 + p.val], began := b })] → b + ns 350 ≤ s.dev.now →
    s.Owns (lineNo addr.toNat) (8 + p.val) → (∀ e, s.dev.dir.get? (lineNo addr.toNat) = some e → e.proxy = false) →
    s.dev.Placed addr.toNat part →
    Answers (.snoopRoundExpire addr) s fun t => t.dev.o p.val 0x3030 2 = 2 ∧ t.dev.txns = [] ∧ t.dev.dir.get? (lineNo addr.toNat) = none
      ∧ t.lineAt addr.toNat = bad ∧ OnlyLine s t (lineNo addr.toNat))
  ∧ (∀ (p : Fin 16) (s : State), s.dev.Quiet → s.dev.dir = [] → 2 ≤ s.dev.o p.val 0x3030 2 →
    Answers (.directorySweepDone ⟨8 + p.val, by omega⟩) s fun t =>
      t.dev.o p.val 0x3030 2 = (if s.dev.role p.val = 2 ∧ s.dev.o p.val 0x3040 1 = 2 ∧ s.dev.portRst.has p.val = false then 1 else 0)
      ∧ SameObjects s t [(p.val, 0x3030, 2)] ∧ SameBytes s t)
  ∧ (∀ (p : Fin 16) (l : Nat) (e : DirE) (x : Txn) (s : State), s.dev.Quiet → s.dev.dir = [(l, e)] → (8 + p.val) ∈ e.named →
    s.dev.txns = [(l, x)] → 2 ≤ s.dev.o p.val 0x3030 2 →
    Answers (.directorySweepDone ⟨8 + p.val, by omega⟩) s fun t =>
      t.dev.o p.val 0x3030 2 = 3 ∧ t.dev.dir = s.dev.dir ∧ t.dev.txns = s.dev.txns ∧ SameObjects s t [(p.val, 0x3030, 2)] ∧ SameBytes s t)
  ∧ (∀ (n : Nat) (c : Credit) (s : State), s.dev.Quiet → s.dev.credits.get? n = some c → c.until_ < s.dev.now → c.held = none →
    Answers (.creditWindowLapse n) s fun t => t.dev.credits.get? n = none ∧ SameBytes s t
      ∧ (srcPort c.src = none → t.dev.obj = s.dev.obj)
      ∧ ∀ p, srcPort c.src = some p → SameObjects s t [(p, 0x3040, 8)] ∧ (s.dev.LinkFree p → Sends s t (.reqCredits p c.part 1)))

/-! ### Completions, streams and paths (chapters 5 and 7) -/

/-- The answers of other devices (R189): a completion ends the request it names, and its status, word and value go to the attached
device that asked; a line of response data ends a load of one line; a completion for another device is passed on its way. -/
def Obligations.AnswersArrive : Prop :=
  (∀ (p : Fin 16) (f : ComplFlit) (o : Orig) (q i dev path rid : Nat) (s : State), s.dev.Quiet → s.dev.takes p.val = true →
    bits f.dstdev.toNat 0 14 = s.dev.self → s.dev.origs.get? f.reqid.toNat = some o → o.src = .ident q i → o.reply = .port q dev path rid →
    o.req.code = 0x02 → f.status = 0 → s.dev.LinkFree q →
    Answers (.completionReceive p f) s fun t => Sends s t (.compl q dev path rid ⟨.ok, f.word.toNat, f.value.toNat⟩)
      ∧ Sends s t (.reqCredits q o.part 1) ∧ t.dev.origs.get? f.reqid.toNat = none ∧ SameBytes s t)
  ∧ (∀ (p : Fin 16) (f : ComplFlit) (i : Nat) (s : State), s.dev.Quiet → s.dev.takes p.val = true → s.dev.transit = [] →
    bits f.dstdev.toNat 0 14 ≠ s.dev.self → f.status = 0 →
    s.dev.relayPath (bits f.dstdev.toNat 0 14) (bits f.dstdev.toNat 14 2) = some i →
    s.dev.LinkFree (s.dev.pathPort (bits f.dstdev.toNat 0 14) i) →
    Answers (.completionReceive p f) s fun t => t.dev.origs = s.dev.origs ∧ SameBytes s t
      ∧ Sends s t (.compl (s.dev.pathPort (bits f.dstdev.toNat 0 14) i) (bits f.dstdev.toNat 0 14) i f.reqid.toNat
          ⟨.ok, f.word.toNat, f.value.toNat⟩))
  ∧ (∀ (p : Fin 16) (f : RespFlit) (o : Orig) (q i dev path rid : Nat) (s : State), s.dev.Quiet → s.dev.takes p.val = true →
    f.dstdev.toNat = s.dev.self → s.dev.origs.get? f.reqid.toNat = some o → o.src = .ident q i → o.reply = .port q dev path rid →
    o.req.code = 0x01 → o.req.h.n = 1 → o.got = [] → f.line = 0 → s.dev.LinkFree q →
    Answers (.responseDataReceive p f) s fun t => Sends s t (.data q dev path rid 0 (if f.data.poison then bad else f.data))
      ∧ t.dev.origs.get? f.reqid.toNat = none ∧ SameBytes s t)

/-- Streams between devices (R134-R139): an acknowledgement releases every request up to the number it names from the replay store; the
highest prefix performed is acknowledged; a gap open for 20 µs is reported; a report loses the path the stream is pinned to, and the
stream replays on another; of a path that is lost already it changes nothing; a stream idle for 100 µs closes at both ends; a reset ends
what is unacknowledged with `INDET`. -/
def Obligations.StreamsKeepOrder : Prop :=
  (∀ (p : Fin 16) (id : StreamId) (dst : BitVec 14) (seq : BitVec 32) (st : SendS) (s : State), s.dev.Quiet → s.dev.takes p.val = true →
    id.dev.toNat = s.dev.self → id.agent.toNat < 0x1100 → id.cast = none → s.dev.sends.get? (sKey id.agent.toNat dst.toNat none) = some st →
    Answers (.streamAck p id dst seq) s fun t => SameBytes s t ∧ t.out = s.out
      ∧ (t.dev.sends.getD (sKey id.agent.toNat dst.toNat none) {}).unacked
          = st.unacked.filter fun u => !(u.2.h.dst == dst.toNat && (u.1 == seq.toNat || seqBefore u.1 seq.toNat)))
  ∧ (∀ (id : StreamId) (rs : RecvS) (s : State), s.dev.Quiet → id.cast = none →
    s.dev.recvs.get? (rKey id.dev.toNat id.agent.toNat none) = some rs → rs.begun = true → s.dev.LinkFree rs.port →
    Answers (.streamAckSend id) s fun t => Sends s t (.ack rs.port id s.dev.self ((rs.done + 2 ^ 32 - 1) % 2 ^ 32))
      ∧ t.dev.recvs = s.dev.recvs ∧ SameBytes s t)
  ∧ (∀ (id : StreamId) (rs : RecvS) (t0 : Nat) (s : State), s.dev.Quiet → id.cast = none →
    s.dev.recvs.get? (rKey id.dev.toNat id.agent.toNat none) = some rs → rs.gap = some t0 → t0 + us 20 ≤ s.dev.now →
    (∀ q, q < 16 → s.dev.LinkFree q) → rs.port < 16 → (∀ x ∈ rs.held, x.2.1 < 16) →
    Answers (.streamGapTimeout id) s fun t => (∃ q, Sends s t (.gap q id s.dev.self rs.next)) ∧ SameBytes s t
      ∧ t.dev.recvs.get? (rKey id.dev.toNat id.agent.toNat none) = some { rs with gap := some s.dev.now })
  ∧ (∀ (p : Fin 16) (id : StreamId) (dst : BitVec 14) (seq : BitVec 32) (st : SendS) (s : State), s.dev.Quiet → s.dev.takes p.val = true →
    id.dev.toNat = s.dev.self → id.agent.toNat < 0x1100 → id.cast = none → s.dev.sends.get? (sKey id.agent.toNat dst.toNat none) = some st →
    s.dev.lost.has (dst.toNat * 4 + st.path) = true →
    Answers (.gapReport p id dst seq) s fun t => t.dev.lost = s.dev.lost ∧ t.dev.sends = s.dev.sends ∧ t.out = s.out ∧ SameBytes s t)
  ∧ (∀ (p : Fin 16) (id : StreamId) (dst : BitVec 14) (seq : BitVec 32) (st : SendS) (n w w' : Nat) (q : Req) (s : State), s.dev.Quiet →
    s.dev.takes p.val = true → id.dev.toNat = s.dev.self → id.agent.toNat < 0x1100 → id.cast = none →
    s.dev.paths.get? dst.toNat = some (w, w', 0, 0) → bit w 6 = true → bit w' 6 = true → s.dev.lost = [] →
    s.dev.sends = [(sKey id.agent.toNat dst.toNat none, st)] → st.path = 0 → st.unacked = [(n, q)] → q.data.length < 64 →
    s.dev.LinkTakes (bits w' 0 4) q.h.cls q.h.part.toNat →
    Answers (.gapReport p id dst seq) s fun t => t.dev.lost.get? (dst.toNat * 4) = some (s.dev.now, s.dev.now)
      ∧ t.dev.o 0 0x3F00 5 = (s.dev.o 0 0x3F00 5 + 1) % 2 ^ oWidth 0x3F00 5
      ∧ (t.dev.sends.get? (sKey id.agent.toNat dst.toNat none)).map (fun x => (x.path, x.port)) = some (1, bits w' 0 4)
      ∧ (∃ q', Sends s t (.req (bits w' 0 4) 1 q') ∧ q'.code = q.code ∧ q'.data = q.data ∧ q'.h.seq = q.h.seq ∧ q'.h.reqid = q.h.reqid)
      ∧ SameBytes s t)
  ∧ (∀ (id : StreamId) (dst : BitVec 14) (st : SendS) (s : State), s.dev.Quiet → id.cast = none →
    s.dev.sends.get? (sKey id.agent.toNat dst.toNat none) = some st → st.unacked = [] → st.idle + us 100 ≤ s.dev.now →
    s.dev.LinkFree st.port →
    Answers (.streamIdleClose id dst) s fun t => t.dev.sends.get? (sKey id.agent.toNat dst.toNat none) = none
      ∧ Sends s t (.close st.port id dst.toNat) ∧ SameBytes s t)
  ∧ (∀ (p : Fin 16) (id : StreamId) (s : State), s.dev.Quiet → s.dev.takes p.val = true → id.cast = none →
    Answers (.streamClose p id) s fun t => t.dev.recvs.get? (rKey id.dev.toNat id.agent.toNat none) = none ∧ SameBytes s t ∧ t.out = s.out)
  ∧ (∀ (p : Fin 16) (id : StreamId) (dst : BitVec 14) (st : SendS) (n : Nat) (q : Req) (o : Orig) (i dev path rid : Nat) (s : State),
    s.dev.Quiet → s.dev.takes p.val = true → id.dev.toNat = s.dev.self → id.agent.toNat < 0x1100 → id.cast = none →
    s.dev.sends.get? (sKey id.agent.toNat dst.toNat none) = some st → st.unacked = [(n, q)] → q.h.dst = dst.toNat →
    s.dev.origs.get? q.h.reqid.toNat = some o → o.dst = dst.toNat → o.src = .ident p.val i → o.reply = .port p.val dev path rid →
    o.req.code = 0x02 → s.dev.LinkFree p.val →
    Answers (.streamReset p id dst) s fun t => Sends s t (.compl p.val dev path rid (Compl.of .indet))
      ∧ t.dev.sends.get? (sKey id.agent.toNat dst.toNat none) = none ∧ t.dev.origs.get? q.h.reqid.toNat = none ∧ SameBytes s t)

/-- Paths (R200, R201): a stream without an acknowledgement for 40 µs loses its path, which is counted at 0x3F00:05; a lost path is
probed after 1 ms, and again 1 ms after a probe that ran out; a probe is answered at once, outside every stream; a device whose every
path has been lost for 100 µs is unreachable, and a path that a probe finds whole is in use again. -/
def Obligations.PathsAreProbed : Prop :=
  (∀ (id : StreamId) (dst : BitVec 14) (w n : Nat) (st : SendS) (q : Req) (s : State), s.dev.Quiet → id.cast = none → id.agent.toNat < 0x1100 →
    s.dev.paths.get? dst.toNat = some (w, 0, 0, 0) → bit w 6 = true → s.dev.lost = [] →
    s.dev.sends = [(sKey id.agent.toNat dst.toNat none, st)] → st.unacked = [(n, q)] → q.h.dst = dst.toNat → q.h.path = 0 →
    st.lastAck + us 40 ≤ s.dev.now →
    Answers (.pathAckTimeout id dst) s fun t => t.dev.lost.get? (dst.toNat * 4) = some (s.dev.now, s.dev.now) ∧ t.dev.sends = s.dev.sends
      ∧ t.dev.o 0 0x3F00 5 = (s.dev.o 0 0x3F00 5 + 1) % 2 ^ oWidth 0x3F00 5 ∧ SameBytes s t)
  ∧ (∀ (dst : BitVec 14) (i : Fin 4) (t0 t1 : Nat) (s : State), s.dev.Quiet → s.dev.lost.get? (dst.toNat * 4 + i.val) = some (t0, t1) →
    t1 + us 1000 ≤ s.dev.now → s.dev.o (s.dev.pathPort dst.toNat i.val) 0x3040 1 = 2 → s.dev.probes dst.toNat i.val = false →
    s.dev.LinkTakes (s.dev.pathPort dst.toNat i.val) 0 0 →
    Answers (.pathProbeStart dst i) s fun t => t.dev.lost = s.dev.lost ∧ t.dev.probes dst.toNat i.val = true ∧ SameBytes s t
      ∧ ∃ q, Sends s t (.req (s.dev.pathPort dst.toNat i.val) i.val q) ∧ q.code = 0x52 ∧ q.h.agent = 0x1002 ∧ q.h.dst = dst.toNat
        ∧ q.h.path = i.val)
  ∧ (∀ (dst : BitVec 14) (i : Fin 4) (t0 t1 k : Nat) (o : Orig) (s : State), s.dev.Quiet →
    s.dev.lost.get? (dst.toNat * 4 + i.val) = some (t0, t1) → s.dev.origs = [(k, o)] → o.reply = .probe dst.toNat i.val →
    o.began + us 40 ≤ s.dev.now →
    Answers (.pathProbeTimeout dst i) s fun t => t.dev.lost.get? (dst.toNat * 4 + i.val) = some (t0, s.dev.now)
      ∧ (∀ o ∈ t.dev.origs, o.2.reply ≠ .probe dst.toNat i.val) ∧ SameBytes s t)
  ∧ (∀ (p : Fin 16) (h : Hdr) (s : State), s.dev.Idle → s.dev.takes p.val = true → s.dev.role p.val = 3 → s.dev.noAdmit = false →
    headerOk 3 0x52 h = true → h.dst = s.dev.self → h.agent = 0x1002 → h.flag 0 = false → h.seq = 0 → h.cred = false →
    s.dev.o 0 0x2000 1 = 0 → s.dev.partState h.part.toNat = 1 → 0 < s.dev.o h.part.toNat 0x6010 7 → s.dev.FreeLanes h.part.toNat →
    s.dev.ctrOwner (bits h.ctr.toNat 0 15) = h.part.toNat → s.dev.LinkFree p.val →
    Answers (.pathProbe p h) s fun t =>
      Sends s t (.data p.val h.src h.path h.reqid.toNat 0 (good (lineOf (s.dev.ctr (bits h.ctr.toNat 0 15)).result)))
      ∧ t.dev.recvs = s.dev.recvs ∧ t.dev.ctrs = s.dev.ctrs ∧ SameBytes s t)
  ∧ (∀ (dst : BitVec 14) (w t0 t1 : Nat) (s : State), s.dev.Quiet → s.dev.paths.get? dst.toNat = some (w, 0, 0, 0) → bit w 6 = true →
    s.dev.lost = [(dst.toNat * 4, (t0, t1))] → t0 + us 100 ≤ s.dev.now → s.dev.unreach = [] → s.dev.sends = [] → s.dev.prop = none →
    s.dev.exts = [] →
    Answers (.deviceUnreachable dst) s fun t => t.dev.unreachable dst.toNat = true ∧ SameBytes s t ∧ t.out = s.out)

/-! ### Counters and fences (chapter 5) -/

/-- Counter operations of a port (R143-R148, R490): `SET` writes VALUE and MODE and disarms, `ADD` adds modulo 2^64, `READ` returns the
record of Table 5-3, `ARM` waits for THRESH and fires at once where VALUE has reached it; a fence with nothing before it completes;
`WAIT`, which only a chain may issue, ends `FAULT` (R149). -/
def Obligations.PortCounters : Prop :=
  (∀ (p : Fin 16) (h : Hdr) (s : State) (part : Nat), s.dev.Idle → s.dev.FromPort p.val 0x50 0 h part → s.dev.FreeLanes part →
    (syncFOf h).dev.getD s.dev.self = s.dev.self → s.dev.ctrOwner (syncFOf h).ctr = part → s.dev.doorbells (syncFOf h).ctr = [] →
    Answers (.syncSet (.port p h)) s fun t => Sends s t (portAnswer p.val h (Compl.of .ok)) ∧ SameBytes s t
      ∧ t.dev.ctr (syncFOf h).ctr = { s.dev.ctr (syncFOf h).ctr with value := h.operand, mode := (syncFOf h).mode, arm := none }
      ∧ ∀ m, m ≠ (syncFOf h).ctr → t.dev.ctrs.get? m = s.dev.ctrs.get? m)
  ∧ (∀ (p : Fin 16) (h : Hdr) (s : State) (part : Nat), s.dev.Idle → s.dev.FromPort p.val 0x51 0 h part → s.dev.FreeLanes part →
    (syncFOf h).dev.getD s.dev.self = s.dev.self → s.dev.ctrOwner (syncFOf h).ctr = part → s.dev.doorbells (syncFOf h).ctr = [] →
    (s.dev.ctr (syncFOf h).ctr).arm = none →
    Answers (.syncAdd (.port p h)) s fun t => Sends s t (portAnswer p.val h (Compl.of .ok)) ∧ SameBytes s t
      ∧ t.dev.ctr (syncFOf h).ctr = { s.dev.ctr (syncFOf h).ctr with value := (s.dev.ctr (syncFOf h).ctr).value + h.operand }
      ∧ ∀ m, m ≠ (syncFOf h).ctr → t.dev.ctrs.get? m = s.dev.ctrs.get? m)
  ∧ (∀ (p : Fin 16) (h : Hdr) (s : State) (part : Nat), s.dev.Idle → s.dev.FromPort p.val 0x52 0 h part → s.dev.FreeLanes part →
    (syncFOf h).dev.getD s.dev.self = s.dev.self → s.dev.ctrOwner (syncFOf h).ctr = part →
    Answers (.syncRead (.port p h)) s fun t => t.dev.ctrs = s.dev.ctrs ∧ SameBytes s t
      ∧ Sends s t (.data p.val h.src h.path h.reqid.toNat 0 (good (lineOf (s.dev.ctr (syncFOf h).ctr).result))))
  ∧ (∀ (p : Fin 16) (h : Hdr) (s : State) (part : Nat), s.dev.Idle → s.dev.FromPort p.val 0x53 0 h part → s.dev.FreeLanes part →
    (syncFOf h).dev.getD s.dev.self = s.dev.self → s.dev.ctrOwner (syncFOf h).ctr = part → s.dev.doorbells (syncFOf h).ctr = [] →
    (syncFOf h).notify = false → reached (s.dev.ctr (syncFOf h).ctr).value h.operand = false →
    Answers (.syncArm (.port p h)) s fun t => Sends s t (portAnswer p.val h (Compl.of .ok)) ∧ SameBytes s t
      ∧ (t.dev.ctr (syncFOf h).ctr).thresh = h.operand ∧ (t.dev.ctr (syncFOf h).ctr).value = (s.dev.ctr (syncFOf h).ctr).value
      ∧ ∃ a, (t.dev.ctr (syncFOf h).ctr).arm = some a ∧ a.event = (syncFOf h).event ∧ a.part = part)
  ∧ (∀ (p : Fin 16) (h : Hdr) (s : State) (part : Nat), s.dev.Idle → s.dev.FromPort p.val 0x53 0 h part → s.dev.FreeLanes part →
    (syncFOf h).dev.getD s.dev.self = s.dev.self → s.dev.ctrOwner (syncFOf h).ctr = part → s.dev.doorbells (syncFOf h).ctr = [] →
    (syncFOf h).notify = true → (syncFOf h).event = false → (syncFOf h).ndev.getD s.dev.self = s.dev.self →
    s.dev.ctrOwner (syncFOf h).nctr = part → (syncFOf h).nctr ≠ (syncFOf h).ctr → s.dev.doorbells (syncFOf h).nctr = [] →
    (s.dev.ctr (syncFOf h).nctr).arm = none → reached (s.dev.ctr (syncFOf h).ctr).value h.operand = true →
    Answers (.syncArm (.port p h)) s fun t => Sends s t (portAnswer p.val h (Compl.of .ok)) ∧ (t.dev.ctr (syncFOf h).ctr).arm = none
      ∧ (t.dev.ctr (syncFOf h).nctr).value = (s.dev.ctr (syncFOf h).nctr).value + h.operand3)
  ∧ (∀ (p : Fin 16) (h : Hdr) (s : State) (part : Nat), s.dev.Idle → s.dev.FromPort p.val 0x58 0 h part → s.dev.FreeLanes part →
    s.dev.sends = [] →
    Answers (.orderFence (.port p h)) s fun t => Sends s t (portAnswer p.val h (Compl.of .ok)) ∧ t.dev.fences = [] ∧ SameBytes s t)
  ∧ (∀ (p : Fin 16) (h : Hdr) (s : State), s.dev.Quiet → s.dev.ready = true → s.dev.o p.val 0x3040 1 = 2 →
    s.dev.portRst.has p.val = false → s.dev.role p.val = 1 → s.dev.LinkFree p.val →
    Answers (.syncWait (.port p h)) s fun t => Sends s t (portAnswer p.val h (Compl.of .fault)) ∧ t.dev.ctrs = s.dev.ctrs
      ∧ t.dev.waits = s.dev.waits ∧ SameBytes s t)

/-- Counter, fence, region and cast-group operations of a chain (Tables 5-2, 7-10): a wait that is reached completes, one that is not
holds its pair until its TIMEOUT (R146); `REGION.FLUSHOUT` writes a dirty copy of a remote line to its home and leaves it clean,
`REGION.DISCARDIN` removes it as well (R154, R155); `CAST.DEFINE` stores the members of its list (R196). -/
def Obligations.ChainSync : Prop :=
  (∀ (n : Fin 1024) (b : List Byte) (c : Chain) (s : State), s.dev.Idle → s.dev.Engine n.val 0x51 b c → syncDescOk b = true →
    (syncDesc b).dev.getD s.dev.self = s.dev.self → s.dev.FreeLanes c.part → dSvc b 5 = false → s.dev.ctrOwner (syncDesc b).ctr = c.part →
    s.dev.doorbells (syncDesc b).ctr = [] → (s.dev.ctr (syncDesc b).ctr).arm = none →
    Answers (.syncAdd (.pair n)) s fun t => t.dev.Ended n.val .ok 0 ∧ SameBytes s t
      ∧ t.dev.ctr (syncDesc b).ctr = { s.dev.ctr (syncDesc b).ctr with value := (s.dev.ctr (syncDesc b).ctr).value + (syncDesc b).value })
  ∧ (∀ (n : Fin 1024) (b : List Byte) (c : Chain) (s : State), s.dev.Quiet → s.dev.Engine n.val 0x54 b c → syncDescOk b = true →
    fld b 0x30 8 = 0 → s.dev.waits = [] → s.dev.ctrOwner (syncDesc b).ctr = c.part →
    Answers (.syncWait (.pair n)) s fun t => SameBytes s t ∧ t.dev.ctrs = s.dev.ctrs
      ∧ (reached (s.dev.ctr (syncDesc b).ctr).value (syncDesc b).value = true → t.dev.Ended n.val .ok 0 ∧ t.dev.waits = [])
      ∧ (reached (s.dev.ctr (syncDesc b).ctr).value (syncDesc b).value = false → ∃ w, t.dev.waits = [(n.val, w)]
          ∧ w.target = (syncDesc b).value ∧ w.ctr = (syncDesc b).ctr
          ∧ w.until_ = (if fld b 0x20 4 = 0 then none else some (s.dev.now + us (fld b 0x20 4)))))
  ∧ (∀ (n : Fin 1024) (w : Wait) (c : Chain) (until_ : Nat) (s : State), s.dev.Quiet → s.dev.waits.get? n.val = some w →
    w.until_ = some until_ → until_ ≤ s.dev.now → w.result = 0 → (s.dev.pair n.val).chain = some c →
    Answers (.syncWaitTimeout n) s fun t => t.dev.Ended n.val .late 0 ∧ t.dev.waits.get? n.val = none ∧ t.dev.ctrs = s.dev.ctrs
      ∧ SameBytes s t)
  ∧ (∀ (n : Fin 1024) (b : List Byte) (c : Chain) (k : Fin 8) (l dst port : Nat) (x : Line) (m : MaqC) (s : State),
    ({ s.dev with dir := [] } : Dev).Idle → s.dev.Engine n.val 0x59 b c → l < 2 ^ 56 →
    s.dev.dir = [(l, dx1 k.val true)] → s.dev.l2 = [(l2Key k.val l, ⟨.m, x⟩)] → s.dev.agentState k.val = 1 →
    fld b 0x10 8 = 64 * l → fld b 0x18 4 = 1 → fld b 0x1C 1 = 0 → fld b 0x20 8 = 0 → zeroed b 0x1D 0x20 = true → zeroed b 0x28 0x40 = true →
    s.dev.gran = [] → s.dev.maq.get? (extentOf (64 * l)) = some m → m.entry.home.toNat = dst → m.entry.part.toNat = c.part →
    s.dev.OnePath dst port → s.dev.LinkTakes port 1 c.part →
    Answers (.regionFlushout n) s fun t => t.dev.l2 = [(l2Key k.val l, ⟨.e, x⟩)] ∧ SameBytes s t
      ∧ ∃ q, Sends s t (.req port 0 q) ∧ q.code = 0x02 ∧ q.data = [good x] ∧ q.h.addr = BitVec.ofNat 64 (l * 64))
  ∧ (∀ (n : Fin 1024) (b : List Byte) (c : Chain) (k : Fin 8) (l dst port : Nat) (x : Line) (m : MaqC) (s : State),
    ({ s.dev with dir := [] } : Dev).Idle → s.dev.Engine n.val 0x5A b c → l < 2 ^ 56 →
    s.dev.dir = [(l, dx1 k.val true)] → s.dev.l2 = [(l2Key k.val l, ⟨.m, x⟩)] → s.dev.agentState k.val = 1 →
    fld b 0x10 8 = 64 * l → fld b 0x18 4 = 1 → fld b 0x1C 1 = 0 → fld b 0x20 8 = 0 → zeroed b 0x1D 0x20 = true → zeroed b 0x28 0x40 = true →
    s.dev.gran = [] → s.dev.maq.get? (extentOf (64 * l)) = some m → m.entry.home.toNat = dst → m.entry.part.toNat = c.part →
    s.dev.OnePath dst port → s.dev.LinkTakes port 1 c.part →
    Answers (.regionDiscardin n) s fun t => t.dev.l2 = [] ∧ t.dev.dir = [] ∧ SameBytes s t
      ∧ ∃ q, Sends s t (.req port 0 q) ∧ q.code = 0x02 ∧ q.data = [good x] ∧ q.h.addr = BitVec.ofNat 64 (l * 64))
  ∧ (∀ (n : Fin 1024) (b : List Byte) (c : Chain) (ms : List (Nat × Nat)) (s : State), s.dev.Idle → s.dev.Engine n.val 0x5C b c →
    fld b 0x10 2 < 4096 → 1 ≤ fld b 0x12 1 → fld b 0x12 1 ≤ 4 → zeroed b 0x13 0x18 = true → zeroed b 0x28 0x40 = true →
    fld b 0x18 8 % 64 = 0 → fld b 0x20 8 % 64 = 0 → fld b 0x20 8 < 2 ^ 62 → s.dev.castOwner (fld b 0x10 2) = c.part → s.dev.sends = [] →
    s.dev.Placed (fld b 0x20 8) c.part → (s.lineAt (fld b 0x20 8)).poison = false →
    castMembers ((lineBytes (s.lineAt (fld b 0x20 8)).data).take (16 * fld b 0x12 1)) (fld b 0x12 1) = some ms →
    Answers (.castDefine n) s fun t => t.dev.Ended n.val .ok 0 ∧ SameBytes s t
      ∧ t.dev.casts.get? (fld b 0x10 2) = some { part := c.part, size := fld b 0x18 8, members := ms })

/-! ### Translation (chapter 3) -/

/-- Walks, pins and faults: a walk from the deepest cached pointer entry to a leaf of level 2 installs the leaf, pinned for four hints
(R67, R70); a leaf that the waiting access lacks permission for is a fault of kind 2, PERM, kept for the request's retry (R71); a pin
ends when its time has passed; a fault that nothing resolves in time ends what is parked on it with `FAULT` and its kind (R82). -/
def Obligations.WalksAndFaults : Prop :=
  (∀ (blk : Fin 8) (asid : BitVec 16) (va : BitVec 57) (w : Walk) (y : XWait) (root table x : Nat) (s : State), s.dev.Idle → va.toNat % 65536 = 0 →
    s.dev.roots.get? asid.toNat = some root → s.dev.ptrs.get? blk.val = some [(asid.toNat, 3, va.toNat / 2 ^ 39, table)] →
    s.dev.tlb.get? blk.val = none → table % 4096 = 0 → (∃ part, s.Readable ((table + 8 * levelIdx 2 va.toNat) / 64 * 64) part) →
    fld (s.bytesAt ((table + 8 * levelIdx 2 va.toNat) / 64 * 64)) ((8 * levelIdx 2 va.toNat) % 64) 8 = x → bit x 0 = true → bit x 1 = true →
    malformed 2 x = false → w.blk = blk.val → w.asid = asid.toNat → w.va = va.toNat → w.void = false → w.waits = [y] → y.done = none →
    y.access = 0 → bit x 2 = true →
    Answers (.walkDone blk asid va) { s with dev := { s.dev with walks := [w] } } fun t => t.dev.walks = [] ∧ SameBytes s t
      ∧ t.dev.hit? blk.val asid.toNat va.toNat = some
          { asid := asid.toNat, vpn := va.toNat / 2 ^ 30, bits := 30, pa := bits x 8 54 * 256, rd := bit x 2, wr := bit x 3,
            red := bit x 4, pin := some (w.began + 4 * y.hint), creds := [y.cred] })
  ∧ (∀ (blk : Fin 8) (asid : BitVec 16) (va : BitVec 57) (w : Walk) (y : XWait) (root table x : Nat) (s : State), s.dev.Idle →
    va.toNat % 65536 = 0 → s.dev.roots.get? asid.toNat = some root → s.dev.ptrs.get? blk.val = some [(asid.toNat, 3, va.toNat / 2 ^ 39, table)] →
    s.dev.tlb.get? blk.val = none → table % 4096 = 0 → (∃ part, s.Readable ((table + 8 * levelIdx 2 va.toNat) / 64 * 64) part) →
    fld (s.bytesAt ((table + 8 * levelIdx 2 va.toNat) / 64 * 64)) ((8 * levelIdx 2 va.toNat) % 64) 8 = x → bit x 0 = true → bit x 1 = true →
    malformed 2 x = false → w.blk = blk.val → w.asid = asid.toNat → w.va = va.toNat → w.void = false → w.waits = [y] → y.done = none →
    y.access = 1 → bit x 3 = false → s.dev.o w.part 0x6020 1 = 0 →
    Answers (.walkDone blk asid va) { s with dev := { s.dev with walks := [w] } } fun t => SameBytes s t
      ∧ t.dev.walks = [{ w with waits := [{ y with done := some (2, 2048) }] }] ∧ t.dev.hit? blk.val asid.toNat va.toNat = none)
  ∧ (∀ (blk : Fin 8) (asid : BitVec 16) (va : BitVec 57) (e : TlbE) (until_ : Nat) (s : State), s.dev.Quiet →
    s.dev.tlb = [(blk.val, [e])] → e.asid = asid.toNat → e.vpn = va.toNat / 2 ^ e.bits → e.pin = some until_ → until_ ≤ s.dev.now →
    Answers (.xlatePinExpire blk asid va) s fun t => t.dev = { s.dev with tlb := [(blk.val, [{ e with pin := none, creds := [] }])] } ∧ SameBytes s t)
  ∧ (∀ (i : Fin 2048) (e : FEnt) (n : Nat) (c : Chain) (s : State), s.dev.Quiet → s.dev.fents = [(i.val, e)] → e.reqs = [.pair n] →
    e.began + us (s.dev.o e.part 0x6020 3) ≤ s.dev.now → (s.dev.pair n).chain = some c →
    Answers (.faultTimeout i) s fun t => t.dev.fents = [] ∧ t.dev.Ended n .fault e.kind ∧ (t.dev.pair n).parked = [] ∧ SameBytes s t)

/-- Translation operations of a chain (Table 3-7), without a result record. `BIND` gives the partition's ASID a root or takes it away,
and drops what is cached of it (R68). `INVAL` drops every entry of its scope, and completes when the requests translated through it have:
it waits while one runs (R74). `RESOLVE` hands what is parked on a fault back, or fails it (R86). `PREFETCH` installs a page in every
block (R87). -/
def Obligations.TranslationOps : Prop :=
  (∀ (n : Fin 1024) (b : List Byte) (c : Chain) (s : State), s.dev.Idle → s.dev.Engine n.val 0x48 b c → xKind b = 0 → xlateOk b = true →
    fld b 0x30 8 = 0 → s.dev.ownsAsid c.part (xAsid b) = true → fld b 0x20 8 % 4096 = 0 → fld b 0x20 8 < 2 ^ 62 →
    (∃ part, s.dev.Placed (fld b 0x20 8) part) →
    Answers (.xlateBind n) s fun t => t.dev.Ended n.val .ok 0 ∧ t.dev.roots.get? (xAsid b) = some (fld b 0x20 8) ∧ SameBytes s t
      ∧ (∀ x ∈ t.dev.tlb, ∀ e ∈ x.2, e.asid ≠ xAsid b) ∧ ∀ y, y ≠ xAsid b → t.dev.roots.get? y = s.dev.roots.get? y)
  ∧ (∀ (n : Fin 1024) (b : List Byte) (c : Chain) (s : State), s.dev.Idle → s.dev.Engine n.val 0x48 b c → xKind b = 1 → xlateOk b = true →
    fld b 0x30 8 = 0 → s.dev.ownsAsid c.part (xAsid b) = true →
    Answers (.xlateUnbind n) s fun t => t.dev.Ended n.val .ok 0 ∧ t.dev.roots.get? (xAsid b) = none ∧ SameBytes s t
      ∧ (∀ x ∈ t.dev.tlb, ∀ e ∈ x.2, e.asid ≠ xAsid b) ∧ ∀ y, y ≠ xAsid b → t.dev.roots.get? y = s.dev.roots.get? y)
  ∧ (∀ (n : Fin 1024) (b : List Byte) (c : Chain) (s : State), s.dev.Idle → s.dev.Engine n.val 0x49 b c → xKind b = 0 → xlateOk b = true →
    fld b 0x30 8 = 0 → s.dev.ownsAsid c.part (xAsid b) = true → s.dev.draining (s.dev.invalScope c.part b) n.val = false →
    Answers (.xlateInvalPages n) s fun t => t.dev.Ended n.val .ok 0 ∧ t.dev.roots = s.dev.roots ∧ SameBytes s t
      ∧ ∀ x ∈ t.dev.tlb, ∀ e ∈ x.2, e.asid = xAsid b →
          e.vpn * 2 ^ e.bits + 2 ^ e.bits ≤ xVa b ∨ xVa b + 65536 * xCount b ≤ e.vpn * 2 ^ e.bits)
  ∧ (∀ (n : Fin 1024) (b : List Byte) (c : Chain) (s : State), s.dev.Idle → s.dev.Engine n.val 0x49 b c → xKind b = 1 → xlateOk b = true →
    fld b 0x30 8 = 0 → s.dev.ownsAsid c.part (xAsid b) = true → s.dev.draining (s.dev.invalScope c.part b) n.val = false →
    Answers (.xlateInvalAsid n) s fun t => t.dev.Ended n.val .ok 0 ∧ t.dev.roots = s.dev.roots ∧ SameBytes s t
      ∧ ∀ x ∈ t.dev.tlb, ∀ e ∈ x.2, e.asid ≠ xAsid b)
  ∧ (∀ (n : Fin 1024) (b : List Byte) (c : Chain) (s : State), s.dev.Idle → s.dev.Engine n.val 0x49 b c → xKind b = 2 → xlateOk b = true →
    fld b 0x30 8 = 0 → s.dev.draining (s.dev.invalScope c.part b) n.val = false →
    Answers (.xlateInvalPartition n) s fun t => t.dev.Ended n.val .ok 0 ∧ t.dev.roots = s.dev.roots ∧ SameBytes s t
      ∧ ∀ x ∈ t.dev.tlb, ∀ e ∈ x.2, s.dev.ownsAsid c.part e.asid = false)
  ∧ (∀ (n : Fin 1024) (b : List Byte) (c : Chain) (j : Nat × Job) (asid va : Nat) (s : State), ({ s.dev with jobs := [] } : Dev).Idle →
    s.dev.jobs = [j] → j.2.via = some (asid, va) → j.2.began ≤ s.dev.now → s.dev.Engine n.val 0x49 b c → xKind b = 1 → xlateOk b = true →
    fld b 0x30 8 = 0 → s.dev.ownsAsid c.part (xAsid b) = true → asid = xAsid b →
    Answers (.xlateInvalAsid n) s fun t => (∃ x, t.dev.inval.get? n.val = some x ∧ x.at_ = s.dev.now ∧ x.lo = asid ∧ x.hi = asid + 1)
      ∧ (∀ x ∈ t.dev.tlb, ∀ e ∈ x.2, e.asid ≠ xAsid b) ∧ t.dev.jobs = s.dev.jobs ∧ SameBytes s t)
  ∧ (∀ (n : Fin 1024) (c : Chain) (x : Inval) (s : State), s.dev.Quiet → s.dev.inval.get? n.val = some x →
    s.dev.draining x n.val = false → (s.dev.pair n.val).chain = some c → fld c.desc 0x30 8 = 0 →
    Answers (.xlateInvalDrained n) s fun t => t.dev.Ended n.val .ok 0 ∧ t.dev.inval.get? n.val = none ∧ SameBytes s t)
  ∧ (∀ (n : Fin 1024) (b : List Byte) (c : Chain) (x : FEnt) (m : Nat) (s : State), s.dev.Quiet → s.dev.Engine n.val 0x4A b c → xKind b = 0 →
    xlateOk b = true → fld b 0x30 8 = 0 → s.dev.ownsAsid c.part (xAsid b) = true → s.dev.fents.get? (fld b 0x28 2) = some x →
    x.asid = xAsid b → x.reqs = [.pair m] → m ≠ n.val →
    Answers (.xlateResolveReplay n) s fun t => t.dev.Ended n.val .ok 0 ∧ t.dev.fents.get? (fld b 0x28 2) = none ∧ SameBytes s t
      ∧ (t.dev.pair m).parked = (s.dev.pair m).parked.filter (· != fld b 0x28 2))
  ∧ (∀ (n : Fin 1024) (b : List Byte) (c cm : Chain) (x : FEnt) (m : Nat) (s : State), s.dev.Quiet → s.dev.Engine n.val 0x4A b c → xKind b = 1 →
    xlateOk b = true → fld b 0x30 8 = 0 → s.dev.ownsAsid c.part (xAsid b) = true → s.dev.fents.get? (fld b 0x28 2) = some x →
    x.asid = xAsid b → x.reqs = [.pair m] → m ≠ n.val → (s.dev.pair m).chain = some cm →
    Answers (.xlateResolveFail n) s fun t => t.dev.Ended n.val .ok 0 ∧ t.dev.fents.get? (fld b 0x28 2) = none ∧ SameBytes s t
      ∧ t.dev.Ended m .fault x.kind ∧ (t.dev.pair m).parked = [])
  ∧ (∀ (n : Fin 1024) (b : List Byte) (c : Chain) (e : TlbE) (s : State), s.dev.Idle → s.dev.Engine n.val 0x4B b c → xlateOk b = true →
    fld b 0x30 8 = 0 → fld b 0x1F 1 = 0 → xCount b = 1 → s.dev.ownsAsid c.part (xAsid b) = true →
    s.dev.hit? (blkOfPair n.val) (xAsid b) (xVa b) = some e → (∀ blk, blk < 8 → (s.dev.tlb.getD blk []).length < 4096) →
    Answers (.xlatePrefetch n) s fun t => t.dev.Ended n.val .ok 0 ∧ SameBytes s t
      ∧ ∀ blk, blk < 8 → (t.dev.hit? blk (xAsid b) (xVa b)).map (fun x => { x with pin := none, creds := [] })
          = some { e with pin := none, creds := [] })

/-! ### Chains (chapter 8) -/

/-- The dispatcher starts a chain of one descriptor on a free pair (R217); a refused tile goes on, on its credit, in its window (R213); the
end of a chain writes its completion record of sixteen bytes and frees the pair (R226); `CHAIN.LOOP` goes back over its body until
its count is reached (R230). -/
def Obligations.ChainsRun : Prop :=
  (∀ (part : BitVec 8) (q : Fin 16) (n : Fin 1024) (la : Nat) (s : State), s.dev.Idle → s.dev.ready = true → s.dev.noAdmit = false →
    s.dev.partState part.toNat = 1 → s.dev.queueReady part.toNat q.val = true → s.dev.queueTurn part.toNat q.val = true →
    s.dev.inShare part.toNat = true → s.dev.pairFree n.val = true → s.dev.pairs.get? n.val = none →
    bits (s.dev.o part.toNat (0x6040 + q.val) 5) 1 2 = 0 →
    la = s.dev.o part.toNat (0x6040 + q.val) 1
      + 64 * (s.dev.o part.toNat (0x6040 + q.val) 0x0A % max 1 (s.dev.o part.toNat (0x6040 + q.val) 2)) →
    s.Readable la part.toNat → dCtl (s.bytesAt la) 0 = false →
    Answers (.chainStart part q n) s fun t => SameBytes s t
      ∧ t.dev.o part.toNat (0x6040 + q.val) 0x0A = (s.dev.o part.toNat (0x6040 + q.val) 0x0A + 1) % 2 ^ 32
      ∧ (t.dev.pair n.val).chain = some
          { part := part.toNat, queue := q.val, start := s.dev.o part.toNat (0x6040 + q.val) 0x0A, descs := [s.bytesAt la] })
  ∧ (∀ (n : Fin 1024) (i : Nat) (x : Credit) (c : Chain) (s : State), s.dev.Quiet → (s.dev.pair n.val).chain = some c →
    (s.dev.pair n.val).held = some i → s.dev.credits.get? i = some x → s.dev.o 0 0x2000 1 = 0 → x.start ≤ s.dev.now →
    s.dev.now ≤ x.until_ →
    Answers (.engineCreditedRetry n) s fun t => (t.dev.pair n.val).held = none ∧ t.dev.credits.get? i = none
      ∧ t.dev.o x.part 0x6010 9 = (s.dev.o x.part 0x6010 9 + 1) % 2 ^ oWidth 0x6010 9 ∧ SameBytes s t)
  ∧ (∀ (n : Fin 1024) (c : Chain) (st : Status) (word a head : Nat) (s : State), s.dev.Idle → (s.dev.pair n.val).chain = some c →
    c.stage = .done st word → c.ended = false → (s.dev.pair n.val).outs = [] → (s.dev.pair n.val).sent = 0 →
    (s.dev.pair n.val).worst = none → c.pos + 1 = c.descs.length → dCtl c.desc 2 = false → dOp c.desc ≠ 0x90 → s.dev.emb = [] →
    s.dev.idx = [] → s.dev.o c.part (0x6040 + c.queue) 0x0B = head →
    a = s.dev.o c.part (0x6040 + c.queue) 3 + 16 * (head % max 1 (s.dev.o c.part (0x6040 + c.queue) 2)) → a % 16 = 0 → a < 2 ^ 62 →
    s.dev.Placed a c.part → (s.lineAt a).poison = false →
    Answers (.descriptorComplete n) s fun t => (t.dev.pair n.val).chain = none ∧ OnlyBytes s t a 16
      ∧ Mem.read t.mem a 16 = leBytes 4 (dTag c.desc) ++ leBytes 1 st.code
          ++ leBytes 1 (b2n (head / max 1 (s.dev.o c.part (0x6040 + c.queue) 2) % 2 == 0) + 2
              + 4 * b2n (st != .ok && st != .short))
          ++ leBytes 2 ((c.start + c.pos) % max 1 (s.dev.o c.part (0x6040 + c.queue) 2) % 65536) ++ leBytes 8 word
      ∧ t.dev.o c.part (0x6040 + c.queue) 0x0B = (head + 1) % 2 ^ 32)
  ∧ (∀ (n : Fin 1024) (b : List Byte) (c : Chain) (s : State), s.dev.Quiet → s.dev.Engine n.val 0x55 b c → loopOk c.descs c.pos = true →
    c.loops = [] → 2 ≤ fld b 0x10 4 →
    Answers (.chainLoop n) s fun t => SameBytes s t ∧ ∃ c', (t.dev.pair n.val).chain = some c' ∧ c'.pos = c.pos - fld b 0x14 1
      ∧ c'.stage = .ready ∧ c'.descs = bumpBody b c.descs (c.pos - fld b 0x14 1) ∧ Tab.get? c'.loops c.pos = some 2)
  ∧ (∀ (n : Fin 1024) (b : List Byte) (c : Chain) (i : Nat) (s : State), s.dev.Quiet → s.dev.Engine n.val 0x55 b c →
    loopOk c.descs c.pos = true → Tab.get? c.loops c.pos = some i → fld b 0x10 4 ≤ i →
    Answers (.chainLoop n) s fun t => SameBytes s t ∧ t.dev.Ended n.val .ok 0)

/-- Tile operations on tiles of one element of any type but MX (R243-R246): copy and conversion, fill, reduction into the destination's
line, and the matrix product, kept in the accumulators or stored. -/
def Obligations.TileOperations : Prop :=
  (∀ (n : Fin 1024) (b : List Byte) (c : Chain) (mx mz : Mould) (s : State), s.dev.Idle → s.dev.Engine n.val 0x60 b c →
    bodyOk b [0, 2] true false 0 = true → tOpc b = 0 → tCtr b = none → fld b 0x2F 1 = 1 → s.HasMould c.part c.queue (tMould b 0) mx →
    s.HasMould c.part c.queue (tMould b 2) mz → s.Tile1 c.part mx (tAddr b 0) → s.Tile1 c.part mz (tAddr b 2) →
    Answers (.tileCopy n) s fun t => Wrote s t n.val mz (tAddr b 2)
      (if mx.code = mz.code then (s.elem mx (tAddr b 0)).v else (convEl mx.t mz.t (s.elem mx (tAddr b 0))).v))
  ∧ (∀ (n : Fin 1024) (b : List Byte) (c : Chain) (mz : Mould) (s : State), s.dev.Idle → s.dev.Engine n.val 0x61 b c →
    bodyOk b [2] false false 64 = true → tOpc b = 0 → tCtr b = none → s.HasMould c.part c.queue (tMould b 2) mz →
    s.Tile1 c.part mz (tAddr b 2) →
    Answers (.tileFill n) s fun t => Wrote s t n.val mz (tAddr b 2) (fld b 0x38 8))
  ∧ TileReduces .tileReduceAdd 0 .add ∧ TileReduces .tileReduceMin 1 .min ∧ TileReduces .tileReduceMax 2 .max
  ∧ (∀ (n : Fin 1024) (b : List Byte) (c : Chain) (mx my mz : Mould) (s : State), s.dev.Idle → s.dev.Engine n.val 0x63 b c →
    bodyOk b [0, 1, 2] false true 0 = true → tOpc b = 2 → s.HasMould c.part c.queue (tMould b 0) mx →
    s.HasMould c.part c.queue (tMould b 1) my → s.HasMould c.part c.queue (tMould b 2) mz → mx.code = 5 → my.code = 5 → mz.code = 1 →
    s.Tile1 c.part mx (tAddr b 0) → s.Tile1 c.part my (tAddr b 1) → s.Tile1 c.part mz (tAddr b 2) →
    Answers (.tileMatmul n) s fun t => t.dev.Ended n.val .ok 0 ∧ SameBytes s t
      ∧ (t.dev.pair n.val).acc
          = [(BitVec.ofInt 32 (sval 8 (s.elem mx (tAddr b 0)).v * sval 8 (s.elem my (tAddr b 1)).v)).toNat])
  ∧ (∀ (n : Fin 1024) (b : List Byte) (c : Chain) (mx my mz : Mould) (p : Nat) (s : State), s.dev.Idle → s.dev.Engine n.val 0x63 b c →
    bodyOk b [0, 1, 2] false true 0 = true → tOpc b = 0 → tCtr b = none → s.HasMould c.part c.queue (tMould b 0) mx →
    s.HasMould c.part c.queue (tMould b 1) my → s.HasMould c.part c.queue (tMould b 2) mz → mx.code = 8 → my.code = 8 → mz.code = 8 →
    s.Tile1 c.part mx (tAddr b 0) → s.Tile1 c.part my (tAddr b 1) → s.Tile1 c.part mz (tAddr b 2) →
    p = accSteps mx.t my.t 1 1 [(s.elem mx (tAddr b 0), s.elem my (tAddr b 1))] 0 →
    Answers (.tileMatmul n) s fun t => Wrote s t n.val mz (tAddr b 2)
      (F32.conv F32 (F32.enc false (FV.mul (fld b 0x34 4, p) (F32.dec (fld b 0x34 4)) (F32.dec p)))))

/-- Elementwise operations on tiles of one element of any type the unit takes but MX (R240, Table 8-12). -/
def Obligations.Elementwise : Prop :=
  EwiseBinary .tileEwiseAdd 0 F32.add ∧ EwiseBinary .tileEwiseSub 1 F32.sub ∧ EwiseBinary .tileEwiseMul 2 F32.mul
  ∧ EwiseBinary .tileEwiseMin 3 F32.minimum ∧ EwiseBinary .tileEwiseMax 4 F32.maximum
  ∧ EwiseUnary .tileEwiseAxpb 5 true (fun b x => F32.fma (fld b 0x34 4) x (fld b 0x38 4)) ∧ EwiseUnary .tileEwiseExp 6 false (fun _ => exp32)
  ∧ EwiseUnary .tileEwiseRecip 7 false (fun _ => recip32) ∧ EwiseUnary .tileEwiseRsqrt 8 false (fun _ => rsqrt32)
  ∧ EwiseUnary .tileEwiseRowsum 9 false (fun _ x => x) ∧ EwiseUnary .tileEwiseRowmax 10 false (fun _ x => x)

/-- R247 and Table 8-13: an optimiser step of kind SGD on moulds of one element of any type the unit takes but MX: w − lr × (g + wd × w),
in FP32. -/
def Obligations.OptimiserStep : Prop :=
  ∀ (n : Fin 1024) (b : List Byte) (c : Chain) (mw mg : Mould) (o : Optim) (s : State), s.dev.Idle → s.dev.Engine n.val 0x65 b c →
    bodyOk b [0, 1, 2] false false 64 = true → tOpc b = 0 → tCtr b = none → s.Readable (fld b 0x38 8) c.part →
    optimOf (s.bytesAt (fld b 0x38 8)) = some o → o.kind = 0 → s.HasMould c.part c.queue (tMould b 0) mw →
    s.HasMould c.part c.queue (tMould b 1) mg → ewOk mw.code = true → ewOk mg.code = true →
    s.Tile1 c.part mw (tAddr b 0) → s.Tile1 c.part mg (tAddr b 1) →
    Answers (.optStep n) s fun t => Wrote s t n.val mw (tAddr b 0)
      (mw.t.of32 (optSgd o (mw.t.f32 (s.elem mw (tAddr b 0))) (mg.t.f32 (s.elem mg (tAddr b 1)))))

/-! ### Wiotte and checkpoints (chapter 9) -/

/-- A block is lossless (R250-R256, R258): one in raw mode, and one in compressed mode under any complete code of at most fifteen symbols,
decodes to the raw bytes it was encoded from. -/
def Obligations.BlocksAreLossless : Prop :=
  (∀ (etype : Nat) (t : Wio.Ty) (raw : List Byte), Wio.ty? etype = some t → 0 < raw.length → raw.length ≤ 4096 → raw.length % t.bytes = 0 →
    Wio.decode (Wio.rawBlock etype raw) = .raw raw)
  ∧ (∀ (etype : Nat) (t : Wio.Ty) (raw b : List Byte) (c : List (Nat × Nat) × Nat), Wio.ty? etype = some t → etype ≠ 0 → 0 < raw.length →
    raw.length ≤ 4096 → raw.length % t.bytes = 0 → c.1.length ≤ 15 → (∀ e ∈ c.1, 1 ≤ e.2 ∧ e.1 < 2 ^ t.eb) → 1 ≤ c.2 →
    Wio.codeOk t (Wio.entsOf c) = true → Wio.blockWith etype t raw c = some b → Wio.decode b = .raw raw)

/-- `WIO.PACK` of at most 64 bytes writes the lines of the object at DST; `WIO.UNPACK` of an object of one block of at most 64 bytes writes
its raw bytes (R265). `CKPT.WRITE` ends, its manifest written back, with the bytes of the checkpoint (R266 step 6); `CKPT.RESTORE` ends,
its regions restored, with their raw bytes, where the manifest's digest holds, and else with `POISON` (R267). -/
def Obligations.WiotteOperations : Prop :=
  (∀ (n : Fin 1024) (b : List Byte) (c : Chain) (ls : List DLine) (s : State), s.dev.Idle → s.dev.Engine n.val 0xA0 b c →
    wioOk (s.dev.engOf n.val c) b = true → 0 < wLen b → wLen b ≤ 64 → rawOk (fld b 0x28 1) (wLen b) = true → wAux b = 0 → wRes b = 0 →
    wCtr b = none → s.Readable (wSrc b) c.part → s.dev.Placed (wDst b) c.part → wDst b % 2 ^ 21 + 256 ≤ 2 ^ 21 → wDst b + 256 ≤ 2 ^ 62 →
    ls = objWrites (Wio.pack (fld b 0x28 1) (bit (fld b 0x29 1) 0) ((s.bytesAt (wSrc b)).take (wLen b))).1
      (Wio.pack (fld b 0x28 1) (bit (fld b 0x29 1) 0) ((s.bytesAt (wSrc b)).take (wLen b))).2 (fun _ => false) →
    Answers (.wioPack n) s fun t => t.dev.Ended n.val .ok (64 * ls.length) ∧ ∀ i x, ls[i]? = some x → t.lineAt (wDst b + 64 * i) = x)
  ∧ (∀ (n : Fin 1024) (b : List Byte) (c : Chain) (o : Wio.Obj) (off len : Nat) (raw : List Byte) (s : State), s.dev.Idle →
    s.dev.Engine n.val 0xA1 b c → wioOk (s.dev.engOf n.val c) b = true → wLen b = 0 → fld b 0x28 2 = 0 → wAux b = 0 → wRes b = 0 →
    wCtr b = none → s.Readable (wSrc b) c.part → s.Readable (wSrc b + 64) c.part → (∀ i, i < len → s.Readable (wSrc b + 64 * (off + i)) c.part) →
    Wio.objOf (s.bytesAt (wSrc b)) = some o → o.rawLen ≤ 64 → Wio.idxOf o (fld (s.bytesAt (wSrc b + 64)) 0 8) = some (off, len) →
    Wio.decodeIn o 0 ((List.range len).flatMap fun i => s.bytesAt (wSrc b + 64 * (off + i))) = .raw raw → s.Readable (wDst b) c.part →
    Answers (.wioUnpack n) s fun t => t.dev.Ended n.val .ok o.rawLen ∧ Mem.read t.mem (wDst b) o.rawLen = raw
      ∧ OnlyBytes s t (wDst b) o.rawLen)
  ∧ (∀ (n : Fin 1024) (b : List Byte) (c : Chain) (x : Region) (g : GEnt) (total : Nat) (s : State), s.dev.Idle →
    s.dev.GoesOn n.val 0xA4 b c → wioOk (s.dev.engOf n.val c) b = true → wLen b = 1 → fld b 0x28 2 = 0 → wRes b = 0 → s.dev.frames = [] →
    (s.dev.pair n.val).phase = 20 → (s.dev.pair n.val).kept = [(kNext, leBytes 8 total)] → total < 2 ^ 64 → (s.dev.pair n.val).jobs = [] →
    (s.dev.pair n.val).asked = [] → s.Readable (wSrc b) c.part → regionsOf ((s.bytesAt (wSrc b)).take 32) 1 = some [x] →
    s.dev.gran.get? (granuleOf (wDst b)) = some g → g.tier = 2 → g.part = c.part → wDst b % 65536 + (256 + objMax x.len) ≤ 65536 →
    wDst b < 2 ^ 61 →
    Answers (.ckptWrite n) s fun t => t.dev.Ended n.val .ok total ∧ SameBytes s t)
  ∧ (∀ (n : Fin 1024) (b : List Byte) (c : Chain) (hd ents : List Byte) (total : Nat) (s : State), s.dev.Idle →
    s.dev.GoesOn n.val 0xA5 b c → wioOk (s.dev.engOf n.val c) b = true → wLen b = 0 → fld b 0x28 2 = 0 → wRes b = 0 → wAux b = 0 →
    wDst b = 0 → (s.dev.pair n.val).phase = 17 → (s.dev.pair n.val).kept = [(kRes, ({ raw := total } : WioRes).bytes)] → total < 2 ^ 64 →
    (∀ i, i < 4 → s.Readable (wSrc b + 64 * i) c.part) → hd = s.bytesAt (wSrc b) ++ s.bytesAt (wSrc b + 64) →
    ents = s.bytesAt (wSrc b + 128) ++ s.bytesAt (wSrc b + 192) → fld hd 0 4 = 0x57494D46 → fld hd 4 1 = 1 → fld hd 8 4 = 1 →
    Answers (.ckptRestore n) s fun t => SameBytes s t
      ∧ (if (Config.shake512 (hd.take 64 ++ ents)).toNat = fld hd 0x40 64 then t.dev.Ended n.val .ok total else t.dev.Ended n.val .poison 0))

/-! ### Embedding tables (chapter 10) -/

/-- `LOOKUP.POOL` of one index and an element of FP32 writes its sum, the row's weight added to 0 (R281-R283); `EMB.UPDATE` of one row under
SGD writes its new weight (R286-R288); both leave the rest of the store but their work area, whose bytes are open (R277). `EMB.PUBLISH`
fills a free slot with the version record (R271); `EMB.QUERY` answers with the slot's record (R270). -/
def Obligations.EmbeddingTables : Prop :=
  (∀ (n : Fin 1024) (b : List Byte) (c : Chain) (x : Batch) (v : EmbRec) (sv : SlotVer) (e : Elem) (a : Nat) (s : State), s.dev.Idle →
    s.dev.Engine n.val 0x70 b c → batchOf (s.dev.engOf n.val c) b = some x → x.nidx = 1 → x.nbag = 1 → x.offs = 0 → x.pool = 0 →
    x.dtype = 0 → x.ctr = none → s.dev.emb.get? x.slot = some { owner := c.part, cur := sv } → sv.refs = [] → sv.version ≠ 0 →
    embRec sv.body = some v → v.dim = 1 → v.wtype = 8 → elem? 8 = some e → s.Readable x.index c.part →
    fld (s.bytesAt x.index) 0 4 < v.rows → a = v.base + fld (s.bytesAt x.index) 0 4 * v.pitch → s.Readable a c.part →
    s.dev.Placed x.data c.part → x.data < 2 ^ 62 → s.dev.Placed x.work c.part → x.work % 65536 + 192 ≤ 65536 → x.work < 2 ^ 62 →
    x.data + 64 ≤ x.work ∨ x.work + 192 ≤ x.data → s.dev.workAreas n.val = [] →
    Answers (.lookupPool n) s fun t => t.dev.Ended n.val .ok (v.version + 2 ^ 32)
      ∧ leNat (Mem.read t.mem x.data 4) = F32.conv F32 (fmaNat 0 1 (e.f32 { v := fld (s.bytesAt a) 0 4 })) % 2 ^ 32
      ∧ ∀ y, (y < x.data ∨ x.data + 64 ≤ y) → (y < x.work ∨ x.work + 192 ≤ y) → Mem.get t.mem y = Mem.get s.mem y)
  ∧ (∀ (n : Fin 1024) (b : List Byte) (c : Chain) (x : Batch) (v : EmbRec) (sv : SlotVer) (e : Elem) (o : Optim) (a : Nat) (s : State),
    s.dev.Idle → s.dev.Engine n.val 0x71 b c → batchOf (s.dev.engOf n.val c) b = some x → x.nidx = 1 → x.nbag = 1 → x.offs = 0 →
    x.pool = 0 → x.dtype = 0 → x.ctr = none → s.dev.emb.get? x.slot = some { owner := c.part, cur := sv } → sv.refs = [] →
    sv.version ≠ 0 → embRec sv.body = some v → v.dim = 1 → v.wtype = 8 → v.skind = 0 → v.pitch = 64 → v.opt ≠ 0 → elem? 8 = some e →
    s.Readable v.opt c.part → optimOf (s.bytesAt v.opt) = some o → o.kind = 0 → s.Readable x.index c.part →
    fld (s.bytesAt x.index) 0 4 < v.rows → a = v.base + fld (s.bytesAt x.index) 0 4 * v.pitch → s.Readable a c.part →
    s.Readable x.data c.part → s.dev.Placed x.work c.part → x.work % 65536 + 192 ≤ 65536 → x.work < 2 ^ 62 →
    a + 64 ≤ x.work ∨ x.work + 192 ≤ a → s.dev.workAreas n.val = [] →
    Answers (.embUpdate n) s fun t => t.dev.Ended n.val .ok (v.version + 2 ^ 32)
      ∧ leNat (Mem.read t.mem a 4) = e.of32 (optSgd o (e.f32 { v := fld (s.bytesAt a) 0 4 })
          (F32.fma (f32OfNat 1) (F32.conv F32 (fld (s.bytesAt x.data) 0 4)) 0)) % 2 ^ 32
      ∧ ∀ y, (y < a ∨ a + 4 ≤ y) → (y < x.work ∨ x.work + 192 ≤ y) → Mem.get t.mem y = Mem.get s.mem y)
  ∧ (∀ (n : Fin 1024) (b : List Byte) (c : Chain) (v : EmbRec) (s : State), s.dev.Idle → s.dev.Engine n.val 0x78 b c → fld b 0x10 8 ≠ 0 →
    fld b 0x18 2 < 1024 → fld b 0x1A 2 = 0 → fld b 0x1C 4 = 0 → zeroed b 0x20 64 = true → s.dev.emb.get? (fld b 0x18 2) = none →
    s.Readable (fld b 0x10 8) c.part → embRec (s.bytesAt (fld b 0x10 8)) = some v → s.dev.ownsRun c.part v.base (v.rows * v.pitch) = true →
    s.dev.ownsRun c.part (fld b 0x10 8) 64 = true →
    Answers (.embPublish n) s fun t => t.dev.Ended n.val .ok v.version ∧ SameBytes s t
      ∧ t.dev.emb.get? (fld b 0x18 2) = some { owner := c.part,
                                               cur := { version := v.version, body := s.bytesAt (fld b 0x10 8), addr := fld b 0x10 8 } }
      ∧ ∀ j, j ≠ fld b 0x18 2 → t.dev.emb.get? j = s.dev.emb.get? j)
  ∧ (∀ (n : Fin 1024) (b : List Byte) (c : Chain) (s : State), s.dev.Quiet → s.dev.Engine n.val 0x79 b c → fld b 0x10 8 = 0 →
    fld b 0x18 2 < 1024 → fld b 0x1A 2 = 0 → fld b 0x1C 4 = 0 → fld b 0x20 8 % 64 = 0 → fld b 0x20 8 < 2 ^ 62 → zeroed b 0x28 64 = true →
    (∀ x, s.dev.emb.get? (fld b 0x18 2) = some x → x.owner = c.part) → (s.dev.pair n.val).outs = [] →
    Answers (.embQuery n) s fun t => t.dev.Ended n.val .ok 64 ∧ t.dev.emb = s.dev.emb ∧ SameBytes s t
      ∧ (t.dev.pair n.val).outs = [(fld b 0x20 8, slotRecord (s.dev.emb.get? (fld b 0x18 2)))])

/-! ### Vector search (chapter 11) -/

/-- `VS.SEARCH` of a flat index of one node of one FP32 element, without a filter, writes the list of its one result (R295-R307); `VS.MERGE`
of one list that holds one entry writes it again (R309, R310); `VS.CAST` into a group whose only member is this device copies its
line there and ends (R308). `VS.PUBLISH` and `VS.INFO` do for an index what `EMB.PUBLISH` and `EMB.QUERY` do for a table (R296). -/
def Obligations.VectorSearch : Prop :=
  (∀ (n : Fin 1024) (b : List Byte) (c : Chain) (v : IdxRec) (q : Query) (sv : SlotVer) (e : Elem) (w : Machine.Word) (d qa res : Nat)
    (s : State), s.dev.Idle → s.dev.Engine n.val 0x80 b c → fld b 0x10 8 = qa → fld b 0x18 8 = res → fld b 0x20 8 = 0 →
    fld b 0x28 2 < 1024 → fld b 0x2A 2 = 0 → fld b 0x2C 4 = 0 → zeroed b 0x30 64 = true →
    s.dev.idx.get? (fld b 0x28 2) = some { owner := c.part, cur := sv } → sv.refs = [] → sv.version ≠ 0 → idxRec sv.body = some v →
    v.kind = 0 → v.nodes = 1 → v.etype = 8 → v.dim = 1 → elem? 8 = some e → (∀ i, i < 3 → s.Readable (qa + 64 * i) c.part) →
    queryOf 0 (s.bytesAt qa ++ s.bytesAt (qa + 64)) = some q → q.k = 1 → q.terms = [] → s.Readable v.base c.part →
    s.Readable (v.base + 64) c.part → wordOf (s.bytesAt v.base) = w → w.tomb = false →
    d = distance v e (qvec e [{ v := fld (s.bytesAt (qa + 128)) 0 4 }]) [{ v := fld (s.bytesAt (v.base + 64)) 0 4 }] w.aux →
    (F32.dec d).isNan = false → s.Readable res c.part → s.Readable (res + 64) c.part →
    Answers (.vsSearch n) s fun t => t.dev.Ended n.val .ok (v.version + 2 ^ 32) ∧ OnlyBytes s t res 80
      ∧ Mem.read t.mem res 80 = listBytes q.qid v.version 1 v.shard .ok false { scanned := 1 } 1 0 [⟨d, w.label, v.shard, 0⟩])
  ∧ (∀ (n : Fin 1024) (b : List Byte) (c : Chain) (hd : List Byte) (at_ res : Nat) (s : State), s.dev.Idle → s.dev.Engine n.val 0x81 b c →
    fld b 0x10 8 = at_ → fld b 0x18 8 = res → fld b 0x20 4 = 128 → fld b 0x24 2 = 1 → fld b 0x26 2 = 1 → fld b 0x2C 2 = 0 →
    zeroed b 0x2E 64 = true → s.Readable at_ c.part → s.Readable (at_ + 64) c.part → hd = s.bytesAt at_ → fld hd 0 4 = fld b 0x28 4 →
    fld hd 0x0E 1 = 0 → fld hd 8 2 = 1 → s.Readable res c.part → s.Readable (res + 64) c.part →
    Answers (.vsMerge n) s fun t => t.dev.Ended n.val .ok (fld hd 4 4 + 2 ^ 32) ∧ OnlyBytes s t res 80
      ∧ Mem.read t.mem res 80 = listBytes (fld b 0x28 4) (fld hd 4 4) 1 0xFFFF .ok false
          ⟨fld hd 0x10 4, fld hd 0x14 4, fld hd 0x18 4, fld hd 0x1C 4, fld hd 0x20 4, fld hd 0x24 4, fld hd 0x28 4, bit (fld hd 0x0F 1) 0,
            bit (fld hd 0x0F 1) 1⟩ 1 0 [hitOf (s.bytesAt (at_ + 64))])
  ∧ (∀ (n : Fin 1024) (b : List Byte) (c : Chain) (size base : Nat) (s : State), s.dev.Idle → s.dev.Engine n.val 0x82 b c →
    fld b 0x20 2 = 1 → fld b 0x22 2 < 4096 → fld b 0x24 2 = 0 → zeroed b 0x26 64 = true → fld b 0x18 8 % 64 = 0 →
    s.dev.casts.get? (fld b 0x22 2) = some ⟨c.part, size, [(s.dev.self, base)]⟩ → fld b 0x18 8 + 64 ≤ size → base % 64 = 0 →
    s.dev.sends = [] → s.Readable (fld b 0x10 8) c.part → s.dev.Placed (base + fld b 0x18 8) c.part → base + fld b 0x18 8 < 2 ^ 62 →
    Answers (.vsCast n) s fun t => t.lineAt (base + fld b 0x18 8) = s.lineAt (fld b 0x10 8) ∧ OnlyLine s t (lineNo (base + fld b 0x18 8))
      ∧ (t.dev.pair n.val).sent = 0)
  ∧ (∀ (n : Fin 1024) (b : List Byte) (c : Chain) (s : State), s.dev.Quiet → s.dev.GoesOn n.val 0x82 b c →
    2 ≤ dCls b → fld b 0x10 8 % 64 = 0 → fld b 0x18 8 % 64 = 0 → 1 ≤ fld b 0x20 2 → fld b 0x20 2 ≤ 1024 → fld b 0x22 2 < 4096 → fld b 0x24 2 = 0 →
    zeroed b 0x26 64 = true → s.dev.keptAt n.val kCast = [0] →
    Answers (.vsCast n) s fun t => t.dev.Ended n.val .ok (64 * fld b 0x20 2) ∧ SameBytes s t)
  ∧ (∀ (n : Fin 1024) (b : List Byte) (c : Chain) (v : IdxRec) (s : State), s.dev.Idle → s.dev.Engine n.val 0x88 b c → fld b 0x10 8 ≠ 0 →
    fld b 0x18 2 < 1024 → fld b 0x1A 2 = 0 → fld b 0x1C 4 = 0 → zeroed b 0x20 64 = true → s.dev.idx.get? (fld b 0x18 2) = none →
    s.Readable (fld b 0x10 8) c.part → idxRec (s.bytesAt (fld b 0x10 8)) = some v → s.dev.ownsRun c.part v.base (v.nodes * v.pitch) = true →
    s.dev.ownsRun c.part (fld b 0x10 8) 64 = true →
    Answers (.vsPublish n) s fun t => t.dev.Ended n.val .ok v.version ∧ SameBytes s t
      ∧ t.dev.idx.get? (fld b 0x18 2) = some { owner := c.part,
                                               cur := { version := v.version, body := s.bytesAt (fld b 0x10 8), addr := fld b 0x10 8 } }
      ∧ ∀ j, j ≠ fld b 0x18 2 → t.dev.idx.get? j = s.dev.idx.get? j)
  ∧ (∀ (n : Fin 1024) (b : List Byte) (c : Chain) (s : State), s.dev.Quiet → s.dev.Engine n.val 0x89 b c → fld b 0x10 8 = 0 →
    fld b 0x18 2 < 1024 → fld b 0x1A 2 = 0 → fld b 0x1C 4 = 0 → fld b 0x20 8 % 64 = 0 → fld b 0x20 8 < 2 ^ 62 → zeroed b 0x28 64 = true →
    (∀ x, s.dev.idx.get? (fld b 0x18 2) = some x → x.owner = c.part) → (s.dev.pair n.val).outs = [] →
    Answers (.vsInfo n) s fun t => t.dev.Ended n.val .ok 64 ∧ t.dev.idx = s.dev.idx ∧ SameBytes s t
      ∧ (t.dev.pair n.val).outs = [(fld b 0x20 8, slotRecord (s.dev.idx.get? (fld b 0x18 2)))])

/-! ### Attention (chapter 12) -/

/-- `ATTEND.DECODE` of one token, one head of 32 BF16 elements, without append or sums, writes the head's output row (R319-R322);
`KV.PROBE` of one block inside one granule counts it where it stands (R327). -/
def Obligations.AttentionAndCaches : Prop :=
  (∀ (n : Fin 1024) (b : List Byte) (c : Chain) (x : Att) (p : Pool) (blk at_ : Nat) (qb : List Byte) (s : State), s.dev.Idle →
    s.dev.Engine n.val 0x90 b c → attOf (s.dev.engOf n.val c) b = some x → x.t = 1 → x.layer = 0 → x.group = 1 → x.append = false →
    x.lse = false → x.otype = 1 → x.window = 0 → x.ctr = none → s.Readable x.pool c.part → poolOf (s.bytesAt x.pool) = some p →
    p.ktype = 0x0A → p.hkv = 1 → p.hdim = 32 → s.Readable x.btab c.part → blk = fld (s.bytesAt x.btab) 0 4 % 2 ^ 31 → blk < p.blocks →
    qb = s.bytesAt x.qbuf ++ s.bytesAt (x.qbuf + 64) → fld qb 0 2 = 0x4B51 → fld qb 2 1 = 0x0A → fld qb 3 1 = 0 → zeroed qb 8 64 = true →
    s.Readable x.qbuf c.part → s.Readable (x.qbuf + 64) c.part → s.dev.homedRun x.pool 64 = true → s.dev.homedRun x.btab 64 = true →
    at_ = p.base + blk * p.bpitch → s.dev.homedRun at_ p.lpitch = true → s.Readable at_ c.part → s.Readable (at_ + 64 * p.bt) c.part →
    s.dev.Placed x.out c.part → x.out < 2 ^ 62 → (∀ y ∈ s.dev.pairs, y.2.helps = none) →
    Answers (.attendDecode n) s fun t => t.dev.Ended n.val .ok (1 + 2 ^ 32 + 2 ^ 41) ∧ OnlyLine s t (lineNo x.out)
      ∧ Mem.read t.mem x.out 64 = (((⟨x, p, 1, [(0, blk)], qb⟩ : AttW).head
          [(lineNo at_, s.lineAt at_), (lineNo (at_ + 64 * p.bt), s.lineAt (at_ + 64 * p.bt))] 0).2.2.map
            fun y => leBytes 2 (F32.conv BF16 y)).flatten)
  ∧ (∀ (n : Fin 1024) (b : List Byte) (c : Chain) (p : Pool) (g : GEnt) (blk a : Nat) (s : State), s.dev.Idle → s.dev.Engine n.val 0x91 b c →
    fld b 0x20 4 = 1 → fld b 0x24 4 = 0 → fld b 0x28 8 % 64 = 0 → fld b 0x28 8 < 2 ^ 62 → zeroed b 0x30 64 = true →
    s.Readable (fld b 0x10 8) c.part → poolOf (s.bytesAt (fld b 0x10 8)) = some p → s.Readable (fld b 0x18 8) c.part →
    blk = fld (s.bytesAt (fld b 0x18 8)) 0 4 % 2 ^ 31 → blk < p.blocks → a = p.base + blk * p.bpitch →
    granuleOf (a + p.bpitch - 1) = granuleOf a → s.dev.gran.get? (granuleOf a) = some g → g.part = c.part → (s.dev.pair n.val).outs = [] →
    Answers (.kvProbe n) s fun t => t.dev.Ended n.val .ok 64 ∧ SameBytes s t
      ∧ (t.dev.pair n.val).outs = [(fld b 0x28 8, [0, 1, 2, 3].flatMap (fun k => leBytes 4 (b2n (residence g == k)))
          ++ leBytes 4 (if residence g = 1 then 0 else 0xFFFFFFFF) ++ zeros 44)])

/-! ### Host cores (chapter 13) -/

/-- Loads, fetches and stores through the store aperture (R334, Tables 13-1, 13-2): a line that the cluster's L2 holds is read or changed
there; one that it does not is granted first, with the home tier's data; an aperture entry that is not valid is an access fault. A
cluster retries a refused access on its credit (R332). A write of the aperture generation drops every cached entry (R335). -/
def Obligations.HartAccesses : Prop :=
  (∀ (h : Fin 32) (pa : BitVec 56) (w : Fin 4) (sa part : Nat) (e : L2E) (s : State), s.dev.Quiet → s.dev.HartFree h.val part →
    s.dev.Window h.val pa.toNat sa false → sa % 64 + 2 ^ w.val ≤ 64 → s.dev.l2.get? (l2Key (h.val / 4) (lineNo sa)) = some e →
    Answers (.hartLoad h pa w) s fun t => Sends s t (.hart h.val (fld (lineBytes e.data) (sa % 64) (2 ^ w.val))) ∧ t.dev.l2 = s.dev.l2
      ∧ t.dev.dir = s.dev.dir ∧ SameBytes s t)
  ∧ (∀ (h : Fin 32) (pa : BitVec 56) (sa part : Nat) (e : L2E) (s : State), s.dev.Quiet → s.dev.HartFree h.val part →
    s.dev.Window h.val pa.toNat sa false → sa % 64 + 4 ≤ 64 → s.dev.l2.get? (l2Key (h.val / 4) (lineNo sa)) = some e →
    Answers (.hartFetch h pa) s fun t => Sends s t (.hart h.val (fld (lineBytes e.data) (sa % 64) 4)) ∧ t.dev.l2 = s.dev.l2
      ∧ t.dev.dir = s.dev.dir ∧ SameBytes s t)
  ∧ (∀ (h : Fin 32) (pa : BitVec 56) (w : Fin 4) (v : BitVec 64) (sa part : Nat) (e : L2E) (s : State), s.dev.Quiet →
    s.dev.HartFree h.val part → s.dev.Window h.val pa.toNat sa true → sa % 64 + 2 ^ w.val ≤ 64 →
    s.dev.l2.get? (l2Key (h.val / 4) (lineNo sa)) = some e → e.st = .m ∨ e.st = .e →
    Answers (.hartStore h pa w v) s fun t => (∃ x, Sends s t (.hart h.val x)) ∧ SameBytes s t ∧ t.dev.dir = s.dev.dir
      ∧ ∃ y, t.dev.l2.get? (l2Key (h.val / 4) (lineNo sa)) = some ⟨.m, y⟩
        ∧ lineBytes y = putFld (lineBytes e.data) (sa % 64) (2 ^ w.val) (v.toNat % 2 ^ (8 * 2 ^ w.val)))
  ∧ (∀ (h : Fin 32) (pa : BitVec 56) (w : Fin 4) (sa part : Nat) (s : State), s.dev.Idle → s.dev.l2 = [] → s.dev.HartFree h.val part →
    s.dev.FreeLanes part → s.dev.o 0 0x2000 1 = 0 → s.dev.resWay = [] → s.dev.Window h.val pa.toNat sa false → sa % 64 + 2 ^ w.val ≤ 64 →
    s.dev.Placed sa part → (s.lineAt sa).poison = false →
    Answers (.hartLoad h pa w) s fun t => Sends s t (.hart h.val (fld (s.bytesAt sa) (sa % 64) (2 ^ w.val)))
      ∧ t.Owns (lineNo sa) (h.val / 4) ∧ t.dev.l2.get? (l2Key (h.val / 4) (lineNo sa)) = some ⟨.e, (s.lineAt sa).data⟩ ∧ SameBytes s t)
  ∧ (∀ (h : Fin 32) (pa : BitVec 56) (w : Fin 4) (part x : Nat) (s : State), s.dev.Quiet → s.dev.HartFree h.val part → pa.toNat < 2 ^ 55 →
    s.dev.apert.get? (h.val / 4 * 2048 + bits pa.toNat 44 11) = some x → bit x 0 = false →
    Answers (.hartLoad h pa w) s fun t => (∃ a, Sends s t (.hartFault h.val 5 a)) ∧ SameBytes s t ∧ t.dev.l2 = s.dev.l2)
  ∧ (∀ (k : Fin 8) (h n i : Nat) (c : Credit) (s : State), ({ s.dev with harts := [] } : Dev).Quiet → h / 4 = k.val → n < 32768 →
    s.dev.harts = [(h, { pend := some { kind := 0, pa := 2 ^ 55 + 64 * n, width := 3 }, credit := some i })] →
    s.dev.credits.get? i = some c → c.cls = 0 → s.dev.o 0 0x2000 1 = 0 → c.start ≤ s.dev.now → s.dev.now ≤ c.until_ →
    s.dev.agentState k.val = 1 → s.dev.ctrOwner n = s.dev.corePart k.val (h % 4) →
    Answers (.clusterCreditedRetry k) s fun t => Sends s t (.hart h (s.dev.ctr n).value.toNat) ∧ t.dev.credits.get? i = none
      ∧ (∀ x ∈ t.dev.harts, x.2.pend = none) ∧ t.dev.ctrs = s.dev.ctrs ∧ SameBytes s t)
  ∧ (∀ (ses : Session) (v : BitVec 64) (s : State), s.dev.Desk ses (wr 0x5F00 2 v.toNat) →
    Answers (.apertureGeneration ses v) s fun t => Replied s t ses (wr 0x5F00 2 v.toNat) ∧ t.dev.apert = []
      ∧ t.dev.o 0 0x5F00 2 = v.toNat % 2 ^ 32 ∧ SameBytes s t)

/-- Cache-block operations on a line homed here that the hart's own cluster holds changed (R157): `cbo.clean` brings its data home;
`cbo.flush` and `cbo.inval` drop the copy as well. -/
def Obligations.CacheBlocks : Prop :=
  (∀ (h : Fin 32) (pa : BitVec 56) (sa part : Nat) (x : Line) (s : State), ({ s.dev with dir := [] } : Dev).Idle →
    s.dev.HartFree h.val part → s.dev.Window h.val (pa.toNat / 64 * 64) sa false → s.dev.dir = [(lineNo sa, { st := .dx, p0 := h.val / 4 })] →
    s.dev.l2 = [(l2Key (h.val / 4) (lineNo sa), ⟨.m, x⟩)] → s.dev.Placed sa part →
    Answers (.cboClean h pa) s fun t => (∃ v, Sends s t (.hart h.val v)) ∧ t.lineAt sa = good x ∧ OnlyLine s t (lineNo sa))
  ∧ (∀ (h : Fin 32) (pa : BitVec 56) (sa part : Nat) (x : Line) (s : State), ({ s.dev with dir := [] } : Dev).Idle →
    s.dev.HartFree h.val part → s.dev.Window h.val (pa.toNat / 64 * 64) sa false → s.dev.dir = [(lineNo sa, { st := .dx, p0 := h.val / 4 })] →
    s.dev.l2 = [(l2Key (h.val / 4) (lineNo sa), ⟨.m, x⟩)] → s.dev.Placed sa part →
    Answers (.cboFlush h pa) s fun t => (∃ v, Sends s t (.hart h.val v)) ∧ t.lineAt sa = good x ∧ OnlyLine s t (lineNo sa)
      ∧ t.dev.l2 = [] ∧ t.dev.dir = [])
  ∧ (∀ (h : Fin 32) (pa : BitVec 56) (sa part : Nat) (x : Line) (s : State), ({ s.dev with dir := [] } : Dev).Idle →
    s.dev.HartFree h.val part → s.dev.Window h.val (pa.toNat / 64 * 64) sa false → s.dev.dir = [(lineNo sa, { st := .dx, p0 := h.val / 4 })] →
    s.dev.l2 = [(l2Key (h.val / 4) (lineNo sa), ⟨.m, x⟩)] → s.dev.Placed sa part →
    Answers (.cboInval h pa) s fun t => (∃ v, Sends s t (.hart h.val v)) ∧ t.lineAt sa = good x ∧ OnlyLine s t (lineNo sa)
      ∧ t.dev.l2 = [] ∧ t.dev.dir = [])

/-- The counter window (R338, R339, Table 13-4), with a free lane at the counter's slice: loads of VALUE, MODE with the arm's mark, and
THRESH; stores that add, set VALUE, set MODE with VALUE 0, and arm for an event. -/
def Obligations.CounterWindow : Prop :=
  (∀ (h : Fin 32) (c : BitVec 15) (part : Nat) (s : State), s.dev.Idle → s.dev.HartFree h.val part → s.dev.FreeLanes part →
    s.dev.o 0 0x2000 1 = 0 → s.dev.ctrOwner c.toNat = part →
    Answers (.counterWindowLoadValue h c) s fun t => Sends s t (.hart h.val (s.dev.ctr c.toNat).value.toNat) ∧ t.dev.ctrs = s.dev.ctrs
      ∧ SameBytes s t)
  ∧ (∀ (h : Fin 32) (c : BitVec 15) (part : Nat) (s : State), s.dev.Idle → s.dev.HartFree h.val part → s.dev.FreeLanes part →
    s.dev.o 0 0x2000 1 = 0 → s.dev.ctrOwner c.toNat = part →
    Answers (.counterWindowLoadMode h c) s fun t =>
      Sends s t (.hart h.val ((s.dev.ctr c.toNat).mode % 4 + 4 * b2n (s.dev.ctr c.toNat).arm.isSome)) ∧ t.dev.ctrs = s.dev.ctrs ∧ SameBytes s t)
  ∧ (∀ (h : Fin 32) (c : BitVec 15) (part : Nat) (s : State), s.dev.Idle → s.dev.HartFree h.val part → s.dev.FreeLanes part →
    s.dev.o 0 0x2000 1 = 0 → s.dev.ctrOwner c.toNat = part →
    Answers (.counterWindowLoadThresh h c) s fun t => Sends s t (.hart h.val (s.dev.ctr c.toNat).thresh.toNat) ∧ t.dev.ctrs = s.dev.ctrs
      ∧ SameBytes s t)
  ∧ (∀ (h : Fin 32) (c : BitVec 15) (v : BitVec 64) (part : Nat) (s : State), s.dev.Idle → s.dev.HartFree h.val part → s.dev.FreeLanes part →
    s.dev.o 0 0x2000 1 = 0 → s.dev.ctrOwner c.toNat = part → s.dev.doorbells c.toNat = [] → (s.dev.ctr c.toNat).arm = none →
    Answers (.counterWindowAdd h c v) s fun t => (∃ x, Sends s t (.hart h.val x)) ∧ SameBytes s t
      ∧ t.dev.ctr c.toNat = { s.dev.ctr c.toNat with value := (s.dev.ctr c.toNat).value + v }
      ∧ ∀ m, m ≠ c.toNat → t.dev.ctrs.get? m = s.dev.ctrs.get? m)
  ∧ (∀ (h : Fin 32) (c : BitVec 15) (v : BitVec 64) (part : Nat) (s : State), s.dev.Idle → s.dev.HartFree h.val part → s.dev.FreeLanes part →
    s.dev.o 0 0x2000 1 = 0 → s.dev.ctrOwner c.toNat = part → s.dev.doorbells c.toNat = [] →
    Answers (.counterWindowSet h c v) s fun t => (∃ x, Sends s t (.hart h.val x)) ∧ SameBytes s t
      ∧ t.dev.ctr c.toNat = { s.dev.ctr c.toNat with value := v, arm := none } ∧ ∀ m, m ≠ c.toNat → t.dev.ctrs.get? m = s.dev.ctrs.get? m)
  ∧ (∀ (h : Fin 32) (c : BitVec 15) (v : BitVec 64) (part : Nat) (s : State), s.dev.Idle → s.dev.HartFree h.val part → s.dev.FreeLanes part →
    s.dev.o 0 0x2000 1 = 0 → s.dev.ctrOwner c.toNat = part → s.dev.doorbells c.toNat = [] → v.toNat ≤ 2 →
    Answers (.counterWindowSetMode h c v) s fun t => (∃ x, Sends s t (.hart h.val x)) ∧ SameBytes s t
      ∧ t.dev.ctr c.toNat = { s.dev.ctr c.toNat with value := 0, mode := v.toNat, arm := none }
      ∧ ∀ m, m ≠ c.toNat → t.dev.ctrs.get? m = s.dev.ctrs.get? m)
  ∧ (∀ (h : Fin 32) (c : BitVec 15) (v : BitVec 64) (part : Nat) (s : State), s.dev.Idle → s.dev.HartFree h.val part → s.dev.FreeLanes part →
    s.dev.o 0 0x2000 1 = 0 → s.dev.ctrOwner c.toNat = part → s.dev.doorbells c.toNat = [] →
    reached (s.dev.ctr c.toNat).value v = false →
    Answers (.counterWindowArm h c v) s fun t => (∃ x, Sends s t (.hart h.val x)) ∧ SameBytes s t
      ∧ (t.dev.ctr c.toNat).thresh = v ∧ (t.dev.ctr c.toNat).value = (s.dev.ctr c.toNat).value
      ∧ ∃ a, (t.dev.ctr c.toNat).arm = some a ∧ a.event = true ∧ a.notify = false ∧ a.part = part)

/-! ### Partitions (chapter 14) -/

/-- What partitions own, as dictionary writes (R143, R215, R345, R346, R349, R350): a free counter or cast block gets its owner, and
loses it with its counters or groups; a queue's doorbell counter is set to VALUE 0 and MODE events; a ring base turns the queue on; a
route word that the partition may install is stored. Each identity of a compute-attach port is bound to one partition or to none: a
request from an unbound identity completes with `DENIED` at the port gate and does nothing; on a port of role 2 a binding beside one to
another partition completes with `DENIED` and changes nothing; any other binding, and its removal, takes effect for this identity alone.
-/
def Obligations.PartitionObjects : Prop :=
  (∀ (ses : Session) (i : Fin 21) (v : BitVec 64) (part : Nat) (s : State), s.dev.Desk ses (wr 0x6060 (i.val + 1) v.toNat) →
    s.dev.instOf (sesNum ses) 0x6060 = part → s.dev.routeOk part v.toNat = true →
    Answers (.routeWrite ses i v) s fun t => Replied s t ses (wr 0x6060 (i.val + 1) v.toNat) ∧ t.dev.o part 0x6060 (i.val + 1) = v.toNat
      ∧ SameBytes s t)
  ∧ (∀ (ses : Session) (v : BitVec 16) (b : Nat) (s : State), s.dev.Desk ses (wr 0x6F10 2 v.toNat) → s.dev.sel (sesNum ses) 0x6F10 1 = b →
    v.toNat ≤ 255 → s.dev.ctrOwn.getD b 0 = 0xFFFF →
    Answers (.counterBlockOwner ses v) s fun t => Replied s t ses (wr 0x6F10 2 v.toNat) ∧ t.dev.ctrOwn.get? b = some v.toNat
      ∧ t.dev.ctrs = s.dev.ctrs ∧ SameBytes s t)
  ∧ (∀ (ses : Session) (b : Nat) (s : State), s.dev.Desk ses (wr 0x6F10 2 0xFFFF) → s.dev.sel (sesNum ses) 0x6F10 1 = b → s.dev.waits = [] →
    Answers (.counterBlockOwner ses 0xFFFF) s fun t => Replied s t ses (wr 0x6F10 2 0xFFFF) ∧ t.dev.ctrOwn.get? b = some 0xFFFF
      ∧ (∀ i, i < 16 → t.dev.ctrs.get? (16 * b + i) = some {}) ∧ SameBytes s t)
  ∧ (∀ (ses : Session) (v : BitVec 16) (b : Nat) (s : State), s.dev.Desk ses (wr 0x6F20 2 v.toNat) → s.dev.sel (sesNum ses) 0x6F20 1 = b →
    v.toNat ≤ 255 → s.dev.castOwn.getD b 0 = 0xFFFF →
    Answers (.castBlockOwner ses v) s fun t => Replied s t ses (wr 0x6F20 2 v.toNat) ∧ t.dev.castOwn.get? b = some v.toNat
      ∧ t.dev.casts = s.dev.casts ∧ SameBytes s t)
  ∧ (∀ (ses : Session) (b : Nat) (s : State), s.dev.Desk ses (wr 0x6F20 2 0xFFFF) → s.dev.sel (sesNum ses) 0x6F20 1 = b →
    Answers (.castBlockOwner ses 0xFFFF) s fun t => Replied s t ses (wr 0x6F20 2 0xFFFF) ∧ t.dev.castOwn.get? b = some 0xFFFF
      ∧ (∀ x ∈ t.dev.casts, x.1 / 16 ≠ b) ∧ SameBytes s t)
  ∧ (∀ (ses : Session) (q : Fin 16) (v : BitVec 16) (part : Nat) (s : State), s.dev.Desk ses (wr (0x6040 + q.val) 7 v.toNat) →
    s.dev.instOf (sesNum ses) (0x6040 + q.val) = part → s.dev.o part (0x6040 + q.val) 1 = 0 → v.toNat < 32768 →
    s.dev.ctrOwner v.toNat = part → (s.dev.ctr v.toNat).arm = none →
    Answers (.doorbellCounterWrite ses q v) s fun t => Replied s t ses (wr (0x6040 + q.val) 7 v.toNat)
      ∧ t.dev.o part (0x6040 + q.val) 7 = v.toNat ∧ (t.dev.ctr v.toNat).value = 0 ∧ (t.dev.ctr v.toNat).mode = 2 ∧ SameBytes s t)
  ∧ (∀ (ses : Session) (q : Fin 16) (v : BitVec 64) (part : Nat) (s : State), s.dev.Desk ses (wr (0x6040 + q.val) 1 v.toNat) →
    s.dev.instOf (sesNum ses) (0x6040 + q.val) = part → v.toNat % 4096 = 0 → s.dev.o part (0x6040 + q.val) 7 = 0xFFFF →
    Answers (.queueRingBaseWrite ses q v) s fun t => Replied s t ses (wr (0x6040 + q.val) 1 v.toNat)
      ∧ t.dev.o part (0x6040 + q.val) 1 = v.toNat ∧ t.dev.o part (0x6040 + q.val) 0x0D = (if v = 0 then 0 else 1) ∧ SameBytes s t)
  ∧ (∀ (p : Fin 16) (h : Hdr) (data : List DLine) (x : DLine) (s : State), s.dev.Idle → s.dev.takes p.val = true →
    (s.dev.role p.val = 1 ∨ s.dev.role p.val = 2) → (s.dev.role p.val = 2 → s.dev.agentState (8 + p.val) < 2) → s.dev.LinkFree p.val →
    s.dev.identP.get? (p.val * 128 + bits h.stream.toNat 0 7) = none →
    ∀ e ∈ portRequests p h data x, headerOk (s.dev.role p.val) e.1 h = true →
    Answers e.2 s fun t => Sends s t (portAnswer p.val h (Compl.of .denied)) ∧ SameBytes s t ∧ t.dev.jobs = [] ∧ t.dev.credits = []
      ∧ t.dev.ctrs = s.dev.ctrs)
  ∧ (∀ (ses : Session) (v : BitVec 16) (p i : Nat) (s : State), s.dev.Desk ses (wr 0x3050 2 v.toNat) →
    s.dev.instOf (sesNum ses) 0x3050 = p → s.dev.sel (sesNum ses) 0x3050 1 = i → v.toNat ≤ 255 → s.dev.role p = 2 →
    (∃ e ∈ s.dev.identP, e.1 / 128 = p ∧ e.1 ≠ p * 128 + i ∧ e.2 ≠ v.toNat) →
    Answers (.identityPartition ses v) s fun t =>
      Sends s t (s.dev.sessionAnswer (sesNum ses) (nyMsg (wr 0x3050 2 v.toNat) .denied 7 [])) ∧ t.dev.identP = s.dev.identP ∧ SameBytes s t)
  ∧ (∀ (ses : Session) (v : BitVec 16) (p i : Nat) (s : State), s.dev.Desk ses (wr 0x3050 2 v.toNat) →
    s.dev.instOf (sesNum ses) 0x3050 = p → s.dev.sel (sesNum ses) 0x3050 1 = i → v.toNat ≤ 255 →
    (s.dev.role p = 2 → ∀ e ∈ s.dev.identP, e.1 / 128 = p → e.1 ≠ p * 128 + i → e.2 = v.toNat) →
    Answers (.identityPartition ses v) s fun t => Replied s t ses (wr 0x3050 2 v.toNat) ∧ t.dev.identP.get? (p * 128 + i) = some v.toNat
      ∧ (∀ j, j ≠ p * 128 + i → t.dev.identP.get? j = s.dev.identP.get? j) ∧ SameBytes s t)
  ∧ (∀ (ses : Session) (p i : Nat) (s : State), s.dev.Desk ses (wr 0x3050 2 0xFFFF) →
    s.dev.instOf (sesNum ses) 0x3050 = p → s.dev.sel (sesNum ses) 0x3050 1 = i →
    Answers (.identityPartition ses 0xFFFF) s fun t => Replied s t ses (wr 0x3050 2 0xFFFF) ∧ t.dev.identP.get? (p * 128 + i) = none
      ∧ (∀ j, j ≠ p * 128 + i → t.dev.identP.get? j = s.dev.identP.get? j) ∧ SameBytes s t)

/-- The life of a partition and its extents (R353, R354, R359-R363): activation; a reset, or the release of a partition that owns nothing,
stops its chains and drains; what drains clears its queues and leaves it active, or free; a revocation begins with what is admitted,
and its end leaves the extent revoked; a grant gives a revoked extent to a partition, its bytes zero. -/
def Obligations.PartitionLife : Prop :=
  (∀ (ses : Session) (part : Nat) (s : State), s.dev.Desk ses (wr 0x6070 1 1) → s.dev.instOf (sesNum ses) 0x6070 = part → s.dev.resets = [] →
    s.dev.partState part = 0 →
    Answers (.partitionActivate ses) s fun t => Replied s t ses (wr 0x6070 1 1) ∧ t.dev.partState part = 1 ∧ SameBytes s t)
  ∧ (∀ (ses : Session) (part : Nat) (s : State), s.dev.Desk ses (wr 0x6070 1 2) → s.dev.instOf (sesNum ses) 0x6070 = part → s.dev.resets = [] →
    s.dev.partState part = 1 →
    Answers (.partitionReset ses) s fun t => Replied s t ses (wr 0x6070 1 2) ∧ t.dev.o part 0x6050 1 = 2 ∧ t.dev.resets = [(part, false)]
      ∧ (∀ n c, (t.dev.pair n).chain = some c → c.part = part → c.ended = true) ∧ (∀ x ∈ t.dev.credits, x.2.part ≠ part) ∧ SameBytes s t)
  ∧ (∀ (ses : Session) (part : Nat) (s : State), s.dev.Desk ses (wr 0x6070 1 3) → s.dev.instOf (sesNum ses) 0x6070 = part → s.dev.resets = [] →
    s.dev.partState part = 1 → part ≠ 0 → (∀ g ∈ s.dev.gran, g.2.part ≠ part) →
    Answers (.partitionRelease ses) s fun t => Replied s t ses (wr 0x6070 1 3) ∧ t.dev.o part 0x6050 1 = 3 ∧ t.dev.resets = [(part, true)]
      ∧ (∀ n c, (t.dev.pair n).chain = some c → c.part = part → c.ended = true) ∧ SameBytes s t)
  ∧ (∀ (part : BitVec 8) (release : Bool) (s : State), ({ s.dev with resets := [] } : Dev).Idle → s.dev.resets = [(part.toNat, release)] →
    s.dev.pairs = [] → s.dev.phases = [] → s.dev.o part.toNat 0x6060 0x15 = 0 →
    Answers (.partitionResetDrained part) s fun t => t.dev.resets = [] ∧ t.dev.partState part.toNat = (if release then 0 else 1)
      ∧ (∀ q, q < 16 → t.dev.o part.toNat (0x6040 + q) 0x0A = 0 ∧ t.dev.o part.toNat (0x6040 + q) 0x0B = 0)
      ∧ (release = true → ∀ b, b < 2048 → t.dev.ctrOwn.getD b 0 ≠ part.toNat) ∧ SameBytes s t)
  ∧ (∀ (ses : Session) (e : BitVec 32) (part : Nat) (g : GEnt) (s : State), s.dev.Idle → s.dev.Desk ses (wr 0x6070 2 e.toNat) →
    s.dev.instOf (sesNum ses) 0x6070 = part → s.dev.gran.get? (e.toNat * 512) = some g → g.part = part →
    Answers (.revokeExtent ses e) s fun t => Replied s t ses (wr 0x6070 2 e.toNat) ∧ t.dev.o part 0x6070 4 = 1
      ∧ t.dev.o part 0x6070 2 = e.toNat
      ∧ t.dev.revokes = [(e.toNat, { part := part, jobs := [], began := s.dev.now, bound := us 2 })] ∧ SameBytes s t)
  ∧ (∀ (e : BitVec 32) (v : Revoke) (s : State), ({ s.dev with revokes := [] } : Dev).Idle → s.dev.revokes = [(e.toNat, v)] → v.done = false →
    v.jobs = [] → s.dev.homed e.toNat = true →
    Answers (.revocationComplete e) s fun t => t.dev.revoked = [e.toNat] ∧ t.dev.revokes = [] ∧ t.dev.o v.part 0x6070 4 = 2 ∧ SameBytes s t)
  ∧ (∀ (ses : Session) (e : BitVec 32) (part : Nat) (s : State), ({ s.dev with revoked := [] } : Dev).Idle →
    s.dev.Desk ses (wr 0x6070 3 e.toNat) → s.dev.instOf (sesNum ses) 0x6070 = part → s.dev.revoked = [e.toNat] →
    (∀ g ∈ s.dev.gran, g.2.prot = false) → s.dev.o part 0x6050 5 = 192 → s.dev.o part 0x6050 6 = 0xFFFFFFFF →
    s.dev.tierUse part 0 + (s.dev.gran.filter fun g => g.1 / 512 == e.toNat).length ≤ 192 → s.dev.gran.Pairwise (fun x y => x.1 < y.1) →
    Answers (.grantExtent ses e) s fun t => Replied s t ses (wr 0x6070 3 e.toNat) ∧ t.dev.revoked = [] ∧ t.dev.o part 0x6070 3 = e.toNat
      ∧ (∀ g x, s.dev.gran.get? g = some x → (t.dev.gran.get? g).map (·.part) = some (if g / 512 = e.toNat then part else x.part))
      ∧ ∀ a, a < 2 ^ 62 → (extentOf a = e.toNat → s.dev.gran.get? (granuleOf a) ≠ none → Mem.get t.mem a = 0 ∧ Mem.get t.flash a = 0)
          ∧ (extentOf a ≠ e.toNat → Mem.get t.mem a = Mem.get s.mem a ∧ Mem.get t.flash a = Mem.get s.flash a))

/-- Resets of parts (R20, R352, R356-R358, R419, R479): a device reset by the dictionary answers and then begins; a port with nothing under
way is reset at once, and takes its role; a slice with a spare drains for it, and gives way to it; a cluster that is reset
writes its dirty lines back and shows failed until its sweep, as one that fails does without (R175, R358). -/
def Obligations.PartResets : Prop :=
  (∀ (ses : Session) (s : State), s.dev.Desk ses (wr 0x6F00 1 1) → s.dev.comb = [] → s.dev.pointing = false →
    Answers (.deviceResetWarm ses) s fun t => Replied s t ses (wr 0x6F00 1 1) ∧ t.dev.bring.draining = true ∧ t.dev.noAdmit = true
      ∧ t.dev.bring.upAt = s.dev.now ∧ t.dev.phase = 7 ∧ SameBytes s t)
  ∧ (∀ (ses : Session) (b : BootFlash) (s : State), s.dev.Desk ses (wr 0x6F00 1 2) →
    Answers (.deviceResetCold ses (some b)) s fun t => Replied s t ses (wr 0x6F00 1 2)
      ∧ t.dev.phase = (if s.dev.copyOk b.copyA || s.dev.copyOk b.copyB then 1 else 0x81) ∧ t.dev.o 0 0x1020 2 = 0 ∧ t.dev.gran = []
      ∧ ∀ a, a < 2 ^ 64 → Mem.get t.mem a = 0)
  ∧ (∀ (p : Fin 16) (s : State), s.dev.Idle → s.dev.reliefWho = [] → s.dev.role p.val ≠ 2 → s.dev.o p.val 0x3040 1 ≠ 2 →
    Answers (.portReset p) s fun t => t.dev.portRst = [] ∧ t.dev.role p.val = s.dev.role p.val ∧ t.dev.o p.val 0x3020 6 = 0
      ∧ t.dev.egrant.get? p.val = some (s.dev.o p.val 0x3030 3) ∧ (t.dev.link p.val).flitCr = [] ∧ (t.dev.link p.val).reqCr = []
      ∧ SameBytes s t ∧ t.out = s.out)
  ∧ (∀ (ses : Session) (v : BitVec 8) (p : Nat) (s : State), s.dev.Idle → s.dev.Desk ses (wr 0x3010 1 v.toNat) →
    s.dev.instOf (sesNum ses) 0x3010 = p → v.toNat ≤ 3 → bit (s.dev.o 0 0xA020 3) p = false → s.dev.o p 0x3010 1 ≠ v.toNat →
    s.dev.reliefWho = [] → s.dev.role p ≠ 2 → s.dev.o p 0x3040 1 ≠ 2 →
    Answers (.portRoleWrite ses v) s fun t => Replied s t ses (wr 0x3010 1 v.toNat) ∧ t.dev.o p 0x3010 1 = v.toNat ∧ t.dev.role p = v.toNat
      ∧ SameBytes s t)
  ∧ (∀ (slice : Fin 256) (trigger : Fin 7) (s : State), s.dev.Quiet → s.dev.ready = true → trigger.val ≠ 0 → trigger.val ≠ 2 →
    s.dev.quar = [] → s.dev.comb = [] → s.dev.pairs = [] →
    Answers (.quarantine slice trigger) s fun t => SameBytes s t ∧ (∃ e, t.dev.ring.head? = some e ∧ e.kind = 0x17 ∧ e.loc = slice.val)
      ∧ (s.dev.spares slice.val ≠ [] → t.dev.quar = [(slice.val, s.dev.now)] ∧ t.dev.o slice.val 0x5010 1 = 1))
  ∧ (∀ (slice : Fin 256) (t0 : Nat) (s : State), s.dev.Quiet → s.dev.quar = [(slice.val, t0)] → s.dev.txns = [] → s.dev.fills = [] →
    Answers (.quarantineCopyDone slice) s fun t => SameBytes s t
      ∧ ∀ p, (s.dev.spares slice.val).head? = some p → t.dev.quar = [] ∧ t.dev.smap.get? slice.val = some p
          ∧ t.dev.o slice.val 0x5010 1 = 2 ∧ t.dev.o slice.val 0x5010 2 = slice.val / 32 * 34 + p)
  ∧ (∀ (k : Fin 8) (line part : Nat) (x : Line) (s : State), ({ s.dev with dir := [] } : Dev).Idle → s.dev.ready = true →
    s.dev.dir = [(line, { st := .dx, p0 := k.val })] → s.dev.l2 = [(l2Key k.val line, ⟨.m, x⟩)] → line < 2 ^ 56 →
    s.dev.Placed (64 * line) part →
    Answers (.clusterReset k) s fun t => t.lineAt (64 * line) = good x ∧ OnlyLine s t line ∧ t.dev.l2 = [] ∧ t.dev.dir = []
      ∧ t.dev.o (256 + k.val) 0x5100 1 = 2 ∧ t.dev.clRst = [k.val] ∧ ∀ h ∈ t.dev.harts, h.1 / 4 ≠ k.val)
  ∧ (∀ (k : Fin 8) (s : State), s.dev.Idle → s.dev.ready = true →
    Answers (.clusterFailure k) s fun t => t.dev.o (256 + k.val) 0x5100 1 = 2 ∧ (∀ x ∈ t.dev.l2, x.1 % 8 ≠ k.val)
      ∧ (∀ h ∈ t.dev.harts, h.1 / 4 ≠ k.val) ∧ SameBytes s t ∧ ∃ e, t.dev.ring.head? = some e ∧ e.kind = 0x0A)

/-! ### Placement and flash (chapters 2 and 17) -/

/-- Placement descriptors of one granule (R38-R43, R494, Tables 2-6 and 2-8): a move to T0 reserves the lowest free slot and opens; a
granule that stands there already ends it. `ADVISE` starts the fills of a T2 granule, opens it, marks its frames cold, or programs its
dirty blocks, the invalid lines of a block read first; `DISCARD` zeroes it; `QUERY` answers its entry. `PLACE.EXTENT` asks its
destination for slots, and leaves an extent that is there alone. -/
def Obligations.PlacementDescriptors : Prop :=
  (∀ (n : Fin 1024) (b : List Byte) (c : Chain) (g : Nat) (x : GEnt) (s : State), s.dev.Placing n.val 0x40 2 b c g x → fld b 0x1C 1 = 0 →
    x.tier = 1 → x.state = 0 → s.dev.overQuota c.part 0 1 = false → 0 < s.dev.freeCount 0 →
    Answers (.placeTier n) s fun t => t.dev.gran.get? g = some { x with state := 1, jidx := s.dev.jseq % 65536 }
      ∧ (t.dev.moves.get? g).map (fun m => (m.toT, some m.toSlot, m.verified)) = some (0, (s.dev.freeSlots 0 1).head?, false)
      ∧ t.dev.journal.head?.map (fun j => (j.step, j.granule)) = some (1, g)
      ∧ (t.dev.places.get? n.val).map (fun o => (o.todo, o.flight)) = some ([], [g]) ∧ SameBytes s t)
  ∧ (∀ (n : Fin 1024) (b : List Byte) (c : Chain) (g : Nat) (x : GEnt) (s : State), s.dev.Placing n.val 0x40 2 b c g x → fld b 0x1C 1 = x.tier →
    x.state = 0 →
    Answers (.placeTier n) s fun t => t.dev.Ended n.val .ok (placeWord b) ∧ t.dev.gran = s.dev.gran ∧ t.dev.moves = [] ∧ SameBytes s t)
  ∧ (∀ (n : Fin 1024) (b : List Byte) (c : Chain) (e dest : Nat) (prot : Bool) (s : State), s.dev.Idle → s.dev.Engine n.val 0x41 b c →
    placeOk b 2 512 = true → fld b 0x18 4 = 512 → fld b 0x1D 1 = 0 → fld b 0x10 8 = e * 2 ^ 30 → e < 2 ^ 32 → fld b 0x20 2 = dest →
    (∀ i, i < 512 → (s.dev.gran.get? (512 * e + i)).map (fun x => (x.part, x.state, x.prot)) = some (c.part, 0, prot)) →
    s.dev.phases = [] →
    Answers (.placeExtent n) s fun t => SameBytes s t ∧ t.dev.gran = s.dev.gran
      ∧ if dest = s.dev.self then t.dev.Ended n.val .ok (placeWord b) else
          (t.dev.exts.get? e).map (fun x => (x.pair, x.dest, x.tier, x.phase)) = some (some n.val, dest, fld b 0x1C 1, 1)
          ∧ t.dev.phases.map (fun p => (p.2.op, p.2.phase, p.2.target)) = [(0x41, 1, e * 2 ^ 30)]
          ∧ t.dev.journal.head?.map (fun j => (j.step, j.granule)) = some (5, e * 512)
          ∧ Sends s t (.plinth dest (.allocate e (fld b 0x1C 1) c.part prot)))
  ∧ (∀ (n : Fin 1024) (b : List Byte) (c : Chain) (g : Nat) (x : GEnt) (s : State), s.dev.Placing n.val 0x42 3 b c g x → fld b 0x1C 1 = 0 →
    x.tier = 2 → x.state ≠ 2 → s.dev.frames = [] → s.dev.deep = [] →
    Answers (.placeAdvisePrefetch n) s fun t => t.dev.Ended n.val .ok (placeWord b) ∧ SameBytes s t
      ∧ ∀ i, i < 128 → t.dev.fills.get? (128 * g + i) = some { began := s.dev.now, classG := true } ∧ Sends s t (.nandRead (128 * g + i)))
  ∧ (∀ (n : Fin 1024) (b : List Byte) (c : Chain) (g : Nat) (x : GEnt) (s : State), s.dev.Placing n.val 0x42 3 b c g x → fld b 0x1C 1 = 1 →
    x.tier = 2 → x.state ≠ 2 → s.dev.opening = [] →
    Answers (.placeAdviseOpen n) s fun t => SameBytes s t
      ∧ if x.opened then t.dev.Ended n.val .ok (placeWord b) else t.dev.opening = [(g, s.dev.now)])
  ∧ (∀ (n : Fin 1024) (b : List Byte) (c : Chain) (g : Nat) (x : GEnt) (s : State), s.dev.Placing n.val 0x42 3 b c g x → fld b 0x1C 1 = 2 →
    x.tier = 2 → x.state ≠ 2 →
    Answers (.placeAdviseCold n) s fun t => t.dev.Ended n.val .ok (placeWord b) ∧ SameBytes s t
      ∧ t.dev.frames = s.dev.frames.map fun f => (f.1, if f.1 / 128 = g then { f.2 with cold := true } else f.2))
  ∧ (∀ (n : Fin 1024) (b : List Byte) (c : Chain) (g k : Nat) (x : GEnt) (f : Frame) (s : State), s.dev.Placing n.val 0x42 3 b c g x →
    fld b 0x1C 1 = 3 → x.tier = 2 → x.state ≠ 2 → s.dev.frames = [(k, f)] → k / 128 = g → s.dev.progs = [] → s.dev.deep = [] →
    Answers (.placeAdviseWriteback n) s fun t => SameBytes s t ∧ t.dev.frames = s.dev.frames
      ∧ if f.dirty = 0 then t.dev.Ended n.val .ok (placeWord b)
        else if f.valid = BitVec.allOnes 256 then t.dev.progs = [(k, f.dirty)] ∧ Sends s t (.nandProgram k)
        else t.dev.fills = [(k, { began := s.dev.now, wb := true })] ∧ Sends s t (.nandRead k))
  ∧ (∀ (n : Fin 1024) (b : List Byte) (c : Chain) (g : Nat) (x : GEnt) (s : State), s.dev.Placing n.val 0x43 0 b c g x → x.state = 0 →
    x.prot = false →
    Answers (.placeDiscard n) s fun t => t.dev.Ended n.val .ok (placeWord b) ∧ t.dev.gran.get? g = some x
      ∧ ∀ a, Mem.get t.mem a = (if a / 2 ^ 21 = g then 0 else Mem.get s.mem a)
          ∧ Mem.get t.flash a = (if a / 2 ^ 21 = g then 0 else Mem.get s.flash a))
  ∧ (∀ (n : Fin 1024) (b : List Byte) (c : Chain) (g : Nat) (x : GEnt) (s : State), s.dev.Placing n.val 0x44 0 b c g x → fld b 0x28 8 ≠ 0 →
    Answers (.placeQuery n) s fun t => t.dev.Ended n.val .ok 8 ∧ t.dev.gran = s.dev.gran ∧ SameBytes s t
      ∧ (t.dev.pair n.val).outs = (s.dev.pair n.val).outs ++ [(fld b 0x28 8, leBytes 8 (gentWord x))])

/-- Moves go on (R43-R54, R208, R374): a copy pass with no failed line verifies the move, one with failed lines does not; the flip gives
the granule its new tier and slot, its lines going to flash where that is T2, and ends the operation. An extent move whose destination
has no room, or may not take it, ends so, one whose destination was lost or reset ends `INDET` with a SUSPECT record (R53); else its
granules become `OUTBOUND` and are copied; the final pass follows, and then the handover, at whose commit the source frees the extent and
ends `OK`, the destination enters it, and any other device takes the entry. The keeper changes an entry that its home hands over, once
the other keeper of the pair has it. -/
def Obligations.MovesGoOn : Prop :=
  (∀ (g : BitVec 41) (failed : List (Fin 32768)) (m : Move) (x : GEnt) (s : State), ({ s.dev with moves := [] } : Dev).Idle →
    s.dev.moves = [(g.toNat, m)] → s.dev.gran.get? g.toNat = some x → m.verified = false → m.outbound = false → m.marked = [] → m.fails = [] →
    m.quiesced = false → m.admitAt ≤ s.dev.now →
    Answers (.movePassDone g failed) s fun t => SameBytes s t ∧ t.dev.gran = s.dev.gran
      ∧ (t.dev.moves.get? g.toNat).map (fun m => (m.verified, m.passes)) = some (failed.isEmpty, m.passes + 1)
      ∧ (failed = [] → t.dev.journal.head?.map (fun j => (j.step, j.granule)) = some (2, g.toNat)))
  ∧ (∀ (g : BitVec 41) (twin : Bool) (m : Move) (x : GEnt) (n : Nat) (o : PlaceOp) (c : Chain) (s : State), ({ s.dev with moves := [], places := [] } : Dev).Idle →
    s.dev.moves = [(g.toNat, m)] → s.dev.gran.get? g.toNat = some x → m.verified = true → m.outbound = false → m.owner = some n →
    s.dev.places = [(n, o)] → o.todo = [] → o.flight = [g.toNat] → o.fail = none → o.abandoned = 0 → o.skiplost = 0 → x.tier ≠ 2 →
    (s.dev.pair n).chain = some c → (m.twinMove = true → twin = true) →
    Answers (.granuleFlip ⟨g, twin⟩) s fun t => t.dev.moves = []
      ∧ t.dev.gran.get? g.toNat = some { x with tier := m.toT, slot := m.toSlot, state := 0, opened := m.toT == 2, jidx := 0 }
      ∧ t.dev.journal.head?.map (fun j => (j.step, j.granule)) = some (4, g.toNat)
      ∧ t.dev.Ended n .ok (if o.result = 0 then 0 else 64) ∧ t.copy = s.copy
      ∧ if m.toT = 2 then ∀ l, l / 32768 = g.toNat → t.stored .flash l = s.stored .mem l ∧ t.stored .mem l = good 0
        else SameBytes s t)
  ∧ (∀ (e : BitVec 32) (st : BitVec 4) (x : ExtMove) (n : Nat) (o : PlaceOp) (c : Chain) (s : State), ({ s.dev with exts := [], places := [] } : Dev).Idle →
    s.dev.exts = [(e.toNat, x)] → x.phase = 1 → x.pair = some n → s.dev.places = [(n, o)] → (s.dev.pair n).chain = some c → st ≠ 0 →
    Answers (.extentAllocateDone e st) s fun t => t.dev.exts = [] ∧ SameBytes s t
      ∧ if Status.ofCode st.toNat = .busy ∨ Status.ofCode st.toNat = .denied then
          t.dev.gran = s.dev.gran ∧ t.dev.Ended n (Status.ofCode st.toNat) 0
        else t.dev.Ended n .indet 1 ∧ Sends s t (.plinth x.dest (.freeSlots e.toNat))
          ∧ ∃ y ∈ t.dev.ring, y.seq = s.dev.eseq ∧ y.kind = 0x10 ∧ y.addr = e.toNat * 2 ^ 30)
  ∧ (∀ (e : BitVec 32) (x : ExtMove) (s : State), ({ s.dev with exts := [] } : Dev).Idle → s.dev.exts = [(e.toNat, x)] → x.phase = 1 →
    Answers (.extentAllocateDone e 0) s fun t => (t.dev.exts.get? e.toNat).map (·.phase) = some 2 ∧ SameBytes s t
      ∧ ∀ g y, s.dev.gran.get? g = some y → y.state = 0 →
          (t.dev.gran.get? g).map (·.state) = some (if g / 512 = e.toNat then 3 else 0))
  ∧ (∀ (n : Fin 1024) (e : Nat) (x : ExtMove) (s : State), ({ s.dev with exts := [], moves := [] } : Dev).Idle → s.dev.exts = [(e, x)] →
    x.pair = some n.val → x.phase = 2 →
    (∀ y ∈ s.dev.gran, y.1 / 512 = e → y.2.state = 3 → (s.dev.moves.get? y.1).map (·.verified) = some true) →
    Answers (.phaseAdvance n) s fun t => (t.dev.exts.get? e).map (·.phase) = some 3 ∧ SameBytes s t
      ∧ t.dev.journal.head?.map (fun j => (j.step, j.granule)) = some (6, e * 512))
  ∧ (∀ (e : BitVec 32) (x : ExtMove) (s : State), ({ s.dev with exts := [], moves := [] } : Dev).Idle → s.dev.exts = [(e.toNat, x)] →
    x.phase = 3 → (∀ m ∈ s.dev.moves, m.2.marked = []) →
    Answers (.extentFinalPassDone e) s fun t => (t.dev.exts.get? e.toNat).map (·.phase) = some 4 ∧ SameBytes s t
      ∧ t.dev.journal.head?.map (fun j => (j.step, j.granule)) = some (7, e.toNat * 512)
      ∧ Sends s t (.plinth (s.dev.keeperFor e.toNat) (.handover e.toNat x.dest x.epoch)))
  ∧ (∀ (src : BitVec 14) (e : BitVec 32) (dest : BitVec 14) (epoch : BitVec 32) (x : MaqEntry) (s : State), s.dev.Idle → s.dev.ready = true →
    s.dev.keeps e.toNat = true → s.dev.kpend = [] → s.dev.kept e.toNat = x → x.state = 1 → x.home = src → x.epoch = epoch →
    s.dev.roleOf dest.toNat = 2 → src.toNat ≠ s.dev.self → dest.toNat ≠ s.dev.self →
    Answers (.handover src e dest epoch) s fun t => SameBytes s t ∧
      let y : MaqEntry := { x with home := dest, twin := s.dev.twinFor dest.toNat x.prot, epoch := epoch + 1
                                   gen := BitVec.ofNat 16 (s.dev.gens.getD (s.dev.indexOf e.toNat) 0) }
      if s.dev.pointing then (t.dev.kpend.get? e.toNat).map (·.entry) = some y ∧ Sends s t (.plinth s.dev.twin (.pointEntry e.toNat y))
        ∧ t.dev.keeper = s.dev.keeper
      else t.dev.keeper.get? e.toNat = some y ∧ Sends s t (.plinth src.toNat (.handoverTold e.toNat y true))
        ∧ Sends s t (.plinth dest.toNat (.handoverTold e.toNat y true)))
  ∧ (∀ (src : BitVec 14) (e : BitVec 32) (dest : BitVec 14) (epoch : BitVec 32) (s : State), s.dev.Idle → s.dev.ready = true →
    s.dev.keeps e.toNat = true → s.dev.kpend = [] → (s.dev.kept e.toNat).epoch ≠ epoch → src.toNat ≠ s.dev.self →
    Answers (.handover src e dest epoch) s fun t => SameBytes s t ∧ t.dev.keeper = s.dev.keeper
      ∧ Sends s t (.plinth src.toNat (.handoverTold e.toNat (s.dev.kept e.toNat) false)))
  ∧ (∀ (e : BitVec 32) (entry : MaqEntry) (x : ExtMove) (n : Nat) (o : PlaceOp) (c : Chain) (s : State),
    ({ s.dev with exts := [], places := [] } : Dev).Idle → s.dev.exts = [(e.toNat, x)] → x.phase = 4 → x.pair = some n →
    s.dev.places = [(n, o)] → o.skiplost = 0 → (s.dev.pair n).chain = some c → entry.home.toNat ≠ s.dev.self → s.dev.o 0 0x8000 5 = 0 →
    Answers (.handoverTold e entry true) s fun t => t.dev.exts = [] ∧ t.dev.homed e.toNat = false
      ∧ t.dev.depart.get? e.toNat = some { home := entry.home.toNat, epoch := entry.epoch.toNat, at_ := s.dev.now }
      ∧ t.dev.Ended n .ok (if o.result = 0 then 0 else 64) ∧ ∀ a, a / 2 ^ 30 = e.toNat → Mem.get t.mem a = 0)
  ∧ (∀ (e : BitVec 32) (entry : MaqEntry) (c : Coming) (s : State), s.dev.Idle →
    s.dev.inAlloc = [(e.toNat, c)] → entry.home.toNat = s.dev.self → s.dev.o 0 0x8000 5 = 0 →
    Answers (.handoverTold e entry true) s fun t => t.dev.inAlloc = [] ∧ SameBytes s t
      ∧ ∀ i, i < 512 → (t.dev.gran.get? (512 * e.toNat + i)).map (fun x => (x.tier, x.part, x.prot, x.state)) =
          some (c.tier, c.part, entry.prot, if 512 * e.toNat + i ∈ c.came then 0 else 2))

/-- Flash behind its cache (R31-R35, R407-R409, R494): an opening ends with its record; a granule quiet for 10 ms closes; the write-back
of a dirty block starts with its program, or with a read of the lines that its frame does not hold (R33); the program's end writes the
lines to flash, or retires the flash block and programs again; a block read fills a frame, or goes to deep recovery, whose last step
poisons what it could not read; a split that fits the frames and slots takes effect at once. -/
def Obligations.FlashBehindCache : Prop :=
  (∀ (g : BitVec 41) (x : GEnt) (t0 : Nat) (s : State), s.dev.Idle → s.dev.opening = [(g.toNat, t0)] → s.dev.gran.get? g.toNat = some x →
    x.tier = 2 →
    Answers (.granuleOpenDone g) s fun t => t.dev.opening = [] ∧ t.dev.gran.get? g.toNat = some { x with opened := true }
      ∧ t.dev.dirtyAt.get? g.toNat = some s.dev.now ∧ SameBytes s t)
  ∧ (∀ (g : BitVec 41) (x : GEnt) (s : State), s.dev.Idle → s.dev.gran.get? g.toNat = some x → x.tier = 2 → x.opened = true → x.state = 0 →
    (∀ f ∈ s.dev.frames, f.1 / 128 = g.toNat → f.2.dirty = 0) → s.dev.progs = [] → s.dev.dirtyAt.getD g.toNat 0 + us 10000 ≤ s.dev.now →
    Answers (.granuleClose g) s fun t => t.dev.gran.get? g.toNat = some { x with opened := false } ∧ SameBytes s t)
  ∧ (∀ (k : BitVec 48) (f : Frame) (s : State), s.dev.Idle → s.dev.frames.get? k.toNat = some f → f.dirty ≠ 0 →
    s.dev.progs.get? k.toNat = none → s.dev.deep.get? k.toNat = none →
    Answers (.backgroundWriteback k) s fun t => t.dev.frames = s.dev.frames ∧ SameBytes s t
      ∧ if f.valid = BitVec.allOnes 256 then t.dev.progs.get? k.toNat = some f.dirty ∧ Sends s t (.nandProgram k.toNat)
        else t.dev.progs = s.dev.progs ∧ t.dev.fills = [(k.toNat, { began := s.dev.now, wb := true })] ∧ Sends s t (.nandRead k.toNat))
  ∧ (∀ (k : BitVec 48) (old new : BitVec 64) (f : Frame) (mask : BitVec 256) (s : State), s.dev.Idle → s.dev.frames.get? k.toNat = some f →
    s.dev.progs.get? k.toNat = some mask →
    Answers (.flashProgramDone k true old new) s fun t => t.dev.progs.get? k.toNat = none ∧ t.mem = s.mem ∧ t.bad = s.bad
      ∧ t.dev.frames.get? k.toNat = some { f with dirty := f.dirty &&& ~~~mask }
      ∧ ∀ l, t.stored .flash l = if l / 256 = k.toNat ∧ mask.getLsbD (l % 256) = true then s.stored .mem l else s.stored .flash l)
  ∧ (∀ (k : BitVec 48) (old new : BitVec 64) (f : Frame) (mask : BitVec 256) (s : State), s.dev.Idle → s.dev.frames.get? k.toNat = some f →
    s.dev.progs.get? k.toNat = some mask →
    Answers (.flashProgramDone k false old new) s fun t => SameBytes s t ∧ t.dev.frames = s.dev.frames ∧ t.dev.progs = s.dev.progs
      ∧ t.dev.retired = s.dev.retired ++ [old.toNat] ∧ Sends s t (.nandProgram k.toNat)
      ∧ ∃ e ∈ t.dev.ring, e.seq = s.dev.eseq ∧ e.kind = 8 ∧ e.d0 = old.toNat ∧ e.d1 = new.toNat)
  ∧ (∀ (k : BitVec 48) (step : Fin 4) (loc : BitVec 64) (f : Fill) (x : GEnt) (s : State), ({ s.dev with fills := [] } : Dev).Idle →
    s.dev.fills = [(k.toNat, f)] → f.jobs = [] → s.dev.frames = [] → s.dev.gran.get? (k.toNat / 128) = some x → x.tier = 2 → x.state ≠ 2 →
    Answers (.fillDone k step loc) s fun t => t.dev.fills = [] ∧ t.flash = s.flash ∧ t.fbad = s.fbad
      ∧ if step.val = 3 then SameBytes s t ∧ t.dev.deep.get? k.toNat = some 3 ∧ Sends s t (.nandRead k.toNat)
        else t.dev.frames = [(k.toNat, { valid := BitVec.allOnes 256, used := s.dev.now })]
          ∧ ∀ l, t.stored .mem l = if l / 256 = k.toNat then s.stored .flash l else s.stored .mem l)
  ∧ (∀ (k : BitVec 48) (ok : Bool) (loc : BitVec 64) (step : Nat) (s : State), s.dev.Idle → s.dev.deep = [(k.toNat, step)] → s.dev.frames = [] →
    Answers (.deepRecoveryStepDone k ok loc) s fun t => t.flash = s.flash ∧ t.fbad = s.fbad
      ∧ if ok = true ∨ 6 ≤ step then t.dev.deep = []
          ∧ t.dev.frames = [(k.toNat, { valid := BitVec.allOnes 256, dirty := BitVec.allOnes 256, used := s.dev.now })]
          ∧ ∀ l, t.stored .mem l = if l / 256 = k.toNat then (if ok then s.stored .flash l else bad) else s.stored .mem l
        else t.dev.deep = [(k.toNat, step + 1)] ∧ SameBytes s t ∧ Sends s t (.nandRead k.toNat))
  ∧ (∀ (ses : Session) (c : BitVec 64) (s : State), s.dev.Desk ses (wr 0x4080 1 c.toNat) → splitOk c.toNat = true → s.dev.split = none →
    s.dev.frames = [] → (∀ g ∈ s.dev.gran, g.2.tier = 1 → g.2.slot < 512 * 8 * (96 - max c.toNat (s.dev.o 0 0x4080 1))) → (s.dev.moves = [] ∧ s.dev.copies = [] ∧ s.dev.inAlloc = []) →
    (s.dev.usedSlots 1).length ≤ 512 * 8 * (96 - c.toNat) →
    Answers (.splitChange ses c) s fun t => Replied s t ses (wr 0x4080 1 c.toNat) ∧ t.dev.o 0 0x4080 1 = c.toNat ∧ t.dev.gran = s.dev.gran
      ∧ SameBytes s t)

/-! ### The maquette (chapter 15) -/

/-- Proposals (R371-R373, R381, R393): each kind goes to its keeper and ends with the answer; a keeper that decides an `ASSIGN` writes the
entry once the new home has given slots; keeper index 0 commits a role change to every device, and probes a device that is reported
failed, which it commits `FAILED` after 1 ms without an answer. -/
def Obligations.ProposalsAreDecided : Prop :=
  Proposes .proposalAssign 1 ∧ Proposes .proposalUnassign 2 ∧ Proposes .proposalRole 3 ∧ Proposes .proposalMarkfail 4
  ∧ (∀ (ses : Session) (ep : BitVec 32) (p : Prop_) (s : State), s.dev.Quiet → s.dev.prop = some p → p.kind = 1 → p.keeper = s.dev.self → s.dev.self < 16384 →
    s.dev.kpend = [] → s.dev.pointing = false → p.device < 16384 → p.device ≠ s.dev.self →
    Answers (.proposalAssign ses (some { status := 0, epoch := ep })) s fun t =>
      let y : MaqEntry := { epoch := (s.dev.kept p.extent).epoch + 1, home := BitVec.ofNat 14 p.device
                            twin := s.dev.twinFor p.device (bit p.param 2), state := 1, prot := bit p.param 2
                            tier := BitVec.ofNat 2 (bits p.param 0 2), part := BitVec.ofNat 8 (bits p.param 8 8)
                            gen := BitVec.ofNat 16 (s.dev.gens.getD (s.dev.indexOf p.extent) 0) }
      t.dev.keeper.get? p.extent = some y ∧ Sends s t (.plinth p.device (.assignTold p.extent y)) ∧ t.dev.prop = none
        ∧ t.dev.o 0 0x7030 7 = 0 ∧ t.dev.o 0 0x7030 8 = y.epoch.toNat ∧ SameBytes s t)
  ∧ (∀ (ses : Session) (dev new : Nat) (s : State), s.dev.Desk ses (wr 0x7030 6 1) → s.dev.o 0 0x7030 1 = 3 → s.dev.prop = none →
    s.dev.self < 16384 → s.dev.keeperOf 0 = s.dev.self → s.dev.o 0 0x7030 3 = dev → dev < 16384 → s.dev.o 0 0x7030 4 = new → roleChange (s.dev.roleOf dev) new = true →
    new ≠ 4 → (∀ k ∈ s.dev.kpairs, k.2.1 ≠ dev ∧ k.2.2 ≠ dev) → s.dev.tpend = [] →
    Answers (.proposalRole ses none) s fun t =>
      let row : DevRow := { s.dev.devs.getD dev {} with role := BitVec.ofNat 4 new }
      Replied s t ses (wr 0x7030 6 1) ∧ SameBytes s t
      ∧ if s.dev.pointing then t.dev.tpend.get? dev = some { row := row, asker := s.dev.self } ∧ Sends s t (.plinth s.dev.twin (.pointRow dev row))
        else t.dev.roleOf dev = new ∧ t.dev.prop = none ∧ t.dev.o 0 0x7030 7 = 0 ∧ ∀ x ∈ s.dev.others, Sends s t (.plinth x (.devTable dev row)))
  ∧ (∀ (ses : Session) (dev : Nat) (s : State), s.dev.Desk ses (wr 0x7030 6 1) → s.dev.o 0 0x7030 1 = 4 → s.dev.prop = none →
    s.dev.self < 16384 → s.dev.keeperOf 0 = s.dev.self → s.dev.o 0 0x7030 3 = dev → dev < 16384 → s.dev.o 0 0x7030 4 = 0 → s.dev.roleOf s.dev.self ≠ 5 →
    s.dev.roleOf dev ≠ 5 → s.dev.roleOf dev ≠ 0 →
    Answers (.proposalMarkfail ses none) s fun t => Replied s t ses (wr 0x7030 6 1) ∧ SameBytes s t
      ∧ t.dev.probing.get? dev = some (s.dev.self, s.dev.now))
  ∧ (∀ (dev : BitVec 14) (asker t0 : Nat) (s : State), s.dev.Idle → s.dev.probing = [(dev.toNat, (asker, t0))] → t0 + us 1000 ≤ s.dev.now →
    asker < 16384 → asker ≠ s.dev.self → dev.toNat ≠ s.dev.self →
    Answers (.markfailProbeTimeout dev) s fun t =>
      let row : DevRow := { s.dev.devs.getD dev.toNat {} with role := 5 }
      t.dev.probing = [] ∧ SameBytes s t
      ∧ if s.dev.pointing then t.dev.tpend.get? dev.toNat = some { row := row, asker := asker }
          ∧ Sends s t (.plinth s.dev.twin (.pointRow dev.toNat row))
        else t.dev.roleOf dev.toNat = 5 ∧ Sends s t (.plinth asker (.proposalDone .ok 0))
          ∧ ∀ x ∈ s.dev.others, Sends s t (.plinth x (.devTable dev.toNat row)))
  ∧ (∀ (dev : BitVec 14) (c : TChange) (s : State), s.dev.Idle → s.dev.tpend = [(dev.toNat, c)] → c.asker < 16384 → c.asker ≠ s.dev.self →
    c.row.role ≠ 5 →
    Answers (.keeperCommit (.row dev)) s fun t => t.dev.tpend = [] ∧ t.dev.devs.get? dev.toNat = some c.row ∧ SameBytes s t
      ∧ Sends s t (.plinth c.asker (.proposalDone .ok 0)) ∧ ∀ x ∈ s.dev.others, Sends s t (.plinth x (.devTable dev.toNat c.row)))

/-- Entries, slots and the records of a map change (R27, R365-R370, R372, R373, R377, R378, R382, R394, R430): the home gives an extent
slots, is told of its assignment, and frees it once drained; the keeper's change is committed when the other keeper has it; a fetched
entry is cached, pinned, and answers those who wait for it; a device that fails leaves the cached map, its unprotected extents are
`LOST`, its protected ones go to the twin that reports the takeover; records expire. -/
def Obligations.MapEntries : Prop :=
  (∀ (keeper : BitVec 14) (e : BitVec 32) (tier : BitVec 2) (prot : Bool) (part : BitVec 8) (s : State), s.dev.Idle → s.dev.ready = true →
    s.dev.maq.get? e.toNat = none → keeper.toNat = s.dev.keeperFor e.toNat → tier.toNat < 2 →
    s.dev.mayTake e.toNat tier.toNat part.toNat prot false = .ok →
    Answers (.assignSlots keeper e tier prot part) s fun t => t.dev.assigned.has e.toNat = true
      ∧ Sends s t (.plinth keeper.toNat (.slotsAnswer e.toNat .ok))
      ∧ (∀ i, i < 512 → (t.dev.gran.get? (512 * e.toNat + i)).map (fun x => (x.tier, x.part, x.prot, x.state)) =
          some (tier.toNat, part.toNat, prot, 0))
      ∧ ∀ a, Mem.get t.mem a = if a / 2 ^ 30 = e.toNat then 0 else Mem.get s.mem a)
  ∧ (∀ (e : BitVec 32) (entry : MaqEntry) (x : GEnt) (s : State), ({ s.dev with assigned := [] } : Dev).Idle → s.dev.assigned = [(e.toNat, x)] →
    s.dev.maq.get? e.toNat = none →
    Answers (.assignTold e entry) s fun t => t.dev.assigned = [] ∧ t.dev.maq.get? e.toNat = some { entry := entry, pin := none }
      ∧ t.dev.gran = s.dev.gran ∧ SameBytes s t)
  ∧ (∀ (e : BitVec 32) (s : State), s.dev.Idle → s.dev.ready = true → s.dev.homed e.toNat = true → s.dev.keeps e.toNat = false →
    Answers (.unassignDrained e) s fun t => t.dev.homed e.toNat = false
      ∧ Sends s t (.plinth (s.dev.keeperFor e.toNat) (.unassigned e.toNat .ok))
      ∧ ∀ a, Mem.get t.mem a = if a / 2 ^ 30 = e.toNat then 0 else Mem.get s.mem a)
  ∧ (∀ (e : BitVec 32) (s : State), s.dev.Idle → s.dev.ready = true → s.dev.homed e.toNat = false → s.dev.keeps e.toNat = true →
    s.dev.unassign = [e.toNat] → s.dev.pointing = false →
    Answers (.unassignDrained e) s fun t => t.dev.unassign = [] ∧ SameBytes s t
      ∧ (t.dev.keeper.get? e.toNat).map (fun x => (x.state, x.epoch)) = some (0, (s.dev.kept e.toNat).epoch + 1))
  ∧ (∀ (e : BitVec 32) (c : KChange) (s : State), s.dev.Idle → s.dev.kpend = [(e.toNat, c)] → c.kind = 1 → c.asker < 16384 →
    c.asker ≠ s.dev.self → c.entry.home.toNat ≠ s.dev.self →
    Answers (.keeperCommit (.entry e)) s fun t => t.dev.kpend = [] ∧ t.dev.keeper.get? e.toNat = some c.entry
      ∧ Sends s t (.plinth c.entry.home.toNat (.assignTold e.toNat c.entry))
      ∧ Sends s t (.plinth c.asker (.proposalDone .ok c.entry.epoch.toNat)) ∧ SameBytes s t)
  ∧ (∀ (e : BitVec 32) (entry : MaqEntry) (t0 p dev path reqid : Nat) (s : State), s.dev.Quiet → s.dev.fetch = [(e.toNat, t0)] →
    s.dev.maq.get? e.toNat = none → s.dev.owed = [(e.toNat, .port p dev path reqid)] → s.dev.LinkFree p →
    Answers (.keeperFetchReply e entry) s fun t => t.dev.fetch = [] ∧ t.dev.owed = [] ∧ SameBytes s t
      ∧ t.dev.maq.get? e.toNat = some { entry := entry, pin := some (s.dev.now + 4 * us 7) }
      ∧ Sends s t (.compl p dev path reqid (if entry.state = 2 then Compl.of .lost else if entry.state = 0 then Compl.of .fault
          else ⟨.moved, movedWord entry.epoch.toNat entry.home.toNat, 0⟩)))
  ∧ (∀ (e : BitVec 32) (entry : MaqEntry) (t0 : Nat) (s : State), s.dev.Quiet → s.dev.maq.get? e.toNat = some { entry := entry, pin := some t0 } →
    t0 ≤ s.dev.now →
    Answers (.maquettePinExpire e) s fun t => t.dev.maq.get? e.toNat = some { entry := entry, pin := none } ∧ SameBytes s t)
  ∧ (∀ (dev : BitVec 14) (row : DevRow) (s : State), s.dev.Idle → row.role = 5 → dev.toNat ≠ s.dev.self → s.dev.pointing = false →
    Answers (.deviceTableUpdate dev row []) s fun t => t.dev.devs.get? dev.toNat = some row ∧ SameBytes s t
      ∧ (∀ x ∈ t.dev.maq, x.2.entry.home = dev → x.2.entry.state = 2)
      ∧ ∀ e x, s.dev.keeper.get? e = some x → s.dev.keeps e = true → x.home = dev →
          x.state = 1 → x.prot = false → (t.dev.keeper.get? e).map (·.state) = some 2)
  ∧ (∀ (dev : BitVec 14) (row : DevRow) (i : Fin 256) (g : BitVec 16) (s : State), s.dev.Idle → row.role = 2 → s.dev.ready = true →
    newerBy 16 g.toNat (s.dev.gens.getD i.val 0) = true →
    Answers (.deviceTableUpdate dev row [(i, g)]) s fun t => t.dev.devs.get? dev.toNat = some row ∧ t.dev.gens.get? i.val = some g.toNat
      ∧ (∀ x ∈ t.dev.maq, s.dev.indexOf x.1 = i.val → newerBy 16 g.toNat x.2.entry.gen.toNat = false) ∧ SameBytes s t)
  ∧ (∀ (e : BitVec 32) (x : Depart) (s : State), s.dev.Quiet → s.dev.depart.get? e.toNat = some x → x.at_ + us 1000000 ≤ s.dev.now →
    Answers (.departedRecordExpire e) s fun t => t.dev.depart.get? e.toNat = none ∧ SameBytes s t)
  ∧ (∀ (dev : BitVec 14) (agent : BitVec 16) (reqid : BitVec 32) (f : FwdRec) (s : State), s.dev.Quiet → s.dev.fwds = [f] →
    f.dev = dev.toNat → f.agent = agent.toNat → f.reqid = reqid.toNat → f.at_ + us 100000 ≤ s.dev.now →
    Answers (.forwardRecordExpire dev agent reqid) s fun t => t.dev.fwds = [] ∧ t.dev.o 0 0x7040 6 = (s.dev.o 0 0x7040 6 + 1) % 2 ^ oWidth 0x7040 6
      ∧ SameBytes s t)
  ∧ (∀ (twin : BitVec 14) (e : BitVec 32) (x : MaqEntry) (s : State), s.dev.Idle → s.dev.keeps e.toNat = true → s.dev.kept e.toNat = x →
    x.prot = true → x.state = 1 → x.twin = twin → s.dev.roleOf x.home.toNat = 5 → s.dev.pointing = false →
    Answers (.takeoverReport twin e) s fun t => SameBytes s t
      ∧ (t.dev.keeper.get? e.toNat).map (fun y => (y.home, y.twin, y.epoch)) = some (twin, 0x3FFF, x.epoch + 1))
  ∧ (∀ (reporter : BitVec 14) (a : ReclaimAnswer) (s : State), s.dev.Idle → reporter.toNat = s.dev.self → s.dev.bring.reclaim = [a.extent.toNat] →
    Answers (.reclaimList reporter [a]) s fun t => t.dev.bring.reclaim = []
      ∧ if a.keep then SameBytes s t ∧ ∀ i, i < 512 → t.dev.gran.get? (512 * a.extent.toNat + i) =
            match s.dev.gran.get? (512 * a.extent.toNat + i) with
            | some x => some x
            | none => some { tier := 2, state := 2, prot := a.entry.prot, slot := 0xFFFFFFFF
                             part := match s.dev.gran.find? (fun g => g.1 / 512 == a.extent.toNat) with
                               | some g => g.2.part | none => a.entry.part.toNat }
        else t.dev.homed a.extent.toNat = false ∧ ∀ x, x / 2 ^ 30 = a.extent.toNat → Mem.get t.mem x = 0 ∧ Mem.get t.flash x = 0)

/-! ### The twin (chapter 16) -/

/-- A pair lives (R383, R384, R386-R388, R392-R398): a handshake forms it, or sets the twin ports to role 0 where another device answers;
pointing writes are taken into the buffer and acknowledged, and their acknowledgement takes them off their stream; heartbeats leave on
every twin port; silence and an announced warm reset leave `PAIRED` as the loss policy says; a takeover makes the copies of a failed twin
the home granules; the pair resynchronises when the ports return; commands pair, detach and yield. -/
def Obligations.TwinLives : Prop :=
  (∀ (p : Fin 16) (dev : BitVec 14) (s : State), s.dev.Idle → s.dev.twinPorts = [p.val] → s.dev.pairState = 0 → dev.toNat = s.dev.twin →
    Answers (.twinHandshake p dev) s fun t => t.dev.pairState = 1 ∧ t.dev.resync = s.dev.protGranules ∧ SameBytes s t)
  ∧ (∀ (p : Fin 16) (dev : BitVec 14) (s : State), s.dev.Idle → s.dev.reliefWho = [] → s.dev.role p.val = 4 → s.dev.o p.val 0x3040 1 = 2 → dev.toNat ≠ s.dev.twin →
    Answers (.twinHandshake p dev) s fun t => t.dev.pairState = 0 ∧ (∀ q, q < 16 → t.dev.role q ≠ 4) ∧ SameBytes s t
      ∧ ∃ e, t.dev.ring.head? = some e ∧ e.kind = 0x15)
  ∧ (∀ (p : Fin 16) (h : Hdr) (x : DLine) (st : RecvS) (s : State), s.dev.Idle → s.dev.ready = true → s.dev.o p.val 0x3040 1 = 2 →
    s.dev.role p.val = 4 → 0x1100 ≤ h.agent → h.agent ≤ 0x11FF → h.src = s.dev.twin → h.dst = s.dev.self → h.cast = none → pointHdrOk h = true →
    s.dev.LinkFree p.val → s.dev.copies.has (granuleOf h.a) = true → s.dev.pbuf = [] → st.next = h.seq.toNat → st.held = [] →
    s.dev.recvs.get? (rKey h.src h.agent none) = some st →
    Answers (.pointingWrite p h x) s fun t => t.dev.pbuf = [(0, (lineNo h.a, x))] ∧ SameBytes s t
      ∧ Sends s t (.ack p.val { dev := BitVec.ofNat 14 h.src, agent := BitVec.ofNat 16 h.agent } s.dev.self h.seq.toNat))
  ∧ (∀ (a : BitVec 64) (st : SendS) (n : Nat) (q : Req) (s : State), s.dev.Idle →
    s.dev.sends = [(sKey (0x1100 + s.dev.homeSlice a.toNat) s.dev.twin none, st)] → st.unacked = [(n, q)] → lineNo q.h.a = lineNo a.toNat →
    Answers (.pointingAck a) s fun t => SameBytes s t ∧ t.dev.resync = s.dev.resync.filter (· != lineNo a.toNat / 32768)
      ∧ ((t.dev.sends.getD (sKey (0x1100 + s.dev.homeSlice a.toNat) s.dev.twin none) {}).unacked = []))
  ∧ (∀ (s : State), s.dev.Idle → s.dev.ready = true → s.dev.twinPorts ≠ [] →
    Answers .heartbeat s fun t => Sends s t (.plinth s.dev.twin .heartbeat) ∧ SameBytes s t
      ∧ ∀ p ∈ s.dev.twinPorts, t.dev.o p 0x3040 8 = (s.dev.o p 0x3040 8 + 1) % 2 ^ oWidth 0x3040 8)
  ∧ (∀ (s : State), s.dev.Idle → s.dev.pointing = true → (∀ p, p < 16 → s.dev.role p = 4 → (s.dev.link p).lastGood + us 100 ≤ s.dev.now) →
    s.dev.keeperOf 0 ≠ s.dev.self → s.dev.kpend = [] → s.dev.tpend = [] →
    Answers .twinSilent s fun t => t.dev.pairState = (if s.dev.o 0 0x8000 4 = 0 then 3 else 4) ∧ SameBytes s t
      ∧ Sends s t (.plinth (s.dev.keeperOf 0) (.propose 4 0 s.dev.twin 0 0)))
  ∧ (∀ (s : State), s.dev.Idle → s.dev.pointing = true → s.dev.kpend = [] → s.dev.tpend = [] →
    Answers .twinWarmResetAnnounce s fun t => t.dev.pairState = (if s.dev.o 0 0x8000 4 = 0 then 3 else 4) ∧ t.dev.twinWarm = true
      ∧ SameBytes s t)
  ∧ (∀ (g : Nat) (c : CopyG) (s : State), s.dev.Idle → s.dev.roleOf s.dev.twin = 5 → s.dev.pairState ≠ 5 → s.dev.pairState ≠ 0 →
    s.dev.whole = true → s.dev.copies = [(g, c)] → c.tier ≠ 2 → s.dev.pbuf = [] → s.dev.keys = [] → s.dev.keeperFor (g / 512) ≠ s.dev.self →
    (∀ l, l / 32768 = g → s.stored .mem l = good 0) → s.dev.kpend = [] → s.dev.tpend = [] →
    Answers .takeover s fun t => t.dev.pairState = 5 ∧ t.dev.copies = []
      ∧ t.dev.gran.get? g = some { tier := c.tier, prot := true, part := c.part, slot := c.slot }
      ∧ Sends s t (.plinth (s.dev.keeperFor (g / 512)) (.takeoverReport (g / 512)))
      ∧ ∀ l, t.stored .mem l = if l / 32768 = g then s.stored .copy l else s.stored .mem l)
  ∧ (∀ (s : State), s.dev.Idle → (s.dev.pairState = 3 ∨ s.dev.pairState = 4) → s.dev.pairedPorts ≠ [] →
    Answers (.twinReturn false) s fun t => t.dev.pairState = 1 ∧ SameBytes s t
      ∧ t.dev.resync = s.dev.exposed.filter fun g => s.dev.protGranules.contains g)
  ∧ (∀ (s : State), s.dev.Idle → s.dev.pairState = 1 → s.dev.resync = [] → (∀ e ∈ s.dev.protExtents, s.dev.keeperFor e ≠ s.dev.self) →
    Answers .resyncDone s fun t => t.dev.pairState = 2 ∧ SameBytes s t
      ∧ ∀ e ∈ s.dev.protExtents, Sends s t (.plinth (s.dev.keeperFor e) (.resynced e)))
  ∧ (∀ (ses : Session) (s : State), s.dev.Desk ses (wr 0x8000 5 1) → s.dev.o 0 0x8000 5 = 0 → (s.dev.pairState = 0 ∨ s.dev.pairState = 5) →
    s.dev.pairedPorts ≠ [] →
    Answers (.pair ses) s fun t => Replied s t ses (wr 0x8000 5 1) ∧ t.dev.pairState = 1 ∧ t.dev.resync = s.dev.protGranules ∧ SameBytes s t)
  ∧ (∀ (ses : Session) (s : State), s.dev.Idle → s.dev.Desk ses (wr 0x8000 5 2) → s.dev.o 0 0x8000 5 = 0 → s.dev.keys = [] →
    s.dev.kpend = [] → s.dev.tpend = [] →
    Answers (.detach ses) s fun t => Replied s t ses (wr 0x8000 5 2) ∧ t.dev.pairState = 5 ∧ t.dev.copies = [] ∧ t.mem = s.mem
      ∧ (∀ g ∈ s.dev.protGranules, g ∈ t.dev.exposed) ∧ ∀ e ∈ s.dev.protExtents, Sends s t (.plinth s.dev.twin (.freeCopy e)))
  ∧ (∀ (ses : Session) (e : Nat) (s : State), s.dev.Idle → s.dev.Desk ses (wr 0x8000 5 3) → s.dev.o 0 0x8000 5 = 0 → s.dev.pairState = 2 →
    s.dev.protExtents = [e] →
    Answers (.yield ses) s fun t => Replied s t ses (wr 0x8000 5 3) ∧ t.dev.o 0 0x8000 5 = 3 ∧ SameBytes s t
      ∧ (t.dev.exts.get? e).map (fun x => (x.dest, x.phase, x.yield)) = some (s.dev.twin, 3, true))
  ∧ (∀ (home : BitVec 14) (e : BitVec 32) (tier : BitVec 2) (part : BitVec 8) (s : State), s.dev.Idle → s.dev.ready = true →
    home.toNat = s.dev.twin → s.dev.pointing = true → tier.toNat ≠ 2 → 512 ≤ s.dev.freeCount 1 → s.dev.copies.has (e.toNat * 512) = false →
    Answers (.preparePointingCopy home e tier part) s fun t => Sends s t (.plinth (s.dev.keeperFor e.toNat) (.copyAnswer e.toNat .ok))
      ∧ (∀ i, i < 512 → (t.dev.copies.get? (512 * e.toNat + i)).map (fun c => (c.tier, c.part)) = some (1, part.toNat))
      ∧ t.mem = s.mem ∧ t.flash = s.flash)

/-! ### Integrity (chapters 17 and 18) -/

/-- Patina, test commands and upkeep (R95, R210, R407-R415, R432, R434): scrubbing a sound line counts it in its pass; an uncorrectable
error poisons it; flash patina moves a block that needed the ladder, and poisons one that it could not read. `KATNOW` asks every slice
that can for a run; `SCRUB` of nothing found and `MEMTEST` complete, a slot that failed is retired; `RETRAIN` is `DENIED`; calibration
and adaptation change nothing but when they were last done, and, as scrubbing, start no burst within 2 µs of the last one (R94). -/
def Obligations.UpkeepCommands : Prop :=
  (∀ (a : BitVec 64) (x : GEnt) (s : State), s.dev.Idle → s.dev.ready = true → s.dev.g? (a.toNat / 64 * 64) = some x → x.state ≠ 2 → x.tier < 2 →
    s.dev.mayBurst (s.dev.scrubGate (a.toNat / 64 * 64)).key = true →
    Answers (.patinaScrub a []) s fun t => SameBytes s t ∧
      let seen := Marks.add s.dev.patSeen (lineNo a.toNat)
      if seen.length < s.dev.patinaLines then t.dev.patSeen = seen ∧ t.dev.obj = s.dev.obj
      else t.dev.patSeen = [] ∧ t.dev.o 0 0x9010 5 = (s.dev.o 0 0x9010 5 + 1) % 2 ^ oWidth 0x9010 5)
  ∧ (∀ (a : BitVec 64) (i : Fin 1024) (n : Nat) (row : BitVec 32) (x : GEnt) (s : State), s.dev.Idle → s.dev.ready = true → a.toNat < 2 ^ 62 →
    s.dev.g? (a.toNat / 64 * 64) = some x → x.state = 0 → x.tier = 1 → x.prot = false → (s.lineAt a.toNat).poison = false → 2 < n →
    s.dev.mayBurst (s.dev.scrubGate (a.toNat / 64 * 64)).key = true →
    Answers (.patinaScrub a [.hbmBytes i n row]) s fun t => t.lineAt a.toNat = bad ∧ OnlyLine s t (lineNo a.toNat))
  ∧ (∀ (k : BitVec 48) (step : Fin 8) (loc : BitVec 64) (x : GEnt) (s : State), s.dev.Idle → s.dev.ready = true → s.dev.deep = [] →
    s.dev.frames = [] → s.dev.gran.get? (k.toNat / 128) = some x → x.tier = 2 → x.state ≠ 2 →
    Answers (.flashPatina k step loc) s fun t => t.flash = s.flash ∧ t.fbad = s.fbad
      ∧ if step = 0 then SameBytes s t ∧ t.dev.frames = []
        else t.dev.frames = [(k.toNat, { valid := BitVec.allOnes 256, dirty := BitVec.allOnes 256, used := s.dev.now })]
          ∧ ∀ l, t.stored .mem l = if l / 256 = k.toNat then (if step = 7 then bad else s.stored .flash l) else s.stored .mem l)
  ∧ (∀ (ses : Session) (s : State), s.dev.Desk ses (wr 0x1040 2 1) → s.dev.o 0 0x1040 2 = 0 → s.dev.standbyFixed 0 = false → s.dev.quar = [] →
    Answers (.katnow ses) s fun t => Replied s t ses (wr 0x1040 2 1) ∧ t.dev.o 0 0x1040 2 = 1 ∧ SameBytes s t
      ∧ t.dev.bring.katDue = (List.range 256).filter fun k => !s.dev.standbyFixed k)
  ∧ (∀ (ses : Session) (s : State), s.dev.Desk ses (wr 0x1040 2 2) → s.dev.o 0 0x1040 2 = 0 → s.dev.o 0 0x1040 5 ≠ 0 →
    Answers (.scrub ses []) s fun t => Replied s t ses (wr 0x1040 2 2) ∧ t.dev.o 0 0x1040 2 = 0 ∧ t.dev.o 0 0x1040 3 = 0 ∧ SameBytes s t)
  ∧ (∀ (ses : Session) (failed : List (BitVec 32)) (s : State), s.dev.Desk ses (wr 0x1040 2 3) → s.dev.o 0 0x1040 2 = 0 →
    s.dev.o 0 0x1040 4 = 0 →
    Answers (.memtest ses failed) s fun t => Replied s t ses (wr 0x1040 2 3) ∧ SameBytes s t
      ∧ t.dev.o 0 0x1040 3 = (if failed = [] then 0 else 5)
      ∧ ∀ k ∈ failed, k.toNat < s.dev.slotCount 1 → k.toNat ∉ s.dev.usedSlots 1 → (1, k.toNat) ∈ t.dev.badSlots)
  ∧ (∀ (ses : Session) (s : State), s.dev.Desk ses (wr 0x1040 2 4) → s.dev.o 0 0x1040 2 = 0 →
    Answers (.retrain ses) s fun t => Replied s t ses (wr 0x1040 2 4) ∧ t.dev.o 0 0x1040 2 = 0 ∧ t.dev.o 0 0x1040 3 = 10 ∧ SameBytes s t)
  ∧ (∀ (ch : Fin 256) (s : State), s.dev.Idle → s.dev.ready = true →
    Answers (.hbm4PeriodicCalibration ch) s fun t => if s.dev.mayBurst (Gate.hbm ch).key = true then
        t.dev = { s.dev with calAt := t.dev.calAt, bursts := t.dev.bursts } ∧ t.dev.calAt.get? ch.val = some s.dev.now
          ∧ t.dev.bursts.get? (Gate.hbm ch).key = some s.dev.now ∧ SameBytes s t
      else t = s)
  ∧ (∀ (p : Fin 16) (s : State), s.dev.Idle → s.dev.ready = true →
    Answers (.portLaneAdaptation p) s fun t =>
      if s.dev.mayBurst (Gate.portIn p).key = true ∧ s.dev.mayBurst (Gate.portOut p).key = true then
        t.dev = { s.dev with links := t.dev.links, bursts := t.dev.bursts } ∧ (t.dev.link p.val).adaptAt = s.dev.now
          ∧ t.dev.bursts.get? (Gate.portIn p).key = some s.dev.now ∧ t.dev.bursts.get? (Gate.portOut p).key = some s.dev.now ∧ SameBytes s t
      else t = s)

/-! ### The dictionary and its transports (chapter 19) -/

/-- Requests of a session (R443-R450, Table 19-4): a read answers the object's value, a description the object's, and a write of an
object that has no rule of its own stores it, and changes no other. An object that does not exist, or that may not be written, is
answered with an error and changes nothing. -/
def Obligations.DictionaryRequests : Prop :=
  (∀ (ses : Session) (x : BitVec 16) (u : BitVec 8) (o : ORow) (s : State) (q : NReq), q = { opc := 1, index := x.toNat, sub := u.toNat } →
    s.dev.Desk ses q → oRow? x.toNat u.toNat = some o → o.text = false → x ≠ 0x9020 → x ≠ 0x7020 →
    Answers (.nyborRead ses x u) s fun t => SameBytes s t ∧ t.dev.obj = s.dev.obj
      ∧ Sends s t (s.dev.sessionAnswer (sesNum ses) (nyMsg q .ok 0
          (leBytes o.bytes (s.shown (sesNum ses) (s.dev.instOf (sesNum ses) x.toNat) x.toNat u.toNat)))))
  ∧ (∀ (ses : Session) (x : BitVec 16) (u : BitVec 8) (v : List Byte) (o : ORow) (s : State) (q : NReq),
    q = { opc := 2, index := x.toNat, sub := u.toNat, length := v.length, data := v } → s.dev.Desk ses q → oRow? x.toNat u.toNat = some o →
    o.text = false → bit o.acc 1 = true → bit o.acc 3 = false → isSelect x.toNat u.toNat = false → x.toNat ∉ ruledObjects →
    (x.toNat < 0x6040 ∨ 0x604F < x.toNat) → v.length = o.bytes → o.min_ ≤ leNat v → leNat v ≤ o.max_ →
    Answers (.nyborWrite ses x u v) s fun t => Replied s t ses q ∧ SameBytes s t
      ∧ t.dev.o (s.dev.instOf (sesNum ses) x.toNat) x.toNat u.toNat = leNat v
      ∧ SameObjects s t [(s.dev.instOf (sesNum ses) x.toNat, x.toNat, u.toNat)])
  ∧ (∀ (ses : Session) (x : BitVec 16) (u : BitVec 8) (v : List Byte) (s : State) (q : NReq),
    q = { opc := 2, index := x.toNat, sub := u.toNat, length := v.length, data := v } → s.dev.Desk ses q →
    (match oRow? x.toNat u.toNat with | some o => bit o.acc 1 = false ∨ bit o.acc 3 = true | none => True) →
    Answers (.nyborWrite ses x u v) s fun t => SameBytes s t ∧ t.dev.obj = s.dev.obj
      ∧ Sends s t (s.dev.sessionAnswer (sesNum ses) (nyMsg q (if (oRow? x.toNat u.toNat).isSome then .denied else .fault)
          (if (oRow? x.toNat u.toNat).isSome then 4 else 1) [])))
  ∧ (∀ (ses : Session) (x : BitVec 16) (u : BitVec 8) (o : ORow) (s : State) (q : NReq), q = { opc := 3, index := x.toNat, sub := u.toNat } →
    s.dev.Desk ses q → oRow? x.toNat u.toNat = some o →
    Answers (.nyborDescribe ses x u) s fun t => SameBytes s t ∧ t.dev.obj = s.dev.obj
      ∧ Sends s t (s.dev.sessionAnswer (sesNum ses) (nyMsg q .ok 0 (s.describe (sesNum ses) q o))))

/-- The PCI Express functions (R347, R351, R437-R441): a mailbox takes its request once and answers it; a doorbell write adds its value
to the counter its queue names, or is counted; a vector that is unmasked sends what it held back; resets of a function and of the
endpoint leave mailboxes and vectors as at reset; a partition takes a control function that no other partition names. -/
def Obligations.PcieFunctions : Prop :=
  (∀ (f : Func) (irq : Bool) (request : List Byte) (ses : Session) (o : ORow) (q : NReq) (s : State), sesNum ses = f.val →
    (s.dev.fns.getD f.val {}).mbxState = 0 → request.length = 16 → q = parseReq request → q.opc = 1 → q.formed = true → q.length = 0 → q.offset = 0 →
    s.dev.Desk ses q → oRow? q.index q.sub = some o → o.text = false → q.index ≠ 0x9020 → q.index ≠ 0x7020 →
    Answers (.mailboxGo f irq request) s fun t => (t.dev.fns.getD f.val {}).mbxState = 2 ∧ SameBytes s t
      ∧ (t.dev.fns.getD f.val {}).mbxCount = ((s.dev.fns.getD f.val {}).mbxCount + 1) % 2 ^ 32
      ∧ Sends s t (.mailbox f.val (nyMsg q .ok 0 (leBytes o.bytes (s.shown f.val (s.dev.instOf f.val q.index) q.index q.sub)))))
  ∧ (∀ (f : Func) (entry : Fin 4096) (v : BitVec 64) (c : Nat) (s : State), s.dev.Idle → s.dev.peUp = true → f = 0 → s.dev.ready = true →
    s.dev.noAdmit = false → s.dev.o (entry.val / 16) (0x6040 + entry.val % 16) 7 = c → c ≠ 0xFFFF → (s.dev.ctr c).arm = none →
    Answers (.doorbellPageWrite f entry v) s fun t => (t.dev.ctr c).value = (s.dev.ctr c).value + v ∧ SameBytes s t)
  ∧ (∀ (f : Func) (entry : Fin 4096) (v : BitVec 64) (s : State), s.dev.Idle → s.dev.peUp = true → f ≠ 0 → entry.val < 16 →
    s.dev.vfPart f.val = none →
    Answers (.doorbellPageWrite f entry v) s fun t => t.dev.ctrs = s.dev.ctrs ∧ SameBytes s t
      ∧ t.dev.o 0 0x6F00 3 = (s.dev.o 0 0x6F00 3 + 1) % 2 ^ oWidth 0x6F00 3)
  ∧ (∀ (f : Func) (vec : Fin 2048) (addr : BitVec 64) (data : BitVec 32) (mask : Bool) (a d0 : Nat) (m pend : Bool) (s : State), s.dev.Quiet →
    s.dev.peUp = true → vec.val < (if f = 0 then 64 else 31) → s.dev.msix.get? (vector0 f.val + vec.val) = some (a, d0, m, pend) →
    Answers (.msixTableWrite f vec addr data mask) s fun t =>
      t.dev.msix.get? (vector0 f.val + vec.val) = some (addr.toNat, data.toNat, mask, pend && mask) ∧ SameBytes s t
      ∧ (pend = true → mask = false → Sends s t (.msix f.val (vector0 f.val + vec.val) addr.toNat data.toNat)))
  ∧ (∀ (f : Func) (s : State), s.dev.Quiet → s.dev.peUp = true →
    Answers (.functionLevelReset f) s fun t => t.dev.fns.get? f.val = none ∧ (t.dev.ses.getD f.val {}).sel = []
      ∧ (∀ x ∈ t.dev.msix, vecFunc x.1 ≠ f.val) ∧ (∀ v, vecFunc v ≠ f.val → t.dev.msix.get? v = s.dev.msix.get? v) ∧ SameBytes s t)
  ∧ (∀ (s : State), s.dev.Quiet → s.dev.pins.pwrgood = true → s.dev.ready = true →
    Answers .pcieReset s fun t => t.dev.fns = [] ∧ t.dev.msix = [] ∧ t.dev.pins.refPe = true ∧ SameBytes s t ∧ t.dev.obj = s.dev.obj)
  ∧ (∀ (ses : Session) (v : BitVec 8) (part : Nat) (s : State), s.dev.Desk ses (wr 0x6050 2 v.toNat) → s.dev.instOf (sesNum ses) 0x6050 = part →
    v.toNat ≤ 64 → (∀ p, p < 256 → p ≠ part → s.dev.o p 0x6050 2 ≠ v.toNat) →
    Answers (.controlFunctionWrite ses v) s fun t => Replied s t ses (wr 0x6050 2 v.toNat) ∧ t.dev.o part 0x6050 2 = v.toNat ∧ SameBytes s t)

/-- MCTP (R442): a vendor-defined message carries a request to the session of its endpoint; control commands set and get the endpoint ID
of the binding they come by, and say what the device supports. Their layouts are the family's (MCTP, log entry 118). -/
def Obligations.MctpMessages : Prop :=
  (∀ (i3c : Bool) (ep : BitVec 8) (k : Fin 16) (body : List Byte) (o : ORow) (q : NReq) (s : State), 19 ≤ body.length →
    fld body 0 2 = s.dev.o 0 0x1000 2 → fld body 2 1 = 1 → s.dev.eids = [(k.val, ep.toNat + 256 * b2n i3c)] → q = parseReq (body.drop 3) →
    q.opc = 1 → q.formed = true → q.length = 0 → q.offset = 0 → s.dev.Desk (.mctp k) q → oRow? q.index q.sub = some o → o.text = false →
    q.index ≠ 0x9020 → q.index ≠ 0x7020 → s.dev.linkPe = true →
    Answers (.mctpMessage i3c ep body) s fun t => SameBytes s t
      ∧ Sends s t (.mctp i3c ep.toNat (leBytes 2 (s.dev.o 0 0x1000 2) ++ leBytes 1 1 ++ nyMsg q .ok 0
          (leBytes o.bytes (s.shown (65 + k.val) (s.dev.instOf (65 + k.val) q.index) q.index q.sub)))))
  ∧ (∀ (i3c : Bool) (op : BitVec 2) (eid : BitVec 8) (s : State), s.dev.Quiet → (if i3c then s.dev.i3cUp else s.dev.peUp) = true → op.toNat < 2 →
    eid ≠ 0 → eid ≠ 255 →
    Answers (.setEndpointId i3c op eid) s fun t => t.dev.myEid.get? (b2n i3c) = some eid.toNat
      ∧ t.dev.myEid.get? (b2n (!i3c)) = s.dev.myEid.get? (b2n (!i3c)) ∧ t.dev.obj = s.dev.obj ∧ SameBytes s t)
  ∧ (∀ (i3c : Bool) (s : State), s.dev.Quiet → (if i3c then s.dev.i3cUp else s.dev.peUp) = true →
    (Answers (.getEndpointId i3c) s fun t => SameBytes s t
      ∧ Sends s t (.mctp i3c 0 ([2, 0] ++ leBytes 1 (s.dev.myEid.getD (b2n i3c) 0) ++ [0, 0])))
    ∧ (Answers (.getEndpointUuid i3c) s fun t => SameBytes s t ∧ Sends s t (.mctp i3c 0 ([3, 0] ++ leBytes 16 Config.uuid.toNat)))
    ∧ (∀ k, Answers (.getMctpVersionSupport i3c k) s fun t => SameBytes s t
      ∧ Sends s t (.mctp i3c 0 ([4, 0] ++ Config.mctpVersions k.toNat)))
    ∧ (Answers (.getMessageTypeSupport i3c) s fun t => SameBytes s t ∧ Sends s t (.mctp i3c 0 [5, 0, 1, 0x7E]))
    ∧ ∀ sel, Answers (.getVendorDefinedMsgSupport i3c sel) s fun t => SameBytes s t
      ∧ Sends s t (.mctp i3c 0 (if sel = 0 then [6, 0, 0xFF, 0] ++ leBytes 2 (s.dev.o 0 0x1000 2) ++ leBytes 2 Config.vendorSet.toNat else [6, 2])))
  ∧ (∀ (a : BitVec 7) (s : State), s.dev.Quiet → s.dev.i3cUp = true →
    Answers (.dynamicAddressAssignment a) s fun t => t.dev.i3c = some a.toNat ∧ t.dev.obj = s.dev.obj ∧ SameBytes s t)

/-! ### Bytes -/

/-- Pins, sensors, timers, control messages and upkeep change no byte and no poison mark of a store, whatever the state, while nothing waits
inside the device. -/
def Obligations.UpkeepKeepsBytes : Prop :=
  ∀ (c : Sys2Proof.Instr) (s t : State), touchesNoBytes c = true → s.dev.Quiet → exec c s = .next t → SameBytes s t

/-! ### Security (chapter 20) -/

/-- Reports, keys and debug (R461-R467): a report starts with its body and is complete with its signature; a partition's flash key is
loaded from a blob in the partition's store whose MAGIC and PART match and whose key unwraps, the write completing `OK` and M5 extended,
or refused with `FAULT` (R462, R464), and cleared where nothing in flash needs it; a debug token that passes sets its level and draws a
new challenge, one that fails is counted; debug close ends level 1. -/
def Obligations.KeysAndReports : Prop :=
  (∀ (ses : Session) (s : State), s.dev.Desk ses (wr 0xB030 9 1) → (s.dev.ses.getD (sesNum ses) {}).rstate ≠ 1 →
    Answers (.reportStart ses) s fun t => Replied s t ses (wr 0xB030 9 1) ∧ (t.dev.ses.getD (sesNum ses) {}).rstate = 1 ∧ SameBytes s t
      ∧ t.dev.reports = s.dev.reports ++ [⟨sesNum ses, s.dev.reportBody ((List.range 8).flatMap fun i =>
          leBytes 8 ((s.dev.ses.getD (sesNum ses) {}).nonce.getD (i + 1) 0))⟩])
  ∧ (∀ (sig : List Byte) (r : Report) (x : Ses) (s : State), s.dev.Quiet → s.dev.reports = [r] → s.dev.ses.get? r.ses = some x → x.rstate = 1 →
    sig.length = 49856 →
    Answers (.reportSigned sig) s fun t => t.dev.reports = [] ∧ SameBytes s t
      ∧ t.dev.ses.get? r.ses = some { x with rstate := 2, report := r.body ++ sig })
  ∧ (∀ (ses : Session) (part a : Nat) (s : State), s.dev.Idle → s.dev.Desk ses (wr 0xB020 3 1) → s.dev.sel (sesNum ses) 0xB020 1 = part →
    s.dev.debug = 0 → s.dev.keys.has part = false → s.dev.o 0 0xB020 2 = a → (∀ i, i < 26 → s.Readable (a + 64 * i) part) →
    Answers (.keyLoad ses) s fun t => SameBytes s t ∧
      let b := (List.range 26).flatMap fun i => s.bytesAt (a + 64 * i)
      match (if fld b 0 4 = 0x4E594B42 ∧ fld b 4 1 = part then Config.keyUnwrap (wrapKey part b) ((b.drop 0x630).take 72) else none) with
      | some k => Replied s t ses (wr 0xB020 3 1) ∧ t.dev.keys.get? part = some k ∧ t.dev.keyIds.get? part = some (fld b 8 8)
          ∧ t.dev.meas.get? 5 = some (Config.shake512 (leBytes 64 (s.dev.meas.getD 5 0).toNat ++ (leBytes 1 part ++ leBytes 1 1 ++ leBytes 8 (fld b 8 8))))
          ∧ (∀ q, q ≠ part → t.dev.keys.get? q = s.dev.keys.get? q)
      | none => Sends s t (s.dev.sessionAnswer (sesNum ses) (nyMsg (wr 0xB020 3 1) .fault 7 [])) ∧ t.dev.keys = s.dev.keys
          ∧ t.dev.keyIds = s.dev.keyIds ∧ t.dev.meas = s.dev.meas)
  ∧ (∀ (ses : Session) (s : State), s.dev.Desk ses (wr 0xB020 3 1) → s.dev.debug ≠ 0 →
    Answers (.keyLoad ses) s fun t => SameBytes s t ∧ t.dev.keys = s.dev.keys
      ∧ Sends s t (s.dev.sessionAnswer (sesNum ses) (nyMsg (wr 0xB020 3 1) .denied 7 [])))
  ∧ (∀ (ses : Session) (part : Nat) (s : State), s.dev.Desk ses (wr 0xB020 3 2) → s.dev.sel (sesNum ses) 0xB020 1 = part →
    (∀ g ∈ s.dev.gran, g.2.part = part → g.2.tier ≠ 2) → s.dev.copies = [] →
    Answers (.keyClear ses) s fun t => Replied s t ses (wr 0xB020 3 2) ∧ t.dev.keys.has part = false ∧ SameBytes s t)
  ∧ (∀ (token : List Byte) (s : State), s.dev.Quiet →
    Answers (.debugToken token) s fun t => SameBytes s t
      ∧ match Config.tokenFields token with
        | some (level, _, _, slot) => if s.dev.tokenOk token then t.dev.debug = level ∧ t.dev.token = slot ∧ t.dev.chal = Config.challenge s.fresh
            else t.dev.debug = s.dev.debug ∧ t.dev.o 0 0xB040 4 = (s.dev.o 0 0xB040 4 + 1) % 2 ^ oWidth 0xB040 4
        | none => t.dev.debug = s.dev.debug ∧ t.dev.o 0 0xB040 4 = (s.dev.o 0 0xB040 4 + 1) % 2 ^ oWidth 0xB040 4)
  ∧ (∀ (ses : Session) (s : State), s.dev.Desk ses (wr 0xB040 3 0) → s.dev.debug = 1 →
    Answers (.debugClose ses) s fun t => Replied s t ses (wr 0xB040 3 0) ∧ t.dev.debug = 0 ∧ SameBytes s t)
end

