-- ==== Sys2Proof/Laws/Mem.lean ====
section
/-!
SUPPORT. Stores of bytes and poison marks: reading after writing, what a write leaves, and the canonical form that every
operation keeps.
-/

namespace Sys2Proof.Machine

/-! ### Canonical form -/

theorem Mem.put_fst (m : List Host.Cell) (a : Nat) (b : Byte) (x : Host.Cell) (h : x ∈ Mem.put m a b) : x = (a, b) ∨ x ∈ m := by
  induction m with
  | nil => simpa [Mem.put] using h
  | cons c t ih =>
    obtain ⟨k, v⟩ := c
    simp only [Mem.put] at h
    split at h
    · rcases List.mem_cons.1 h with h | h
      · exact .inl h
      · exact .inr (List.mem_cons_of_mem _ h)
    · split at h
      · rcases List.mem_cons.1 h with h | h
        · exact .inl h
        · exact .inr h
      · rcases List.mem_cons.1 h with h | h
        · exact .inr (h ▸ List.mem_cons_self ..)
        · rcases ih h with h | h
          · exact .inl h
          · exact .inr (List.mem_cons_of_mem _ h)

theorem Mem.put_rises (m : List Host.Cell) (a : Nat) (b : Byte) (h : m.Pairwise fun x y => x.1 < y.1) :
    (Mem.put m a b).Pairwise fun x y => x.1 < y.1 := by
  induction m with
  | nil => simp [Mem.put]
  | cons c t ih =>
    obtain ⟨k, v⟩ := c
    obtain ⟨hk, ht⟩ := List.pairwise_cons.1 h
    simp only [Mem.put]
    split
    · rename_i he; subst he
      exact List.pairwise_cons.2 ⟨hk, ht⟩
    · split
      · rename_i hl
        refine List.pairwise_cons.2 ⟨fun y hy => ?_, h⟩
        rcases List.mem_cons.1 hy with rfl | hy
        · exact hl
        · exact Nat.lt_trans hl (hk y hy)
      · rename_i hn hl
        refine List.pairwise_cons.2 ⟨fun y hy => ?_, ih ht⟩
        rcases Mem.put_fst t a b y hy with rfl | hy
        · simp only; omega
        · exact hk y hy

theorem Mem.set_wf (m : List Host.Cell) (a : Nat) (b : Byte) (h : Mem.wf m) : Mem.wf (Mem.set m a b) := by
  unfold Mem.set
  split
  · exact ⟨h.1.filter _, fun c hc => h.2 c (List.mem_filter.1 hc).1⟩
  · rename_i hb
    refine ⟨Mem.put_rises m a b h.1, fun c hc => ?_⟩
    rcases Mem.put_fst m a b c hc with rfl | hc
    · exact hb
    · exact h.2 c hc

theorem Mem.write_wf (m : List Host.Cell) (a : Nat) (bs : List Byte) (h : Mem.wf m) : Mem.wf (Mem.write m a bs) := by
  induction bs generalizing m a with
  | nil => exact h
  | cons b bs ih => exact ih _ _ (Mem.set_wf m a b h)

theorem Mem.clear_wf (m : List Host.Cell) (lo hi : Nat) (h : Mem.wf m) : Mem.wf (Mem.clear m lo hi) :=
  ⟨h.1.filter _, fun c hc => h.2 c (List.mem_filter.1 hc).1⟩

theorem Mem.nil_wf : Mem.wf [] := ⟨List.Pairwise.nil, by simp⟩

/-! ### Reading after writing -/

theorem Mem.get_filter_ne (m : List Host.Cell) (a x : Nat) :
    Mem.get (m.filter fun c => c.1 != a) x = if x = a then 0 else Mem.get m x := by
  induction m with
  | nil => simp [Mem.get]
  | cons c t ih =>
    obtain ⟨k, v⟩ := c
    by_cases hk : k = a
    · subst hk
      rw [List.filter_cons_of_neg (by simp), ih]
      by_cases hx : x = k
      · simp [hx]
      · simp [Mem.get, hx, Ne.symm hx]
    · rw [List.filter_cons_of_pos (by simpa using hk)]
      by_cases hx : k = x
      · subst hx; simp [Mem.get, hk]
      · simp [Mem.get, hx, ih]

theorem Mem.get_put (m : List Host.Cell) (a : Nat) (b : Byte) (x : Nat) :
    Mem.get (Mem.put m a b) x = if x = a then b else Mem.get m x := by
  induction m with
  | nil =>
    by_cases hx : x = a
    · simp [Mem.put, Mem.get, hx]
    · simp [Mem.put, Mem.get, hx, Ne.symm hx]
  | cons c t ih =>
    obtain ⟨k, v⟩ := c
    simp only [Mem.put]
    split
    · rename_i he; subst he
      by_cases hx : x = k
      · simp [Mem.get, hx]
      · simp [Mem.get, hx, Ne.symm hx]
    · split
      · by_cases hx : x = a
        · simp [Mem.get, hx]
        · simp [Mem.get, hx, Ne.symm hx]
      · rename_i hn _
        by_cases hx : k = x
        · subst hx; simp [Mem.get, hn]
        · simp [Mem.get, hx, ih]

@[simp] theorem Mem.get_set (m : List Host.Cell) (a : Nat) (b : Byte) (x : Nat) :
    Mem.get (Mem.set m a b) x = if x = a then b else Mem.get m x := by
  unfold Mem.set
  split
  · rename_i hb; subst hb
    rw [Mem.get_filter_ne]
  · exact Mem.get_put m a b x

/-- A write changes the bytes it writes and no other. -/
theorem Mem.get_write (m : List Host.Cell) (a : Nat) (bs : List Byte) (x : Nat) :
    Mem.get (Mem.write m a bs) x = if a ≤ x ∧ x < a + bs.length then bs.getD (x - a) 0 else Mem.get m x := by
  induction bs generalizing m a with
  | nil =>
    rw [Mem.write, if_neg (by simp)]
  | cons b bs ih =>
    rw [Mem.write, ih, Mem.get_set]
    by_cases hx : x = a
    · subst hx
      simp
    · by_cases hr : a ≤ x ∧ x < a + (b :: bs).length
      · have h1 : a + 1 ≤ x ∧ x < a + 1 + bs.length := by simp at hr; omega
        rw [if_pos h1, if_pos hr]
        have : x - a = (x - (a + 1)) + 1 := by omega
        rw [this]; simp
      · have h1 : ¬(a + 1 ≤ x ∧ x < a + 1 + bs.length) := by simp at hr; omega
        rw [if_neg h1, if_neg hr, if_neg hx]

/-- Clearing a range makes its bytes read 0 and leaves every other. -/
theorem Mem.get_clear (m : List Host.Cell) (lo hi x : Nat) :
    Mem.get (Mem.clear m lo hi) x = if lo ≤ x ∧ x < hi then 0 else Mem.get m x := by
  induction m with
  | nil => simp [Mem.clear, Mem.get]
  | cons c t ih =>
    obtain ⟨k, v⟩ := c
    simp only [Mem.clear] at ih ⊢
    by_cases hk : k < lo ∨ hi ≤ k
    · rw [List.filter_cons_of_pos (by simpa using hk)]
      by_cases hx : k = x
      · subst hx
        have : ¬(lo ≤ k ∧ k < hi) := by omega
        simp [Mem.get, this]
      · simp [Mem.get, hx, ih]
    · rw [List.filter_cons_of_neg (by simpa using hk), ih]
      by_cases hr : lo ≤ x ∧ x < hi
      · simp [hr]
      · have hx : k ≠ x := by omega
        simp [hr, Mem.get, hx]

/-! ### Poison marks -/

theorem Marks.add_mem (m : List Nat) (l x : Nat) : x ∈ Marks.add m l ↔ x = l ∨ x ∈ m := by
  induction m with
  | nil => simp [Marks.add]
  | cons k t ih =>
    simp only [Marks.add]
    split
    · rename_i h; subst h; simp
    · split <;> simp [ih]; tauto

theorem Marks.add_rises (m : List Nat) (l : Nat) (h : m.Pairwise (· < ·)) : (Marks.add m l).Pairwise (· < ·) := by
  induction m with
  | nil => simp [Marks.add]
  | cons k t ih =>
    obtain ⟨hk, ht⟩ := List.pairwise_cons.1 h
    simp only [Marks.add]
    split
    · exact h
    · split
      · rename_i hl
        refine List.pairwise_cons.2 ⟨fun y hy => ?_, h⟩
        rcases List.mem_cons.1 hy with rfl | hy
        · exact hl
        · exact Nat.lt_trans hl (hk y hy)
      · refine List.pairwise_cons.2 ⟨fun y hy => ?_, ih ht⟩
        rcases (Marks.add_mem t l y).1 hy with rfl | hy
        · omega
        · exact hk y hy

theorem Marks.put_rises (m : List Nat) (l : Nat) (on : Bool) (h : m.Pairwise (· < ·)) : (Marks.put m l on).Pairwise (· < ·) := by
  cases on
  · exact h.filter _
  · exact Marks.add_rises m l h

theorem Marks.clear_rises (m : List Nat) (lo hi : Nat) (h : m.Pairwise (· < ·)) : (Marks.clear m lo hi).Pairwise (· < ·) :=
  h.filter _

end Sys2Proof.Machine
end

