-- ==== Sys2Proof/Laws/State.lean ====
section
/-!
SUPPORT. What each primitive change of the state leaves and sets: one lemma for each change and field, so that no proof unfolds a
record update.
-/

namespace Sys2Proof.Machine

section
variable {s₀ : State}

/-! ### `Run.mod` -/

@[simp] theorem Run.mod_pending (r : Run s₀) (f : Dev → Dev) : (r.mod f).cur.pending = r.cur.pending := rfl
@[simp] theorem Run.mod_mem (r : Run s₀) (f : Dev → Dev) : (r.mod f).cur.mem = r.cur.mem := rfl
@[simp] theorem Run.mod_flash (r : Run s₀) (f : Dev → Dev) : (r.mod f).cur.flash = r.cur.flash := rfl
@[simp] theorem Run.mod_copy (r : Run s₀) (f : Dev → Dev) : (r.mod f).cur.copy = r.cur.copy := rfl
@[simp] theorem Run.mod_bad (r : Run s₀) (f : Dev → Dev) : (r.mod f).cur.bad = r.cur.bad := rfl
@[simp] theorem Run.mod_fbad (r : Run s₀) (f : Dev → Dev) : (r.mod f).cur.fbad = r.cur.fbad := rfl
@[simp] theorem Run.mod_cbad (r : Run s₀) (f : Dev → Dev) : (r.mod f).cur.cbad = r.cur.cbad := rfl
@[simp] theorem Run.mod_out (r : Run s₀) (f : Dev → Dev) : (r.mod f).cur.out = r.cur.out := rfl
@[simp] theorem Run.mod_fresh (r : Run s₀) (f : Dev → Dev) : (r.mod f).cur.fresh = r.cur.fresh := rfl
@[simp] theorem Run.mod_dev (r : Run s₀) (f : Dev → Dev) : (r.mod f).cur.dev = f r.cur.dev := rfl

/-! ### `Run.emit` -/

@[simp] theorem Run.emit_pending (r : Run s₀) (o : Out) : (r.emit o).cur.pending = r.cur.pending := rfl
@[simp] theorem Run.emit_mem (r : Run s₀) (o : Out) : (r.emit o).cur.mem = r.cur.mem := rfl
@[simp] theorem Run.emit_flash (r : Run s₀) (o : Out) : (r.emit o).cur.flash = r.cur.flash := rfl
@[simp] theorem Run.emit_copy (r : Run s₀) (o : Out) : (r.emit o).cur.copy = r.cur.copy := rfl
@[simp] theorem Run.emit_bad (r : Run s₀) (o : Out) : (r.emit o).cur.bad = r.cur.bad := rfl
@[simp] theorem Run.emit_fbad (r : Run s₀) (o : Out) : (r.emit o).cur.fbad = r.cur.fbad := rfl
@[simp] theorem Run.emit_cbad (r : Run s₀) (o : Out) : (r.emit o).cur.cbad = r.cur.cbad := rfl
@[simp] theorem Run.emit_out (r : Run s₀) (o : Out) : (r.emit o).cur.out = o :: r.cur.out := rfl
@[simp] theorem Run.emit_fresh (r : Run s₀) (o : Out) : (r.emit o).cur.fresh = r.cur.fresh := rfl
@[simp] theorem Run.emit_dev (r : Run s₀) (o : Out) : (r.emit o).cur.dev = r.cur.dev := rfl

/-! ### `Run.draw` -/

@[simp] theorem Run.draw_pending (r : Run s₀) : (r.draw.2).cur.pending = r.cur.pending := rfl
@[simp] theorem Run.draw_mem (r : Run s₀) : (r.draw.2).cur.mem = r.cur.mem := rfl
@[simp] theorem Run.draw_flash (r : Run s₀) : (r.draw.2).cur.flash = r.cur.flash := rfl
@[simp] theorem Run.draw_copy (r : Run s₀) : (r.draw.2).cur.copy = r.cur.copy := rfl
@[simp] theorem Run.draw_bad (r : Run s₀) : (r.draw.2).cur.bad = r.cur.bad := rfl
@[simp] theorem Run.draw_fbad (r : Run s₀) : (r.draw.2).cur.fbad = r.cur.fbad := rfl
@[simp] theorem Run.draw_cbad (r : Run s₀) : (r.draw.2).cur.cbad = r.cur.cbad := rfl
@[simp] theorem Run.draw_out (r : Run s₀) : (r.draw.2).cur.out = r.cur.out := rfl
@[simp] theorem Run.draw_fresh (r : Run s₀) : (r.draw.2).cur.fresh = r.cur.fresh + 1 := rfl
@[simp] theorem Run.draw_dev (r : Run s₀) : (r.draw.2).cur.dev = r.cur.dev := rfl

@[simp] theorem Run.draw_fst (r : Run s₀) : r.draw.1 = r.cur.fresh := rfl

/-! ### `Run.start` -/

@[simp] theorem Run.start_cur (s : State) : (Run.start s).cur = s := rfl

/-! ### `Run.write` -/

@[simp] theorem Run.write_mem_pending (r : Run s₀) (a : Nat) (bs : List Byte) : (r.write .mem a bs).cur.pending = r.cur.pending := rfl
@[simp] theorem Run.write_mem_mem (r : Run s₀) (a : Nat) (bs : List Byte) : (r.write .mem a bs).cur.mem = Mem.write r.cur.mem a bs := rfl
@[simp] theorem Run.write_mem_flash (r : Run s₀) (a : Nat) (bs : List Byte) : (r.write .mem a bs).cur.flash = r.cur.flash := rfl
@[simp] theorem Run.write_mem_copy (r : Run s₀) (a : Nat) (bs : List Byte) : (r.write .mem a bs).cur.copy = r.cur.copy := rfl
@[simp] theorem Run.write_mem_bad (r : Run s₀) (a : Nat) (bs : List Byte) : (r.write .mem a bs).cur.bad = r.cur.bad := rfl
@[simp] theorem Run.write_mem_fbad (r : Run s₀) (a : Nat) (bs : List Byte) : (r.write .mem a bs).cur.fbad = r.cur.fbad := rfl
@[simp] theorem Run.write_mem_cbad (r : Run s₀) (a : Nat) (bs : List Byte) : (r.write .mem a bs).cur.cbad = r.cur.cbad := rfl
@[simp] theorem Run.write_mem_out (r : Run s₀) (a : Nat) (bs : List Byte) : (r.write .mem a bs).cur.out = r.cur.out := rfl
@[simp] theorem Run.write_mem_fresh (r : Run s₀) (a : Nat) (bs : List Byte) : (r.write .mem a bs).cur.fresh = r.cur.fresh := rfl
@[simp] theorem Run.write_mem_dev (r : Run s₀) (a : Nat) (bs : List Byte) : (r.write .mem a bs).cur.dev = r.cur.dev := rfl
@[simp] theorem Run.write_flash_pending (r : Run s₀) (a : Nat) (bs : List Byte) : (r.write .flash a bs).cur.pending = r.cur.pending := rfl
@[simp] theorem Run.write_flash_mem (r : Run s₀) (a : Nat) (bs : List Byte) : (r.write .flash a bs).cur.mem = r.cur.mem := rfl
@[simp] theorem Run.write_flash_flash (r : Run s₀) (a : Nat) (bs : List Byte) : (r.write .flash a bs).cur.flash = Mem.write r.cur.flash a bs := rfl
@[simp] theorem Run.write_flash_copy (r : Run s₀) (a : Nat) (bs : List Byte) : (r.write .flash a bs).cur.copy = r.cur.copy := rfl
@[simp] theorem Run.write_flash_bad (r : Run s₀) (a : Nat) (bs : List Byte) : (r.write .flash a bs).cur.bad = r.cur.bad := rfl
@[simp] theorem Run.write_flash_fbad (r : Run s₀) (a : Nat) (bs : List Byte) : (r.write .flash a bs).cur.fbad = r.cur.fbad := rfl
@[simp] theorem Run.write_flash_cbad (r : Run s₀) (a : Nat) (bs : List Byte) : (r.write .flash a bs).cur.cbad = r.cur.cbad := rfl
@[simp] theorem Run.write_flash_out (r : Run s₀) (a : Nat) (bs : List Byte) : (r.write .flash a bs).cur.out = r.cur.out := rfl
@[simp] theorem Run.write_flash_fresh (r : Run s₀) (a : Nat) (bs : List Byte) : (r.write .flash a bs).cur.fresh = r.cur.fresh := rfl
@[simp] theorem Run.write_flash_dev (r : Run s₀) (a : Nat) (bs : List Byte) : (r.write .flash a bs).cur.dev = r.cur.dev := rfl
@[simp] theorem Run.write_copy_pending (r : Run s₀) (a : Nat) (bs : List Byte) : (r.write .copy a bs).cur.pending = r.cur.pending := rfl
@[simp] theorem Run.write_copy_mem (r : Run s₀) (a : Nat) (bs : List Byte) : (r.write .copy a bs).cur.mem = r.cur.mem := rfl
@[simp] theorem Run.write_copy_flash (r : Run s₀) (a : Nat) (bs : List Byte) : (r.write .copy a bs).cur.flash = r.cur.flash := rfl
@[simp] theorem Run.write_copy_copy (r : Run s₀) (a : Nat) (bs : List Byte) : (r.write .copy a bs).cur.copy = Mem.write r.cur.copy a bs := rfl
@[simp] theorem Run.write_copy_bad (r : Run s₀) (a : Nat) (bs : List Byte) : (r.write .copy a bs).cur.bad = r.cur.bad := rfl
@[simp] theorem Run.write_copy_fbad (r : Run s₀) (a : Nat) (bs : List Byte) : (r.write .copy a bs).cur.fbad = r.cur.fbad := rfl
@[simp] theorem Run.write_copy_cbad (r : Run s₀) (a : Nat) (bs : List Byte) : (r.write .copy a bs).cur.cbad = r.cur.cbad := rfl
@[simp] theorem Run.write_copy_out (r : Run s₀) (a : Nat) (bs : List Byte) : (r.write .copy a bs).cur.out = r.cur.out := rfl
@[simp] theorem Run.write_copy_fresh (r : Run s₀) (a : Nat) (bs : List Byte) : (r.write .copy a bs).cur.fresh = r.cur.fresh := rfl
@[simp] theorem Run.write_copy_dev (r : Run s₀) (a : Nat) (bs : List Byte) : (r.write .copy a bs).cur.dev = r.cur.dev := rfl

/-! ### `Run.clear` -/

@[simp] theorem Run.clear_mem_pending (r : Run s₀) (lo hi : Nat) : (r.clear .mem lo hi).cur.pending = r.cur.pending := rfl
@[simp] theorem Run.clear_mem_mem (r : Run s₀) (lo hi : Nat) : (r.clear .mem lo hi).cur.mem = Mem.clear r.cur.mem lo hi := rfl
@[simp] theorem Run.clear_mem_flash (r : Run s₀) (lo hi : Nat) : (r.clear .mem lo hi).cur.flash = r.cur.flash := rfl
@[simp] theorem Run.clear_mem_copy (r : Run s₀) (lo hi : Nat) : (r.clear .mem lo hi).cur.copy = r.cur.copy := rfl
@[simp] theorem Run.clear_mem_bad (r : Run s₀) (lo hi : Nat) : (r.clear .mem lo hi).cur.bad = Marks.clear r.cur.bad (lo / 64) (hi / 64) := rfl
@[simp] theorem Run.clear_mem_fbad (r : Run s₀) (lo hi : Nat) : (r.clear .mem lo hi).cur.fbad = r.cur.fbad := rfl
@[simp] theorem Run.clear_mem_cbad (r : Run s₀) (lo hi : Nat) : (r.clear .mem lo hi).cur.cbad = r.cur.cbad := rfl
@[simp] theorem Run.clear_mem_out (r : Run s₀) (lo hi : Nat) : (r.clear .mem lo hi).cur.out = r.cur.out := rfl
@[simp] theorem Run.clear_mem_fresh (r : Run s₀) (lo hi : Nat) : (r.clear .mem lo hi).cur.fresh = r.cur.fresh := rfl
@[simp] theorem Run.clear_mem_dev (r : Run s₀) (lo hi : Nat) : (r.clear .mem lo hi).cur.dev = r.cur.dev := rfl
@[simp] theorem Run.clear_flash_pending (r : Run s₀) (lo hi : Nat) : (r.clear .flash lo hi).cur.pending = r.cur.pending := rfl
@[simp] theorem Run.clear_flash_mem (r : Run s₀) (lo hi : Nat) : (r.clear .flash lo hi).cur.mem = r.cur.mem := rfl
@[simp] theorem Run.clear_flash_flash (r : Run s₀) (lo hi : Nat) : (r.clear .flash lo hi).cur.flash = Mem.clear r.cur.flash lo hi := rfl
@[simp] theorem Run.clear_flash_copy (r : Run s₀) (lo hi : Nat) : (r.clear .flash lo hi).cur.copy = r.cur.copy := rfl
@[simp] theorem Run.clear_flash_bad (r : Run s₀) (lo hi : Nat) : (r.clear .flash lo hi).cur.bad = r.cur.bad := rfl
@[simp] theorem Run.clear_flash_fbad (r : Run s₀) (lo hi : Nat) : (r.clear .flash lo hi).cur.fbad = Marks.clear r.cur.fbad (lo / 64) (hi / 64) := rfl
@[simp] theorem Run.clear_flash_cbad (r : Run s₀) (lo hi : Nat) : (r.clear .flash lo hi).cur.cbad = r.cur.cbad := rfl
@[simp] theorem Run.clear_flash_out (r : Run s₀) (lo hi : Nat) : (r.clear .flash lo hi).cur.out = r.cur.out := rfl
@[simp] theorem Run.clear_flash_fresh (r : Run s₀) (lo hi : Nat) : (r.clear .flash lo hi).cur.fresh = r.cur.fresh := rfl
@[simp] theorem Run.clear_flash_dev (r : Run s₀) (lo hi : Nat) : (r.clear .flash lo hi).cur.dev = r.cur.dev := rfl
@[simp] theorem Run.clear_copy_pending (r : Run s₀) (lo hi : Nat) : (r.clear .copy lo hi).cur.pending = r.cur.pending := rfl
@[simp] theorem Run.clear_copy_mem (r : Run s₀) (lo hi : Nat) : (r.clear .copy lo hi).cur.mem = r.cur.mem := rfl
@[simp] theorem Run.clear_copy_flash (r : Run s₀) (lo hi : Nat) : (r.clear .copy lo hi).cur.flash = r.cur.flash := rfl
@[simp] theorem Run.clear_copy_copy (r : Run s₀) (lo hi : Nat) : (r.clear .copy lo hi).cur.copy = Mem.clear r.cur.copy lo hi := rfl
@[simp] theorem Run.clear_copy_bad (r : Run s₀) (lo hi : Nat) : (r.clear .copy lo hi).cur.bad = r.cur.bad := rfl
@[simp] theorem Run.clear_copy_fbad (r : Run s₀) (lo hi : Nat) : (r.clear .copy lo hi).cur.fbad = r.cur.fbad := rfl
@[simp] theorem Run.clear_copy_cbad (r : Run s₀) (lo hi : Nat) : (r.clear .copy lo hi).cur.cbad = Marks.clear r.cur.cbad (lo / 64) (hi / 64) := rfl
@[simp] theorem Run.clear_copy_out (r : Run s₀) (lo hi : Nat) : (r.clear .copy lo hi).cur.out = r.cur.out := rfl
@[simp] theorem Run.clear_copy_fresh (r : Run s₀) (lo hi : Nat) : (r.clear .copy lo hi).cur.fresh = r.cur.fresh := rfl
@[simp] theorem Run.clear_copy_dev (r : Run s₀) (lo hi : Nat) : (r.clear .copy lo hi).cur.dev = r.cur.dev := rfl

/-! ### `Run.mark` -/

@[simp] theorem Run.mark_mem_pending (r : Run s₀) (l : Nat) (on : Bool) : (r.mark .mem l on).cur.pending = r.cur.pending := rfl
@[simp] theorem Run.mark_mem_mem (r : Run s₀) (l : Nat) (on : Bool) : (r.mark .mem l on).cur.mem = r.cur.mem := rfl
@[simp] theorem Run.mark_mem_flash (r : Run s₀) (l : Nat) (on : Bool) : (r.mark .mem l on).cur.flash = r.cur.flash := rfl
@[simp] theorem Run.mark_mem_copy (r : Run s₀) (l : Nat) (on : Bool) : (r.mark .mem l on).cur.copy = r.cur.copy := rfl
@[simp] theorem Run.mark_mem_bad (r : Run s₀) (l : Nat) (on : Bool) : (r.mark .mem l on).cur.bad = Marks.put r.cur.bad l on := rfl
@[simp] theorem Run.mark_mem_fbad (r : Run s₀) (l : Nat) (on : Bool) : (r.mark .mem l on).cur.fbad = r.cur.fbad := rfl
@[simp] theorem Run.mark_mem_cbad (r : Run s₀) (l : Nat) (on : Bool) : (r.mark .mem l on).cur.cbad = r.cur.cbad := rfl
@[simp] theorem Run.mark_mem_out (r : Run s₀) (l : Nat) (on : Bool) : (r.mark .mem l on).cur.out = r.cur.out := rfl
@[simp] theorem Run.mark_mem_fresh (r : Run s₀) (l : Nat) (on : Bool) : (r.mark .mem l on).cur.fresh = r.cur.fresh := rfl
@[simp] theorem Run.mark_mem_dev (r : Run s₀) (l : Nat) (on : Bool) : (r.mark .mem l on).cur.dev = r.cur.dev := rfl
@[simp] theorem Run.mark_flash_pending (r : Run s₀) (l : Nat) (on : Bool) : (r.mark .flash l on).cur.pending = r.cur.pending := rfl
@[simp] theorem Run.mark_flash_mem (r : Run s₀) (l : Nat) (on : Bool) : (r.mark .flash l on).cur.mem = r.cur.mem := rfl
@[simp] theorem Run.mark_flash_flash (r : Run s₀) (l : Nat) (on : Bool) : (r.mark .flash l on).cur.flash = r.cur.flash := rfl
@[simp] theorem Run.mark_flash_copy (r : Run s₀) (l : Nat) (on : Bool) : (r.mark .flash l on).cur.copy = r.cur.copy := rfl
@[simp] theorem Run.mark_flash_bad (r : Run s₀) (l : Nat) (on : Bool) : (r.mark .flash l on).cur.bad = r.cur.bad := rfl
@[simp] theorem Run.mark_flash_fbad (r : Run s₀) (l : Nat) (on : Bool) : (r.mark .flash l on).cur.fbad = Marks.put r.cur.fbad l on := rfl
@[simp] theorem Run.mark_flash_cbad (r : Run s₀) (l : Nat) (on : Bool) : (r.mark .flash l on).cur.cbad = r.cur.cbad := rfl
@[simp] theorem Run.mark_flash_out (r : Run s₀) (l : Nat) (on : Bool) : (r.mark .flash l on).cur.out = r.cur.out := rfl
@[simp] theorem Run.mark_flash_fresh (r : Run s₀) (l : Nat) (on : Bool) : (r.mark .flash l on).cur.fresh = r.cur.fresh := rfl
@[simp] theorem Run.mark_flash_dev (r : Run s₀) (l : Nat) (on : Bool) : (r.mark .flash l on).cur.dev = r.cur.dev := rfl
@[simp] theorem Run.mark_copy_pending (r : Run s₀) (l : Nat) (on : Bool) : (r.mark .copy l on).cur.pending = r.cur.pending := rfl
@[simp] theorem Run.mark_copy_mem (r : Run s₀) (l : Nat) (on : Bool) : (r.mark .copy l on).cur.mem = r.cur.mem := rfl
@[simp] theorem Run.mark_copy_flash (r : Run s₀) (l : Nat) (on : Bool) : (r.mark .copy l on).cur.flash = r.cur.flash := rfl
@[simp] theorem Run.mark_copy_copy (r : Run s₀) (l : Nat) (on : Bool) : (r.mark .copy l on).cur.copy = r.cur.copy := rfl
@[simp] theorem Run.mark_copy_bad (r : Run s₀) (l : Nat) (on : Bool) : (r.mark .copy l on).cur.bad = r.cur.bad := rfl
@[simp] theorem Run.mark_copy_fbad (r : Run s₀) (l : Nat) (on : Bool) : (r.mark .copy l on).cur.fbad = r.cur.fbad := rfl
@[simp] theorem Run.mark_copy_cbad (r : Run s₀) (l : Nat) (on : Bool) : (r.mark .copy l on).cur.cbad = Marks.put r.cur.cbad l on := rfl
@[simp] theorem Run.mark_copy_out (r : Run s₀) (l : Nat) (on : Bool) : (r.mark .copy l on).cur.out = r.cur.out := rfl
@[simp] theorem Run.mark_copy_fresh (r : Run s₀) (l : Nat) (on : Bool) : (r.mark .copy l on).cur.fresh = r.cur.fresh := rfl
@[simp] theorem Run.mark_copy_dev (r : Run s₀) (l : Nat) (on : Bool) : (r.mark .copy l on).cur.dev = r.cur.dev := rfl

/-! ### Objects -/

@[simp] theorem Run.setO_cur_dev (r : Run s₀) (i x u v : Nat) :
    (r.setO i x u v).cur.dev = { r.cur.dev with obj := r.cur.dev.obj.set (okey i x u) v } := rfl

@[simp] theorem Run.setO_pending (r : Run s₀) (i x u v : Nat) : (r.setO i x u v).cur.pending = r.cur.pending := rfl
@[simp] theorem Run.setO_mem (r : Run s₀) (i x u v : Nat) : (r.setO i x u v).cur.mem = r.cur.mem := rfl
@[simp] theorem Run.setO_flash (r : Run s₀) (i x u v : Nat) : (r.setO i x u v).cur.flash = r.cur.flash := rfl
@[simp] theorem Run.setO_copy (r : Run s₀) (i x u v : Nat) : (r.setO i x u v).cur.copy = r.cur.copy := rfl
@[simp] theorem Run.setO_bad (r : Run s₀) (i x u v : Nat) : (r.setO i x u v).cur.bad = r.cur.bad := rfl
@[simp] theorem Run.setO_fbad (r : Run s₀) (i x u v : Nat) : (r.setO i x u v).cur.fbad = r.cur.fbad := rfl
@[simp] theorem Run.setO_cbad (r : Run s₀) (i x u v : Nat) : (r.setO i x u v).cur.cbad = r.cur.cbad := rfl
@[simp] theorem Run.setO_out (r : Run s₀) (i x u v : Nat) : (r.setO i x u v).cur.out = r.cur.out := rfl
@[simp] theorem Run.setO_fresh (r : Run s₀) (i x u v : Nat) : (r.setO i x u v).cur.fresh = r.cur.fresh := rfl

end

end Sys2Proof.Machine
end

