-- ==== Sys2Proof/Laws/Run.lean ====
section
/-!
SUPPORT. What every run of primitive changes keeps: the queue, the canonical form of the stores, the draws and the outputs of
before. A meaning is a run, so each lemma here holds of every command.
-/

namespace Sys2Proof.Machine

/-- A primitive change leaves the queue. -/
theorem Prim.pending {a b : State} (h : Prim a b) : b.pending = a.pending := by
  cases h with
  | write w => cases w <;> rfl
  | clear w => cases w <;> rfl
  | mark w => cases w <;> rfl
  | _ => rfl

/-- A primitive change keeps the canonical form. -/
theorem Prim.inv {a b : State} (h : Prim a b) (ha : a.Inv) : b.Inv := by
  cases h with
  | dev d => exact ⟨ha.mem, ha.flash, ha.copy, ha.bad, ha.fbad, ha.cbad⟩
  | write w l bs =>
    cases w
    · exact ⟨Mem.write_wf _ _ _ ha.mem, ha.flash, ha.copy, ha.bad, ha.fbad, ha.cbad⟩
    · exact ⟨ha.mem, Mem.write_wf _ _ _ ha.flash, ha.copy, ha.bad, ha.fbad, ha.cbad⟩
    · exact ⟨ha.mem, ha.flash, Mem.write_wf _ _ _ ha.copy, ha.bad, ha.fbad, ha.cbad⟩
  | clear w lo hi =>
    cases w
    · exact ⟨Mem.clear_wf _ _ _ ha.mem, ha.flash, ha.copy, Marks.clear_rises _ _ _ ha.bad, ha.fbad, ha.cbad⟩
    · exact ⟨ha.mem, Mem.clear_wf _ _ _ ha.flash, ha.copy, ha.bad, Marks.clear_rises _ _ _ ha.fbad, ha.cbad⟩
    · exact ⟨ha.mem, ha.flash, Mem.clear_wf _ _ _ ha.copy, ha.bad, ha.fbad, Marks.clear_rises _ _ _ ha.cbad⟩
  | mark w l on =>
    cases w
    · exact ⟨ha.mem, ha.flash, ha.copy, Marks.put_rises _ _ _ ha.bad, ha.fbad, ha.cbad⟩
    · exact ⟨ha.mem, ha.flash, ha.copy, ha.bad, Marks.put_rises _ _ _ ha.fbad, ha.cbad⟩
    · exact ⟨ha.mem, ha.flash, ha.copy, ha.bad, ha.fbad, Marks.put_rises _ _ _ ha.cbad⟩
  | emit o => exact ⟨ha.mem, ha.flash, ha.copy, ha.bad, ha.fbad, ha.cbad⟩
  | draw => exact ⟨ha.mem, ha.flash, ha.copy, ha.bad, ha.fbad, ha.cbad⟩

/-- A primitive change takes nothing back that was sent, and no draw. -/
theorem Prim.grows {a b : State} (h : Prim a b) : a.fresh ≤ b.fresh ∧ ∃ new, b.out = new ++ a.out := by
  cases h with
  | write w => cases w <;> exact ⟨Nat.le_refl _, [], rfl⟩
  | clear w => cases w <;> exact ⟨Nat.le_refl _, [], rfl⟩
  | mark w => cases w <;> exact ⟨Nat.le_refl _, [], rfl⟩
  | dev d => exact ⟨Nat.le_refl _, [], rfl⟩
  | emit o => exact ⟨Nat.le_refl _, [o], rfl⟩
  | draw => exact ⟨Nat.le_succ _, [], rfl⟩

theorem Reach.pending {a b : State} (h : Reach a b) : b.pending = a.pending := by
  induction h with
  | refl => rfl
  | tail _ hp ih => exact hp.pending.trans ih

theorem Reach.inv {a b : State} (h : Reach a b) (ha : a.Inv) : b.Inv := by
  induction h with
  | refl => exact ha
  | tail _ hp ih => exact hp.inv ih

theorem Reach.grows {a b : State} (h : Reach a b) : a.fresh ≤ b.fresh ∧ ∃ new, b.out = new ++ a.out := by
  induction h with
  | refl => exact ⟨Nat.le_refl _, [], rfl⟩
  | tail _ hp ih =>
    obtain ⟨h1, n1, e1⟩ := ih
    obtain ⟨h2, n2, e2⟩ := hp.grows
    exact ⟨Nat.le_trans h1 h2, n2 ++ n1, by rw [e2, e1, List.append_assoc]⟩

section
variable {s₀ : State}

/-- A run ends with the queue it began with. -/
theorem Run.pending (r : Run s₀) : r.cur.pending = s₀.pending := r.reach.pending

/-- A run keeps the canonical form. -/
theorem Run.inv (r : Run s₀) (h : s₀.Inv) : r.cur.Inv := r.reach.inv h

/-- A run takes nothing back. -/
theorem Run.grows (r : Run s₀) : s₀.fresh ≤ r.cur.fresh ∧ ∃ new, r.cur.out = new ++ s₀.out := r.reach.grows

/-- Two runs that stand at the same state are the same. -/
theorem Run.ext' {r t : Run s₀} (h : r.cur = t.cur) : r = t := by cases r; cases t; subst h; rfl

/-- A change that changes nothing. -/
theorem Run.mod_id (r : Run s₀) (f : Dev → Dev) (h : f r.cur.dev = r.cur.dev) : r.mod f = r := Run.ext' (by simp [Run.mod, h])

end

end Sys2Proof.Machine
end

