-- ==== Sys2Proof/Laws/Quiet.lean ====
section
/-!
SUPPORT. What ends a command does nothing where nothing waits inside the device.
-/

namespace Sys2Proof.Machine

section
variable {s₀ : State}

@[simp] theorem Run.each_nil {α : Type} (r : Run s₀) (f : Run s₀ → α → Run s₀) : r.each [] f = r := rfl

@[simp] theorem Run.each_cons {α : Type} (r : Run s₀) (x : α) (xs : List α) (f : Run s₀ → α → Run s₀) :
    r.each (x :: xs) f = (f r x).each xs f := rfl

/-- Nothing that waits inside the device can go on now: as `Dev.Quiet`, but for requests behind another, whose time has not come. -/
structure Dev.Calm (d : Dev) : Prop where
  again : d.again = []
  objWait : d.objWait = []
  harts : ∀ x ∈ d.harts, x.2.pend = none
  recov : d.recov = []
  relief : d.relief = []
  lates : d.lates = []
  after : ∀ x ∈ d.after, d.now < x.at_
  castOps : d.castOps = []
  fences : d.fences = []

theorem Dev.Quiet.calm {d : Dev} (h : d.Quiet) : d.Calm :=
  ⟨h.again, h.objWait, h.harts, h.recov, h.relief, h.lates, by simp [h.after], h.castOps, h.fences⟩

/-- What waits for its slot stays as it is. -/
theorem Run.leaveAll_calm (r : Run s₀) (f : After → Bool) (xs kept : List After) (h : ∀ x ∈ xs, r.d.now < x.at_) :
    r.leaveAll f xs kept = r.mod fun d => { d with after := kept ++ xs ++ d.after } := by
  induction xs generalizing kept with
  | nil => simp [Run.leaveAll]
  | cons x t ih =>
    have hx : r.d.afterReady x = false := by
      have := h x (by simp)
      simp only [Dev.afterReady, Bool.and_eq_false_iff, decide_eq_false_iff_not]
      left; omega
    unfold Run.leaveAll
    dsimp only
    rw [hx, Bool.and_false, if_neg (by simp), ih _ fun y hy => h y (by simp [hy])]
    simp

theorem Run.afterAck_calm (r : Run s₀) (h : r.d.Calm) (n : Option Nat) : r.afterAck n = r := by
  unfold Run.afterAck
  simp only [h.relief, List.filter_nil, Run.each_nil]
  split
  · rfl
  · have h' : ∀ x ∈ r.d.after, (r.mod fun d => { d with after := [] }).d.now < x.at_ := h.after
    rw [Run.leaveAll_calm _ _ _ _ h']
    refine Run.ext' ?_
    simp [Run.mod]

theorem Run.credits_calm (r : Run s₀) (h : r.d.Calm) (n : Nat) : r.credits n = r := by
  cases n <;> simp [Run.credits, h.lates]

theorem Run.recovered_calm (r : Run s₀) (h : r.d.Calm) : r.recovered = r := by
  simp [Run.recovered, h.recov]

theorem Run.fencesPoke_calm (r : Run s₀) (h : r.d.Calm) : r.fencesPoke = r := by
  simp only [Run.fencesPoke, h.fences, List.filter_nil, Run.each_nil]
  refine Run.mod_id _ _ ?_
  rw [h.fences, List.filter_nil, ← h.fences]

/-- Nothing goes on at the end of a command where nothing waits. -/
theorem Run.poke_calm (r : Run s₀) (h : r.d.Calm) : r.poke = r := by
  unfold Run.poke
  rw [r.recovered_calm h]
  simp only [r.credits_calm h, r.afterAck_calm h]
  simp [h.castOps, r.fencesPoke_calm h]

theorem Run.close_calm (r : Run s₀) (h : r.d.Calm) : r.close = .next r.cur := by
  rw [Run.close, r.poke_calm h]

theorem Run.poke_quiet (r : Run s₀) (h : r.d.Quiet) : r.poke = r := r.poke_calm h.calm

theorem Run.close_quiet (r : Run s₀) (h : r.d.Quiet) : r.close = .next r.cur := r.close_calm h.calm

theorem Tab.getD_mem {α : Type} (t : Tab α) (k : Nat) (d : α) : t.getD k d = d ∨ ∃ x ∈ t, x.2 = t.getD k d := by
  unfold Tab.getD
  induction t with
  | nil => exact .inl rfl
  | cons e t ih =>
    obtain ⟨j, v⟩ := e
    by_cases h : j = k
    · right; exact ⟨(j, v), by simp, by simp [Tab.get?, h]⟩
    · simp only [Tab.get?, if_neg h]
      rcases ih with ih | ⟨x, hx, e⟩
      · exact .inl ih
      · exact .inr ⟨x, List.mem_cons_of_mem _ hx, e⟩

/-- A hart with no access under way does nothing. -/
theorem Run.hartTry_quiet (r : Run s₀) (k : Nat) (h : ∀ x ∈ r.d.harts, x.2.pend = none) : r.hartTry k = r := by
  have hp : (r.d.harts.getD k {}).pend = none := by
    rcases Tab.getD_mem r.d.harts k {} with e | ⟨x, hx, e⟩
    · rw [e]
    · rw [← e]; exact h x hx
  unfold Run.hartTry
  simp only [hp]

theorem Run.hartsPoke_quiet (r : Run s₀) (h : ∀ x ∈ r.d.harts, x.2.pend = none) : r.hartsPoke = r := by
  unfold Run.hartsPoke
  generalize r.d.harts.map (·.1) = ks
  induction ks with
  | nil => rfl
  | cons k ks ih => rw [Run.each_cons, r.hartTry_quiet k h, ih]

theorem Run.retryWaits_calm (r : Run s₀) (h : r.d.Calm) : r.retryWaits = r := by
  simp [Run.retryWaits, Run.retryAgain, r.hartsPoke_quiet h.harts, h.again, h.objWait]

/-- Nothing goes on at the end of a request where nothing that waits can. -/
theorem Run.requestDone_calm (r : Run s₀) (h : r.d.Calm) : r.requestDone = .next r.cur := by
  rw [Run.requestDone, r.retryWaits_calm h, r.close_calm h]

theorem Run.requestDone_quiet (r : Run s₀) (h : r.d.Quiet) : r.requestDone = .next r.cur := r.requestDone_calm h.calm

end

end Sys2Proof.Machine
end

