-- ==== Sys2Proof/Laws/Tab.lean ====
section
/-!
SUPPORT. Tables and dictionary objects: what is read after a write, and what a deletion leaves.
-/

namespace Sys2Proof.Machine

section
variable {α : Type}

@[simp] theorem Tab.get?_nil (k : Nat) : Tab.get? ([] : Tab α) k = none := rfl

theorem Tab.get?_cons (j : Nat) (v : α) (t : Tab α) (k : Nat) :
    Tab.get? ((j, v) :: t) k = if j = k then some v else Tab.get? t k := rfl

/-- Reading a table after a write. -/
theorem Tab.get?_set (t : Tab α) (k j : Nat) (v : α) : (t.set k v).get? j = if k = j then some v else t.get? j := by
  induction t with
  | nil => rfl
  | cons e t ih =>
    obtain ⟨i, w⟩ := e
    unfold Tab.set
    split
    · rename_i h; subst h; simp only [Tab.get?_cons]; split <;> rfl
    · split
      · simp only [Tab.get?_cons]
      · simp only [Tab.get?_cons, ih]
        split
        · rename_i h1 h2 h3; rw [if_neg (by omega)]
        · rfl

@[simp] theorem Tab.get?_set_self (t : Tab α) (k : Nat) (v : α) : (t.set k v).get? k = some v := by simp [Tab.get?_set]

theorem Tab.get?_set_ne (t : Tab α) {k j : Nat} (v : α) (h : k ≠ j) : (t.set k v).get? j = t.get? j := by
  rw [Tab.get?_set, if_neg h]

@[simp] theorem Tab.getD_set_self (t : Tab α) (k : Nat) (v d : α) : (t.set k v).getD k d = v := by simp [Tab.getD]

theorem Tab.getD_set_ne (t : Tab α) {k j : Nat} (v d : α) (h : k ≠ j) : (t.set k v).getD j d = t.getD j d := by
  simp [Tab.getD, Tab.get?_set_ne t v h]

/-- Reading a table after a deletion. -/
theorem Tab.get?_del (t : Tab α) (k j : Nat) : (t.del k).get? j = if k = j then none else t.get? j := by
  induction t with
  | nil => simp [Tab.del]
  | cons e t ih =>
    obtain ⟨i, w⟩ := e
    unfold Tab.del at ih ⊢
    rw [List.filter_cons]
    by_cases h : i = k
    · subst h
      simp only [bne_self_eq_false, Bool.false_eq_true, if_false, ih, Tab.get?_cons]
      split <;> simp_all
    · simp only [bne_iff_ne, ne_eq, h, not_false_eq_true, if_true, Tab.get?_cons, ih]
      split
      · rename_i h2; subst h2; rw [if_neg (fun h3 => h h3.symm)]
      · rfl

@[simp] theorem Tab.get?_del_self (t : Tab α) (k : Nat) : (t.del k).get? k = none := by simp [Tab.get?_del]

end

/-- The keys of two objects agree only if the objects do. -/
theorem okey_inj {i x u j y v : Nat} (hx : x < 65536) (hy : y < 65536) (hu : u < 256) (hv : v < 256)
    (h : okey i x u = okey j y v) : i = j ∧ x = y ∧ u = v := by
  unfold okey at h; omega

/-- An object after a write to its table. -/
theorem Dev.o_obj (d : Dev) (t : Tab Nat) (i x u : Nat) :
    ({ d with obj := t } : Dev).o i x u = ((t.get? (okey i x u)).getD (objDefault i x u)) := by
  unfold Dev.o; split <;> simp_all

/-- An object reads what was last stored there. -/
@[simp] theorem Run.setO_o_self {s₀ : State} (r : Run s₀) (i x u v : Nat) : (r.setO i x u v).cur.dev.o i x u = v := by
  simp [Dev.o]

/-- A write to one object leaves every other. -/
theorem Run.setO_o_ne {s₀ : State} (r : Run s₀) (i x u v j y w : Nat) (h : okey i x u ≠ okey j y w) :
    (r.setO i x u v).cur.dev.o j y w = r.cur.dev.o j y w := by
  simp [Dev.o, Tab.get?_set_ne _ _ h]

theorem Run.setO_o {s₀ : State} (r : Run s₀) (i x u v j y w : Nat) :
    (r.setO i x u v).cur.dev.o j y w = if okey i x u = okey j y w then v else r.cur.dev.o j y w := by
  by_cases h : okey i x u = okey j y w
  · simp [Dev.o, h]
  · rw [if_neg h, Run.setO_o_ne _ _ _ _ _ _ _ _ h]

/-- The value of an object in a table of objects. -/
def objGet (t : Tab Nat) (i x u : Nat) : Nat := (t.get? (okey i x u)).getD (objDefault i x u)

/-- Objects are read from their table: the form in which proofs about objects go on. -/
theorem Dev.o_eq (d : Dev) (i x u : Nat) : d.o i x u = objGet d.obj i x u := by
  unfold Dev.o objGet; split <;> simp_all

/-- Reading an object after a write to the table. -/
theorem objGet_set (t : Tab Nat) (k v i x u : Nat) : objGet (t.set k v) i x u = if k = okey i x u then v else objGet t i x u := by
  unfold objGet; rw [Tab.get?_set]; split <;> rfl

/-- Objects are a function of their table. -/
theorem Dev.o_congr {d e : Dev} (h : d.obj = e.obj) (i x u : Nat) : d.o i x u = e.o i x u := by simp [Dev.o, h]

end Sys2Proof.Machine
end

