-- ==== Sys2Proof/Laws/Frame.lean ====
section
/-!
SUPPORT. What the shared operations of `Flags` and `Send` can change: an event, a counter's change, an error record, a notification.
-/

namespace Sys2Proof.Machine

/-- The objects that raising an event or an error record may change: the events a partition misses (0x6060:16), the error ring's
write index and lost count (0x9000:01, :03), a queue's state (0x604q:0D), the flits sent (0x3040:08). -/
def sideKey (k : Nat) : Bool :=
  let x := bits k 8 16
  let u := bits k 0 8
  (x == 0x6060 && u == 0x16) || (x == 0x9000 && (u == 1 || u == 3)) || (x / 16 == 0x604 && u == 0x0D) || (x == 0x3040 && u == 8)

/-- `b` is `a` after events, additions to counters, error records and notifications: those pieces of state changed, and nothing
else. -/
structure Side (a b : State) : Prop where
  mem : b.mem = a.mem
  flash : b.flash = a.flash
  copy : b.copy = a.copy
  bad : b.bad = a.bad
  fbad : b.fbad = a.fbad
  cbad : b.cbad = a.cbad
  fresh : b.fresh = a.fresh
  dev : b.dev = { a.dev with
    obj := b.dev.obj, ctrs := b.dev.ctrs, waits := b.dev.waits, pairs := b.dev.pairs, imsic := b.dev.imsic, msix := b.dev.msix
    ring := b.dev.ring, eseq := b.dev.eseq, merge := b.dev.merge, sends := b.dev.sends, origs := b.dev.origs, onext := b.dev.onext
    links := b.dev.links, after := b.dev.after }
  obj : ∀ k, sideKey k = false → b.dev.obj.get? k = a.dev.obj.get? k
  out : ∃ new, b.out = new ++ a.out
  pairs : a.dev.waits = [] → b.dev.pairs = a.dev.pairs
  waits : a.dev.waits = [] → b.dev.waits = []
  after : ∀ x ∈ b.dev.after, x ∈ a.dev.after ∨ a.dev.now < x.at_

theorem Side.refl (a : State) : Side a a :=
  ⟨rfl, rfl, rfl, rfl, rfl, rfl, rfl, rfl, fun _ _ => rfl, ⟨[], rfl⟩, fun _ => rfl, id, fun _ h => .inl h⟩

theorem Side.now {a b : State} (h : Side a b) : b.dev.now = a.dev.now := by rw [h.dev]

theorem Side.trans {a b c : State} (h : Side a b) (k : Side b c) : Side a c where
  mem := k.mem.trans h.mem
  flash := k.flash.trans h.flash
  copy := k.copy.trans h.copy
  bad := k.bad.trans h.bad
  fbad := k.fbad.trans h.fbad
  cbad := k.cbad.trans h.cbad
  fresh := k.fresh.trans h.fresh
  dev := by rw [k.dev, h.dev]
  obj := fun x hx => (k.obj x hx).trans (h.obj x hx)
  out := by
    obtain ⟨n, e⟩ := h.out
    obtain ⟨m, f⟩ := k.out
    exact ⟨m ++ n, by rw [f, e, List.append_assoc]⟩
  pairs := fun hw => (k.pairs (h.waits hw)).trans (h.pairs hw)
  waits := fun hw => k.waits (h.waits hw)
  after := fun x hx => by
    rcases k.after x hx with hb | hb
    · exact h.after x hb
    · rw [h.now] at hb; exact .inr hb

/-- Nothing that waits inside the device can go on: a notification that could not be sent waits for its slot. -/
theorem Side.calm {a b : State} (h : Side a b) (q : a.dev.Calm) : b.dev.Calm := by
  have hx : ∀ x ∈ b.dev.after, b.dev.now < x.at_ := fun x hx => by
    rw [h.now]
    rcases h.after x hx with ha | ha
    exacts [q.after x ha, ha]
  constructor
  case after => exact hx
  all_goals rw [h.dev]
  exacts [q.again, q.objWait, q.harts, q.recov, q.relief, q.lates, q.castOps, q.fences]

section
variable {s₀ : State}

theorem Side.ite {a : State} {p : Prop} [Decidable p] {r t : Run s₀} (h : Side a r.cur) (k : Side a t.cur) :
    Side a (if p then r else t).cur := by split <;> assumption

theorem Run.each_rel {α : Type} (R : State → State → Prop) (h0 : ∀ a, R a a) (ht : ∀ a b c, R a b → R b c → R a c) (r : Run s₀)
    (xs : List α) (f : Run s₀ → α → Run s₀) (h : ∀ r x, R r.cur (f r x).cur) : R r.cur (r.each xs f).cur := by
  induction xs generalizing r with
  | nil => exact h0 _
  | cons x xs ih => exact ht _ _ _ (h r x) (ih (f r x))

theorem Run.setO_side (r : Run s₀) (i x u v : Nat) (h : sideKey (okey i x u) = true) : Side r.cur (r.setO i x u v).cur := by
  refine ⟨rfl, rfl, rfl, rfl, rfl, rfl, rfl, rfl, fun k hk => ?_, ⟨[], rfl⟩, fun _ => rfl, id, fun _ h => .inl h⟩
  rw [Run.setO_cur_dev]
  refine Tab.get?_set_ne _ _ ?_
  rintro rfl
  rw [h] at hk; exact absurd hk (by simp)

theorem Run.bumpBy_side (r : Run s₀) (i x u n : Nat) (h : sideKey (okey i x u) = true) : Side r.cur (r.bumpBy i x u n).cur :=
  r.setO_side _ _ _ _ h

theorem Run.emit_side (r : Run s₀) (o : Out) : Side r.cur (r.emit o).cur :=
  ⟨rfl, rfl, rfl, rfl, rfl, rfl, rfl, rfl, fun _ _ => rfl, ⟨[o], rfl⟩, fun _ => rfl, id, fun _ h => .inl h⟩

/-- Doing changes one after another. -/
theorem Run.each_side {α : Type} (r : Run s₀) (xs : List α) (f : Run s₀ → α → Run s₀)
    (h : ∀ r x, Side r.cur (f r x).cur) : Side r.cur (r.each xs f).cur := by
  induction xs generalizing r with
  | nil => exact .refl _
  | cons x xs ih => exact (h r x).trans (ih (f r x))

theorem sideKey_6060 (i : Nat) : sideKey (okey i 0x6060 0x16) = true := by
  have h1 : bits (okey i 0x6060 0x16) 8 16 = 0x6060 := by unfold bits okey; omega
  have h2 : bits (okey i 0x6060 0x16) 0 8 = 0x16 := by unfold bits okey; omega
  simp [sideKey, h1, h2]

theorem sideKey_9000 (i u : Nat) (h : u = 1 ∨ u = 3) : sideKey (okey i 0x9000 u) = true := by
  have h1 : bits (okey i 0x9000 u) 8 16 = 0x9000 := by unfold bits okey; omega
  have h2 : bits (okey i 0x9000 u) 0 8 = u := by unfold bits okey; omega
  simp [sideKey, h1, h2, h]

theorem sideKey_3040 (i : Nat) : sideKey (okey i 0x3040 8) = true := by
  have h1 : bits (okey i 0x3040 8) 8 16 = 0x3040 := by unfold bits okey; omega
  have h2 : bits (okey i 0x3040 8) 0 8 = 8 := by unfold bits okey; omega
  simp [sideKey, h1, h2]

theorem sideKey_queue (i q : Nat) (h : q < 16) : sideKey (okey i (0x6040 + q) 0x0D) = true := by
  have h1 : bits (okey i (0x6040 + q) 0x0D) 8 16 = 0x6040 + q := by unfold bits okey; omega
  have h2 : bits (okey i (0x6040 + q) 0x0D) 0 8 = 0x0D := by unfold bits okey; omega
  have h3 : (0x6040 + q) / 16 = 0x604 := by omega
  simp [sideKey, h1, h2, h3]

theorem Run.updLink_side (r : Run s₀) (p : Nat) (f : Link → Link) : Side r.cur (r.updLink p f).cur :=
  ⟨rfl, rfl, rfl, rfl, rfl, rfl, rfl, rfl, fun _ _ => rfl, ⟨[], rfl⟩, fun _ => rfl, id, fun _ h => .inl h⟩

theorem Run.leave_side (r : Run s₀) (p : Nat) (x : TxItem) (n : Nat) : Side r.cur (r.leave p x n).cur := by
  unfold Run.leave
  extract_lets r1 r2
  refine Side.trans (b := r1.cur) (Side.ite (.refl _) (r.updLink_side _ _)) ?_
  refine Side.trans (b := r2.cur) (Side.ite (r1.emit_side _) (.refl _)) ?_
  exact Run.bumpBy_side _ _ _ _ _ (sideKey_3040 _)

theorem Run.drain_side (r : Run s₀) (p : Nat) (xs kept : List TxItem) : Side r.cur (r.drain p xs kept).cur := by
  induction xs generalizing r kept with
  | nil => exact Side.ite (.refl _) (r.updLink_side _ _)
  | cons x t ih =>
    unfold Run.drain
    extract_lets n
    refine Side.ite (ih _ _) (Side.ite ?_ ?_)
    all_goals exact (r.leave_side _ _ _).trans (ih _ _)

/-- A message handed to a port changes the link, the flits sent, and what was sent. -/
theorem Run.wire_side (r : Run s₀) (p : Nat) (o : Out) (n : Nat) (c a g : Option Nat) : Side r.cur (r.wire p o n c a g).cur :=
  r.drain_side _ _ _

theorem Run.flits_side (r : Run s₀) (p path : Nat) (q : Req) : Side r.cur (r.flits p path q).cur := r.wire_side ..

theorem Run.send_side (r : Run s₀) (src : Src) (dst : Nat) (q : Req) (reply : Reply) (part spent : Nat) (c i sq : Option Nat) :
    Side r.cur (r.send src dst q reply part spent c i sq).cur := by
  unfold Run.send
  dsimp only
  refine Side.ite ?_ ?_
  · exact ⟨rfl, rfl, rfl, rfl, rfl, rfl, rfl, rfl, fun _ _ => rfl, ⟨[], rfl⟩, fun _ => rfl, fun h => h, fun _ h => .inl h⟩
  · refine Side.trans (b := (r.mod _).cur) ?_ (Run.flits_side _ _ _ _)
    exact ⟨rfl, rfl, rfl, rfl, rfl, rfl, rfl, rfl, fun _ _ => rfl, ⟨[], rfl⟩, fun _ => rfl, fun h => h, fun _ h => .inl h⟩

/-- A refusal to send names a time. -/
theorem Dev.maySend_pos (d : Dev) (a dst size : Nat) (c : Option Nat) {ps : Nat} (h : d.maySend a dst size c = some (.hint ps)) : 0 < ps := by
  unfold Dev.maySend us at h
  repeat' split at h
  all_goals simp_all
  all_goals omega

theorem Run.sendOrWait_side (r : Run s₀) (src : Src) (dst : Nat) (q : Req) (reply : Reply) (part : Nat) :
    Side r.cur (r.sendOrWait src dst q reply part).cur := by
  unfold Run.sendOrWait
  split
  · exact r.send_side ..
  · rename_i ps h
    refine ⟨rfl, rfl, rfl, rfl, rfl, rfl, rfl, rfl, fun _ _ => rfl, ⟨[], rfl⟩, fun _ => rfl, id, fun x hx => ?_⟩
    rcases List.mem_append.mp hx with hx | hx
    · exact .inl hx
    · obtain rfl := List.mem_singleton.mp hx
      have := Dev.maySend_pos _ _ _ _ _ h
      right
      show r.cur.dev.now < r.cur.dev.now + ps
      omega

theorem Run.notify_side (r : Run s₀) (part dev c : Nat) (amt : BitVec 64) (w : Nat) : Side r.cur (r.notify part dev c amt w).cur :=
  r.sendOrWait_side ..

theorem Run.msixRaise_side (r : Run s₀) (v : Nat) : Side r.cur (r.msixRaise v).cur := by
  unfold Run.msixRaise
  split
  · split
    · exact .refl _
    · exact r.emit_side _
  all_goals exact ⟨rfl, rfl, rfl, rfl, rfl, rfl, rfl, rfl, fun _ _ => rfl, ⟨[], rfl⟩, fun _ => rfl, id, fun _ h => .inl h⟩

theorem Run.imsicSet_side (r : Run s₀) (h f i : Nat) : Side r.cur (r.imsicSet h f i).cur :=
  ⟨rfl, rfl, rfl, rfl, rfl, rfl, rfl, rfl, fun _ _ => rfl, ⟨[_], rfl⟩, fun _ => rfl, id, fun _ h => .inl h⟩

theorem Run.putRecord_side (r : Run s₀) (e : ERec) : Side r.cur (r.putRecord e).cur := by
  unfold Run.putRecord
  extract_lets
  refine Side.trans ?_ (Run.setO_side _ _ _ _ _ (sideKey_9000 _ _ (.inl rfl)))
  rename_i r1 _
  refine Side.trans (b := r1.cur) ?_ ?_
  · show Side r.cur (if _ then _ else _ : Run s₀).cur
    split
    · exact Run.bumpBy_side _ _ _ _ _ (sideKey_9000 _ _ (.inr rfl))
    · exact .refl _
  · exact ⟨rfl, rfl, rfl, rfl, rfl, rfl, rfl, rfl, fun _ _ => rfl, ⟨[], rfl⟩, fun _ => rfl, id, fun _ h => .inl h⟩

theorem Run.overrun_side (r : Run s₀) (n : Nat) : Side r.cur (r.overrun n).2.cur := by
  unfold Run.overrun
  extract_lets qs
  have h : ∀ q ∈ qs, q.2 < 16 := by
    intro q hq
    have := (List.mem_filter.mp hq).1
    unfold Dev.doorbells at this
    obtain ⟨e, -, rfl⟩ := List.mem_map.mp this
    show bits e.1 8 4 < 16
    unfold bits
    omega
  clear_value qs
  show Side r.cur (r.each qs _).cur
  induction qs generalizing r with
  | nil => exact .refl _
  | cons q qs ih =>
    exact (Run.setO_side _ _ _ _ _ (sideKey_queue _ _ (h q (by simp)))).trans (ih _ fun x hx => h x (by simp [hx]))

/-- Waits end one after another. -/
theorem Run.waits_side (r : Run s₀) (xs : Tab Wait) (f : Nat × Wait → List (Nat × List Byte)) :
    ∃ p w, (r.each xs fun r w =>
      (r.mod fun d => { d with waits := d.waits.del w.1 }).finish w.1 .ok 0 (f w)).cur =
        { r.cur with dev := { r.cur.dev with pairs := p, waits := w } } := by
  induction xs generalizing r with
  | nil => exact ⟨_, _, rfl⟩
  | cons x xs ih =>
    rw [Run.each_cons]
    obtain ⟨p, w, h⟩ := ih ((r.mod fun d => { d with waits := d.waits.del x.1 }).finish x.1 .ok 0 (f x))
    exact ⟨p, w, h⟩

theorem Run.look_side (r : Run s₀) (n : Nat) : Side r.cur (r.look n).2.cur := by
  unfold Run.look
  extract_lets c ws r'
  have h1 : Side r.cur r'.cur := by
    by_cases h0 : r.cur.dev.waits = []
    · have : r' = r := by simp [r', ws, h0]
      rw [this]; exact .refl _
    · obtain ⟨p, w, h⟩ := r.waits_side ws (fun w => if w.2.result == 0 then [] else [(w.2.result, c.result)])
      show Side r.cur (r.each ws _).cur
      rw [h]
      exact ⟨rfl, rfl, rfl, rfl, rfl, rfl, rfl, rfl, fun _ _ => rfl, ⟨[], rfl⟩, fun h => absurd h h0, fun h => absurd h h0, fun _ h => .inl h⟩
  clear_value r'
  refine h1.trans ?_
  split
  · exact .refl _
  · split
    · have h2 (f : Dev → Tab Ctr) : Side r'.cur (r'.mod fun d => { d with ctrs := f d }).cur :=
        ⟨rfl, rfl, rfl, rfl, rfl, rfl, rfl, rfl, fun _ _ => rfl, ⟨[], rfl⟩, fun _ => rfl, id, fun _ h => .inl h⟩
      dsimp only
      split
      · split
        · exact h2 _
        · exact (h2 _).trans (Run.notify_side ..)
      · exact h2 _
    · exact .refl _

theorem Run.acts_side (f : Nat) (as : List Act) (r : Run s₀) : Side r.cur (Run.acts f as r).cur := by
  induction f generalizing as r with
  | zero => exact .refl _
  | succ f ih =>
    cases as with
    | nil => exact .refl _
    | cons a t =>
      cases a with
      | add n amt =>
        unfold Run.acts
        extract_lets c r1
        have h1 : Side r.cur r1.cur :=
          ⟨rfl, rfl, rfl, rfl, rfl, rfl, rfl, rfl, fun _ _ => rfl, ⟨[], rfl⟩, fun _ => rfl, id, fun _ h => .inl h⟩
        exact h1.trans ((r1.look_side n).trans ((Run.overrun_side _ n).trans (ih _ _)))
      | look n =>
        unfold Run.acts
        exact (r.look_side n).trans ((Run.overrun_side _ n).trans (ih _ _))
      | record e =>
        unfold Run.acts
        exact (r.putRecord_side e).trans (ih _ _)
      | event part sub =>
        unfold Run.acts
        extract_lets w kind c dev
        split
        · exact (Run.bumpBy_side _ _ _ _ _ (sideKey_6060 _)).trans (ih _ _)
        · split
          · exact (r.msixRaise_side _).trans (ih _ _)
          · split
            · exact (r.imsicSet_side _ _ _).trans (ih _ _)
            · split
              · split <;> exact ih _ _
              · exact (r.notify_side ..).trans (ih _ _)

/-- Actions and all that follows from them change what `Side` names. -/
theorem Run.act_side (r : Run s₀) (as : List Act) : Side r.cur (r.act as).cur := Run.acts_side _ _ _

theorem Run.event_side (r : Run s₀) (part sub : Nat) : Side r.cur (r.event part sub).cur := r.act_side _

theorem Run.addCtr_side (r : Run s₀) (n : Nat) (amt : BitVec 64) : Side r.cur (r.addCtr n amt).cur := r.act_side _

theorem Run.setCtr_side (r : Run s₀) (n : Nat) (c : Ctr) : Side r.cur (r.setCtr n c).cur :=
  Side.trans (b := (r.mod fun d => { d with ctrs := d.ctrs.set n c }).cur)
    ⟨rfl, rfl, rfl, rfl, rfl, rfl, rfl, rfl, fun _ _ => rfl, ⟨[], rfl⟩, fun _ => rfl, id, fun _ h => .inl h⟩ (Run.act_side _ _)

theorem Run.merge_side (r : Run s₀) (k : Nat) (v : Dev → Nat × Nat) :
    Side r.cur (r.mod fun d => { d with merge := d.merge.set k (v d) }).cur :=
  ⟨rfl, rfl, rfl, rfl, rfl, rfl, rfl, rfl, fun _ _ => rfl, ⟨[], rfl⟩, fun _ => rfl, id, fun _ h => .inl h⟩

/-- An error record, and the event it raises, change what `Side` names. -/
theorem Run.error_side (r : Run s₀) (e : ERec) : Side r.cur (r.error e).cur := by
  unfold Run.error
  split
  · extract_lets k
    split
    · split
      · exact r.merge_side k fun _ => _
      · exact Side.trans (r.merge_side k fun d => (d.now, 0)) (Run.act_side _ _)
    · exact Side.trans (r.merge_side k fun d => (d.now, 0)) (Run.act_side _ _)
  · exact r.act_side _

/-- The record of an error that is no corrected event and names no partition: it stands newest in the ring, and nothing follows. -/
theorem Run.error_plain (r : Run s₀) (e : ERec) (h : e.sev ≠ 0) (hp : e.part = none) : r.error e = r.putRecord e := by
  unfold Run.error
  rw [if_neg (by simpa using h)]
  unfold Run.act
  simp [Run.acts, hp]

/-- The newest record of the ring. -/
theorem Run.putRecord_ring (r : Run s₀) (e : ERec) : (r.putRecord e).cur.dev.ring.head? =
    some { e with seq := r.cur.dev.eseq, time := (r.now - r.cur.dev.bring.upAt) / 8000 } := by
  unfold Run.putRecord
  dsimp only
  split <;> rfl

end

theorem Side.pins {a b : State} (h : Side a b) : b.dev.pins = a.dev.pins := by rw [h.dev]
theorem Side.bring {a b : State} (h : Side a b) : b.dev.bring = a.dev.bring := by rw [h.dev]
/-- What was sent before events is sent still. -/
theorem Side.mem_out {a b : State} (h : Side a b) {o : Out} (ho : o ∈ a.out) : o ∈ b.out := by
  obtain ⟨n, e⟩ := h.out
  rw [e]; exact List.mem_append_right _ ho

theorem Side.sends {a b c : State} (h : Side b c) {o : Out} (ho : Sends a b o) : Sends a c o := by
  obtain ⟨n, e, hm⟩ := ho
  obtain ⟨m, f⟩ := h.out
  exact ⟨m ++ n, by rw [f, e, List.append_assoc], List.mem_append_right _ hm⟩

theorem Side.sameBytes {a b : State} (h : Side a b) : SameBytes a b := ⟨h.mem, h.flash, h.copy, h.bad, h.fbad, h.cbad⟩

/-- An object that no event changes. -/
theorem Side.o {a b : State} (h : Side a b) {i x u : Nat} (hk : sideKey (okey i x u) = false) : b.dev.o i x u = a.dev.o i x u := by
  unfold Dev.o; rw [h.obj _ hk]

theorem sideKey_okey {i x u : Nat} (hx : x < 65536) (hu : u < 256) :
    sideKey (okey i x u) = ((x == 0x6060 && u == 0x16) || (x == 0x9000 && (u == 1 || u == 3)) || (x / 16 == 0x604 && u == 0x0D)
      || (x == 0x3040 && u == 8)) := by
  have h1 : bits (okey i x u) 8 16 = x := by unfold bits okey; omega
  have h2 : bits (okey i x u) 0 8 = u := by unfold bits okey; omega
  simp [sideKey, h1, h2]

end Sys2Proof.Machine
end

