-- ==== Sys2Proof/Laws/Link.lean ====
section
/-!
SUPPORT. What the link of a port does with a message: over a free link a message of one flit leaves at once, and nothing else
changes but the count of flits sent.
-/

namespace Sys2Proof.Machine

section
variable {s₀ : State}

/-- Counting leaves every link as it is. -/
@[simp] theorem Run.bumpBy_link (r : Run s₀) (i x u n p : Nat) : (r.bumpBy i x u n).d.link p = r.d.link p := rfl

/-- Sending leaves every link as it is. -/
@[simp] theorem Run.emit_link (r : Run s₀) (o : Out) (p : Nat) : (r.emit o).d.link p = r.d.link p := rfl

/-- A link where nothing waits keeps nothing. -/
theorem Run.drain_nil (r : Run s₀) (p : Nat) (h : (r.d.link p).txq = []) : r.drain p [] [] = r := by simp [Run.drain, h]

/-- Over a free link a message of one flit without a class leaves at once. -/
theorem Run.wire_free (r : Run s₀) (p : Nat) (o : Out) (h : r.d.LinkFree p) : r.wire p o = (r.emit o).bumpBy p 0x3040 8 1 := by
  have hr : 1 ≤ r.d.lackRoom p := Nat.le_trans (by decide) h.room
  have hm : r.d.mayLeave p { out := o, flits := 1 } = 1 := by
    show min 1 (r.d.lackRoom p) = 1
    omega
  unfold Run.wire
  rw [h.idle, List.nil_append]
  simp only [Run.drain, List.any_nil, Bool.false_eq_true, if_false, hm]
  simp only [show ((1 : Nat) == 0) = false from rfl, show ((1 : Nat) == 1) = true from rfl, Bool.false_eq_true, if_false, if_true]
  rw [show r.leave p { out := o, flits := 1 } 1 = (r.emit o).bumpBy p 0x3040 8 1 from rfl]
  simp [h.idle]

end

end Sys2Proof.Machine
end

