-- ==== Sys2Proof/WellFormed.lean ====
section
/-!
DEFINITION. Which command terms spell a command that the outside world can send: one data line for each line a request
carries (Table 7-7), findings at lines the request has, junction readings of every sensor, octets that fit their buffer.
-/

namespace Sys2Proof

/-- The line a finding is at. -/
def Finding.line : Finding → Nat
  | .pathReplays l _ => l
  | .lineCheck l => l
  | .sramParity l _ _ => l
  | .hbmBytes l _ _ => l

/-- Every finding is at a line of the request. -/
def foundIn (fs : List Finding) (n : Nat) : Bool := fs.all (fun f => f.line < n)

/-- A request that carries one data line for each of its LINES (Table 7-7). -/
def dataFits (h : Hdr) (data : List DLine) : Bool := data.length == h.lines.toNat

/-- Octets that fit a mailbox buffer (Table 19-1: 1,040 bytes of mailbox; R442: vendor ID, sub-type and message). -/
def octetsFit (bs : List Byte) (n : Nat) : Bool := bs.length ≤ n

/-- The well-formed commands. -/
def Instr.wf : Instr → Bool
  | .memLoad _ h found => foundIn found h.lines.toNat
  | .memStore _ h data found => dataFits h data && foundIn found h.lines.toNat
  | .reduceAdd _ h data => dataFits h data
  | .reduceMin _ h data => dataFits h data
  | .reduceMax _ h data => dataFits h data
  | .castStore _ h data => dataFits h data
  | .patinaScrub _ found => foundIn found 1
  | .mailboxGo _ _ request => octetsFit request 1040
  | .mctpMessage _ _ body => octetsFit body 1043
  | .nyborWrite _ _ _ value => octetsFit value 1024
  | .configImageAnnounce image => octetsFit image 1048576
  | .reportSigned signature => octetsFit signature 49856
  | _ => true

end Sys2Proof
end

