-- ==== Sys2Proof/Tests/Slice0.lean ====
section
/-!
SUPPORT. Tests: the ill-formed terms that `Instr.wf` refuses; single steps on small states, their expected results worked out from the
spec's tables; and, for every statement of the obligations with hypotheses, states and operands that meet the hypotheses of each clause.
-/

open Sys2Proof Sys2Proof.Machine

namespace Sys2Proof.Tests

section
set_option Elab.async false
set_option maxRecDepth 100000

/-! ### Small states -/

/-- A device in READY with these objects: instance, index, subindex, value. -/
def up (os : List (Nat × Nat × Nat × Nat)) : Dev := { obj := (okey 0 0x1020 1, 7) :: os.map fun o => (okey o.1 o.2.1 o.2.2.1, o.2.2.2) }

/-- A device with these objects alone. -/
def cold (os : List (Nat × Nat × Nat × Nat)) : Dev := { obj := os.map fun o => (okey o.1 o.2.1 o.2.2.1, o.2.2.2) }

/-- The state of a device, its stores empty. -/
def mkSt (d : Dev) : State := { State.reset with dev := d }

/-- `n` bytes with some fields: offset, length, value. -/
def bts (n : Nat) (fs : List (Nat × Nat × Nat)) : List Byte := fs.foldl (fun b f => putFld b f.1 f.2.1 f.2.2) (zeros n)

/-- Bytes of the store by address, length and value; bytes of zero are not listed. -/
def memOf (xs : List (Nat × Nat × Nat)) : List Host.Cell :=
  xs.flatMap fun x => ((List.range x.2.1).map fun i => (x.1 + i, (BitVec.ofNat 8 (x.2.2 / 256 ^ i) : Byte))).filter fun c => c.2 != 0

/-- Bytes of the store from an address. -/
def memAt (a : Nat) (bs : List Byte) : List Host.Cell := ((bs.zipIdx).map fun x => (a + x.2, x.1)).filter fun c => c.2 != 0

/-! ### Conditions from their parts -/

theorem linkFree_of {d : Dev} {p : Nat} (h : (d.link p).txq = [] ∧ 64 ≤ d.lackRoom p) : d.LinkFree p := ⟨h.1, h.2⟩

theorem linkTakes_of {d : Dev} {p cls part : Nat} (h : ((d.link p).txq = [] ∧ 64 ≤ d.lackRoom p) ∧ 64 ≤ (d.link p).flitCr.getD cls 0
    ∧ 64 ≤ (d.link p).reqCr.getD part 0) : d.LinkTakes p cls part := ⟨linkFree_of h.1, h.2.1, h.2.2⟩

theorem quiet_of {d : Dev} (h : d.again = [] ∧ d.objWait = [] ∧ (∀ x ∈ d.harts, x.2.pend = none) ∧ d.recov = [] ∧ d.relief = [] ∧ d.lates = []
    ∧ d.after = [] ∧ d.castOps = [] ∧ d.fences = []) : d.Quiet := by
  obtain ⟨h1, h2, h3, h4, h5, h6, h7, h8, h9⟩ := h
  constructor <;> assumption

theorem idle_of {d : Dev} (h : (d.again = [] ∧ d.objWait = [] ∧ (∀ x ∈ d.harts, x.2.pend = none) ∧ d.recov = [] ∧ d.relief = [] ∧ d.lates = []
    ∧ d.after = [] ∧ d.castOps = [] ∧ d.fences = []) ∧ (d.jobs = [] ∧ d.txns = [] ∧ d.dir = [] ∧ d.comb = [] ∧ d.fills = [] ∧ d.moves = []
    ∧ d.exts = [] ∧ d.quar = [] ∧ d.revokes = [] ∧ d.revoked = [] ∧ d.assigned = [] ∧ d.credits = [] ∧ d.origs = [] ∧ d.fents = []
    ∧ d.walks = [] ∧ d.waits = [] ∧ d.portRst = [] ∧ d.resets = [] ∧ d.fwds = []) ∧ d.inval = [] ∧ d.transit = [] ∧ d.places = []
    ∧ d.split = none ∧ d.clRst = []) : d.Idle := by
  obtain ⟨hq, h, k1, k2, k3, k4, k5⟩ := h
  obtain ⟨h1, h2, h3, h4, h5, h6, h7, h8, h9, h10, h11, h12, h13, h14, h15, h16, h17, h18, h19⟩ := h
  have := quiet_of hq
  constructor <;> assumption

theorem fromPort_of {d : Dev} {p code cls part : Nat} {h : Hdr} (x : d.ready = true ∧ d.noAdmit = false ∧ d.o p 0x3040 1 = 2 ∧ (d.role p = 1 ∨ d.role p = 2)
    ∧ (d.role p = 2 → d.agentState (8 + p) < 2) ∧ headerOk (d.role p) code h = true ∧ h.cls = cls ∧ h.cred = false ∧ d.o 0 0x2000 1 = 0
    ∧ d.identP.get? (p * 128 + bits h.stream.toNat 0 7) = some part ∧ d.partState part = 1 ∧ 0 < d.o part 0x6010 7
    ∧ (d.link p).txq = [] ∧ 64 ≤ d.lackRoom p) : d.FromPort p code cls h part := by
  obtain ⟨h1, h2, h3, h4, h5, h6, h7, h8, h9, h10, h11, h12, h13⟩ := x
  exact ⟨h1, h2, h3, h4, h5, h6, h7, h8, h9, h10, h11, h12, linkFree_of h13⟩

theorem request_of {d : Dev} {p code part a : Nat} {h : Hdr} (f : d.FromPort p code 3 h part) (x : h.n = 1 ∧ h.counter = none
    ∧ d.ownsAsid part h.asid.toNat = true ∧ d.lookUp (blkOfPort p) h.asid.toNat (accessOf code) [h.a] = .ok [a]) : d.Request p code h part a :=
  ⟨f, x.1, x.2.1, x.2.2.1, x.2.2.2⟩

theorem freeLanes_of {d : Dev} {part : Nat} (x : d.lanes = [] ∧ d.laneEv = [] ∧ d.reserved part = 0 ∧ d.commonPct = 100) : d.FreeLanes part := ⟨x.1, x.2.1, x.2.2.1, x.2.2.2⟩

theorem requestL_of {d : Dev} {p code part a : Nat} {h : Hdr} (f : d.FromPort p code 1 h part) (l : d.FreeLanes part) (x : h.counter = none
    ∧ h.dl = false ∧ d.ownsAsid part h.asid.toNat = true ∧ d.lookUp (blkOfPort p) h.asid.toNat (accessOf code) [h.a] = .ok [a]) :
    d.RequestL p code h part a := ⟨f, l, x.1, x.2.1, x.2.2.1, x.2.2.2⟩

theorem cohPort_of {d : Dev} {p code part a : Nat} {h : Hdr} (f : d.FromPort p code 1 h part) (l : d.FreeLanes part) (x : d.role p = 2
    ∧ d.agentState (8 + p) = 1 ∧ h.dl = false ∧ d.ownsAsid part h.asid.toNat = true
    ∧ d.lookUp (blkOfPort p) h.asid.toNat (accessOf code) [h.a] = .ok [a] ∧ d.resWay = [] ∧ 64 ≤ (d.link p).flitCr.getD 1 0) :
    d.CohPort p code h part a := by
  obtain ⟨h1, h2, h3, h4, h5, h6, h7⟩ := x
  exact ⟨f, l, h1, h2, h3, h4, h5, h6, h7⟩

theorem cohCluster_of {d : Dev} {k part : Nat} (x : (d.lanes = [] ∧ d.laneEv = [] ∧ d.reserved part = 0 ∧ d.commonPct = 100) ∧ d.agentState k = 1
    ∧ d.ready = true ∧ d.noAdmit = false ∧ d.o 0 0x2000 1 = 0 ∧ d.corePart k 0 = part ∧ d.resWay = []) : d.CohCluster k part := by
  obtain ⟨h1, h2, h3, h4, h5, h6, h7⟩ := x
  exact ⟨freeLanes_of h1, h2, h3, h4, h5, h6, h7⟩

theorem cohMsg_of {d : Dev} {p code part : Nat} {h : Hdr} (x : d.takes p = true ∧ d.role p = 2 ∧ headerOk 2 code h = true ∧ d.agentState (8 + p) = 1
    ∧ d.identP.get? (p * 128 + bits h.stream.toNat 0 7) = some part ∧ (d.link p).txq = [] ∧ 64 ≤ d.lackRoom p) : d.CohMsg p code h part :=
  ⟨x.1, x.2.1, x.2.2.1, x.2.2.2.1, x.2.2.2.2.1, linkFree_of x.2.2.2.2.2⟩

theorem engine_of {d : Dev} {n code : Nat} {b : List Byte} {c : Chain} (x : (d.pair n).chain = some c ∧ c.desc = b ∧ c.stage = .ready ∧ c.ended = false
    ∧ d.ready = true ∧ d.pins.refSys = true ∧ dOp b = code ∧ hdrOk b = true ∧ ¬ (c.pos = 255 ∧ dCtl b 0 = true) ∧ dSvc b 6 = false
    ∧ (dFixed code = true ∨ dCls b = 3) ∧ d.o 0 0x2000 1 = 0) : d.Engine n code b c := by
  obtain ⟨h1, h2, h3, h4, h5, h6, h7, h8, h9, h10, h11, h12⟩ := x
  exact ⟨h1, h2, h3, h4, h5, h6, h7, h8, h9, h10, h11, h12⟩

theorem goesOn_of {d : Dev} {n code : Nat} {b : List Byte} {c : Chain} (x : (d.pair n).chain = some c ∧ c.desc = b ∧ c.stage = .busy ∧ c.ended = false
    ∧ d.ready = true ∧ d.pins.refSys = true ∧ dOp b = code ∧ dSvc b 6 = false ∧ (d.pair n).parked = [] ∧ (d.pair n).held = none
    ∧ (d.pair n).sent = 0 ∧ (d.pair n).worst = none) : d.GoesOn n code b c := by
  obtain ⟨h1, h2, h3, h4, h5, h6, h7, h8, h9, h10, h11, h12⟩ := x
  exact ⟨h1, h2, h3, h4, h5, h6, h7, h8, h9, h10, h11, h12⟩

theorem hartFree_of {d : Dev} {h part : Nat} (x : d.agentState (h / 4) = 1 ∧ d.ready = true ∧ d.noAdmit = false ∧ d.corePart (h / 4) (h % 4) = part
    ∧ d.o part 0x6050 1 = 1 ∧ (d.harts.getD h {}).credit = none) : d.HartFree h part := ⟨x.1, x.2.1, x.2.2.1, x.2.2.2.1, x.2.2.2.2.1, x.2.2.2.2.2⟩

theorem desk_of {d : Dev} {ses : Session} {q : NReq} (h1 : d.Quiet) (h : d.pins.pwrgood = true ∧ d.ready = true ∧ d.bring.draining = false
    ∧ (∀ x ∈ d.ses, x.2.busy = none ∧ x.2.queue = []) ∧ (sesNum ses ≤ 64 ∨ (sesNum ses ≤ 80 ∧ d.sesI3c (sesNum ses) = false) → d.linkPe = true)
    ∧ (ses = .tap → d.debug = 1) ∧ d.nyDenied (sesNum ses) q (oRow? q.index q.sub) = false ∧ instFits q.index (d.instOf (sesNum ses) q.index) = true) :
    d.Desk ses q := by
  obtain ⟨h2, h3, h4, h5, h6, h7, h8, h9⟩ := h
  exact ⟨h1, h2, h3, h4, h5, h6, h7, h8, h9⟩

theorem placed_of {d : Dev} {a part : Nat} (g : GEnt) (h : d.g? a = some g ∧ g.tier < 2 ∧ g.state = 0 ∧ g.prot = false ∧ g.part = part) :
    d.Placed a part := ⟨g, h⟩

theorem readable_of {s : State} {a part : Nat} (g : GEnt) (h : a % 64 = 0 ∧ a < 2 ^ 62 ∧ (s.dev.g? a = some g ∧ g.tier < 2 ∧ g.state = 0 ∧ g.prot = false
    ∧ g.part = part) ∧ (s.lineAt a).poison = false) : s.Readable a part := ⟨h.1, h.2.1, ⟨g, h.2.2.1⟩, h.2.2.2⟩

theorem readables_of {s : State} {n part : Nat} (a : Nat) (g : GEnt) (h : ∀ i, i < n → (a + 64 * i) % 64 = 0 ∧ a + 64 * i < 2 ^ 62 ∧ (s.dev.g? (a + 64 * i) = some g
    ∧ g.tier < 2 ∧ g.state = 0 ∧ g.prot = false ∧ g.part = part) ∧ (s.lineAt (a + 64 * i)).poison = false) : ∀ i, i < n → s.Readable (a + 64 * i) part :=
  fun i hi => readable_of g (h i hi)

theorem placing_of {d : Dev} {n code kinds g : Nat} {b : List Byte} {c : Chain} {x : GEnt} (h : d.Idle) (h' : d.Engine n code b c) (y : placeOk b kinds 64 = true
    ∧ fld b 0x18 4 = 1 ∧ fld b 0x1D 1 = 0 ∧ fld b 0x10 8 < 2 ^ 62 ∧ granuleOf (fld b 0x10 8) = g ∧ d.gran.get? g = some x ∧ x.part = c.part) :
    d.Placing n code kinds b c g x := by
  obtain ⟨h1, h2, h3, h4, h5, h6, h7⟩ := y
  exact ⟨h, h', h1, h2, h3, h4, h5, h6, h7⟩

theorem hasMould_of {s : State} {part q i : Nat} {m : Mould} (g : GEnt) (h : i < s.dev.o part (0x6040 + q) 9
    ∧ ((s.dev.o part (0x6040 + q) 8 + 64 * i) % 64 = 0 ∧ s.dev.o part (0x6040 + q) 8 + 64 * i < 2 ^ 62
      ∧ (s.dev.g? (s.dev.o part (0x6040 + q) 8 + 64 * i) = some g ∧ g.tier < 2 ∧ g.state = 0 ∧ g.prot = false ∧ g.part = part)
      ∧ (s.lineAt (s.dev.o part (0x6040 + q) 8 + 64 * i)).poison = false)
    ∧ mouldOf (s.bytesAt (s.dev.o part (0x6040 + q) 8 + 64 * i)) = m) : s.HasMould part q i m := ⟨h.1, readable_of g h.2.1, h.2.2⟩

theorem tile1_of {s : State} {part a : Nat} {m : Mould} (g : GEnt) (h : (m.ok = true ∧ m.wio = false ∧ m.n = [1, 1, 1] ∧ m.v = [1, 1, 1] ∧ m.t.isMx = false)
    ∧ a % m.t.unit = 0 ∧ a + m.t.unit ≤ 2 ^ 62 ∧ (s.dev.g? a = some g ∧ g.tier < 2 ∧ g.state = 0 ∧ g.prot = false ∧ g.part = part)
    ∧ (s.lineAt a).poison = false) : s.Tile1 part m a := by
  obtain ⟨⟨h1, h2, h3, h4, h5⟩, h6, h7, h8, h9⟩ := h
  exact ⟨⟨h1, h2, h3, h4, h5⟩, h6, h7, ⟨g, h8⟩, h9⟩

theorem onePath_of {d : Dev} {dst port : Nat} (w : Nat) (h : d.paths.get? dst = some (w, 0, 0, 0) ∧ bit w 6 = true ∧ bits w 0 4 = port)
    (h' : d.lost = [] ∧ d.unreach = [] ∧ d.sends = []) : d.OnePath dst port := ⟨⟨w, h⟩, h'.1, h'.2.1, h'.2.2⟩

theorem plain_of {o : Option DirE} (h : (o.all fun e => !e.proxy) = true) : ∀ e, o = some e → e.proxy = false := by
  intro e he
  subst he
  simpa using h

theorem window_of {d : Dev} {h pa sa : Nat} {w : Bool} (x : Nat) (y : pa < 2 ^ 55 ∧ d.apert.get? (h / 4 * 2048 + bits pa 44 11) = some x ∧ bit x 0 = true
    ∧ (w = true → bit x 1 = false) ∧ sa = bits x 44 18 * 2 ^ 44 + pa % 2 ^ 44) : d.Window h pa sa w := ⟨y.1, ⟨x, y.2⟩⟩

theorem stored_nil {s : State} (h : s.mem = []) (h' : s.bad = []) (l : Nat) : s.stored .mem l = good 0 := by
  have e : lineOf (Mem.read [] (64 * l) 64) = 0 := by
    have : Mem.read [] (64 * l) 64 = List.replicate 64 0 := by simp [Mem.read, Mem.get]
    rw [this]; decide +kernel
  simp [State.stored, State.marks, State.cells, h, h', e]

theorem all_of {α : Type} {o : Option α} {P : α → Prop} [∀ x, Decidable (P x)] (h : (o.all fun x => decide (P x)) = true) : ∀ x, o = some x → P x := by
  intro x hx
  subst hx
  simpa using h

/-- A flit of sequence number 0 with its check (Table 7-2). -/
def goodFlit : BitVec 640 := BitVec.ofNat 640 (crc32c (leBytes 0x4C 0) * 2 ^ 608)
/-- Granule 5 in DRAM, of partition 0; its first line is at 0xA00000. -/
def g5 : GEnt := { tier := 1, part := 0, slot := 7 }
/-- A link that has credits of every class. -/
def lk : Link := { flitCr := [(0, 99), (1, 99), (2, 99), (3, 99)], reqCr := [(0, 99)] }
/-- Port 3 of a role, its identity 0 bound to partition 0, with granule 5 and its page mapped to itself. -/
def prt (role : Nat) : Dev := { up [(3, 0x3040, 1, 2), (3, 0x3010, 2, role), (0, 0x6050, 4, 16), (3, 0x3030, 2, 1)] with
  identP := [(384, 0)], gran := [(5, g5)], links := [(3, lk)]
  tlb := [(1, [{ asid := 0, vpn := 0xA0, bits := 16, pa := 0xA00000, rd := true, wr := true, red := true }])] }
/-- The header of a request of class G for the first line of granule 5. -/
def hG : Hdr := { addr := 0xA00000, sword := 0x000000FFFFFF0003 }
/-- The same of class L. -/
def hL : Hdr := { addr := 0xA00000, sword := 0x000000FFFFFF0001 }
/-- A state with one byte at the first line of granule 5. -/
def byte5 (d : Dev) : State := { mkSt d with mem := [(0xA00001, 7)] }
/-- The same, the line poisoned. -/
def bad5 (d : Dev) : State := { mkSt d with bad := [0x28000] }
/-- Cluster 2 with granule 5; its first core belongs to partition 0. -/
def clu : Dev := { up [(258, 0x5100, 1, 1)] with gran := [(5, g5)] }
/-- The one path to device 9 is port 3. -/
def far (d : Dev) : Dev := { d with paths := [(9, (0x43, 0, 0, 0))] }
/-- The same of class S, naming counter 2 of this device (Table 7-16). -/
def hS : Hdr := { sword := 0x000000FFFFFF0000, ctr := 0x8002, operand2 := 16 }
/-- A descriptor: its code, CLASS and SVC, and other fields by offset and length. -/
def dsc (op cls : Nat) (fs : List (Nat × Nat × Nat)) : List Byte := bts 64 ([(0, 1, op), (1, 1, cls)] ++ fs)
/-- A chain of partition 0 at its one descriptor. -/
def ch (b : List Byte) : Chain := { part := 0, queue := 0, start := 0, descs := [b] }
/-- Pair 0 at this descriptor, granule 5 placed. -/
def eng (b : List Byte) (os : List (Nat × Nat × Nat × Nat)) : Dev := { up os with pairs := [(0, { chain := some (ch b) })], gran := [(5, g5)] }
/-- A mould of one element of a type. -/
def mld (c : Nat) : Mould := { code := c, wio := false, n := [1, 1, 1], v := [1, 1, 1], s1 := 0, s2 := 0, soff := 0, pad := 0, ok := true }
/-- Its record. -/
def mldRec (c : Nat) : Nat := c + 0x100 + 0x000100010001 * 2 ^ 32 + 0x000100010001 * 2 ^ 80
/-- A tile descriptor on pair 0 with three moulds, X at the first line of granule 5, Y at the second, the destination at the third. -/
def tl (b : List Byte) (c0 c1 c2 x y : Nat) : State :=
  { mkSt (eng b [(0, 0x6040, 8, 0xA10000), (0, 0x6040, 9, 3)]) with
    mem := memOf [(0xA00000, 8, x), (0xA00040, 8, y), (0xA10000, 64, mldRec c0), (0xA10040, 64, mldRec c1), (0xA10080, 64, mldRec c2)] }
/-- Core 8 of cluster 2, its window 0 mapped to the same addresses of the store. -/
def core8 : Dev := { clu with apert := [(4096, 1)] }
/-- The host at the physical function, PCI Express up. -/
def dk (os : List (Nat × Nat × Nat × Nat)) : Dev := { up os with linkPe := true }
/-- An embedding table version record: one row type FP32 of one element, four rows at 0xA01000 (Table 10-1). -/
def embBody : List Byte := bts 64 [(0, 2, 0x4542), (2, 1, 1), (3, 1, 8), (4, 2, 1), (6, 2, 64), (8, 4, 4), (0xC, 4, 1), (0x10, 8, 0xA01000)]
/-- The same with an optimiser record at 0xA000C0. -/
def embBodyOpt : List Byte := bts 64 [(0, 2, 0x4542), (2, 1, 1), (3, 1, 8), (4, 2, 1), (6, 2, 64), (8, 4, 4), (0xC, 4, 1), (0x10, 8, 0xA01000), (0x20, 8, 0xA000C0)]
/-- An index record: a flat index of one FP32 vector of one element at 0xA01000 (Table 11-1). -/
def idxBody : List Byte := bts 64 [(0, 2, 0x5653), (2, 1, 1), (4, 1, 8), (6, 2, 1), (8, 4, 1), (0xC, 4, 1), (0x10, 8, 0xA01000), (0x18, 4, 128), (0x1C, 2, 64)]
/-- What it says. -/
def idxRecord : IdxRec := ⟨0, 8, 0, 1, 1, 1, 0xA01000, 128, 64, 0, 0, 0⟩
/-- A pool record: one block of 16 slots, one head of 32 BF16 elements, at 0xA10000 (Table 12-1). -/
def poolBody : List Byte := bts 64 [(0, 2, 0x4B56), (2, 1, 1), (3, 1, 0xA), (4, 1, 1), (5, 1, 1), (6, 2, 32), (8, 2, 16), (0xC, 4, 1), (0x10, 8, 0xA10000), (0x18, 4, 2048), (0x1C, 4, 2048)]
/-- What it says. -/
def poolRecord : Pool := ⟨0xA, 1, 1, 32, 16, 1, 0xA10000, 2048, 2048⟩
/-- `CKPT.RESTORE` with a manifest of no regions read. -/
def restoring : State := { mkSt { up [] with gran := [(5, g5)], pairs := [(0, { chain := some { ch (dsc 0xA5 3 [(0x10, 8, 0xA00000)]) with stage := .busy }, phase := 17, kept := [(kRes, ({ raw := 9 } : WioRes).bytes)] })] } with mem := memOf [(0xA00000, 8, 0x0157494D46), (0xA00008, 4, 1)] }
/-- `VS.MERGE` with one list of one entry. -/
def merging : State := { mkSt (eng (dsc 0x81 3 [(0x10, 8, 0xA00000), (0x18, 8, 0xA04000), (0x20, 4, 128), (0x24, 2, 1), (0x26, 2, 1), (0x28, 4, 9)]) []) with mem := memOf [(0xA00000, 8, 0x700000009), (0xA00008, 2, 1), (0xA00040, 8, 0x123456)] }
/-- `ATTEND.DECODE` with one token. -/
def attending : State := { mkSt (eng (dsc 0x90 3 [(0x10, 8, 0xA00000), (0x18, 8, 0xA00040), (0x20, 8, 0xA00080), (0x28, 8, 0xA00100), (0x30, 4, 1), (0x35, 1, 1), (0x36, 1, 4)]) []) with mem := memAt 0xA00000 poolBody ++ memOf [(0xA00080, 3, 0x0A4B51), (0xA000C0, 4, 0x3F803F80), (0xA10000, 4, 0x3F804000), (0xA10400, 4, 0x3F804040)] }
/-- A READ of 0x1020:01. -/
def getPhase : List Byte := bts 16 [(0, 1, 1), (1, 1, 1), (4, 2, 0x1020), (6, 1, 1)]

/-! ### Ill-formed commands are refused -/

/-- A finding at a line that the load has not. -/
theorem test_wf_load : Instr.wf (.memLoad 0 { lines := 1 } [.lineCheck 1]) = false := by decide
/-- A store of two lines with one line of data. -/
theorem test_wf_store : Instr.wf (.memStore 0 { lines := 2 } [good 0] []) = false := by decide
/-- A store with a finding at a line it has not. -/
theorem test_wf_store_found : Instr.wf (.memStore 0 { lines := 1 } [good 0] [.lineCheck 3]) = false := by decide
/-- Reductions and a cast store without data. -/
theorem test_wf_add : Instr.wf (.reduceAdd 0 {} []) = false := by decide
theorem test_wf_min : Instr.wf (.reduceMin 0 {} []) = false := by decide
theorem test_wf_max : Instr.wf (.reduceMax 0 {} []) = false := by decide
theorem test_wf_cast : Instr.wf (.castStore 0 {} []) = false := by decide
/-- A scrub of one line with a finding at another. -/
theorem test_wf_scrub : Instr.wf (.patinaScrub 0 [.lineCheck 1]) = false := by decide
/-- Octets that do not fit the buffer they stand in. -/
theorem test_wf_mailbox : Instr.wf (.mailboxGo 0 false (List.replicate 1041 0)) = false := by simp [Instr.wf, octetsFit]
theorem test_wf_mctp : Instr.wf (.mctpMessage false 0 (List.replicate 1044 0)) = false := by simp [Instr.wf, octetsFit]
theorem test_wf_write : Instr.wf (.nyborWrite .pf 0 0 (List.replicate 1025 0)) = false := by simp [Instr.wf, octetsFit]
theorem test_wf_image {bs : List Byte} (h : bs.length = 1048577) : Instr.wf (.configImageAnnounce bs) = false := by simp [Instr.wf, octetsFit, h]
theorem test_wf_signature {bs : List Byte} (h : bs.length = 49857) : Instr.wf (.reportSigned bs) = false := by simp [Instr.wf, octetsFit, h]

/-! ### Values worked out from the tables -/

/-- Does a command's next state pass a check? -/
def next (c : Instr) (s : State) (f : State → Bool) : Bool := match exec c s with | .next t => f t | _ => false

/-- The check value of CRC-32C: the nine digits "123456789". -/
theorem test_crc32c : crc32c [49, 50, 51, 52, 53, 54, 55, 56, 57] = 0xE3069283 := by decide +kernel
/-- Table 2-3: T1, MOVING, partition 2, slot 7, journal record 5. -/
theorem test_granule_entry : gentWord { tier := 1, state := 1, part := 2, slot := 7, jidx := 5 } = 0x0005000000070205 := by decide +kernel
/-- R145: a target is reached when the value is at or past it, modulo 2^64. -/
theorem test_reached_wraps : reached 2 0xFFFFFFFFFFFFFFFE = true ∧ reached 0xFFFFFFFFFFFFFFFE 2 = false := by decide
/-- Sequence numbers count modulo 2^32. -/
theorem test_seq_wraps : seqBefore 0xFFFFFFFF 0 = true ∧ seqBefore 0 0xFFFFFFFF = false := by decide
/-- 1.0 + 2.0 = 3.0. -/
theorem test_fp32_add : F32.add 0x3F800000 0x40000000 = 0x40400000 := by decide +kernel
/-- 1 + 2^-8 rounds to the even BF16 1.0, 1 + 3·2^-8 up to 1 + 2^-6. -/
theorem test_bf16_rounds : F32.conv BF16 0x3F808000 = 0x3F80 ∧ F32.conv BF16 0x3F818000 = 0x3F82 := by decide +kernel

/-! ### Single steps -/

/-- A load returns its line: byte 1 of the line is 7. -/
theorem test_load : next (.memLoad 3 hG []) (byte5 (prt 1)) (fun t => t.out.any fun o => o == .data 3 0 0 0 0 (good 0x700)) = true := by decide +kernel
/-- An INT32 atomic addition wraps in its word and leaves the next word; it returns the old value. -/
theorem test_atomic_wraps : atomicLine .add .int32 0 2 0 0x1FFFFFFFF = (0x100000001, 0xFFFFFFFF) := by decide +kernel
/-- A comparison that fails writes nothing and returns the old value. -/
theorem test_cas_fails : atomicLine .cas .int32 4 2 9 0x500000000 = (0x500000000, 5) := by decide +kernel
/-- A counter wraps at 2^64. -/
theorem test_counter_wraps : next (.syncAdd (.port 3 { hS with operand := 3 })) (mkSt { prt 1 with ctrs := [(2, { value := 0xFFFFFFFFFFFFFFFF })] })
    (fun t => (t.dev.ctr 2).value == 2) = true := by decide +kernel
/-- R18: a step longer than 1.20 ns raises the target by 10 mV; 1.20 ns does not. -/
theorem test_slow : next (.speedMonitorSample (Vector.replicate 16 1201)) (mkSt { up [] with pins := { mv := 850 } }) (fun t => t.dev.pins.mv == 860) = true
    ∧ next (.speedMonitorSample (Vector.replicate 16 1200)) (mkSt { up [] with pins := { mv := 850 } }) (fun t => t.dev.pins.mv == 850) = true := by
  decide +kernel
/-- INT8 products: −2 · 3 accumulates to −6. -/
theorem test_matmul : next (.tileMatmul 0) (tl (dsc 0x63 3 [(0x10, 8, 0xA00000), (0x18, 8, 0xA00040), (0x20, 8, 0xA00080), (0x2A, 2, 1), (0x2C, 2, 2),
    (0x2E, 1, 2)]) 5 5 1 0xFE 3) (fun t => (t.dev.pair 0).acc == [0xFFFFFFFA]) = true := by decide +kernel
/-- The physical function reads the phase: READY is 7. -/
theorem test_read_phase : next (.nyborRead .pf 0x1020 1) (mkSt (dk [])) (fun t => t.out.any fun o =>
    o == .mailbox 0 (nyMsg { opc := 1, index := 0x1020, sub := 1 } .ok 0 [7])) = true := by decide +kernel
/-- On an empty queue the timer advances by one tick of 8 ns. -/
theorem test_tick : (match step (mkSt (up [])) with | .next t => t.dev.now | _ => 0) = 8000 := by decide +kernel

/-- The last block and the last granule of the store meet the bounds of `HomeSlicesEven`. -/
theorem wit_HomeSlicesEven : ∃ b g : Nat, b < 2 ^ 48 ∧ g < 2 ^ 41 := ⟨2 ^ 48 - 1, 2 ^ 41 - 1, by decide, by decide⟩

/-! ### The hypotheses of the statements are met -/

/-- States and operands that meet the hypotheses of each clause of `EmptyQueueTicks`. -/
theorem wit_EmptyQueueTicks :
    ∃ (s : State), s.dev.Quiet ∧ s.pending = [] ∧ s.dev.ses = [] ∧ s.dev.portRst = [] ∧ s.dev.exts = [] :=
  ⟨State.reset, quiet_of (by decide +kernel), by decide +kernel⟩

/-- States and operands that meet the hypotheses of each clause of `CommandsOnlyAdd`. -/
theorem wit_CommandsOnlyAdd :
    ∃ (c : Sys2Proof.Instr) (s : State) (t : State), exec c s = .next t :=
  ⟨.heartbeat, State.reset, State.reset, rfl⟩

/-- States and operands that meet the hypotheses of each clause of `StepKeepsStores`. -/
theorem wit_StepKeepsStores :
    ∃ (s : State) (t : State), s.Inv ∧ step s = .next t :=
  ⟨State.reset, (match step State.reset with | .next t => t | _ => State.reset), ⟨by decide, by decide, by decide, by decide, by decide, by decide⟩,
    rfl⟩

/-- States and operands that meet the hypotheses of each clause of `SlowMonitorRaisesVoltage`. -/
theorem wit_SlowMonitorRaisesVoltage :
    ∃ (ps : Vector Nat 16) (s : State), s.dev.Quiet ∧ s.dev.pins.pwrgood = true ∧ s.dev.pins.mv ≠ 0 ∧ s.dev.o 0 0xA010 1 ≠ 2 ∧ s.dev.mayBurst
      speedBurst = true ∧ 1200 < ps.toList.foldl max 0 ∧ s.dev.pins.mv + 10 ≤ 900 :=
  ⟨Vector.replicate 16 1201, mkSt { up [] with pins := { mv := 890 } }, quiet_of (by decide +kernel), by decide +kernel⟩

/-- States and operands that meet the hypotheses of each clause of `VoltageAndBus`. -/
theorem wit_VoltageAndBus :
    (∃ (ps : Vector Nat 16) (s : State), s.dev.Quiet ∧ s.dev.pins.mv ≠ 0 ∧ nominalMv + 5 ≤ s.dev.pins.mv ∧ s.dev.pins.pwrgood = true ∧ s.dev.o 0
      0xA010 1 ≠ 2 ∧ s.dev.mayBurst speedBurst = true ∧ ps.toList.foldl max 0 ≤ 1150 ∧ s.dev.pins.lowered + us 1000 ≤ s.dev.now)
    ∧ (∃ (s : State), s.dev.Quiet ∧ s.dev.pins.pwrgood = true ∧ s.dev.phase = 7 ∧ s.dev.pins.mv ≠ 0 ∧ s.dev.o 0 0xA010 1 ≠ 2 ∧ 2 ≤
      s.dev.pins.busFails)
    ∧ (∃ (s : State), s.dev.Quiet ∧ s.dev.o 0 0xA010 1 = 2)
    ∧ (∃ (ps : Vector Nat 16) (s : State), s.dev.Quiet ∧ s.dev.pins.pwrgood = true ∧ s.dev.pins.mv ≠ 0 ∧ s.dev.o 0 0xA010 1 = 2 ∧ s.dev.mayBurst
      speedBurst = true ∧ 1200 < ps.toList.foldl max 0 ∧ max s.dev.pins.mv s.dev.pins.want + 10 ≤ 900) :=
  ⟨⟨Vector.replicate 16 1150, mkSt { up [] with pins := { mv := nominalMv + 5 }, now := us 1000 }, quiet_of (by decide +kernel), Nat.succ_ne_zero _,
    Nat.le_refl _, by decide +kernel⟩,
   ⟨mkSt { up [] with pins := { mv := 800, busFails := 2 } }, quiet_of (by decide +kernel), by decide +kernel⟩,
   ⟨mkSt { up [(0, 0xA010, 1, 2)] with pins := { mv := 800, want := 810 } }, quiet_of (by decide +kernel), by decide +kernel⟩,
   ⟨Vector.replicate 16 1201, mkSt { up [(0, 0xA010, 1, 2)] with pins := { mv := 880 } , now := us 1000 }, quiet_of (by decide +kernel),
     by decide +kernel⟩⟩

/-- States and operands that meet the hypotheses of each clause of `HoldsAndSensors`. -/
theorem wit_HoldsAndSensors :
    (∃ (ts : Vector Int 72) (s : State), s.dev.Quiet ∧ s.dev.pins.pwrgood = true ∧ bit (s.dev.o 0 0x2000 1) 0 = false ∧ 100000 ≤ ts.toList.foldl max
      (-273150) ∧ ts.toList.foldl max (-273150) ≤ 105000)
    ∧ (∃ (s : State), s.dev.Quiet ∧ s.dev.o 0 0x2000 1 = 2 ∧ s.dev.pins.slowAt + us 100 ≤ s.dev.now)
    ∧ (∃ (s : State), s.dev.Quiet ∧ s.dev.o 0 0x2000 1 = 1 ∧ s.dev.pins.hotAt + us 1000 ≤ s.dev.now)
    ∧ (∃ (mW : Nat) (s : State), s.dev.Quiet ∧ s.dev.pins.pwrgood = true ∧ s.dev.pins.samples = [] ∧ 720000 < mW ∧ bit (s.dev.o 0 0x2000 1) 2 = false
      ∧ s.dev.o 0 0xA010 3 ≤ mW)
    ∧ (∃ (s : State), s.dev.Quiet ∧ s.dev.pins.pwrgood = true ∧ s.dev.pins.thermtrip = false) :=
  ⟨⟨Vector.replicate 72 100000, mkSt (up []), quiet_of (by decide +kernel), by decide +kernel⟩,
   ⟨mkSt { up [(0, 0x2000, 1, 2)] with now := us 100 }, quiet_of (by decide +kernel), by decide +kernel⟩,
   ⟨mkSt { up [(0, 0x2000, 1, 1)] with now := us 1000 }, quiet_of (by decide +kernel), by decide +kernel⟩,
   ⟨720001, mkSt (up []), quiet_of (by decide +kernel), by decide +kernel⟩,
   ⟨mkSt (up []), quiet_of (by decide +kernel), by decide +kernel⟩⟩

/-- States and operands that meet the hypotheses of each clause of `ReferenceLost`. -/
theorem wit_ReferenceLost :
    (∃ (s : State), s.dev.Quiet ∧ s.dev.pins.pwrgood = true ∧ s.dev.pins.refSys = true)
    ∧ (∃ (s : State), s.dev.Quiet ∧ s.dev.pins.pwrgood = true ∧ s.dev.pins.refPe = true)
    ∧ (∃ (h : Half) (s : State), s.dev.Quiet ∧ s.dev.pins.pwrgood = true ∧ s.dev.pins.refW = true ∧ s.dev.pins.refE = true ∧ ((∀ p ∈ halfPorts h,
      s.dev.o p 0x3040 1 = 0)))
    ∧ (∃ (p : Fin 16) (s : State), s.dev.Quiet ∧ s.dev.pins.pwrgood = true ∧ s.dev.pins.refW = true ∧ s.dev.pins.refE = true ∧ s.dev.paths = [] ∧
      s.dev.sends = [] ∧ s.dev.role p.val ≠ 2 ∧ s.dev.o p.val 0x3040 1 = 2 ∧ ((∀ q ∈ List.range 16, q ≠ p.val → s.dev.o q 0x3040 1 = 0)))
    ∧ (∃ (s : State), s.dev.Quiet ∧ s.dev.pins.pwrgood = true ∧ s.dev.pins.refW = false ∧ s.dev.pins.refE = false ∧ s.dev.ready = true) :=
  ⟨⟨mkSt (up []), quiet_of (by decide +kernel), by decide +kernel⟩,
   ⟨mkSt (up []), quiet_of (by decide +kernel), by decide +kernel⟩,
   ⟨.west, mkSt (up []), quiet_of (by decide +kernel), by decide +kernel⟩,
   ⟨3, mkSt (up [(3, 0x3040, 1, 2)]), quiet_of (by decide +kernel), by decide +kernel⟩,
   ⟨mkSt { up [] with pins := { refW := false, refE := false } }, quiet_of (by decide +kernel), by decide +kernel⟩⟩

/-- States and operands that meet the hypotheses of each clause of `ResetsBegin`. -/
theorem wit_ResetsBegin :
    (∃ (s : State), s.dev.Quiet ∧ s.dev.pins.pwrgood = true ∧ s.dev.phase = 7 ∧ s.dev.bring.draining = false ∧ s.dev.ses = [] ∧ s.dev.comb = [] ∧
      s.dev.pointing = false)
    ∧ (∃ (s : State), s.dev.Quiet ∧ s.dev.bring.draining = true ∧ s.dev.jobs = [] ∧ s.dev.txns = [] ∧ s.dev.origs = [] ∧ s.dev.pairs = [] ∧
      s.dev.fents = [] ∧ s.dev.resets = [] ∧ s.dev.comb = [] ∧ s.dev.l2 = [] ∧ s.dev.dir = [] ∧ s.dev.quar = [] ∧ s.dev.revokes = [] ∧ s.dev.prop =
      none ∧ s.dev.probing = [] ∧ s.dev.pairState = 0) :=
  ⟨⟨mkSt (up []), quiet_of (by decide +kernel), by decide +kernel⟩,
   ⟨mkSt { up [] with bring := { draining := true } }, quiet_of (by decide +kernel), by decide +kernel⟩⟩

/-- States and operands that meet the hypotheses of each clause of `BringupPhases`. -/
theorem wit_BringupPhases :
    (∃ (f : PhaseFound) (s : State), s.dev.Quiet ∧ s.dev.phase = 1 ∧ s.dev.o 0 0x1020 2 = 0 ∧ s.dev.bring.coldWait = none ∧ f.plinth = true ∧
      s.dev.bring.report.length < 1024)
    ∧ (∃ (f : PhaseFound) (s : State), s.dev.Quiet ∧ s.dev.phase = 1 ∧ s.dev.o 0 0x1020 2 = 0 ∧ s.dev.bring.coldWait = none ∧ f.plinth = false)
    ∧ (∃ (f : PhaseFound) (s : State), s.dev.Quiet ∧ s.dev.phase = 6 ∧ s.dev.o 0 0x1020 2 = 0 ∧ s.dev.bring.coldWait = none ∧ s.dev.bring.coldFail =
      none ∧ f.clusters = [] ∧ s.dev.emb = [] ∧ s.dev.idx = [] ∧ ((∀ p, p < 16 → s.dev.o p 0x3040 1 ≠ 2)))
    ∧ (∃ (s : State), s.dev.Quiet ∧ 0 < s.dev.phase ∧ s.dev.phase < 7 ∧ s.dev.bring.coldWait = none ∧ s.dev.bring.phaseAt + us (1000 * phaseBound
      (s.dev.o 0 0x1020 2 == 1) s.dev.phase) < s.dev.now ∧ s.dev.bring.report.length < 1024)
    ∧ (∃ (p : Fin 16) (s : State), s.dev.Quiet ∧ s.dev.phase = 5 ∧ s.dev.o p.val 0x3040 1 = 1 ∧ s.dev.bring.report.length < 1024)
    ∧ (∃ (s : State), s.dev.Quiet ∧ s.dev.pins.pwrgood = true ∧ (s.dev.phase = 1 ∨ s.dev.phase = 2) ∧ s.dev.o 0 0x1020 2 = 0) :=
  ⟨⟨{}, mkSt (cold [(0, 0x1020, 1, 1)]), quiet_of (by decide +kernel), by decide +kernel⟩,
   ⟨{ plinth := false }, mkSt (cold [(0, 0x1020, 1, 1)]), quiet_of (by decide +kernel), by decide +kernel⟩,
   ⟨{}, mkSt (cold [(0, 0x1020, 1, 6)]), quiet_of (by decide +kernel), by decide +kernel⟩,
   ⟨mkSt { cold [(0, 0x1020, 1, 2)] with now := us 300001 }, quiet_of (by decide +kernel), by decide +kernel⟩,
   ⟨3, mkSt (cold [(0, 0x1020, 1, 5), (3, 0x3040, 1, 1)]), quiet_of (by decide +kernel), by decide +kernel⟩,
   ⟨mkSt (cold [(0, 0x1020, 1, 2)]), quiet_of (by decide +kernel), by decide +kernel⟩⟩

/-- States and operands that meet the hypotheses of each clause of `ColdWait`. -/
theorem wit_ColdWait :
    (∃ (ts : Vector Int 72) (s : State) (t0 : Nat), s.dev.Quiet ∧ s.dev.bring.coldWait = some t0 ∧
      ({ s.dev with pins := { s.dev.pins with temps := ts.toList } } : Dev).tooCold s.dev.phase = false)
    ∧ (∃ (ts : Vector Int 72) (s : State) (t0 : Nat), s.dev.Quiet ∧ s.dev.bring.coldWait = some t0 ∧
      ({ s.dev with pins := { s.dev.pins with temps := ts.toList } } : Dev).tooCold s.dev.phase = true)
    ∧ (∃ (s : State) (t0 : Nat), s.dev.Quiet ∧ s.dev.bring.coldWait = some t0 ∧ 60000 ≤ s.dev.waitMs ∧ s.dev.tooCold s.dev.phase = true) :=
  ⟨⟨Vector.replicate 72 0, mkSt { cold [(0, 0x1020, 1, 2)] with bring := { coldWait := some 5 }, now := us 1000 }, 5, quiet_of (by decide +kernel),
    by decide +kernel⟩,
   ⟨Vector.replicate 72 (-1), mkSt { cold [(0, 0x1020, 1, 2)] with bring := { coldWait := some 5 } }, 5, quiet_of (by decide +kernel),
     by decide +kernel⟩,
   ⟨mkSt { cold [(0, 0x1020, 1, 2)] with bring := { coldWait := some 0 }, now := us 60000000, pins := { temps := [-1] } }, 0, quiet_of
     (by decide +kernel), by decide +kernel⟩⟩

/-- States and operands that meet the hypotheses of each clause of `Training`. -/
theorem wit_Training :
    (∃ (ch : Fin 256) (t' : TrainResult) (s : State), s.dev.Quiet ∧ s.dev.phase = 4 ∧ s.dev.bring.coldWait = none ∧ t'.good = true ∧ bit (s.dev.o
      (ch.val / 32) 0x4010 1) (ch.val % 32) = false)
    ∧ (∃ (t' : TrainResult) (s : State), s.dev.Quiet ∧ s.dev.phase = 4 ∧ s.dev.bring.coldWait = none ∧ t'.good = false)
    ∧ (∃ (t' : TrainResult) (s : State), s.dev.Quiet ∧ s.dev.phase = 4 ∧ s.dev.bring.coldWait = none ∧ t'.good = false)
    ∧ (∃ (p : Fin 16) (t' : TrainResult) (s : State), s.dev.Quiet ∧ s.dev.phase = 5 ∧ s.dev.o p.val 0x3040 1 = 1 ∧ t'.good = true ∧ s.dev.portClock
      p.val = true) :=
  ⟨⟨35, { good := true }, mkSt (cold [(0, 0x1020, 1, 4)]), quiet_of (by decide +kernel), by decide +kernel⟩,
   ⟨{ good := false }, mkSt (cold [(0, 0x1020, 1, 4)]), quiet_of (by decide +kernel), by decide +kernel⟩,
   ⟨{ good := false }, mkSt (cold [(0, 0x1020, 1, 4)]), quiet_of (by decide +kernel), by decide +kernel⟩,
   ⟨3, { good := true, lanes := 7 }, mkSt (cold [(0, 0x1020, 1, 5), (3, 0x3040, 1, 1)]), quiet_of (by decide +kernel), by decide +kernel⟩⟩

/-- States and operands that meet the hypotheses of each clause of `KnownAnswerRuns`. -/
theorem wit_KnownAnswerRuns :
    (∃ (n : Fin 1024) (s : State), s.dev.Quiet ∧ s.dev.ready = true ∧ s.dev.bring.draining = false ∧ s.dev.standbyFixed (n.val / 4) = false ∧
      s.dev.quar = [] ∧ s.dev.bring.katRun = [] ∧ (s.dev.pair n.val).chain = none ∧ (s.dev.pair n.val).held = none ∧ (s.dev.pair n.val).helps = none)
    ∧ (∃ (n : Fin 1024) (s : State), s.dev.Quiet ∧ s.dev.ready = true ∧ n.val ∈ s.dev.bring.katRun ∧ s.dev.bring.katDue = [] ∧ s.dev.bring.katBad =
      []) :=
  ⟨⟨5, mkSt (up []), quiet_of (by decide +kernel), by decide +kernel⟩,
   ⟨5, mkSt { up [] with bring := { katRun := [5] } }, quiet_of (by decide +kernel), by decide +kernel⟩⟩

/-- States and operands that meet the hypotheses of each clause of `LinkFlits`. -/
theorem wit_LinkFlits :
    (∃ (p : Fin 16) (f : BitVec 640) (s : State), s.dev.Quiet ∧ s.dev.o p.val 0x3040 1 = 2 ∧ (s.dev.link p.val).txq = [] ∧ crc32c (leBytes 0x4C
      f.toNat) = bits f.toNat 608 32 ∧ bits f.toNat 0 12 = (s.dev.link p.val).expect)
    ∧ (∃ (p : Fin 16) (f : BitVec 640) (s : State), s.dev.Quiet ∧ s.dev.LinkFree p.val ∧ s.dev.o p.val 0x3040 1 = 2 ∧ crc32c (leBytes 0x4C f.toNat) ≠
      bits f.toNat 608 32 ∧ (s.dev.link p.val).nakMode = false ∧ (s.dev.link p.val).badCount = 0 ∧ (s.dev.link p.val).nakAt = [])
    ∧ (∃ (p : Fin 16) (first : BitVec 12) (s : State), s.dev.Quiet ∧ s.dev.o p.val 0x3040 1 = 2 ∧ (first.toNat + 4096 - (s.dev.link p.val).oldest) %
      4096 < (s.dev.nextOut p.val + 4096 - (s.dev.link p.val).oldest) % 4096)
    ∧ (∃ (p : Fin 16) (s : State), s.dev.Quiet ∧ s.dev.o p.val 0x3040 1 = 3 ∧ s.dev.role p.val = 0)
    ∧ (∃ (p : Fin 16) (w : BitVec 32) (s : State), s.dev.Quiet ∧ s.dev.o p.val 0x3040 1 = 2 ∧ bits w.toNat 16 16 ≠ 0 ∧ bits w.toNat 9 7 = 0 ∧
      (s.dev.link p.val).txq = [])
    ∧ (∃ (p : Fin 16) (part : BitVec 8) (c : Nat) (x : TxItem) (s : State), s.dev.Quiet ∧ s.dev.o p.val 0x3040 1 = 2 ∧ (s.dev.link p.val).txq = [x] ∧
      x.part = some part.toNat ∧ x.cls = some c ∧ 0 < x.flits ∧ x.flits ≤ s.dev.lackRoom p.val ∧ x.flits ≤ (s.dev.link p.val).flitCr.getD c 0 ∧
      (s.dev.link p.val).reqCr.getD part.toNat 0 = 0) :=
  ⟨⟨3, goodFlit, mkSt (up [(3, 0x3040, 1, 2)]), quiet_of (by decide +kernel), by decide +kernel⟩,
   ⟨3, 1, mkSt (up [(3, 0x3040, 1, 2)]), quiet_of (by decide +kernel), linkFree_of (by decide +kernel), by decide +kernel⟩,
   ⟨3, 4, mkSt (up [(3, 0x3040, 1, 2), (3, 0x3040, 8, 6)]), quiet_of (by decide +kernel), by decide +kernel⟩,
   ⟨3, mkSt (up [(3, 0x3040, 1, 3), (3, 0x3010, 2, 0)]), quiet_of (by decide +kernel), by decide +kernel⟩,
   ⟨3, 0x00010102, mkSt (up [(3, 0x3040, 1, 2)]), quiet_of (by decide +kernel), by decide +kernel⟩,
   ⟨3, 0, 1, { out := .pin "X" true, flits := 2, cls := some 1, part := some 0 }, mkSt
     { up [(3, 0x3040, 1, 2)] with links := [(3, { txq := [{ out := .pin "X" true, flits := 2, cls := some 1, part := some 0 }], flitCr := [(1, 9)] })] },
     quiet_of (by decide +kernel), by decide +kernel⟩⟩

/-- States and operands that meet the hypotheses of each clause of `LoadReturnsLine`. -/
theorem wit_LoadReturnsLine :
    ∃ (p : Fin 16) (h : Hdr) (s : State) (part : Nat) (a : Nat), s.dev.Idle ∧ s.dev.Request p.val 0x01 h part a ∧ s.dev.Placed a part ∧ h.etype = 0 :=
  ⟨3, hG, byte5 (prt 1), 0, 0xA00000, idle_of (by decide +kernel), request_of (fromPort_of (by decide +kernel)) (by decide +kernel), placed_of g5
    (by decide +kernel), by decide +kernel⟩

/-- States and operands that meet the hypotheses of each clause of `StoresWriteOneLine`. -/
theorem wit_StoresWriteOneLine :
    (∃ (p : Fin 16) (h : Hdr) (s : State) (part : Nat) (a : Nat), s.dev.Idle ∧ s.dev.Request p.val 0x02 h part a ∧ s.dev.Placed a part)
    ∧ (∃ (p : Fin 16) (h : Hdr) (s : State) (part : Nat) (a : Nat), s.dev.Idle ∧ s.dev.Request p.val 0x03 h part a ∧ s.dev.Placed a part ∧ (s.lineAt
      a).poison = false)
    ∧ (∃ (p : Fin 16) (h : Hdr) (s : State) (part : Nat) (a : Nat), s.dev.Idle ∧ s.dev.Request p.val 0x03 h part a ∧ s.dev.Placed a part ∧ (s.lineAt
      a).poison = true) :=
  ⟨⟨3, hG, byte5 (prt 1), 0, 0xA00000, idle_of (by decide +kernel), request_of (fromPort_of (by decide +kernel)) (by decide +kernel), placed_of g5
    (by decide +kernel)⟩,
   ⟨3, { hG with operand := 3 }, byte5 (prt 2), 0, 0xA00000, idle_of (by decide +kernel), request_of (fromPort_of (by decide +kernel))
     (by decide +kernel), placed_of g5 (by decide +kernel), by decide +kernel⟩,
   ⟨3, { hG with operand := 3 }, bad5 (prt 1), 0, 0xA00000, idle_of (by decide +kernel), request_of (fromPort_of (by decide +kernel))
     (by decide +kernel), placed_of g5 (by decide +kernel), by decide +kernel⟩⟩

/-- States and operands that meet the hypotheses of each clause of `ReductionsCombine`. -/
theorem wit_ReductionsCombine :
    (∃ (p : Fin 16) (h : Hdr) (x : DLine) (et : EType) (s : State) (part : Nat) (a : Nat), s.dev.Idle ∧ s.dev.Request p.val 0x08 h part a ∧
      s.dev.Placed a part ∧ EType.of? h.etype.toNat = some et ∧ x.poison = false ∧ (s.lineAt a).poison = false)
    ∧ (∃ (p : Fin 16) (h : Hdr) (x : DLine) (et : EType) (s : State) (part : Nat) (a : Nat), s.dev.Idle ∧ s.dev.Request p.val 0x09 h part a ∧
      s.dev.Placed a part ∧ EType.of? h.etype.toNat = some et ∧ x.poison = false ∧ (s.lineAt a).poison = false)
    ∧ (∃ (p : Fin 16) (h : Hdr) (x : DLine) (et : EType) (s : State) (part : Nat) (a : Nat), s.dev.Idle ∧ s.dev.Request p.val 0x0A h part a ∧
      s.dev.Placed a part ∧ EType.of? h.etype.toNat = some et ∧ x.poison = false ∧ (s.lineAt a).poison = false)
    ∧ (∃ (p : Fin 16) (h : Hdr) (s : State) (part : Nat) (a : Nat), s.dev.Idle ∧ s.dev.Request p.val 0x08 h part a ∧ s.dev.Placed a part ∧ (s.lineAt
      a).poison = true) :=
  ⟨⟨3, { hG with etype := 1 }, good 5, .int32, byte5 (prt 1), 0, 0xA00000, idle_of (by decide +kernel), request_of (fromPort_of (by decide +kernel))
    (by decide +kernel), placed_of g5 (by decide +kernel), by decide +kernel⟩,
   ⟨3, { hG with etype := 1 }, good 5, .int32, byte5 (prt 1), 0, 0xA00000, idle_of (by decide +kernel), request_of (fromPort_of (by decide +kernel))
     (by decide +kernel), placed_of g5 (by decide +kernel), by decide +kernel⟩,
   ⟨3, { hG with etype := 1 }, good 5, .int32, byte5 (prt 1), 0, 0xA00000, idle_of (by decide +kernel), request_of (fromPort_of (by decide +kernel))
     (by decide +kernel), placed_of g5 (by decide +kernel), by decide +kernel⟩,
   ⟨3, { hG with etype := 1 }, bad5 (prt 1), 0, 0xA00000, idle_of (by decide +kernel), request_of (fromPort_of (by decide +kernel))
     (by decide +kernel), placed_of g5 (by decide +kernel), by decide +kernel⟩⟩

/-- States and operands that meet the hypotheses of each clause of `AtomicsReturnOld`. -/
theorem wit_AtomicsReturnOld :
    (∃ (p : Fin 16) (h : Hdr) (et : EType) (s : State) (part : Nat) (a : Nat), s.dev.Idle ∧ s.dev.RequestL p.val 0x10 h part a ∧ s.dev.Placed a part ∧
      EType.of? h.etype.toNat = some et ∧ (s.lineAt a).poison = false)
    ∧ (∃ (p : Fin 16) (h : Hdr) (et : EType) (s : State) (part : Nat) (a : Nat), s.dev.Idle ∧ s.dev.RequestL p.val 0x11 h part a ∧ s.dev.Placed a part
      ∧ EType.of? h.etype.toNat = some et ∧ (s.lineAt a).poison = false)
    ∧ (∃ (p : Fin 16) (h : Hdr) (et : EType) (s : State) (part : Nat) (a : Nat), s.dev.Idle ∧ s.dev.RequestL p.val 0x12 h part a ∧ s.dev.Placed a part
      ∧ EType.of? h.etype.toNat = some et ∧ (s.lineAt a).poison = false)
    ∧ (∃ (p : Fin 16) (h : Hdr) (et : EType) (s : State) (part : Nat) (a : Nat), s.dev.Idle ∧ s.dev.RequestL p.val 0x13 h part a ∧ s.dev.Placed a part
      ∧ EType.of? h.etype.toNat = some et ∧ (s.lineAt a).poison = false) :=
  ⟨⟨3, { hL with etype := 1, operand := 5 }, .int32, byte5 (prt 1), 0, 0xA00000, idle_of (by decide +kernel), requestL_of (fromPort_of
    (by decide +kernel)) (freeLanes_of (by decide +kernel)) (by decide +kernel), placed_of g5 (by decide +kernel), by decide +kernel⟩,
   ⟨3, { hL with etype := 1, operand := 5 }, .int32, byte5 (prt 1), 0, 0xA00000, idle_of (by decide +kernel), requestL_of (fromPort_of
     (by decide +kernel)) (freeLanes_of (by decide +kernel)) (by decide +kernel), placed_of g5 (by decide +kernel), by decide +kernel⟩,
   ⟨3, { hL with etype := 1, operand := 5 }, .int32, byte5 (prt 1), 0, 0xA00000, idle_of (by decide +kernel), requestL_of (fromPort_of
     (by decide +kernel)) (freeLanes_of (by decide +kernel)) (by decide +kernel), placed_of g5 (by decide +kernel), by decide +kernel⟩,
   ⟨3, { hL with etype := 1, operand := 5 }, .int32, byte5 (prt 1), 0, 0xA00000, idle_of (by decide +kernel), requestL_of (fromPort_of
     (by decide +kernel)) (freeLanes_of (by decide +kernel)) (by decide +kernel), placed_of g5 (by decide +kernel), by decide +kernel⟩⟩

/-- States and operands that meet the hypotheses of each clause of `CastReliefCombining`. -/
theorem wit_CastReliefCombining :
    (∃ (p : Fin 16) (h : Hdr) (s : State) (part : Nat) (g : Nat) (size : Nat) (base : Nat), s.dev.Idle ∧ s.dev.FromPort p.val 0x0C 3 h part ∧
      s.dev.Placed (base + h.a) part ∧ h.n = 1 ∧ h.counter = none ∧ h.cast = some g ∧ s.dev.casts.get? g = some ⟨part, size, [(s.dev.self, base)]⟩ ∧
      h.a + 64 ≤ size ∧ base % 64 = 0 ∧ base + h.a < 2 ^ 62 ∧ s.dev.sends = [])
    ∧ (∃ (n : Nat) (port : Nat) (e : Relief) (s : State), ({ s.dev with relief := [] } : Dev).Quiet ∧ s.dev.OnePath e.dst port ∧ s.dev.LinkTakes port
      e.h.cls e.part ∧ s.dev.relief = [(n, e)] ∧ e.ctr = none ∧ e.openedAt + ns (s.dev.o 0 0x3F00 1) ≤ s.dev.now)
    ∧ (∃ (addr : BitVec 64) (c : Comb) (s : State) (part : Nat), s.dev.Quiet ∧ s.dev.Placed addr.toNat part ∧ s.dev.comb.get? (lineNo addr.toNat) =
      some c ∧ c.used + us 10 ≤ s.dev.now) :=
  ⟨⟨3, { hG with addr := 0, stream := 0x10020000, flags := 0x44 }, byte5 { prt 1 with casts := [(2, ⟨0, 64, [(0, 0xA00000)]⟩)] }, 0, 2, 64, 0xA00000,
    idle_of (by decide +kernel), fromPort_of (by decide +kernel), placed_of g5 (by decide +kernel), by decide +kernel⟩,
   ⟨4, 3,
     { line := 0, op := .add, et := .int32, part := 0, ctr := none, dst := 9, opener := .ident 3 0, openedAt := 0, count := 2, who := [], data := good 5, h := hG },
     mkSt
     { far (prt 1) with now := us 100, relief := [(4, { line := 0, op := .add, et := .int32, part := 0, ctr := none, dst := 9, opener := .ident 3 0, openedAt := 0, count := 2, who := [], data := good 5, h := hG })] },
     quiet_of (by decide +kernel), onePath_of 0x43 (by decide +kernel) (by decide +kernel), linkTakes_of (by decide +kernel), by decide +kernel⟩,
   ⟨0xA00000, ⟨good 5, 0⟩, mkSt { prt 1 with comb := [(0x28000, ⟨good 5, 0⟩)], now := us 10 }, 0, quiet_of (by decide +kernel), placed_of g5
     (by decide +kernel), by decide +kernel⟩⟩

/-- States and operands that meet the hypotheses of each clause of `ClusterCopies`. -/
theorem wit_ClusterCopies :
    (∃ (k : Fin 8) (addr : BitVec 64) (s : State) (part : Nat), s.dev.Idle ∧ s.dev.CohCluster k.val part ∧ s.dev.Placed addr.toNat part ∧ s.dev.l2 =
      [] ∧ addr.toNat < 2 ^ 62 ∧ (s.lineAt addr.toNat).poison = false)
    ∧ (∃ (k : Fin 8) (addr : BitVec 64) (s : State) (part : Nat), s.dev.Idle ∧ s.dev.CohCluster k.val part ∧ s.dev.Placed addr.toNat part ∧ s.dev.l2 =
      [] ∧ addr.toNat < 2 ^ 62 ∧ (s.lineAt addr.toNat).poison = false)
    ∧ (∃ (k : Fin 8) (addr : BitVec 64) (x : Line) (s : State) (part : Nat), ({ s.dev with dir := [] } : Dev).Idle ∧ s.dev.CohCluster k.val part ∧
      s.dev.Placed addr.toNat part ∧ s.dev.dir = [(lineNo addr.toNat, { st := .ds, p0 := k.val })] ∧ s.dev.l2 = [(l2Key k.val (lineNo addr.toNat),
      ⟨.s, x⟩)] ∧ addr.toNat < 2 ^ 62)
    ∧ (∃ (k : Fin 8) (addr : BitVec 64) (x : Line) (s : State), s.dev.Quiet ∧ s.Owns (lineNo addr.toNat) k.val ∧ s.dev.l2.get? (l2Key k.val (lineNo
      addr.toNat)) = some ⟨.e, x⟩)
    ∧ (∃ (k : Fin 8) (addr : BitVec 64) (x : Line) (s : State), s.dev.Quiet ∧ s.Owns (lineNo addr.toNat) k.val ∧ ((∀ e, s.dev.dir.get? (lineNo
      addr.toNat) = some e → e.proxy = false)) ∧ s.dev.Placed addr.toNat (s.dev.corePart k.val 0) ∧ addr.toNat < 2 ^ 62 ∧ s.dev.l2.get? (l2Key k.val
      (lineNo addr.toNat)) = some ⟨.m, x⟩) :=
  ⟨⟨2, 0xA00000, byte5 clu, 0, idle_of (by decide +kernel), cohCluster_of (by decide +kernel), placed_of g5 (by decide +kernel), by decide +kernel⟩,
   ⟨2, 0xA00000, byte5 clu, 0, idle_of (by decide +kernel), cohCluster_of (by decide +kernel), placed_of g5 (by decide +kernel), by decide +kernel⟩,
   ⟨2, 0xA00000, 9, byte5 { clu with dir := [(0x28000, { st := .ds, p0 := 2 })], l2 := [(l2Key 2 0x28000, ⟨.s, 9⟩)] }, 0, idle_of (by decide +kernel),
     cohCluster_of (by decide +kernel), placed_of g5 (by decide +kernel), by decide +kernel⟩,
   ⟨2, 0xA00000, 9, byte5 { clu with dir := [(0x28000, { st := .dx, p0 := 2 })], l2 := [(l2Key 2 0x28000, ⟨.e, 9⟩)] }, quiet_of (by decide +kernel),
     (by unfold State.Owns; decide +kernel), by decide +kernel⟩,
   ⟨2, 0xA00000, 9, byte5 { clu with dir := [(0x28000, { st := .dx, p0 := 2 })], l2 := [(l2Key 2 0x28000, ⟨.m, 9⟩)] }, quiet_of (by decide +kernel),
     (by unfold State.Owns; decide +kernel), plain_of (by decide +kernel), placed_of g5 (by decide +kernel), by decide +kernel⟩⟩

/-- States and operands that meet the hypotheses of each clause of `PortCopies`. -/
theorem wit_PortCopies :
    (∃ (p : Fin 16) (h : Hdr) (s : State) (part : Nat) (a : Nat), s.dev.Idle ∧ s.dev.CohPort p.val 0x20 h part a ∧ s.dev.Placed a part ∧ a % 64 = 0 ∧
      (s.lineAt a).poison = false)
    ∧ (∃ (p : Fin 16) (h : Hdr) (s : State) (part : Nat) (a : Nat), s.dev.Idle ∧ s.dev.CohPort p.val 0x21 h part a ∧ s.dev.Placed a part ∧ a % 64 = 0
      ∧ (s.lineAt a).poison = false)
    ∧ (∃ (p : Fin 16) (h : Hdr) (s : State) (part : Nat) (a : Nat), ({ s.dev with dir := [] } : Dev).Idle ∧ s.dev.CohPort p.val 0x22 h part a ∧
      s.dev.Placed a part ∧ s.dev.dir = [(lineNo a, { st := .ds, p0 := 8 + p.val })] ∧ a % 64 = 0)
    ∧ (∃ (p : Fin 16) (h : Hdr) (s : State) (part : Nat), s.dev.Quiet ∧ s.dev.CohMsg p.val 0x23 h part ∧ s.Owns (lineNo h.a) (8 + p.val) ∧
      s.dev.linePart (lineNo h.a) = part)
    ∧ (∃ (p : Fin 16) (h : Hdr) (s : State) (part : Nat), s.dev.Quiet ∧ s.dev.CohMsg p.val 0x24 h part ∧ s.Owns (lineNo h.a) (8 + p.val) ∧ ((∀ e,
      s.dev.dir.get? (lineNo h.a) = some e → e.proxy = false)) ∧ s.dev.Placed h.a part)
    ∧ (∃ (p : Fin 16) (h : Hdr) (b : Nat) (counted : Bool) (s : State) (part : Nat), s.dev.Quiet ∧ s.dev.CohMsg p.val 0x30 h part ∧ s.Owns (lineNo
      h.a) (8 + p.val) ∧ ((∀ e, s.dev.dir.get? (lineNo h.a) = some e → e.proxy = false)) ∧ s.dev.Placed h.a part ∧ s.dev.txns = [(lineNo h.a,
      { kind := .evict counted, wait := [8 + p.val], began := b })])
    ∧ (∃ (p : Fin 16) (h : Hdr) (b : Nat) (counted : Bool) (s : State) (part : Nat), s.dev.Quiet ∧ s.dev.CohMsg p.val 0x31 h part ∧ s.dev.Placed h.a
      part ∧ s.dev.txns = [(lineNo h.a, { kind := .evict counted, wait := [8 + p.val], began := b })] ∧ s.dev.dir = []) :=
  ⟨⟨3, hL, byte5 (prt 2), 0, 0xA00000, idle_of (by decide +kernel), cohPort_of (fromPort_of (by decide +kernel)) (freeLanes_of (by decide +kernel))
    (by decide +kernel), placed_of g5 (by decide +kernel), by decide +kernel⟩,
   ⟨3, hL, byte5 (prt 2), 0, 0xA00000, idle_of (by decide +kernel), cohPort_of (fromPort_of (by decide +kernel)) (freeLanes_of (by decide +kernel))
     (by decide +kernel), placed_of g5 (by decide +kernel), by decide +kernel⟩,
   ⟨3, hL, byte5 { prt 2 with dir := [(0x28000, { st := .ds, p0 := 11 })] }, 0, 0xA00000, idle_of (by decide +kernel), cohPort_of (fromPort_of
     (by decide +kernel)) (freeLanes_of (by decide +kernel)) (by decide +kernel), placed_of g5 (by decide +kernel), by decide +kernel⟩,
   ⟨3, hL, byte5 { prt 2 with dir := [(0x28000, { st := .dx, p0 := 11 })] }, 0, quiet_of (by decide +kernel), cohMsg_of (by decide +kernel),
     (by unfold State.Owns; decide +kernel), by decide +kernel⟩,
   ⟨3, hL, byte5 { prt 2 with dir := [(0x28000, { st := .dx, p0 := 11 })] }, 0, quiet_of (by decide +kernel), cohMsg_of (by decide +kernel),
     (by unfold State.Owns; decide +kernel), plain_of (by decide +kernel), placed_of g5 (by decide +kernel)⟩,
   ⟨3, hL, 4, false, byte5
     { prt 2 with dir := [(0x28000, { st := .dx, p0 := 11 })], txns := [(0x28000, { kind := .evict false, wait := [11], began := 4 })] }, 0, quiet_of
     (by decide +kernel), cohMsg_of (by decide +kernel), (by unfold State.Owns; decide +kernel), plain_of (by decide +kernel), placed_of g5
     (by decide +kernel), by decide +kernel⟩,
   ⟨3, hL, 4, false, byte5 { prt 2 with txns := [(0x28000, { kind := .evict false, wait := [11], began := 4 })] }, 0, quiet_of (by decide +kernel),
     cohMsg_of (by decide +kernel), placed_of g5 (by decide +kernel), by decide +kernel⟩⟩

/-- States and operands that meet the hypotheses of each clause of `RoundsAndCredits`. -/
theorem wit_RoundsAndCredits :
    (∃ (p : Fin 16) (addr : BitVec 64) (b : Nat) (part : Nat) (counted : Bool) (s : State), s.dev.Quiet ∧ s.Owns (lineNo addr.toNat) (8 + p.val) ∧ ((∀
      e, s.dev.dir.get? (lineNo addr.toNat) = some e → e.proxy = false)) ∧ s.dev.Placed addr.toNat part ∧ addr.toNat < 2 ^ 62 ∧ s.dev.txns = [(lineNo
      addr.toNat, { kind := .evict counted, wait := [8 + p.val], began := b })] ∧ b + ns 350 ≤ s.dev.now)
    ∧ (∃ (p : Fin 16) (s : State), s.dev.Quiet ∧ s.dev.dir = [] ∧ 2 ≤ s.dev.o p.val 0x3030 2)
    ∧ (∃ (p : Fin 16) (l : Nat) (e : DirE) (x : Txn) (s : State), s.dev.Quiet ∧ s.dev.dir = [(l, e)] ∧ (8 + p.val) ∈ e.named ∧ s.dev.txns = [(l, x)] ∧
      2 ≤ s.dev.o p.val 0x3030 2)
    ∧ (∃ (n : Nat) (c : Credit) (s : State), s.dev.Quiet ∧ s.dev.credits.get? n = some c ∧ c.until_ < s.dev.now ∧ c.held = none) :=
  ⟨⟨3, 0xA00000, 4, 0, false, byte5
    { prt 2 with dir := [(0x28000, { st := .dx, p0 := 11 })], txns := [(0x28000, { kind := .evict false, wait := [11], began := 4 })], now := 4 + ns 350 },
    quiet_of (by decide +kernel), (by unfold State.Owns; decide +kernel), plain_of (by decide +kernel), placed_of g5 (by decide +kernel),
    by decide +kernel⟩,
   ⟨3, mkSt (up [(3, 0x3030, 2, 3), (3, 0x3010, 2, 2), (3, 0x3040, 1, 2)]), quiet_of (by decide +kernel), by decide +kernel⟩,
   ⟨3, 0x28000, { st := .dx, p0 := 11 }, { kind := .evict false, wait := [11], began := 4 }, byte5
     { prt 2 with obj := (prt 2).obj.set (okey 3 0x3030 2) 2, dir := [(0x28000, { st := .dx, p0 := 11 })], txns := [(0x28000, { kind := .evict false, wait := [11], began := 4 })] },
     quiet_of (by decide +kernel), by decide +kernel⟩,
   ⟨4,
     { src := .ident 3 0, tag := 1, part := 0, cls := 3, code := 1, addr := 0, asid := 0, start := 0, until_ := 4, hint := 0, reason := 1, home := false, loc := 3, booked := [] },
     mkSt
     { up [] with now := 5, credits := [(4, { src := .ident 3 0, tag := 1, part := 0, cls := 3, code := 1, addr := 0, asid := 0, start := 0, until_ := 4, hint := 0, reason := 1, home := false, loc := 3, booked := [] })] },
     quiet_of (by decide +kernel), by decide +kernel⟩⟩

/-- States and operands that meet the hypotheses of each clause of `AnswersArrive`. -/
theorem wit_AnswersArrive :
    (∃ (p : Fin 16) (f : ComplFlit) (o : Orig) (q : Nat) (i : Nat) (dev : Nat) (path : Nat) (rid : Nat) (s : State), s.dev.Quiet ∧ s.dev.LinkFree q ∧
      s.dev.takes p.val = true ∧ bits f.dstdev.toNat 0 14 = s.dev.self ∧ s.dev.origs.get? f.reqid.toNat = some o ∧ o.src = .ident q i ∧ o.reply =
      .port q dev path rid ∧ o.req.code = 0x02 ∧ f.status = 0)
    ∧ (∃ (p : Fin 16) (f : ComplFlit) (i : Nat) (s : State), s.dev.Quiet ∧ s.dev.LinkFree (s.dev.pathPort (bits f.dstdev.toNat 0 14) i) ∧ s.dev.takes
      p.val = true ∧ s.dev.transit = [] ∧ bits f.dstdev.toNat 0 14 ≠ s.dev.self ∧ f.status = 0 ∧ s.dev.relayPath (bits f.dstdev.toNat 0 14) (bits
      f.dstdev.toNat 14 2) = some i)
    ∧ (∃ (p : Fin 16) (f : RespFlit) (o : Orig) (q : Nat) (i : Nat) (dev : Nat) (path : Nat) (rid : Nat) (s : State), s.dev.Quiet ∧ s.dev.LinkFree q ∧
      s.dev.takes p.val = true ∧ f.dstdev.toNat = s.dev.self ∧ s.dev.origs.get? f.reqid.toNat = some o ∧ o.src = .ident q i ∧ o.reply = .port q dev
      path rid ∧ o.req.code = 0x01 ∧ o.req.h.n = 1 ∧ o.got = [] ∧ f.line = 0) :=
  ⟨⟨5, { dstdev := 0, status := 0, reqid := 6, word := 64, value := 8 },
    { req := { code := 2, h := hG, data := [] }, src := .ident 3 0, dst := 9, reply := .port 3 0 0 77, strm := 0 }, 3, 0, 0, 0, 77, mkSt
    { up [(5, 0x3040, 1, 2)] with origs := [(6, { req := { code := 2, h := hG, data := [] }, src := .ident 3 0, dst := 9, reply := .port 3 0 0 77, strm := 0 })] },
    quiet_of (by decide +kernel), linkFree_of (by decide +kernel), by decide +kernel⟩,
   ⟨5, { dstdev := 9, status := 0, reqid := 6, word := 64, value := 8 }, 0, mkSt (far (up [(5, 0x3040, 1, 2)])), quiet_of (by decide +kernel),
     linkFree_of (by decide +kernel), by decide +kernel⟩,
   ⟨5, { dstdev := 0, reqid := 6, line := 0, path := 0, data := good 5 },
     { req := { code := 1, h := hG, data := [] }, src := .ident 3 0, dst := 9, reply := .port 3 0 0 77, strm := 0 }, 3, 0, 0, 0, 77, mkSt
     { up [(5, 0x3040, 1, 2)] with origs := [(6, { req := { code := 1, h := hG, data := [] }, src := .ident 3 0, dst := 9, reply := .port 3 0 0 77, strm := 0 })] },
     quiet_of (by decide +kernel), linkFree_of (by decide +kernel), by decide +kernel⟩⟩

/-- States and operands that meet the hypotheses of each clause of `StreamsKeepOrder`. -/
theorem wit_StreamsKeepOrder :
    (∃ (p : Fin 16) (id : StreamId) (dst : BitVec 14) (st : SendS) (s : State), s.dev.Quiet ∧ s.dev.takes p.val = true ∧ id.dev.toNat = s.dev.self ∧
      id.agent.toNat < 0x1100 ∧ id.cast = none ∧ s.dev.sends.get? (sKey id.agent.toNat dst.toNat none) = some st)
    ∧ (∃ (id : StreamId) (rs : RecvS) (s : State), s.dev.Quiet ∧ s.dev.LinkFree rs.port ∧ id.cast = none ∧ s.dev.recvs.get? (rKey id.dev.toNat
      id.agent.toNat none) = some rs ∧ rs.begun = true)
    ∧ (∃ (id : StreamId) (rs : RecvS) (t0 : Nat) (s : State), s.dev.Quiet ∧ ((∀ q, q < 16 → s.dev.LinkFree q)) ∧ id.cast = none ∧ s.dev.recvs.get?
      (rKey id.dev.toNat id.agent.toNat none) = some rs ∧ rs.gap = some t0 ∧ t0 + us 20 ≤ s.dev.now ∧ rs.port < 16 ∧ ((∀ x ∈ rs.held, x.2.1 < 16)))
    ∧ (∃ (p : Fin 16) (id : StreamId) (dst : BitVec 14) (st : SendS) (s : State), s.dev.Quiet ∧ s.dev.takes p.val = true ∧ id.dev.toNat = s.dev.self ∧
      id.agent.toNat < 0x1100 ∧ id.cast = none ∧ s.dev.sends.get? (sKey id.agent.toNat dst.toNat none) = some st ∧ s.dev.lost.has (dst.toNat * 4 +
      st.path) = true)
    ∧ (∃ (p : Fin 16) (id : StreamId) (dst : BitVec 14) (st : SendS) (n : Nat) (w : Nat) (w' : Nat) (q : Req) (s : State), s.dev.Quiet ∧
      s.dev.LinkTakes (bits w' 0 4) q.h.cls q.h.part.toNat ∧ s.dev.takes p.val = true ∧ id.dev.toNat = s.dev.self ∧ id.agent.toNat < 0x1100 ∧ id.cast
      = none ∧ s.dev.paths.get? dst.toNat = some (w, w', 0, 0) ∧ bit w 6 = true ∧ bit w' 6 = true ∧ s.dev.lost = [] ∧ s.dev.sends = [(sKey
      id.agent.toNat dst.toNat none, st)] ∧ st.path = 0 ∧ st.unacked = [(n, q)] ∧ q.data.length < 64)
    ∧ (∃ (id : StreamId) (dst : BitVec 14) (st : SendS) (s : State), s.dev.Quiet ∧ s.dev.LinkFree st.port ∧ id.cast = none ∧ s.dev.sends.get? (sKey
      id.agent.toNat dst.toNat none) = some st ∧ st.unacked = [] ∧ st.idle + us 100 ≤ s.dev.now)
    ∧ (∃ (p : Fin 16) (id : StreamId) (s : State), s.dev.Quiet ∧ s.dev.takes p.val = true ∧ id.cast = none)
    ∧ (∃ (p : Fin 16) (id : StreamId) (dst : BitVec 14) (st : SendS) (n : Nat) (q : Req) (o : Orig) (i : Nat) (dev : Nat) (path : Nat) (rid : Nat) (s
      : State), s.dev.Quiet ∧ s.dev.LinkFree p.val ∧ s.dev.takes p.val = true ∧ id.dev.toNat = s.dev.self ∧ id.agent.toNat < 0x1100 ∧ id.cast = none ∧
      s.dev.sends.get? (sKey id.agent.toNat dst.toNat none) = some st ∧ st.unacked = [(n, q)] ∧ q.h.dst = dst.toNat ∧ s.dev.origs.get? q.h.reqid.toNat
      = some o ∧ o.dst = dst.toNat ∧ o.src = .ident p.val i ∧ o.reply = .port p.val dev path rid ∧ o.req.code = 0x02) :=
  ⟨⟨3, { dev := 0, agent := 5 }, 9, { port := 3, unacked := [(1, { code := 2, h := { hG with dstdev := 9, reqid := 6 } })] }, mkSt
    { up [(3, 0x3040, 1, 2)] with sends := [(81929, { port := 3, unacked := [(1, { code := 2, h := { hG with dstdev := 9, reqid := 6 } })] })] },
    quiet_of (by decide +kernel), by decide +kernel⟩,
   ⟨{ dev := 9, agent := 5 }, { done := 4, next := 4, port := 3, begun := true }, mkSt
     { up [(3, 0x3040, 1, 2)] with recvs := [(589829, { done := 4, next := 4, port := 3, begun := true })] }, quiet_of (by decide +kernel),
     linkFree_of (by decide +kernel), by decide +kernel⟩,
   ⟨{ dev := 9, agent := 5 }, { done := 4, next := 4, port := 3, gap := some 7 }, 7, mkSt
     { up [(3, 0x3040, 1, 2)] with recvs := [(589829, { done := 4, next := 4, port := 3, gap := some 7 })], now := us 21 }, quiet_of
     (by decide +kernel), fun q _ => linkFree_of (by revert q; decide +kernel), by decide +kernel⟩,
   ⟨3, { dev := 0, agent := 5 }, 9, { port := 3, unacked := [(1, { code := 2, h := { hG with dstdev := 9, reqid := 6 } })] }, mkSt
     { up [(3, 0x3040, 1, 2)] with sends := [(81929, { port := 3, unacked := [(1, { code := 2, h := { hG with dstdev := 9, reqid := 6 } })] })], lost := [(36, (0, 0))] },
     quiet_of (by decide +kernel), by decide +kernel⟩,
   ⟨3, { dev := 0, agent := 5 }, 9, { port := 3, unacked := [(1, { code := 2, h := { hG with dstdev := 9, reqid := 6 } })] }, 1, 0x43, 0x45,
     { code := 2, h := { hG with dstdev := 9, reqid := 6 } }, mkSt
     { up [(3, 0x3040, 1, 2)] with paths := [(9, (0x43, 0x45, 0, 0))], links := [(5, lk)], sends := [(81929, { port := 3, unacked := [(1, { code := 2, h := { hG with dstdev := 9, reqid := 6 } })] })], now := us 50 },
     quiet_of (by decide +kernel), linkTakes_of (by decide +kernel), by decide +kernel⟩,
   ⟨{ dev := 0, agent := 5 }, 9, { port := 3 }, mkSt { up [(3, 0x3040, 1, 2)] with sends := [(81929, { port := 3 })], now := us 100 }, quiet_of
     (by decide +kernel), linkFree_of (by decide +kernel), by decide +kernel⟩,
   ⟨3, { dev := 9, agent := 5 }, mkSt { up [(3, 0x3040, 1, 2)] with recvs := [(589829, {})] }, quiet_of (by decide +kernel), by decide +kernel⟩,
   ⟨3, { dev := 0, agent := 5 }, 9, { port := 3, unacked := [(1, { code := 2, h := { hG with dstdev := 9, reqid := 6 } })] }, 1,
     { code := 2, h := { hG with dstdev := 9, reqid := 6 } },
     { req := { code := 2, h := { hG with dstdev := 9, reqid := 6 } }, src := .ident 3 0, dst := 9, reply := .port 3 0 0 77, strm := 0 }, 0, 0, 0, 77,
     mkSt
     { up [(3, 0x3040, 1, 2)] with sends := [(81929, { port := 3, unacked := [(1, { code := 2, h := { hG with dstdev := 9, reqid := 6 } })] })], origs := [(6, { req := { code := 2, h := { hG with dstdev := 9, reqid := 6 } }, src := .ident 3 0, dst := 9, reply := .port 3 0 0 77, strm := 0 })] },
     quiet_of (by decide +kernel), linkFree_of (by decide +kernel), by decide +kernel⟩⟩

/-- States and operands that meet the hypotheses of each clause of `PathsAreProbed`. -/
theorem wit_PathsAreProbed :
    (∃ (id : StreamId) (dst : BitVec 14) (w : Nat) (n : Nat) (st : SendS) (q : Req) (s : State), s.dev.Quiet ∧ id.cast = none ∧ id.agent.toNat <
      0x1100 ∧ s.dev.paths.get? dst.toNat = some (w, 0, 0, 0) ∧ bit w 6 = true ∧ s.dev.lost = [] ∧ s.dev.sends = [(sKey id.agent.toNat dst.toNat none,
      st)] ∧ st.unacked = [(n, q)] ∧ q.h.dst = dst.toNat ∧ q.h.path = 0 ∧ st.lastAck + us 40 ≤ s.dev.now)
    ∧ (∃ (dst : BitVec 14) (i : Fin 4) (t0 : Nat) (t1 : Nat) (s : State), s.dev.Quiet ∧ s.dev.LinkTakes (s.dev.pathPort dst.toNat i.val) 0 0 ∧
      s.dev.lost.get? (dst.toNat * 4 + i.val) = some (t0, t1) ∧ t1 + us 1000 ≤ s.dev.now ∧ s.dev.o (s.dev.pathPort dst.toNat i.val) 0x3040 1 = 2 ∧
      s.dev.probes dst.toNat i.val = false)
    ∧ (∃ (dst : BitVec 14) (i : Fin 4) (t0 : Nat) (t1 : Nat) (k : Nat) (o : Orig) (s : State), s.dev.Quiet ∧ s.dev.lost.get? (dst.toNat * 4 + i.val) =
      some (t0, t1) ∧ s.dev.origs = [(k, o)] ∧ o.reply = .probe dst.toNat i.val ∧ o.began + us 40 ≤ s.dev.now)
    ∧ (∃ (p : Fin 16) (h : Hdr) (s : State), s.dev.Idle ∧ s.dev.FreeLanes h.part.toNat ∧ s.dev.LinkFree p.val ∧ s.dev.takes p.val = true ∧ s.dev.role
      p.val = 3 ∧ s.dev.noAdmit = false ∧ headerOk 3 0x52 h = true ∧ h.dst = s.dev.self ∧ h.agent = 0x1002 ∧ h.flag 0 = false ∧ h.seq = 0 ∧ h.cred =
      false ∧ s.dev.o 0 0x2000 1 = 0 ∧ s.dev.partState h.part.toNat = 1 ∧ 0 < s.dev.o h.part.toNat 0x6010 7 ∧ s.dev.ctrOwner (bits h.ctr.toNat 0 15) =
      h.part.toNat)
    ∧ (∃ (dst : BitVec 14) (w : Nat) (t0 : Nat) (t1 : Nat) (s : State), s.dev.Quiet ∧ s.dev.paths.get? dst.toNat = some (w, 0, 0, 0) ∧ bit w 6 = true
      ∧ s.dev.lost = [(dst.toNat * 4, (t0, t1))] ∧ t0 + us 100 ≤ s.dev.now ∧ s.dev.unreach = [] ∧ s.dev.sends = [] ∧ s.dev.prop = none ∧ s.dev.exts =
      []) :=
  ⟨⟨{ dev := 0, agent := 5 }, 9, 0x43, 1, { port := 3, unacked := [(1, { code := 2, h := { hG with dstdev := 9, reqid := 6 } })] },
    { code := 2, h := { hG with dstdev := 9, reqid := 6 } }, mkSt
    { far (up []) with sends := [(81929, { port := 3, unacked := [(1, { code := 2, h := { hG with dstdev := 9, reqid := 6 } })] })], now := us 40 },
    quiet_of (by decide +kernel), by decide +kernel⟩,
   ⟨9, 0, 5, 6, mkSt { far (up [(3, 0x3040, 1, 2)]) with lost := [(36, (5, 6))], now := us 1001, links := [(3, lk)] }, quiet_of (by decide +kernel),
     linkTakes_of (by decide +kernel), by decide +kernel⟩,
   ⟨9, 0, 5, 6, 4, { req := { code := 0x52, h := {} }, src := .plinth, dst := 9, reply := .probe 9 0, strm := 0 }, mkSt
     { far (up [(3, 0x3040, 1, 2)]) with lost := [(36, (5, 6))], origs := [(4, { req := { code := 0x52, h := {} }, src := .plinth, dst := 9, reply := .probe 9 0, strm := 0 })], now := us 1001, links := [(3, lk)] },
     quiet_of (by decide +kernel), by decide +kernel⟩,
   ⟨3, { sword := 0x000000FFFFFF0000, ctr := 0x8002, srcdev := 9, stream := 0x1002 }, mkSt (up [(3, 0x3040, 1, 2), (3, 0x3010, 2, 3)]), idle_of
     (by decide +kernel), freeLanes_of (by decide +kernel), linkFree_of (by decide +kernel), by decide +kernel⟩,
   ⟨9, 0x43, 0, 0, mkSt { far (up []) with lost := [(36, (0, 0))], now := us 100 }, quiet_of (by decide +kernel), by decide +kernel⟩⟩

/-- States and operands that meet the hypotheses of each clause of `PortCounters`. -/
theorem wit_PortCounters :
    (∃ (p : Fin 16) (h : Hdr) (s : State) (part : Nat), s.dev.Idle ∧ s.dev.FromPort p.val 0x50 0 h part ∧ s.dev.FreeLanes part ∧ (syncFOf h).dev.getD
      s.dev.self = s.dev.self ∧ s.dev.ctrOwner (syncFOf h).ctr = part ∧ s.dev.doorbells (syncFOf h).ctr = [])
    ∧ (∃ (p : Fin 16) (h : Hdr) (s : State) (part : Nat), s.dev.Idle ∧ s.dev.FromPort p.val 0x51 0 h part ∧ s.dev.FreeLanes part ∧ (syncFOf
      h).dev.getD s.dev.self = s.dev.self ∧ s.dev.ctrOwner (syncFOf h).ctr = part ∧ s.dev.doorbells (syncFOf h).ctr = [] ∧ (s.dev.ctr (syncFOf
      h).ctr).arm = none)
    ∧ (∃ (p : Fin 16) (h : Hdr) (s : State) (part : Nat), s.dev.Idle ∧ s.dev.FromPort p.val 0x52 0 h part ∧ s.dev.FreeLanes part ∧ (syncFOf
      h).dev.getD s.dev.self = s.dev.self ∧ s.dev.ctrOwner (syncFOf h).ctr = part)
    ∧ (∃ (p : Fin 16) (h : Hdr) (s : State) (part : Nat), s.dev.Idle ∧ s.dev.FromPort p.val 0x53 0 h part ∧ s.dev.FreeLanes part ∧ (syncFOf
      h).dev.getD s.dev.self = s.dev.self ∧ s.dev.ctrOwner (syncFOf h).ctr = part ∧ s.dev.doorbells (syncFOf h).ctr = [] ∧ (syncFOf h).notify = false
      ∧ reached (s.dev.ctr (syncFOf h).ctr).value h.operand = false)
    ∧ (∃ (p : Fin 16) (h : Hdr) (s : State) (part : Nat), s.dev.Idle ∧ s.dev.FromPort p.val 0x53 0 h part ∧ s.dev.FreeLanes part ∧ (syncFOf
      h).dev.getD s.dev.self = s.dev.self ∧ s.dev.ctrOwner (syncFOf h).ctr = part ∧ s.dev.doorbells (syncFOf h).ctr = [] ∧ (syncFOf h).notify = true ∧
      (syncFOf h).event = false ∧ (syncFOf h).ndev.getD s.dev.self = s.dev.self ∧ s.dev.ctrOwner (syncFOf h).nctr = part ∧ (syncFOf h).nctr ≠ (syncFOf
      h).ctr ∧ s.dev.doorbells (syncFOf h).nctr = [] ∧ (s.dev.ctr (syncFOf h).nctr).arm = none ∧ reached (s.dev.ctr (syncFOf h).ctr).value h.operand =
      true)
    ∧ (∃ (p : Fin 16) (h : Hdr) (s : State) (part : Nat), s.dev.Idle ∧ s.dev.FromPort p.val 0x58 0 h part ∧ s.dev.FreeLanes part ∧ s.dev.sends = [])
    ∧ (∃ (p : Fin 16) (s : State), s.dev.Quiet ∧ s.dev.LinkFree p.val ∧ s.dev.ready = true ∧ s.dev.o p.val 0x3040 1 = 2 ∧ s.dev.portRst.has p.val =
      false ∧ s.dev.role p.val = 1) :=
  ⟨⟨3, { hS with operand := 9 }, mkSt (prt 1), 0, idle_of (by decide +kernel), fromPort_of (by decide +kernel), freeLanes_of (by decide +kernel),
    by decide +kernel⟩,
   ⟨3, { hS with operand := 9 }, mkSt (prt 1), 0, idle_of (by decide +kernel), fromPort_of (by decide +kernel), freeLanes_of (by decide +kernel),
     by decide +kernel⟩,
   ⟨3, hS, mkSt (prt 1), 0, idle_of (by decide +kernel), fromPort_of (by decide +kernel), freeLanes_of (by decide +kernel), by decide +kernel⟩,
   ⟨3, { hS with operand := 9 }, mkSt (prt 1), 0, idle_of (by decide +kernel), fromPort_of (by decide +kernel), freeLanes_of (by decide +kernel),
     by decide +kernel⟩,
   ⟨3, { hS with operand2 := 0x38 + 3 * 2 ^ 40, operand3 := 2 }, mkSt (prt 1), 0, idle_of (by decide +kernel), fromPort_of (by decide +kernel),
     freeLanes_of (by decide +kernel), by decide +kernel⟩,
   ⟨3, { hS with ctr := 0, operand2 := 0 }, mkSt (prt 1), 0, idle_of (by decide +kernel), fromPort_of (by decide +kernel), freeLanes_of
     (by decide +kernel), by decide +kernel⟩,
   ⟨3, mkSt (prt 1), quiet_of (by decide +kernel), linkFree_of (by decide +kernel), by decide +kernel⟩⟩

/-- A descriptor of `wit_ChainSync`. -/
def chainSyncD0 : List Byte := dsc 0x51 0 [(0x10, 2, 2), (0x14, 2, 0xFFFF), (0x18, 8, 7)]
/-- A descriptor of `wit_ChainSync`. -/
def chainSyncD1 : List Byte := dsc 0x54 0 [(0x10, 2, 2), (0x14, 2, 0xFFFF), (0x18, 8, 7), (0x20, 4, 5)]
/-- A descriptor of `wit_ChainSync`. -/
def chainSyncD2 : List Byte := dsc 0x54 0 [(0x10, 2, 2)]
/-- A descriptor of `wit_ChainSync`. -/
def chainSyncD3 : List Byte := dsc 0x59 0 [(0x10, 8, 64 * 0x28000), (0x18, 4, 1)]
/-- A descriptor of `wit_ChainSync`. -/
def chainSyncD4 : List Byte := dsc 0x5A 0 [(0x10, 8, 64 * 0x28000), (0x18, 4, 1)]
/-- A descriptor of `wit_ChainSync`. -/
def chainSyncD5 : List Byte := dsc 0x5C 0 [(0x10, 2, 2), (0x12, 1, 1), (0x18, 8, 64), (0x20, 8, 0xA00000)]

/-- States and operands that meet the hypotheses of each clause of `ChainSync`. -/
theorem wit_ChainSync :
    (∃ (n : Fin 1024) (b : List Byte) (c : Chain) (s : State), s.dev.Idle ∧ s.dev.Engine n.val 0x51 b c ∧ s.dev.FreeLanes c.part ∧ syncDescOk b = true
      ∧ (syncDesc b).dev.getD s.dev.self = s.dev.self ∧ dSvc b 5 = false ∧ s.dev.ctrOwner (syncDesc b).ctr = c.part ∧ s.dev.doorbells (syncDesc b).ctr
      = [] ∧ (s.dev.ctr (syncDesc b).ctr).arm = none)
    ∧ (∃ (n : Fin 1024) (b : List Byte) (c : Chain) (s : State), s.dev.Quiet ∧ s.dev.Engine n.val 0x54 b c ∧ syncDescOk b = true ∧ fld b 0x30 8 = 0 ∧
      s.dev.waits = [] ∧ s.dev.ctrOwner (syncDesc b).ctr = c.part)
    ∧ (∃ (n : Fin 1024) (w : Wait) (c : Chain) (until_ : Nat) (s : State), s.dev.Quiet ∧ s.dev.waits.get? n.val = some w ∧ w.until_ = some until_ ∧
      until_ ≤ s.dev.now ∧ w.result = 0 ∧ (s.dev.pair n.val).chain = some c)
    ∧ (∃ (n : Fin 1024) (b : List Byte) (c : Chain) (k : Fin 8) (l : Nat) (dst : Nat) (port : Nat) (x : Line) (m : MaqC) (s : State),
      ({ s.dev with dir := [] } : Dev).Idle ∧ s.dev.Engine n.val 0x59 b c ∧ s.dev.OnePath dst port ∧ s.dev.LinkTakes port 1 c.part ∧ l < 2 ^ 56 ∧
      s.dev.dir = [(l, dx1 k.val true)] ∧ s.dev.l2 = [(l2Key k.val l, ⟨.m, x⟩)] ∧ s.dev.agentState k.val = 1 ∧ fld b 0x10 8 = 64 * l ∧ fld b 0x18 4 =
      1 ∧ fld b 0x1C 1 = 0 ∧ fld b 0x20 8 = 0 ∧ zeroed b 0x1D 0x20 = true ∧ zeroed b 0x28 0x40 = true ∧ s.dev.gran = [] ∧ s.dev.maq.get? (extentOf (64
      * l)) = some m ∧ m.entry.home.toNat = dst ∧ m.entry.part.toNat = c.part)
    ∧ (∃ (n : Fin 1024) (b : List Byte) (c : Chain) (k : Fin 8) (l : Nat) (dst : Nat) (port : Nat) (x : Line) (m : MaqC) (s : State),
      ({ s.dev with dir := [] } : Dev).Idle ∧ s.dev.Engine n.val 0x5A b c ∧ s.dev.OnePath dst port ∧ s.dev.LinkTakes port 1 c.part ∧ l < 2 ^ 56 ∧
      s.dev.dir = [(l, dx1 k.val true)] ∧ s.dev.l2 = [(l2Key k.val l, ⟨.m, x⟩)] ∧ s.dev.agentState k.val = 1 ∧ fld b 0x10 8 = 64 * l ∧ fld b 0x18 4 =
      1 ∧ fld b 0x1C 1 = 0 ∧ fld b 0x20 8 = 0 ∧ zeroed b 0x1D 0x20 = true ∧ zeroed b 0x28 0x40 = true ∧ s.dev.gran = [] ∧ s.dev.maq.get? (extentOf (64
      * l)) = some m ∧ m.entry.home.toNat = dst ∧ m.entry.part.toNat = c.part)
    ∧ (∃ (n : Fin 1024) (b : List Byte) (c : Chain) (ms : List (Nat × Nat)) (s : State), s.dev.Idle ∧ s.dev.Engine n.val 0x5C b c ∧ s.dev.Placed (fld
      b 0x20 8) c.part ∧ fld b 0x10 2 < 4096 ∧ 1 ≤ fld b 0x12 1 ∧ fld b 0x12 1 ≤ 4 ∧ zeroed b 0x13 0x18 = true ∧ zeroed b 0x28 0x40 = true ∧ fld b
      0x18 8 % 64 = 0 ∧ fld b 0x20 8 % 64 = 0 ∧ fld b 0x20 8 < 2 ^ 62 ∧ s.dev.castOwner (fld b 0x10 2) = c.part ∧ s.dev.sends = [] ∧ (s.lineAt (fld b
      0x20 8)).poison = false ∧ castMembers ((lineBytes (s.lineAt (fld b 0x20 8)).data).take (16 * fld b 0x12 1)) (fld b 0x12 1) = some ms) :=
  ⟨⟨0, chainSyncD0, (ch chainSyncD0), mkSt (eng chainSyncD0 []), idle_of (by decide +kernel), engine_of (by decide +kernel), freeLanes_of
    (by decide +kernel), by decide +kernel⟩,
   ⟨0, chainSyncD1, (ch chainSyncD1), mkSt (eng chainSyncD1 []), quiet_of (by decide +kernel), engine_of (by decide +kernel), by decide +kernel⟩,
   ⟨0, { ctr := 2, target := 0, until_ := some 5, result := 0, part := 0 }, (ch chainSyncD2), 5, mkSt
     { eng chainSyncD2 [] with waits := [(0, { ctr := 2, target := 0, until_ := some 5, result := 0, part := 0 })], now := 5 }, quiet_of
     (by decide +kernel), by decide +kernel⟩,
   ⟨0, chainSyncD3, (ch chainSyncD3), 2, 0x28000, 9, 3, 5,
     { entry := { epoch := 1, home := 9, twin := 0x3FFF, state := 2, tier := 1, prot := false, part := 0 } }, mkSt
     { far (eng chainSyncD3 [(258, 0x5100, 1, 1)]) with links := [(3, lk)], gran := [], dir := [(0x28000, dx1 2 true)], l2 := [(l2Key 2 0x28000, ⟨.m, 5⟩)], maq := [(extentOf (64 * 0x28000), { entry := { epoch := 1, home := 9, twin := 0x3FFF, state := 2, tier := 1, prot := false, part := 0 } })] },
     idle_of (by decide +kernel), engine_of (by decide +kernel), onePath_of 0x43 (by decide +kernel) (by decide +kernel), linkTakes_of
     (by decide +kernel), by decide +kernel⟩,
   ⟨0, chainSyncD4, (ch chainSyncD4), 2, 0x28000, 9, 3, 5,
     { entry := { epoch := 1, home := 9, twin := 0x3FFF, state := 2, tier := 1, prot := false, part := 0 } }, mkSt
     { far (eng chainSyncD4 [(258, 0x5100, 1, 1)]) with links := [(3, lk)], gran := [], dir := [(0x28000, dx1 2 true)], l2 := [(l2Key 2 0x28000, ⟨.m, 5⟩)], maq := [(extentOf (64 * 0x28000), { entry := { epoch := 1, home := 9, twin := 0x3FFF, state := 2, tier := 1, prot := false, part := 0 } })] },
     idle_of (by decide +kernel), engine_of (by decide +kernel), onePath_of 0x43 (by decide +kernel) (by decide +kernel), linkTakes_of
     (by decide +kernel), by decide +kernel⟩,
   ⟨0, chainSyncD5, (ch chainSyncD5), [(0, 0)], mkSt (eng chainSyncD5 []), idle_of (by decide +kernel), engine_of (by decide +kernel), placed_of g5
     (by decide +kernel), by decide +kernel⟩⟩

/-- A descriptor of `wit_WalksAndFaults`. -/
def walksAndFaultsD0 : List Byte := dsc 0x54 0 [(0x10, 2, 2)]

/-- States and operands that meet the hypotheses of each clause of `WalksAndFaults`. -/
theorem wit_WalksAndFaults :
    (∃ (blk : Fin 8) (asid : BitVec 16) (va : BitVec 57) (w : Walk) (y : XWait) (root : Nat) (table : Nat) (x : Nat) (s : State), s.dev.Idle ∧ ((∃
      part, s.Readable ((table + 8 * levelIdx 2 va.toNat) / 64 * 64) part)) ∧ va.toNat % 65536 = 0 ∧ s.dev.roots.get? asid.toNat = some root ∧
      s.dev.ptrs.get? blk.val = some [(asid.toNat, 3, va.toNat / 2 ^ 39, table)] ∧ s.dev.tlb.get? blk.val = none ∧ table % 4096 = 0 ∧ fld (s.bytesAt
      ((table + 8 * levelIdx 2 va.toNat) / 64 * 64)) ((8 * levelIdx 2 va.toNat) % 64) 8 = x ∧ bit x 0 = true ∧ bit x 1 = true ∧ malformed 2 x = false
      ∧ w.blk = blk.val ∧ w.asid = asid.toNat ∧ w.va = va.toNat ∧ w.void = false ∧ w.waits = [y] ∧ y.done = none ∧ y.access = 0 ∧ bit x 2 = true)
    ∧ (∃ (blk : Fin 8) (asid : BitVec 16) (va : BitVec 57) (w : Walk) (y : XWait) (root : Nat) (table : Nat) (x : Nat) (s : State), s.dev.Idle ∧ ((∃
      part, s.Readable ((table + 8 * levelIdx 2 va.toNat) / 64 * 64) part)) ∧ va.toNat % 65536 = 0 ∧ s.dev.roots.get? asid.toNat = some root ∧
      s.dev.ptrs.get? blk.val = some [(asid.toNat, 3, va.toNat / 2 ^ 39, table)] ∧ s.dev.tlb.get? blk.val = none ∧ table % 4096 = 0 ∧ fld (s.bytesAt
      ((table + 8 * levelIdx 2 va.toNat) / 64 * 64)) ((8 * levelIdx 2 va.toNat) % 64) 8 = x ∧ bit x 0 = true ∧ bit x 1 = true ∧ malformed 2 x = false
      ∧ w.blk = blk.val ∧ w.asid = asid.toNat ∧ w.va = va.toNat ∧ w.void = false ∧ w.waits = [y] ∧ y.done = none ∧ y.access = 1 ∧ bit x 3 = false ∧
      s.dev.o w.part 0x6020 1 = 0)
    ∧ (∃ (blk : Fin 8) (asid : BitVec 16) (va : BitVec 57) (e : TlbE) (until_ : Nat) (s : State), s.dev.Quiet ∧ s.dev.tlb = [(blk.val, [e])] ∧ e.asid
      = asid.toNat ∧ e.vpn = va.toNat / 2 ^ e.bits ∧ e.pin = some until_ ∧ until_ ≤ s.dev.now)
    ∧ (∃ (i : Fin 2048) (e : FEnt) (n : Nat) (c : Chain) (s : State), s.dev.Quiet ∧ s.dev.fents = [(i.val, e)] ∧ e.reqs = [.pair n] ∧ e.began + us
      (s.dev.o e.part 0x6020 3) ≤ s.dev.now ∧ (s.dev.pair n).chain = some c) :=
  ⟨⟨0, 1, 0x10000,
    { blk := 0, asid := 1, va := 0x10000, part := 0, began := 0, waits := [{ cred := 4, va := 0, access := 0, port := 3, hint := 5 }] },
    { cred := 4, va := 0, access := 0, port := 3, hint := 5 }, 0, 0xA00000, 7,
    { mkSt { up [] with gran := [(5, g5)], roots := [(1, 0)], ptrs := [(0, [(1, 3, 0, 0xA00000)])] } with mem := [(0xA00000, 7)] }, idle_of
    (by decide +kernel), ⟨0, readable_of g5 (by decide +kernel)⟩, by decide +kernel⟩,
   ⟨0, 1, 0x10000,
     { blk := 0, asid := 1, va := 0x10000, part := 0, began := 0, waits := [{ cred := 4, va := 0, access := 1, port := 3, hint := 5 }] },
     { cred := 4, va := 0, access := 1, port := 3, hint := 5 }, 0, 0xA00000, 7,
     { mkSt { up [] with gran := [(5, g5)], roots := [(1, 0)], ptrs := [(0, [(1, 3, 0, 0xA00000)])] } with mem := [(0xA00000, 7)] }, idle_of
     (by decide +kernel), ⟨0, readable_of g5 (by decide +kernel)⟩, by decide +kernel⟩,
   ⟨0, 1, 0xA00000, { asid := 1, vpn := 0xA0, bits := 16, pa := 0xA00000, rd := true, wr := true, red := true, pin := some 4 }, 4, mkSt
     { up [] with tlb := [(0, [{ asid := 1, vpn := 0xA0, bits := 16, pa := 0xA00000, rd := true, wr := true, red := true, pin := some 4 }])], now := 4 },
     quiet_of (by decide +kernel), by decide +kernel⟩,
   ⟨7, { asid := 1, kind := 2, base := 0, bits := 21, part := 0, frec := none, parked := 1, refused := 0, reqs := [.pair 0], began := 0 }, 0, (ch
     walksAndFaultsD0), mkSt
     { eng walksAndFaultsD0 [] with fents := [(7, { asid := 1, kind := 2, base := 0, bits := 21, part := 0, frec := none, parked := 1, refused := 0, reqs := [.pair 0], began := 0 })], now := us 5000000 },
     quiet_of (by decide +kernel), by decide +kernel⟩⟩

/-- A descriptor of `wit_TranslationOps`. -/
def translationOpsD0 : List Byte := dsc 0x48 0 [(0x1C, 2, 1), (0x20, 8, 0xA00000)]
/-- A descriptor of `wit_TranslationOps`. -/
def translationOpsD1 : List Byte := dsc 0x48 0 [(0x1C, 2, 1), (0x1E, 1, 1)]
/-- A descriptor of `wit_TranslationOps`. -/
def translationOpsD2 : List Byte := dsc 0x49 0 [(0x1C, 2, 1), (0x10, 8, 0xA00000), (0x18, 4, 1)]
/-- A descriptor of `wit_TranslationOps`. -/
def translationOpsD3 : List Byte := dsc 0x49 0 [(0x1C, 2, 1), (0x1E, 1, 1)]
/-- A descriptor of `wit_TranslationOps`. -/
def translationOpsD4 : List Byte := dsc 0x49 0 [(0x1E, 1, 2)]
/-- A descriptor of `wit_TranslationOps`. -/
def translationOpsD5 : List Byte := dsc 0x4A 0 [(0x1C, 2, 1), (0x28, 2, 7)]
/-- A descriptor of `wit_TranslationOps`. -/
def translationOpsD6 : List Byte := dsc 0x4A 0 [(0x1C, 2, 1), (0x1E, 1, 1), (0x28, 2, 7)]
/-- A descriptor of `wit_TranslationOps`. -/
def translationOpsD7 : List Byte := dsc 0x4B 0 [(0x1C, 2, 1), (0x10, 8, 0xA00000), (0x18, 4, 1)]

/-- States and operands that meet the hypotheses of each clause of `TranslationOps`. -/
theorem wit_TranslationOps :
    (∃ (n : Fin 1024) (b : List Byte) (c : Chain) (s : State), s.dev.Idle ∧ s.dev.Engine n.val 0x48 b c ∧ ((∃ part, s.dev.Placed (fld b 0x20 8) part))
      ∧ xKind b = 0 ∧ xlateOk b = true ∧ fld b 0x30 8 = 0 ∧ s.dev.ownsAsid c.part (xAsid b) = true ∧ fld b 0x20 8 % 4096 = 0 ∧ fld b 0x20 8 < 2 ^ 62)
    ∧ (∃ (n : Fin 1024) (b : List Byte) (c : Chain) (s : State), s.dev.Idle ∧ s.dev.Engine n.val 0x48 b c ∧ xKind b = 1 ∧ xlateOk b = true ∧ fld b
      0x30 8 = 0 ∧ s.dev.ownsAsid c.part (xAsid b) = true)
    ∧ (∃ (n : Fin 1024) (b : List Byte) (c : Chain) (s : State), s.dev.Idle ∧ s.dev.Engine n.val 0x49 b c ∧ xKind b = 0 ∧ xlateOk b = true ∧ fld b
      0x30 8 = 0 ∧ s.dev.ownsAsid c.part (xAsid b) = true ∧ s.dev.draining (s.dev.invalScope c.part b) n.val = false)
    ∧ (∃ (n : Fin 1024) (b : List Byte) (c : Chain) (s : State), s.dev.Idle ∧ s.dev.Engine n.val 0x49 b c ∧ xKind b = 1 ∧ xlateOk b = true ∧ fld b
      0x30 8 = 0 ∧ s.dev.ownsAsid c.part (xAsid b) = true ∧ s.dev.draining (s.dev.invalScope c.part b) n.val = false)
    ∧ (∃ (n : Fin 1024) (b : List Byte) (c : Chain) (s : State), s.dev.Idle ∧ s.dev.Engine n.val 0x49 b c ∧ xKind b = 2 ∧ xlateOk b = true ∧ fld b
      0x30 8 = 0 ∧ s.dev.draining (s.dev.invalScope c.part b) n.val = false)
    ∧ (∃ (n : Fin 1024) (b : List Byte) (c : Chain) (j : Nat × Job) (asid : Nat) (va : Nat) (s : State), ({ s.dev with jobs := [] } : Dev).Idle ∧
      s.dev.Engine n.val 0x49 b c ∧ s.dev.jobs = [j] ∧ j.2.via = some (asid, va) ∧ j.2.began ≤ s.dev.now ∧ xKind b = 1 ∧ xlateOk b = true ∧ fld b 0x30
      8 = 0 ∧ s.dev.ownsAsid c.part (xAsid b) = true ∧ asid = xAsid b)
    ∧ (∃ (n : Fin 1024) (c : Chain) (x : Inval) (s : State), s.dev.Quiet ∧ s.dev.inval.get? n.val = some x ∧ s.dev.draining x n.val = false ∧
      (s.dev.pair n.val).chain = some c ∧ fld c.desc 0x30 8 = 0)
    ∧ (∃ (n : Fin 1024) (b : List Byte) (c : Chain) (x : FEnt) (m : Nat) (s : State), s.dev.Quiet ∧ s.dev.Engine n.val 0x4A b c ∧ xKind b = 0 ∧
      xlateOk b = true ∧ fld b 0x30 8 = 0 ∧ s.dev.ownsAsid c.part (xAsid b) = true ∧ s.dev.fents.get? (fld b 0x28 2) = some x ∧ x.asid = xAsid b ∧
      x.reqs = [.pair m] ∧ m ≠ n.val)
    ∧ (∃ (n : Fin 1024) (b : List Byte) (c : Chain) (cm : Chain) (x : FEnt) (m : Nat) (s : State), s.dev.Quiet ∧ s.dev.Engine n.val 0x4A b c ∧ xKind b
      = 1 ∧ xlateOk b = true ∧ fld b 0x30 8 = 0 ∧ s.dev.ownsAsid c.part (xAsid b) = true ∧ s.dev.fents.get? (fld b 0x28 2) = some x ∧ x.asid = xAsid b
      ∧ x.reqs = [.pair m] ∧ m ≠ n.val ∧ (s.dev.pair m).chain = some cm)
    ∧ (∃ (n : Fin 1024) (b : List Byte) (c : Chain) (e : TlbE) (s : State), s.dev.Idle ∧ s.dev.Engine n.val 0x4B b c ∧ xlateOk b = true ∧ fld b 0x30 8
      = 0 ∧ fld b 0x1F 1 = 0 ∧ xCount b = 1 ∧ s.dev.ownsAsid c.part (xAsid b) = true ∧ s.dev.hit? (blkOfPair n.val) (xAsid b) (xVa b) = some e ∧ ((∀
      blk, blk < 8 → (s.dev.tlb.getD blk []).length < 4096))) :=
  ⟨⟨0, translationOpsD0, (ch translationOpsD0), mkSt
    { eng translationOpsD0 [(0, 0x6050, 4, 16)] with tlb := [(0, [{ asid := 1, vpn := 0xA0, bits := 16, pa := 0xA00000, rd := true, wr := true, red := true }])], roots := [(1, 0), (2, 64)] },
    idle_of (by decide +kernel), engine_of (by decide +kernel), ⟨0, placed_of g5 (by decide +kernel)⟩, by decide +kernel⟩,
   ⟨0, translationOpsD1, (ch translationOpsD1), mkSt
     { eng translationOpsD1 [(0, 0x6050, 4, 16)] with tlb := [(0, [{ asid := 1, vpn := 0xA0, bits := 16, pa := 0xA00000, rd := true, wr := true, red := true }])], roots := [(1, 0), (2, 64)] },
     idle_of (by decide +kernel), engine_of (by decide +kernel), by decide +kernel⟩,
   ⟨0, translationOpsD2, (ch translationOpsD2), mkSt
     { eng translationOpsD2 [(0, 0x6050, 4, 16)] with tlb := [(0, [{ asid := 1, vpn := 0xA0, bits := 16, pa := 0xA00000, rd := true, wr := true, red := true }])], roots := [(1, 0), (2, 64)] },
     idle_of (by decide +kernel), engine_of (by decide +kernel), by decide +kernel⟩,
   ⟨0, translationOpsD3, (ch translationOpsD3), mkSt
     { eng translationOpsD3 [(0, 0x6050, 4, 16)] with tlb := [(0, [{ asid := 1, vpn := 0xA0, bits := 16, pa := 0xA00000, rd := true, wr := true, red := true }])], roots := [(1, 0), (2, 64)] },
     idle_of (by decide +kernel), engine_of (by decide +kernel), by decide +kernel⟩,
   ⟨0, translationOpsD4, (ch translationOpsD4), mkSt
     { eng translationOpsD4 [(0, 0x6050, 4, 16)] with tlb := [(0, [{ asid := 1, vpn := 0xA0, bits := 16, pa := 0xA00000, rd := true, wr := true, red := true }])], roots := [(1, 0), (2, 64)] },
     idle_of (by decide +kernel), engine_of (by decide +kernel), by decide +kernel⟩,
   ⟨0, translationOpsD3, (ch translationOpsD3), (4,
     { src := .ident 3 0, reply := .port 3 0 0 77, part := some 0, code := 1, addr := 0xA00000, lines := 1, left := 1, via := some (1, 0xA00000) }),
     1, 0xA00000, mkSt
     { eng translationOpsD3 [(0, 0x6050, 4, 16)] with jobs := [(4, { src := .ident 3 0, reply := .port 3 0 0 77, part := some 0, code := 1, addr := 0xA00000, lines := 1, left := 1, via := some (1, 0xA00000) })] },
     idle_of (by decide +kernel), engine_of (by decide +kernel), by decide +kernel⟩,
   ⟨0, (ch translationOpsD4), { at_ := 0, dropped := 3, lo := 1, hi := 2, pages := none }, mkSt
     { eng translationOpsD4 [(0, 0x6050, 4, 16)] with inval := [(0, { at_ := 0, dropped := 3, lo := 1, hi := 2, pages := none })] }, quiet_of
     (by decide +kernel), by decide +kernel⟩,
   ⟨0, translationOpsD5, (ch translationOpsD5),
     { asid := 1, kind := 2, base := 0, bits := 21, part := 0, frec := none, parked := 1, refused := 0, reqs := [.pair 1], began := 0 }, 1, mkSt
     { eng translationOpsD5 [(0, 0x6050, 4, 16)] with pairs := [(0, { chain := some (ch translationOpsD5) }), (1, { chain := some (ch translationOpsD5), parked := [7, 8] })], fents := [(7, { asid := 1, kind := 2, base := 0, bits := 21, part := 0, frec := none, parked := 1, refused := 0, reqs := [.pair 1], began := 0 })] },
     quiet_of (by decide +kernel), engine_of (by decide +kernel), by decide +kernel⟩,
   ⟨0, translationOpsD6, (ch translationOpsD6), (ch translationOpsD6),
     { asid := 1, kind := 2, base := 0, bits := 21, part := 0, frec := none, parked := 1, refused := 0, reqs := [.pair 1], began := 0 }, 1, mkSt
     { eng translationOpsD6 [(0, 0x6050, 4, 16)] with pairs := [(0, { chain := some (ch translationOpsD6) }), (1, { chain := some (ch translationOpsD6), parked := [7, 8] })], fents := [(7, { asid := 1, kind := 2, base := 0, bits := 21, part := 0, frec := none, parked := 1, refused := 0, reqs := [.pair 1], began := 0 })] },
     quiet_of (by decide +kernel), engine_of (by decide +kernel), by decide +kernel⟩,
   ⟨0, translationOpsD7, (ch translationOpsD7), { asid := 1, vpn := 0xA0, bits := 16, pa := 0xA00000, rd := true, wr := true, red := true }, mkSt
     { eng translationOpsD7 [(0, 0x6050, 4, 16)] with tlb := [(0, [{ asid := 1, vpn := 0xA0, bits := 16, pa := 0xA00000, rd := true, wr := true, red := true }])], roots := [(1, 0), (2, 64)] },
     idle_of (by decide +kernel), engine_of (by decide +kernel), by decide +kernel⟩⟩

/-- A descriptor of `wit_ChainsRun`. -/
def chainsRunD0 : List Byte := dsc 0x61 3 []
/-- A descriptor of `wit_ChainsRun`. -/
def chainsRunD1 : List Byte := dsc 0x55 3 [(0x10, 4, 3), (0x14, 1, 1)]

/-- States and operands that meet the hypotheses of each clause of `ChainsRun`. -/
theorem wit_ChainsRun :
    (∃ (part : BitVec 8) (q : Fin 16) (n : Fin 1024) (la : Nat) (s : State), s.dev.Idle ∧ s.Readable la part.toNat ∧ s.dev.ready = true ∧
      s.dev.noAdmit = false ∧ s.dev.partState part.toNat = 1 ∧ s.dev.queueReady part.toNat q.val = true ∧ s.dev.queueTurn part.toNat q.val = true ∧
      s.dev.inShare part.toNat = true ∧ s.dev.pairFree n.val = true ∧ s.dev.pairs.get? n.val = none ∧ bits (s.dev.o part.toNat (0x6040 + q.val) 5) 1 2
      = 0 ∧ la = s.dev.o part.toNat (0x6040 + q.val) 1 + 64 * (s.dev.o part.toNat (0x6040 + q.val) 0x0A % max 1 (s.dev.o part.toNat (0x6040 + q.val)
      2)) ∧ dCtl (s.bytesAt la) 0 = false)
    ∧ (∃ (n : Fin 1024) (i : Nat) (x : Credit) (c : Chain) (s : State), s.dev.Quiet ∧ (s.dev.pair n.val).chain = some c ∧ (s.dev.pair n.val).held =
      some i ∧ s.dev.credits.get? i = some x ∧ s.dev.o 0 0x2000 1 = 0 ∧ x.start ≤ s.dev.now ∧ s.dev.now ≤ x.until_)
    ∧ (∃ (n : Fin 1024) (c : Chain) (st : Status) (word : Nat) (a : Nat) (head : Nat) (s : State), s.dev.Idle ∧ s.dev.Placed a c.part ∧ (s.dev.pair
      n.val).chain = some c ∧ c.stage = .done st word ∧ c.ended = false ∧ (s.dev.pair n.val).outs = [] ∧ (s.dev.pair n.val).sent = 0 ∧ (s.dev.pair
      n.val).worst = none ∧ c.pos + 1 = c.descs.length ∧ dCtl c.desc 2 = false ∧ dOp c.desc ≠ 0x90 ∧ s.dev.emb = [] ∧ s.dev.idx = [] ∧ s.dev.o c.part
      (0x6040 + c.queue) 0x0B = head ∧ a = s.dev.o c.part (0x6040 + c.queue) 3 + 16 * (head % max 1 (s.dev.o c.part (0x6040 + c.queue) 2)) ∧ a % 16 =
      0 ∧ a < 2 ^ 62 ∧ (s.lineAt a).poison = false)
    ∧ (∃ (n : Fin 1024) (b : List Byte) (c : Chain) (s : State), s.dev.Quiet ∧ s.dev.Engine n.val 0x55 b c ∧ loopOk c.descs c.pos = true ∧ c.loops =
      [] ∧ 2 ≤ fld b 0x10 4)
    ∧ (∃ (n : Fin 1024) (b : List Byte) (c : Chain) (i : Nat) (s : State), s.dev.Quiet ∧ s.dev.Engine n.val 0x55 b c ∧ loopOk c.descs c.pos = true ∧
      Tab.get? c.loops c.pos = some i ∧ fld b 0x10 4 ≤ i) :=
  ⟨⟨0, 0, 0, 0xA00000,
    { mkSt { up [(0, 0x6040, 1, 0xA00000), (0, 0x6040, 2, 16), (0, 0x6040, 7, 0), (0, 0x6040, 0x0D, 1)] with gran := [(5, g5)], ctrs := [(0, { value := 1 })] } with mem := memOf [(0xA00000, 1, 0x61)] },
    idle_of (by decide +kernel), readable_of g5 (by decide +kernel), by decide +kernel⟩,
   ⟨0, 4,
     { src := .pair 0, tag := 1, part := 0, cls := 3, code := 1, addr := 0, asid := 0, start := 0, until_ := 9, hint := 0, reason := 1, home := false, loc := 3, booked := [] },
     (ch chainsRunD0), mkSt
     { up [] with pairs := [(0, { chain := some (ch chainsRunD0), held := some 4 })], now := 5, credits := [(4, { src := .pair 0, tag := 1, part := 0, cls := 3, code := 1, addr := 0, asid := 0, start := 0, until_ := 9, hint := 0, reason := 1, home := false, loc := 3, booked := [] })] },
     quiet_of (by decide +kernel), by decide +kernel⟩,
   ⟨0, { ch chainsRunD0 with stage := .done .ok 5 }, .ok, 5, 0xA00100, 0, mkSt
     { up [(0, 0x6040, 2, 16), (0, 0x6040, 3, 0xA00100)] with gran := [(5, g5)], pairs := [(0, { chain := some { ch chainsRunD0 with stage := .done .ok 5 } })] },
     idle_of (by decide +kernel), placed_of g5 (by decide +kernel), by decide +kernel⟩,
   ⟨0, chainsRunD1, { part := 0, queue := 0, start := 0, descs := [chainsRunD0, chainsRunD1], pos := 1 }, mkSt
     { up [] with pairs := [(0, { chain := some { part := 0, queue := 0, start := 0, descs := [chainsRunD0, chainsRunD1], pos := 1 } })] }, quiet_of
     (by decide +kernel), engine_of (by decide +kernel), by decide +kernel⟩,
   ⟨0, chainsRunD1, { part := 0, queue := 0, start := 0, descs := [chainsRunD0, chainsRunD1], pos := 1, loops := [(1, 3)] }, 3, mkSt
     { up [] with pairs := [(0, { chain := some { part := 0, queue := 0, start := 0, descs := [chainsRunD0, chainsRunD1], pos := 1, loops := [(1, 3)] } })] },
     quiet_of (by decide +kernel), engine_of (by decide +kernel), by decide +kernel⟩⟩

/-- A descriptor of `wit_TileOperations`. -/
def tileOperationsD0 : List Byte := dsc 0x60 3 [(0x10, 8, 0xA00000), (0x20, 8, 0xA00080), (0x2C, 2, 2), (0x2E, 1, 0), (0x2F, 1, 1)]
/-- A descriptor of `wit_TileOperations`. -/
def tileOperationsD1 : List Byte := dsc 0x61 3 [(0x20, 8, 0xA00080), (0x2C, 2, 2), (0x2E, 1, 0), (0x38, 8, 77)]
/-- A descriptor of `wit_TileOperations`. -/
def tileOperationsD2 : List Byte := dsc 0x62 3 [(0x10, 8, 0xA00000), (0x20, 8, 0xA00080), (0x2C, 2, 2), (0x2E, 1, 0)]
/-- A descriptor of `wit_TileOperations`. -/
def tileOperationsD3 : List Byte := dsc 0x62 3 [(0x10, 8, 0xA00000), (0x20, 8, 0xA00080), (0x2C, 2, 2), (0x2E, 1, 1)]
/-- A descriptor of `wit_TileOperations`. -/
def tileOperationsD4 : List Byte := dsc 0x62 3 [(0x10, 8, 0xA00000), (0x20, 8, 0xA00080), (0x2C, 2, 2), (0x2E, 1, 2)]
/-- A descriptor of `wit_TileOperations`. -/
def tileOperationsD5 : List Byte := dsc 0x63 3 [(0x10, 8, 0xA00000), (0x18, 8, 0xA00040), (0x2A, 2, 1), (0x20, 8, 0xA00080), (0x2C, 2, 2), (0x2E, 1, 2)]
/-- A descriptor of `wit_TileOperations`. -/
def tileOperationsD6 : List Byte := dsc 0x63 3 [(0x10, 8, 0xA00000), (0x18, 8, 0xA00040), (0x2A, 2, 1), (0x20, 8, 0xA00080), (0x2C, 2, 2), (0x2E, 1, 0), (0x34, 4, 0x3F800000)]

/-- States and operands that meet the hypotheses of each clause of `TileOperations`. -/
theorem wit_TileOperations :
    (∃ (n : Fin 1024) (b : List Byte) (c : Chain) (mx : Mould) (mz : Mould) (s : State), s.dev.Idle ∧ s.dev.Engine n.val 0x60 b c ∧ s.HasMould c.part
      c.queue (tMould b 0) mx ∧ s.HasMould c.part c.queue (tMould b 2) mz ∧ s.Tile1 c.part mx (tAddr b 0) ∧ s.Tile1 c.part mz (tAddr b 2) ∧ bodyOk b
      [0, 2] true false 0 = true ∧ tOpc b = 0 ∧ tCtr b = none ∧ fld b 0x2F 1 = 1)
    ∧ (∃ (n : Fin 1024) (b : List Byte) (c : Chain) (mz : Mould) (s : State), s.dev.Idle ∧ s.dev.Engine n.val 0x61 b c ∧ s.HasMould c.part c.queue
      (tMould b 2) mz ∧ s.Tile1 c.part mz (tAddr b 2) ∧ bodyOk b [2] false false 64 = true ∧ tOpc b = 0 ∧ tCtr b = none)
    ∧ (∃ (n : Fin 1024) (b : List Byte) (c : Chain) (mx : Mould) (mz : Mould) (et : EType) (s : State), s.dev.Idle ∧ s.dev.Engine n.val 0x62 b c ∧
      s.HasMould c.part c.queue (tMould b 0) mx ∧ s.HasMould c.part c.queue (tMould b 2) mz ∧ s.Tile1 c.part mx (tAddr b 0) ∧ s.Tile1 c.part mz (tAddr
      b 2) ∧ tOpc b = 0 ∧ bodyOk b [0, 2] false false 0 = true ∧ tCtr b = none ∧ mx.code = mz.code ∧ EType.of? mz.code = some et ∧ et.reduces .add =
      true)
    ∧ (∃ (n : Fin 1024) (b : List Byte) (c : Chain) (mx : Mould) (mz : Mould) (et : EType) (s : State), s.dev.Idle ∧ s.dev.Engine n.val 0x62 b c ∧
      s.HasMould c.part c.queue (tMould b 0) mx ∧ s.HasMould c.part c.queue (tMould b 2) mz ∧ s.Tile1 c.part mx (tAddr b 0) ∧ s.Tile1 c.part mz (tAddr
      b 2) ∧ tOpc b = 1 ∧ bodyOk b [0, 2] false false 0 = true ∧ tCtr b = none ∧ mx.code = mz.code ∧ EType.of? mz.code = some et ∧ et.reduces .min =
      true)
    ∧ (∃ (n : Fin 1024) (b : List Byte) (c : Chain) (mx : Mould) (mz : Mould) (et : EType) (s : State), s.dev.Idle ∧ s.dev.Engine n.val 0x62 b c ∧
      s.HasMould c.part c.queue (tMould b 0) mx ∧ s.HasMould c.part c.queue (tMould b 2) mz ∧ s.Tile1 c.part mx (tAddr b 0) ∧ s.Tile1 c.part mz (tAddr
      b 2) ∧ tOpc b = 2 ∧ bodyOk b [0, 2] false false 0 = true ∧ tCtr b = none ∧ mx.code = mz.code ∧ EType.of? mz.code = some et ∧ et.reduces .max =
      true)
    ∧ (∃ (n : Fin 1024) (b : List Byte) (c : Chain) (mx : Mould) (my : Mould) (mz : Mould) (s : State), s.dev.Idle ∧ s.dev.Engine n.val 0x63 b c ∧
      s.HasMould c.part c.queue (tMould b 0) mx ∧ s.HasMould c.part c.queue (tMould b 1) my ∧ s.HasMould c.part c.queue (tMould b 2) mz ∧ s.Tile1
      c.part mx (tAddr b 0) ∧ s.Tile1 c.part my (tAddr b 1) ∧ s.Tile1 c.part mz (tAddr b 2) ∧ bodyOk b [0, 1, 2] false true 0 = true ∧ tOpc b = 2 ∧
      mx.code = 5 ∧ my.code = 5 ∧ mz.code = 1)
    ∧ (∃ (n : Fin 1024) (b : List Byte) (c : Chain) (mx : Mould) (my : Mould) (mz : Mould) (p : Nat) (s : State), s.dev.Idle ∧ s.dev.Engine n.val 0x63
      b c ∧ s.HasMould c.part c.queue (tMould b 0) mx ∧ s.HasMould c.part c.queue (tMould b 1) my ∧ s.HasMould c.part c.queue (tMould b 2) mz ∧
      s.Tile1 c.part mx (tAddr b 0) ∧ s.Tile1 c.part my (tAddr b 1) ∧ s.Tile1 c.part mz (tAddr b 2) ∧ bodyOk b [0, 1, 2] false true 0 = true ∧ tOpc b
      = 0 ∧ tCtr b = none ∧ mx.code = 8 ∧ my.code = 8 ∧ mz.code = 8 ∧ p = accSteps mx.t my.t 1 1 [(s.elem mx (tAddr b 0), s.elem my (tAddr b 1))] 0)
      :=
  ⟨⟨0, tileOperationsD0, (ch tileOperationsD0), (mld 8), (mld 0x0A), tl tileOperationsD0 8 8 10 0x3F800000 0, idle_of (by decide +kernel), engine_of
    (by decide +kernel), hasMould_of g5 (by decide +kernel), hasMould_of g5 (by decide +kernel), tile1_of g5 (by decide +kernel), tile1_of g5
    (by decide +kernel), by decide +kernel⟩,
   ⟨0, tileOperationsD1, (ch tileOperationsD1), (mld 1), tl tileOperationsD1 8 8 1 0 0, idle_of (by decide +kernel), engine_of (by decide +kernel),
     hasMould_of g5 (by decide +kernel), tile1_of g5 (by decide +kernel), by decide +kernel⟩,
   ⟨0, tileOperationsD2, (ch tileOperationsD2), (mld 1), (mld 1), .int32, tl tileOperationsD2 1 1 1 5 7, idle_of (by decide +kernel), engine_of
     (by decide +kernel), hasMould_of g5 (by decide +kernel), hasMould_of g5 (by decide +kernel), tile1_of g5 (by decide +kernel), tile1_of g5
     (by decide +kernel), by decide +kernel⟩,
   ⟨0, tileOperationsD3, (ch tileOperationsD3), (mld 1), (mld 1), .int32, tl tileOperationsD3 1 1 1 5 7, idle_of (by decide +kernel), engine_of
     (by decide +kernel), hasMould_of g5 (by decide +kernel), hasMould_of g5 (by decide +kernel), tile1_of g5 (by decide +kernel), tile1_of g5
     (by decide +kernel), by decide +kernel⟩,
   ⟨0, tileOperationsD4, (ch tileOperationsD4), (mld 1), (mld 1), .int32, tl tileOperationsD4 1 1 1 5 7, idle_of (by decide +kernel), engine_of
     (by decide +kernel), hasMould_of g5 (by decide +kernel), hasMould_of g5 (by decide +kernel), tile1_of g5 (by decide +kernel), tile1_of g5
     (by decide +kernel), by decide +kernel⟩,
   ⟨0, tileOperationsD5, (ch tileOperationsD5), (mld 5), (mld 5), (mld 1), tl tileOperationsD5 5 5 1 0xFE 3, idle_of (by decide +kernel), engine_of
     (by decide +kernel), hasMould_of g5 (by decide +kernel), hasMould_of g5 (by decide +kernel), hasMould_of g5 (by decide +kernel), tile1_of g5
     (by decide +kernel), tile1_of g5 (by decide +kernel), tile1_of g5 (by decide +kernel), by decide +kernel⟩,
   ⟨0, tileOperationsD6, (ch tileOperationsD6), (mld 8), (mld 8), (mld 8), accSteps (mld 8).t (mld 8).t 1 1 [({ v := 0x40000000 },
     { v := 0x40000000 })] 0, tl tileOperationsD6 8 8 8 0x40000000 0x40000000, idle_of (by decide +kernel), engine_of (by decide +kernel), hasMould_of
     g5 (by decide +kernel), hasMould_of g5 (by decide +kernel), hasMould_of g5 (by decide +kernel), tile1_of g5 (by decide +kernel), tile1_of g5
     (by decide +kernel), tile1_of g5 (by decide +kernel), by decide +kernel⟩⟩

/-- A descriptor of `wit_Elementwise`. -/
def elementwiseD0 : List Byte := dsc 0x64 3 [(0x10, 8, 0xA00000), (0x18, 8, 0xA00040), (0x2A, 2, 1), (0x20, 8, 0xA00080), (0x2C, 2, 2), (0x2E, 1, 0)]
/-- A descriptor of `wit_Elementwise`. -/
def elementwiseD1 : List Byte := dsc 0x64 3 [(0x10, 8, 0xA00000), (0x18, 8, 0xA00040), (0x2A, 2, 1), (0x20, 8, 0xA00080), (0x2C, 2, 2), (0x2E, 1, 1)]
/-- A descriptor of `wit_Elementwise`. -/
def elementwiseD2 : List Byte := dsc 0x64 3 [(0x10, 8, 0xA00000), (0x18, 8, 0xA00040), (0x2A, 2, 1), (0x20, 8, 0xA00080), (0x2C, 2, 2), (0x2E, 1, 2)]
/-- A descriptor of `wit_Elementwise`. -/
def elementwiseD3 : List Byte := dsc 0x64 3 [(0x10, 8, 0xA00000), (0x18, 8, 0xA00040), (0x2A, 2, 1), (0x20, 8, 0xA00080), (0x2C, 2, 2), (0x2E, 1, 3)]
/-- A descriptor of `wit_Elementwise`. -/
def elementwiseD4 : List Byte := dsc 0x64 3 [(0x10, 8, 0xA00000), (0x18, 8, 0xA00040), (0x2A, 2, 1), (0x20, 8, 0xA00080), (0x2C, 2, 2), (0x2E, 1, 4)]
/-- A descriptor of `wit_Elementwise`. -/
def elementwiseD5 : List Byte := dsc 0x64 3 [(0x10, 8, 0xA00000), (0x20, 8, 0xA00080), (0x2C, 2, 2), (0x2E, 1, 5), (0x34, 4, 0x40000000), (0x38, 8, 0x3F800000)]
/-- A descriptor of `wit_Elementwise`. -/
def elementwiseD6 : List Byte := dsc 0x64 3 [(0x10, 8, 0xA00000), (0x20, 8, 0xA00080), (0x2C, 2, 2), (0x2E, 1, 6)]
/-- A descriptor of `wit_Elementwise`. -/
def elementwiseD7 : List Byte := dsc 0x64 3 [(0x10, 8, 0xA00000), (0x20, 8, 0xA00080), (0x2C, 2, 2), (0x2E, 1, 7)]
/-- A descriptor of `wit_Elementwise`. -/
def elementwiseD8 : List Byte := dsc 0x64 3 [(0x10, 8, 0xA00000), (0x20, 8, 0xA00080), (0x2C, 2, 2), (0x2E, 1, 8)]
/-- A descriptor of `wit_Elementwise`. -/
def elementwiseD9 : List Byte := dsc 0x64 3 [(0x10, 8, 0xA00000), (0x20, 8, 0xA00080), (0x2C, 2, 2), (0x2E, 1, 9)]
/-- A descriptor of `wit_Elementwise`. -/
def elementwiseD10 : List Byte := dsc 0x64 3 [(0x10, 8, 0xA00000), (0x20, 8, 0xA00080), (0x2C, 2, 2), (0x2E, 1, 10)]

/-- States and operands that meet the hypotheses of each clause of `Elementwise`. -/
theorem wit_Elementwise :
    (∃ (n : Fin 1024) (b : List Byte) (c : Chain) (mx : Mould) (my : Mould) (mz : Mould) (s : State), s.dev.Idle ∧ s.dev.Engine n.val 0x64 b c ∧
      s.HasMould c.part c.queue (tMould b 0) mx ∧ s.HasMould c.part c.queue (tMould b 1) my ∧ s.HasMould c.part c.queue (tMould b 2) mz ∧ s.Tile1
      c.part mx (tAddr b 0) ∧ s.Tile1 c.part my (tAddr b 1) ∧ s.Tile1 c.part mz (tAddr b 2) ∧ tOpc b = 0 ∧ bodyOk b [0, 1, 2] false false 0 = true ∧
      tCtr b = none ∧ ewOk mx.code = true ∧ ewOk my.code = true ∧ ewOk mz.code = true)
    ∧ (∃ (n : Fin 1024) (b : List Byte) (c : Chain) (mx : Mould) (my : Mould) (mz : Mould) (s : State), s.dev.Idle ∧ s.dev.Engine n.val 0x64 b c ∧
      s.HasMould c.part c.queue (tMould b 0) mx ∧ s.HasMould c.part c.queue (tMould b 1) my ∧ s.HasMould c.part c.queue (tMould b 2) mz ∧ s.Tile1
      c.part mx (tAddr b 0) ∧ s.Tile1 c.part my (tAddr b 1) ∧ s.Tile1 c.part mz (tAddr b 2) ∧ tOpc b = 1 ∧ bodyOk b [0, 1, 2] false false 0 = true ∧
      tCtr b = none ∧ ewOk mx.code = true ∧ ewOk my.code = true ∧ ewOk mz.code = true)
    ∧ (∃ (n : Fin 1024) (b : List Byte) (c : Chain) (mx : Mould) (my : Mould) (mz : Mould) (s : State), s.dev.Idle ∧ s.dev.Engine n.val 0x64 b c ∧
      s.HasMould c.part c.queue (tMould b 0) mx ∧ s.HasMould c.part c.queue (tMould b 1) my ∧ s.HasMould c.part c.queue (tMould b 2) mz ∧ s.Tile1
      c.part mx (tAddr b 0) ∧ s.Tile1 c.part my (tAddr b 1) ∧ s.Tile1 c.part mz (tAddr b 2) ∧ tOpc b = 2 ∧ bodyOk b [0, 1, 2] false false 0 = true ∧
      tCtr b = none ∧ ewOk mx.code = true ∧ ewOk my.code = true ∧ ewOk mz.code = true)
    ∧ (∃ (n : Fin 1024) (b : List Byte) (c : Chain) (mx : Mould) (my : Mould) (mz : Mould) (s : State), s.dev.Idle ∧ s.dev.Engine n.val 0x64 b c ∧
      s.HasMould c.part c.queue (tMould b 0) mx ∧ s.HasMould c.part c.queue (tMould b 1) my ∧ s.HasMould c.part c.queue (tMould b 2) mz ∧ s.Tile1
      c.part mx (tAddr b 0) ∧ s.Tile1 c.part my (tAddr b 1) ∧ s.Tile1 c.part mz (tAddr b 2) ∧ tOpc b = 3 ∧ bodyOk b [0, 1, 2] false false 0 = true ∧
      tCtr b = none ∧ ewOk mx.code = true ∧ ewOk my.code = true ∧ ewOk mz.code = true)
    ∧ (∃ (n : Fin 1024) (b : List Byte) (c : Chain) (mx : Mould) (my : Mould) (mz : Mould) (s : State), s.dev.Idle ∧ s.dev.Engine n.val 0x64 b c ∧
      s.HasMould c.part c.queue (tMould b 0) mx ∧ s.HasMould c.part c.queue (tMould b 1) my ∧ s.HasMould c.part c.queue (tMould b 2) mz ∧ s.Tile1
      c.part mx (tAddr b 0) ∧ s.Tile1 c.part my (tAddr b 1) ∧ s.Tile1 c.part mz (tAddr b 2) ∧ tOpc b = 4 ∧ bodyOk b [0, 1, 2] false false 0 = true ∧
      tCtr b = none ∧ ewOk mx.code = true ∧ ewOk my.code = true ∧ ewOk mz.code = true)
    ∧ (∃ (n : Fin 1024) (b : List Byte) (c : Chain) (mx : Mould) (mz : Mould) (s : State), s.dev.Idle ∧ s.dev.Engine n.val 0x64 b c ∧ s.HasMould
      c.part c.queue (tMould b 0) mx ∧ s.HasMould c.part c.queue (tMould b 2) mz ∧ s.Tile1 c.part mx (tAddr b 0) ∧ s.Tile1 c.part mz (tAddr b 2) ∧
      tOpc b = 5 ∧ bodyOk b [0, 2] false true (if true then 32 else 0) = true ∧ tCtr b = none ∧ ewOk mx.code = true ∧ ewOk mz.code = true)
    ∧ (∃ (n : Fin 1024) (b : List Byte) (c : Chain) (mx : Mould) (mz : Mould) (s : State), s.dev.Idle ∧ s.dev.Engine n.val 0x64 b c ∧ s.HasMould
      c.part c.queue (tMould b 0) mx ∧ s.HasMould c.part c.queue (tMould b 2) mz ∧ s.Tile1 c.part mx (tAddr b 0) ∧ s.Tile1 c.part mz (tAddr b 2) ∧
      tOpc b = 6 ∧ bodyOk b [0, 2] false false (if false then 32 else 0) = true ∧ tCtr b = none ∧ ewOk mx.code = true ∧ ewOk mz.code = true)
    ∧ (∃ (n : Fin 1024) (b : List Byte) (c : Chain) (mx : Mould) (mz : Mould) (s : State), s.dev.Idle ∧ s.dev.Engine n.val 0x64 b c ∧ s.HasMould
      c.part c.queue (tMould b 0) mx ∧ s.HasMould c.part c.queue (tMould b 2) mz ∧ s.Tile1 c.part mx (tAddr b 0) ∧ s.Tile1 c.part mz (tAddr b 2) ∧
      tOpc b = 7 ∧ bodyOk b [0, 2] false false (if false then 32 else 0) = true ∧ tCtr b = none ∧ ewOk mx.code = true ∧ ewOk mz.code = true)
    ∧ (∃ (n : Fin 1024) (b : List Byte) (c : Chain) (mx : Mould) (mz : Mould) (s : State), s.dev.Idle ∧ s.dev.Engine n.val 0x64 b c ∧ s.HasMould
      c.part c.queue (tMould b 0) mx ∧ s.HasMould c.part c.queue (tMould b 2) mz ∧ s.Tile1 c.part mx (tAddr b 0) ∧ s.Tile1 c.part mz (tAddr b 2) ∧
      tOpc b = 8 ∧ bodyOk b [0, 2] false false (if false then 32 else 0) = true ∧ tCtr b = none ∧ ewOk mx.code = true ∧ ewOk mz.code = true)
    ∧ (∃ (n : Fin 1024) (b : List Byte) (c : Chain) (mx : Mould) (mz : Mould) (s : State), s.dev.Idle ∧ s.dev.Engine n.val 0x64 b c ∧ s.HasMould
      c.part c.queue (tMould b 0) mx ∧ s.HasMould c.part c.queue (tMould b 2) mz ∧ s.Tile1 c.part mx (tAddr b 0) ∧ s.Tile1 c.part mz (tAddr b 2) ∧
      tOpc b = 9 ∧ bodyOk b [0, 2] false false (if false then 32 else 0) = true ∧ tCtr b = none ∧ ewOk mx.code = true ∧ ewOk mz.code = true)
    ∧ (∃ (n : Fin 1024) (b : List Byte) (c : Chain) (mx : Mould) (mz : Mould) (s : State), s.dev.Idle ∧ s.dev.Engine n.val 0x64 b c ∧ s.HasMould
      c.part c.queue (tMould b 0) mx ∧ s.HasMould c.part c.queue (tMould b 2) mz ∧ s.Tile1 c.part mx (tAddr b 0) ∧ s.Tile1 c.part mz (tAddr b 2) ∧
      tOpc b = 10 ∧ bodyOk b [0, 2] false false (if false then 32 else 0) = true ∧ tCtr b = none ∧ ewOk mx.code = true ∧ ewOk mz.code = true) :=
  ⟨⟨0, elementwiseD0, (ch elementwiseD0), (mld 8), (mld 0xA), (mld 8), tl elementwiseD0 8 10 8 0x40000000 0x3F80, idle_of (by decide +kernel),
    engine_of (by decide +kernel), hasMould_of g5 (by decide +kernel), hasMould_of g5 (by decide +kernel), hasMould_of g5 (by decide +kernel),
    tile1_of g5 (by decide +kernel), tile1_of g5 (by decide +kernel), tile1_of g5 (by decide +kernel), by decide +kernel⟩,
   ⟨0, elementwiseD1, (ch elementwiseD1), (mld 8), (mld 0xA), (mld 8), tl elementwiseD1 8 10 8 0x40000000 0x3F80, idle_of (by decide +kernel),
     engine_of (by decide +kernel), hasMould_of g5 (by decide +kernel), hasMould_of g5 (by decide +kernel), hasMould_of g5 (by decide +kernel),
     tile1_of g5 (by decide +kernel), tile1_of g5 (by decide +kernel), tile1_of g5 (by decide +kernel), by decide +kernel⟩,
   ⟨0, elementwiseD2, (ch elementwiseD2), (mld 8), (mld 0xA), (mld 8), tl elementwiseD2 8 10 8 0x40000000 0x3F80, idle_of (by decide +kernel),
     engine_of (by decide +kernel), hasMould_of g5 (by decide +kernel), hasMould_of g5 (by decide +kernel), hasMould_of g5 (by decide +kernel),
     tile1_of g5 (by decide +kernel), tile1_of g5 (by decide +kernel), tile1_of g5 (by decide +kernel), by decide +kernel⟩,
   ⟨0, elementwiseD3, (ch elementwiseD3), (mld 8), (mld 0xA), (mld 8), tl elementwiseD3 8 10 8 0x40000000 0x3F80, idle_of (by decide +kernel),
     engine_of (by decide +kernel), hasMould_of g5 (by decide +kernel), hasMould_of g5 (by decide +kernel), hasMould_of g5 (by decide +kernel),
     tile1_of g5 (by decide +kernel), tile1_of g5 (by decide +kernel), tile1_of g5 (by decide +kernel), by decide +kernel⟩,
   ⟨0, elementwiseD4, (ch elementwiseD4), (mld 8), (mld 0xA), (mld 8), tl elementwiseD4 8 10 8 0x40000000 0x3F80, idle_of (by decide +kernel),
     engine_of (by decide +kernel), hasMould_of g5 (by decide +kernel), hasMould_of g5 (by decide +kernel), hasMould_of g5 (by decide +kernel),
     tile1_of g5 (by decide +kernel), tile1_of g5 (by decide +kernel), tile1_of g5 (by decide +kernel), by decide +kernel⟩,
   ⟨0, elementwiseD5, (ch elementwiseD5), (mld 8), (mld 8), tl elementwiseD5 8 8 8 0x40000000 0, idle_of (by decide +kernel), engine_of
     (by decide +kernel), hasMould_of g5 (by decide +kernel), hasMould_of g5 (by decide +kernel), tile1_of g5 (by decide +kernel), tile1_of g5
     (by decide +kernel), by decide +kernel⟩,
   ⟨0, elementwiseD6, (ch elementwiseD6), (mld 8), (mld 8), tl elementwiseD6 8 8 8 0x40000000 0, idle_of (by decide +kernel), engine_of
     (by decide +kernel), hasMould_of g5 (by decide +kernel), hasMould_of g5 (by decide +kernel), tile1_of g5 (by decide +kernel), tile1_of g5
     (by decide +kernel), by decide +kernel⟩,
   ⟨0, elementwiseD7, (ch elementwiseD7), (mld 8), (mld 8), tl elementwiseD7 8 8 8 0x40000000 0, idle_of (by decide +kernel), engine_of
     (by decide +kernel), hasMould_of g5 (by decide +kernel), hasMould_of g5 (by decide +kernel), tile1_of g5 (by decide +kernel), tile1_of g5
     (by decide +kernel), by decide +kernel⟩,
   ⟨0, elementwiseD8, (ch elementwiseD8), (mld 8), (mld 8), tl elementwiseD8 8 8 8 0x40000000 0, idle_of (by decide +kernel), engine_of
     (by decide +kernel), hasMould_of g5 (by decide +kernel), hasMould_of g5 (by decide +kernel), tile1_of g5 (by decide +kernel), tile1_of g5
     (by decide +kernel), by decide +kernel⟩,
   ⟨0, elementwiseD9, (ch elementwiseD9), (mld 8), (mld 8), tl elementwiseD9 8 8 8 0x40000000 0, idle_of (by decide +kernel), engine_of
     (by decide +kernel), hasMould_of g5 (by decide +kernel), hasMould_of g5 (by decide +kernel), tile1_of g5 (by decide +kernel), tile1_of g5
     (by decide +kernel), by decide +kernel⟩,
   ⟨0, elementwiseD10, (ch elementwiseD10), (mld 8), (mld 8), tl elementwiseD10 8 8 8 0x40000000 0, idle_of (by decide +kernel), engine_of
     (by decide +kernel), hasMould_of g5 (by decide +kernel), hasMould_of g5 (by decide +kernel), tile1_of g5 (by decide +kernel), tile1_of g5
     (by decide +kernel), by decide +kernel⟩⟩

/-- A descriptor of `wit_OptimiserStep`. -/
def optimiserStepD0 : List Byte := dsc 0x65 3 [(0x10, 8, 0xA00000), (0x18, 8, 0xA00040), (0x2A, 2, 1), (0x38, 8, 0xA000C0)]

/-- States and operands that meet the hypotheses of each clause of `OptimiserStep`. -/
theorem wit_OptimiserStep :
    ∃ (n : Fin 1024) (b : List Byte) (c : Chain) (mw : Mould) (mg : Mould) (o : Optim) (s : State), s.dev.Idle ∧ s.dev.Engine n.val 0x65 b c ∧
      s.Readable (fld b 0x38 8) c.part ∧ s.HasMould c.part c.queue (tMould b 0) mw ∧ s.HasMould c.part c.queue (tMould b 1) mg ∧ s.Tile1 c.part mw
      (tAddr b 0) ∧ s.Tile1 c.part mg (tAddr b 1) ∧ bodyOk b [0, 1, 2] false false 64 = true ∧ tOpc b = 0 ∧ tCtr b = none ∧ optimOf (s.bytesAt (fld b
      0x38 8)) = some o ∧ o.kind = 0 ∧ ewOk mw.code = true ∧ ewOk mg.code = true :=
  ⟨0, optimiserStepD0, (ch optimiserStepD0), (mld 8), (mld 8), ⟨0, 0x3F000000, 0, 0, 0, 0, 0, 0⟩,
    { tl optimiserStepD0 8 8 8 0x40000000 0x3F800000 with mem := (tl optimiserStepD0 8 8 8 0x40000000 0x3F800000).mem ++ memOf [(0xA000C4, 4, 0x3F000000)] },
    idle_of (by decide +kernel), engine_of (by decide +kernel), readable_of g5 (by decide +kernel), hasMould_of g5 (by decide +kernel), hasMould_of g5
    (by decide +kernel), tile1_of g5 (by decide +kernel), tile1_of g5 (by decide +kernel), by decide +kernel⟩

/-- States and operands that meet the hypotheses of each clause of `BlocksAreLossless`. -/
theorem wit_BlocksAreLossless :
    (∃ (etype : Nat) (t : Wio.Ty) (raw : List Byte), Wio.ty? etype = some t ∧ 0 < raw.length ∧ raw.length ≤ 4096 ∧ raw.length % t.bytes = 0)
    ∧ (∃ (etype : Nat) (t : Wio.Ty) (raw : List Byte) (b : List Byte) (c : List (Nat × Nat) × Nat), Wio.ty? etype = some t ∧ etype ≠ 0 ∧ 0 <
      raw.length ∧ raw.length ≤ 4096 ∧ raw.length % t.bytes = 0 ∧ c.1.length ≤ 15 ∧ ((∀ e ∈ c.1, 1 ≤ e.2 ∧ e.1 < 2 ^ t.eb)) ∧ 1 ≤ c.2 ∧ Wio.codeOk t
      (Wio.entsOf c) = true ∧ Wio.blockWith etype t raw c = some b) :=
  ⟨⟨8, ⟨4, 8, 23⟩, leBytes 8 0x3F8000003F800000, rfl, by decide +kernel⟩,
   ⟨8, ⟨4, 8, 23⟩, leBytes 8 0x3F8000003F800000, (Wio.blockWith 8 ⟨4, 8, 23⟩ (leBytes 8 0x3F8000003F800000) ([(127, 1)], 1)).getD [], ([(127, 1)], 1),
     rfl, by decide +kernel⟩⟩

/-- A descriptor of `wit_WiotteOperations`. -/
def wiotteOperationsD0 : List Byte := dsc 0xA0 3 [(0x10, 8, 0xA00000), (0x18, 8, 0xA01000), (0x20, 8, 8), (0x29, 1, 1)]
/-- A descriptor of `wit_WiotteOperations`. -/
def wiotteOperationsD1 : List Byte := dsc 0xA1 3 [(0x10, 8, 0xA00000), (0x18, 8, 0xA01000)]
/-- A descriptor of `wit_WiotteOperations`. -/
def wiotteOperationsD2 : List Byte := dsc 0xA4 3 [(0x10, 8, 0xA00000), (0x18, 8, 0xC00000), (0x20, 8, 1)]
/-- A descriptor of `wit_WiotteOperations`. -/
def wiotteOperationsD3 : List Byte := dsc 0xA5 3 [(0x10, 8, 0xA00000)]

/-- States and operands that meet the hypotheses of each clause of `WiotteOperations`. -/
theorem wit_WiotteOperations :
    (∃ (n : Fin 1024) (b : List Byte) (c : Chain) (ls : List DLine) (s : State), s.dev.Idle ∧ s.dev.Engine n.val 0xA0 b c ∧ s.Readable (wSrc b) c.part
      ∧ s.dev.Placed (wDst b) c.part ∧ wioOk (s.dev.engOf n.val c) b = true ∧ 0 < wLen b ∧ wLen b ≤ 64 ∧ rawOk (fld b 0x28 1) (wLen b) = true ∧ wAux b
      = 0 ∧ wRes b = 0 ∧ wCtr b = none ∧ wDst b % 2 ^ 21 + 256 ≤ 2 ^ 21 ∧ wDst b + 256 ≤ 2 ^ 62 ∧ ls = objWrites (Wio.pack (fld b 0x28 1) (bit (fld b
      0x29 1) 0) ((s.bytesAt (wSrc b)).take (wLen b))).1 (Wio.pack (fld b 0x28 1) (bit (fld b 0x29 1) 0) ((s.bytesAt (wSrc b)).take (wLen b))).2 (fun
      _ => false))
    ∧ (∃ (n : Fin 1024) (b : List Byte) (c : Chain) (o : Wio.Obj) (off : Nat) (len : Nat) (raw : List Byte) (s : State), s.dev.Idle ∧ s.dev.Engine
      n.val 0xA1 b c ∧ s.Readable (wSrc b) c.part ∧ s.Readable (wSrc b + 64) c.part ∧ ((∀ i, i < len → s.Readable (wSrc b + 64 * (off + i)) c.part)) ∧
      s.Readable (wDst b) c.part ∧ wioOk (s.dev.engOf n.val c) b = true ∧ wLen b = 0 ∧ fld b 0x28 2 = 0 ∧ wAux b = 0 ∧ wRes b = 0 ∧ wCtr b = none ∧
      Wio.objOf (s.bytesAt (wSrc b)) = some o ∧ o.rawLen ≤ 64 ∧ Wio.idxOf o (fld (s.bytesAt (wSrc b + 64)) 0 8) = some (off, len) ∧ Wio.decodeIn o 0
      ((List.range len).flatMap fun i => s.bytesAt (wSrc b + 64 * (off + i))) = .raw raw)
    ∧ (∃ (n : Fin 1024) (b : List Byte) (c : Chain) (x : Region) (g : GEnt) (total : Nat) (s : State), s.dev.Idle ∧ s.dev.GoesOn n.val 0xA4 b c ∧
      s.Readable (wSrc b) c.part ∧ wioOk (s.dev.engOf n.val c) b = true ∧ wLen b = 1 ∧ fld b 0x28 2 = 0 ∧ wRes b = 0 ∧ s.dev.frames = [] ∧ (s.dev.pair
      n.val).phase = 20 ∧ (s.dev.pair n.val).kept = [(kNext, leBytes 8 total)] ∧ total < 2 ^ 64 ∧ (s.dev.pair n.val).jobs = [] ∧ (s.dev.pair
      n.val).asked = [] ∧ regionsOf ((s.bytesAt (wSrc b)).take 32) 1 = some [x] ∧ s.dev.gran.get? (granuleOf (wDst b)) = some g ∧ g.tier = 2 ∧ g.part
      = c.part ∧ wDst b % 65536 + (256 + objMax x.len) ≤ 65536 ∧ wDst b < 2 ^ 61)
    ∧ (∃ (n : Fin 1024) (b : List Byte) (c : Chain) (hd : List Byte) (ents : List Byte) (total : Nat) (s : State), s.dev.Idle ∧ s.dev.GoesOn n.val
      0xA5 b c ∧ ((∀ i, i < 4 → s.Readable (wSrc b + 64 * i) c.part)) ∧ wioOk (s.dev.engOf n.val c) b = true ∧ wLen b = 0 ∧ fld b 0x28 2 = 0 ∧ wRes b
      = 0 ∧ wAux b = 0 ∧ wDst b = 0 ∧ (s.dev.pair n.val).phase = 17 ∧ (s.dev.pair n.val).kept = [(kRes, ({ raw := total } : WioRes).bytes)] ∧ total <
      2 ^ 64 ∧ hd = s.bytesAt (wSrc b) ++ s.bytesAt (wSrc b + 64) ∧ ents = s.bytesAt (wSrc b + 128) ++ s.bytesAt (wSrc b + 192) ∧ fld hd 0 4 =
      0x57494D46 ∧ fld hd 4 1 = 1 ∧ fld hd 8 4 = 1) :=
  ⟨⟨0, wiotteOperationsD0, (ch wiotteOperationsD0), objWrites (Wio.pack 0 true (leBytes 8 7)).1 (Wio.pack 0 true (leBytes 8 7)).2 (fun _ => false),
    { mkSt (eng wiotteOperationsD0 []) with mem := memOf [(0xA00000, 8, 7)] }, idle_of (by decide +kernel), engine_of (by decide +kernel), readable_of
    g5 (by decide +kernel), placed_of g5 (by decide +kernel), by decide +kernel⟩,
   ⟨0, wiotteOperationsD1, (ch wiotteOperationsD1), ⟨0, 4, 1, 128⟩, 2, 2, [1, 2, 3, 4],
     { mkSt (eng wiotteOperationsD1 []) with mem := memAt 0xA00000 ((Wio.pack 0 true [1, 2, 3, 4]).1 ++ (Wio.pack 0 true [1, 2, 3, 4]).2.flatten) },
     idle_of (by decide +kernel), engine_of (by decide +kernel), readable_of g5 (by decide +kernel), readable_of g5 (by decide +kernel), fun i hi =>
     (by rcases (by omega : i = 0 ∨ i = 1) with rfl | rfl <;> exact readable_of g5 (by decide +kernel)), readable_of g5 (by decide +kernel),
     by decide +kernel⟩,
   ⟨0, wiotteOperationsD2, { ch wiotteOperationsD2 with stage := .busy }, ⟨0, 4, 0⟩, { tier := 2, part := 0, slot := 1 }, 9,
     { mkSt { up [] with gran := [(5, g5), (6, { tier := 2, part := 0, slot := 1 })], pairs := [(0, { chain := some { ch wiotteOperationsD2 with stage := .busy }, phase := 20, kept := [(kNext, leBytes 8 9)] })] } with mem := memOf [(0xA00008, 8, 4)] },
     idle_of (by decide +kernel), goesOn_of (by decide +kernel), readable_of g5 (by decide +kernel), by decide +kernel⟩,
   ⟨0, wiotteOperationsD3, { ch wiotteOperationsD3 with stage := .busy }, (restoring).bytesAt 0xA00000 ++ (restoring).bytesAt 0xA00040,
     (restoring).bytesAt 0xA00080 ++ (restoring).bytesAt 0xA000C0, 9, restoring, idle_of (by decide +kernel), goesOn_of (by decide +kernel),
     readables_of 0xA00000 g5 (by decide +kernel), by decide +kernel⟩⟩

/-- A descriptor of `wit_EmbeddingTables`. -/
def embeddingTablesD0 : List Byte := dsc 0x70 3 [(0x10, 8, 0xA00000), (0x20, 8, 0xA02000), (0x28, 8, 0xA03000), (0x30, 4, 1), (0x34, 3, 1), (0x38, 2, 5)]
/-- A descriptor of `wit_EmbeddingTables`. -/
def embeddingTablesD1 : List Byte := dsc 0x71 3 [(0x10, 8, 0xA00000), (0x20, 8, 0xA02000), (0x28, 8, 0xA03000), (0x30, 4, 1), (0x34, 3, 1), (0x38, 2, 5)]
/-- A descriptor of `wit_EmbeddingTables`. -/
def embeddingTablesD2 : List Byte := dsc 0x78 0 [(0x10, 8, 0xA00000), (0x18, 2, 5)]
/-- A descriptor of `wit_EmbeddingTables`. -/
def embeddingTablesD3 : List Byte := dsc 0x79 0 [(0x18, 2, 5), (0x20, 8, 0xA00040)]

/-- States and operands that meet the hypotheses of each clause of `EmbeddingTables`. -/
theorem wit_EmbeddingTables :
    (∃ (n : Fin 1024) (b : List Byte) (c : Chain) (x : Batch) (v : EmbRec) (sv : SlotVer) (e : Elem) (a : Nat) (s : State), s.dev.Idle ∧ s.dev.Engine
      n.val 0x70 b c ∧ s.Readable x.index c.part ∧ s.Readable a c.part ∧ s.dev.Placed x.data c.part ∧ s.dev.Placed x.work c.part ∧ batchOf
      (s.dev.engOf n.val c) b = some x ∧ x.nidx = 1 ∧ x.nbag = 1 ∧ x.offs = 0 ∧ x.pool = 0 ∧ x.dtype = 0 ∧ x.ctr = none ∧ s.dev.emb.get? x.slot = some
      { owner := c.part, cur := sv } ∧ sv.refs = [] ∧ sv.version ≠ 0 ∧ embRec sv.body = some v ∧ v.dim = 1 ∧ v.wtype = 8 ∧ elem? 8 = some e ∧ fld
      (s.bytesAt x.index) 0 4 < v.rows ∧ a = v.base + fld (s.bytesAt x.index) 0 4 * v.pitch ∧ x.data < 2 ^ 62 ∧ x.work % 65536 + 192 ≤ 65536 ∧ x.work
      < 2 ^ 62 ∧ (x.data + 64 ≤ x.work ∨ x.work + 192 ≤ x.data) ∧ s.dev.workAreas n.val = [])
    ∧ (∃ (n : Fin 1024) (b : List Byte) (c : Chain) (x : Batch) (v : EmbRec) (sv : SlotVer) (e : Elem) (o : Optim) (a : Nat) (s : State), s.dev.Idle ∧
      s.dev.Engine n.val 0x71 b c ∧ s.Readable v.opt c.part ∧ s.Readable x.index c.part ∧ s.Readable a c.part ∧ s.Readable x.data c.part ∧
      s.dev.Placed x.work c.part ∧ batchOf (s.dev.engOf n.val c) b = some x ∧ x.nidx = 1 ∧ x.nbag = 1 ∧ x.offs = 0 ∧ x.pool = 0 ∧ x.dtype = 0 ∧ x.ctr
      = none ∧ s.dev.emb.get? x.slot = some { owner := c.part, cur := sv } ∧ sv.refs = [] ∧ sv.version ≠ 0 ∧ embRec sv.body = some v ∧ v.dim = 1 ∧
      v.wtype = 8 ∧ v.skind = 0 ∧ v.pitch = 64 ∧ v.opt ≠ 0 ∧ elem? 8 = some e ∧ optimOf (s.bytesAt v.opt) = some o ∧ o.kind = 0 ∧ fld (s.bytesAt
      x.index) 0 4 < v.rows ∧ a = v.base + fld (s.bytesAt x.index) 0 4 * v.pitch ∧ x.work % 65536 + 192 ≤ 65536 ∧ x.work < 2 ^ 62 ∧ (a + 64 ≤ x.work ∨
      x.work + 192 ≤ a) ∧ s.dev.workAreas n.val = [])
    ∧ (∃ (n : Fin 1024) (b : List Byte) (c : Chain) (v : EmbRec) (s : State), s.dev.Idle ∧ s.dev.Engine n.val 0x78 b c ∧ s.Readable (fld b 0x10 8)
      c.part ∧ fld b 0x10 8 ≠ 0 ∧ fld b 0x18 2 < 1024 ∧ fld b 0x1A 2 = 0 ∧ fld b 0x1C 4 = 0 ∧ zeroed b 0x20 64 = true ∧ s.dev.emb.get? (fld b 0x18 2)
      = none ∧ embRec (s.bytesAt (fld b 0x10 8)) = some v ∧ s.dev.ownsRun c.part v.base (v.rows * v.pitch) = true ∧ s.dev.ownsRun c.part (fld b 0x10
      8) 64 = true)
    ∧ (∃ (n : Fin 1024) (b : List Byte) (c : Chain) (s : State), s.dev.Quiet ∧ s.dev.Engine n.val 0x79 b c ∧ ((∀ x, s.dev.emb.get? (fld b 0x18 2) =
      some x → x.owner = c.part)) ∧ fld b 0x10 8 = 0 ∧ fld b 0x18 2 < 1024 ∧ fld b 0x1A 2 = 0 ∧ fld b 0x1C 4 = 0 ∧ fld b 0x20 8 % 64 = 0 ∧ fld b 0x20
      8 < 2 ^ 62 ∧ zeroed b 0x28 64 = true ∧ (s.dev.pair n.val).outs = []) :=
  ⟨⟨0, embeddingTablesD0, (ch embeddingTablesD0), ⟨0xA00000, 0, 0xA02000, 0xA03000, 1, 1, 0, 0, 5, none⟩, ⟨8, 1, 64, 4, 1, 0xA01000, 0, 0, 0, 0⟩,
    { version := 1, body := embBody, addr := 0xA00100 }, { code := 8, k := .flt F32, w := 32, unit := 4 }, 0xA01080,
    { mkSt { eng embeddingTablesD0 [] with emb := [(5, { owner := 0, cur := { version := 1, body := embBody, addr := 0xA00100 } })] } with mem := memOf [(0xA00000, 4, 2), (0xA01080, 4, 0x40400000)] },
    idle_of (by decide +kernel), engine_of (by decide +kernel), readable_of g5 (by decide +kernel), readable_of g5 (by decide +kernel), placed_of g5
    (by decide +kernel), placed_of g5 (by decide +kernel), by decide +kernel⟩,
   ⟨0, embeddingTablesD1, (ch embeddingTablesD1), ⟨0xA00000, 0, 0xA02000, 0xA03000, 1, 1, 0, 0, 5, none⟩, ⟨8, 1, 64, 4, 1, 0xA01000, 0, 0, 0,
     0xA000C0⟩, { version := 1, body := embBodyOpt, addr := 0xA00100 }, { code := 8, k := .flt F32, w := 32, unit := 4 }, ⟨0, 0x3F000000, 0, 0, 0, 0,
     0, 0⟩, 0xA01080,
     { mkSt { eng embeddingTablesD1 [] with emb := [(5, { owner := 0, cur := { version := 1, body := embBodyOpt, addr := 0xA00100 } })] } with mem := memOf [(0xA00000, 4, 2), (0xA000C4, 4, 0x3F000000), (0xA01080, 4, 0x40400000), (0xA02000, 4, 0x3F800000)] },
     idle_of (by decide +kernel), engine_of (by decide +kernel), readable_of g5 (by decide +kernel), readable_of g5 (by decide +kernel), readable_of
     g5 (by decide +kernel), readable_of g5 (by decide +kernel), placed_of g5 (by decide +kernel), by decide +kernel⟩,
   ⟨0, embeddingTablesD2, (ch embeddingTablesD2), ⟨8, 1, 64, 4, 1, 0xA01000, 0, 0, 0, 0⟩,
     { mkSt (eng embeddingTablesD2 []) with mem := memAt 0xA00000 embBody }, idle_of (by decide +kernel), engine_of (by decide +kernel), readable_of
     g5 (by decide +kernel), by decide +kernel⟩,
   ⟨0, embeddingTablesD3, (ch embeddingTablesD3), mkSt (eng embeddingTablesD3 []), quiet_of (by decide +kernel), engine_of (by decide +kernel), all_of
     (by decide +kernel), by decide +kernel⟩⟩

/-- A descriptor of `wit_VectorSearch`. -/
def vectorSearchD0 : List Byte := dsc 0x80 3 [(0x10, 8, 0xA00000), (0x18, 8, 0xA04000), (0x28, 2, 5)]
/-- A descriptor of `wit_VectorSearch`. -/
def vectorSearchD1 : List Byte := dsc 0x81 3 [(0x10, 8, 0xA00000), (0x18, 8, 0xA04000), (0x20, 4, 128), (0x24, 2, 1), (0x26, 2, 1), (0x28, 4, 9)]
/-- A descriptor of `wit_VectorSearch`. -/
def vectorSearchD2 : List Byte := dsc 0x82 3 [(0x10, 8, 0xA00000), (0x20, 2, 1), (0x22, 2, 2)]
/-- A descriptor of `wit_VectorSearch`. -/
def vectorSearchD3 : List Byte := dsc 0x88 0 [(0x10, 8, 0xA00000), (0x18, 2, 5)]
/-- A descriptor of `wit_VectorSearch`. -/
def vectorSearchD4 : List Byte := dsc 0x89 0 [(0x18, 2, 5), (0x20, 8, 0xA00040)]

/-- States and operands that meet the hypotheses of each clause of `VectorSearch`. -/
theorem wit_VectorSearch :
    (∃ (n : Fin 1024) (b : List Byte) (c : Chain) (v : IdxRec) (q : Query) (sv : SlotVer) (e : Elem) (w : Machine.Word) (d : Nat) (qa : Nat) (res :
      Nat) (s : State), s.dev.Idle ∧ s.dev.Engine n.val 0x80 b c ∧ ((∀ i, i < 3 → s.Readable (qa + 64 * i) c.part)) ∧ s.Readable v.base c.part ∧
      s.Readable (v.base + 64) c.part ∧ s.Readable res c.part ∧ s.Readable (res + 64) c.part ∧ fld b 0x10 8 = qa ∧ fld b 0x18 8 = res ∧ fld b 0x20 8 =
      0 ∧ fld b 0x28 2 < 1024 ∧ fld b 0x2A 2 = 0 ∧ fld b 0x2C 4 = 0 ∧ zeroed b 0x30 64 = true ∧ s.dev.idx.get? (fld b 0x28 2) = some
      { owner := c.part, cur := sv } ∧ sv.refs = [] ∧ sv.version ≠ 0 ∧ idxRec sv.body = some v ∧ v.kind = 0 ∧ v.nodes = 1 ∧ v.etype = 8 ∧ v.dim = 1 ∧
      elem? 8 = some e ∧ queryOf 0 (s.bytesAt qa ++ s.bytesAt (qa + 64)) = some q ∧ q.k = 1 ∧ q.terms = [] ∧ wordOf (s.bytesAt v.base) = w ∧ w.tomb =
      false ∧ d = distance v e (qvec e [{ v := fld (s.bytesAt (qa + 128)) 0 4 }]) [{ v := fld (s.bytesAt (v.base + 64)) 0 4 }] w.aux ∧ (F32.dec
      d).isNan = false)
    ∧ (∃ (n : Fin 1024) (b : List Byte) (c : Chain) (hd : List Byte) (at_ : Nat) (res : Nat) (s : State), s.dev.Idle ∧ s.dev.Engine n.val 0x81 b c ∧
      s.Readable at_ c.part ∧ s.Readable (at_ + 64) c.part ∧ s.Readable res c.part ∧ s.Readable (res + 64) c.part ∧ fld b 0x10 8 = at_ ∧ fld b 0x18 8
      = res ∧ fld b 0x20 4 = 128 ∧ fld b 0x24 2 = 1 ∧ fld b 0x26 2 = 1 ∧ fld b 0x2C 2 = 0 ∧ zeroed b 0x2E 64 = true ∧ hd = s.bytesAt at_ ∧ fld hd 0 4
      = fld b 0x28 4 ∧ fld hd 0x0E 1 = 0 ∧ fld hd 8 2 = 1)
    ∧ (∃ (n : Fin 1024) (b : List Byte) (c : Chain) (size : Nat) (base : Nat) (s : State), s.dev.Idle ∧ s.dev.Engine n.val 0x82 b c ∧ s.Readable (fld
      b 0x10 8) c.part ∧ s.dev.Placed (base + fld b 0x18 8) c.part ∧ fld b 0x20 2 = 1 ∧ fld b 0x22 2 < 4096 ∧ fld b 0x24 2 = 0 ∧ zeroed b 0x26 64 =
      true ∧ fld b 0x18 8 % 64 = 0 ∧ s.dev.casts.get? (fld b 0x22 2) = some ⟨c.part, size, [(s.dev.self, base)]⟩ ∧ fld b 0x18 8 + 64 ≤ size ∧ base %
      64 = 0 ∧ s.dev.sends = [] ∧ base + fld b 0x18 8 < 2 ^ 62)
    ∧ (∃ (n : Fin 1024) (b : List Byte) (c : Chain) (s : State), s.dev.Quiet ∧ s.dev.GoesOn n.val 0x82 b c ∧ 2 ≤ dCls b ∧ fld b 0x10 8 % 64 = 0 ∧ fld
      b 0x18 8 % 64 = 0 ∧ 1 ≤ fld b 0x20 2 ∧ fld b 0x20 2 ≤ 1024 ∧ fld b 0x22 2 < 4096 ∧ fld b 0x24 2 = 0 ∧ zeroed b 0x26 64 = true ∧ s.dev.keptAt
      n.val kCast = [0])
    ∧ (∃ (n : Fin 1024) (b : List Byte) (c : Chain) (v : IdxRec) (s : State), s.dev.Idle ∧ s.dev.Engine n.val 0x88 b c ∧ s.Readable (fld b 0x10 8)
      c.part ∧ fld b 0x10 8 ≠ 0 ∧ fld b 0x18 2 < 1024 ∧ fld b 0x1A 2 = 0 ∧ fld b 0x1C 4 = 0 ∧ zeroed b 0x20 64 = true ∧ s.dev.idx.get? (fld b 0x18 2)
      = none ∧ idxRec (s.bytesAt (fld b 0x10 8)) = some v ∧ s.dev.ownsRun c.part v.base (v.nodes * v.pitch) = true ∧ s.dev.ownsRun c.part (fld b 0x10
      8) 64 = true)
    ∧ (∃ (n : Fin 1024) (b : List Byte) (c : Chain) (s : State), s.dev.Quiet ∧ s.dev.Engine n.val 0x89 b c ∧ ((∀ x, s.dev.idx.get? (fld b 0x18 2) =
      some x → x.owner = c.part)) ∧ fld b 0x10 8 = 0 ∧ fld b 0x18 2 < 1024 ∧ fld b 0x1A 2 = 0 ∧ fld b 0x1C 4 = 0 ∧ fld b 0x20 8 % 64 = 0 ∧ fld b 0x20
      8 < 2 ^ 62 ∧ zeroed b 0x28 64 = true ∧ (s.dev.pair n.val).outs = []) :=
  ⟨⟨0, vectorSearchD0, (ch vectorSearchD0), idxRecord, ⟨1, 0, 0, 9, []⟩, { version := 1, body := idxBody, addr := 0xA00100 },
    { code := 8, k := .flt F32, w := 32, unit := 4 }, ⟨7, 0, 0, false, 0⟩, (distance idxRecord { code := 8, k := .flt F32, w := 32, unit := 4 } (qvec
    { code := 8, k := .flt F32, w := 32, unit := 4 } [{ v := 0x40000000 }]) [{ v := 0x3F800000 }] 0), 0xA00000, 0xA04000,
    { mkSt { eng vectorSearchD0 [] with idx := [(5, { owner := 0, cur := { version := 1, body := idxBody, addr := 0xA00100 } })] } with mem := memOf [(0xA00000, 4, 0x15651), (0xA00008, 4, 9), (0xA00080, 4, 0x40000000), (0xA01000, 1, 7), (0xA01040, 4, 0x3F800000)] },
    idle_of (by decide +kernel), engine_of (by decide +kernel), readables_of 0xA00000 g5 (by decide +kernel), readable_of g5 (by decide +kernel),
    readable_of g5 (by decide +kernel), readable_of g5 (by decide +kernel), readable_of g5 (by decide +kernel), by decide +kernel⟩,
   ⟨0, vectorSearchD1, (ch vectorSearchD1), (merging).bytesAt 0xA00000, 0xA00000, 0xA04000, merging, idle_of (by decide +kernel), engine_of
     (by decide +kernel), readable_of g5 (by decide +kernel), readable_of g5 (by decide +kernel), readable_of g5 (by decide +kernel), readable_of g5
     (by decide +kernel), by decide +kernel⟩,
   ⟨0, vectorSearchD2, (ch vectorSearchD2), 64, 0xA01000,
     { mkSt { eng vectorSearchD2 [] with casts := [(2, ⟨0, 64, [(0, 0xA01000)]⟩)] } with mem := memOf [(0xA00000, 4, 9)] }, idle_of
     (by decide +kernel), engine_of (by decide +kernel), readable_of g5 (by decide +kernel), placed_of g5 (by decide +kernel), by decide +kernel⟩,
   ⟨0, vectorSearchD2, { ch vectorSearchD2 with stage := .busy }, mkSt
     { up [] with pairs := [(0, { chain := some { ch vectorSearchD2 with stage := .busy }, kept := [(kCast, [0])] })] }, quiet_of (by decide +kernel),
     goesOn_of (by decide +kernel), by decide +kernel⟩,
   ⟨0, vectorSearchD3, (ch vectorSearchD3), idxRecord, { mkSt (eng vectorSearchD3 []) with mem := memAt 0xA00000 idxBody }, idle_of
     (by decide +kernel), engine_of (by decide +kernel), readable_of g5 (by decide +kernel), by decide +kernel⟩,
   ⟨0, vectorSearchD4, (ch vectorSearchD4), mkSt (eng vectorSearchD4 []), quiet_of (by decide +kernel), engine_of (by decide +kernel), all_of
     (by decide +kernel), by decide +kernel⟩⟩

/-- A descriptor of `wit_AttentionAndCaches`. -/
def attentionAndCachesD0 : List Byte := dsc 0x90 3 [(0x10, 8, 0xA00000), (0x18, 8, 0xA00040), (0x20, 8, 0xA00080), (0x28, 8, 0xA00100), (0x30, 4, 1), (0x35, 1, 1), (0x36, 1, 4)]
/-- A descriptor of `wit_AttentionAndCaches`. -/
def attentionAndCachesD1 : List Byte := dsc 0x91 3 [(0x10, 8, 0xA00000), (0x18, 8, 0xA00040), (0x20, 4, 1), (0x28, 8, 0xA00200)]

/-- States and operands that meet the hypotheses of each clause of `AttentionAndCaches`. -/
theorem wit_AttentionAndCaches :
    (∃ (n : Fin 1024) (b : List Byte) (c : Chain) (x : Att) (p : Pool) (blk : Nat) (at_ : Nat) (qb : List Byte) (s : State), s.dev.Idle ∧ s.dev.Engine
      n.val 0x90 b c ∧ s.Readable x.pool c.part ∧ s.Readable x.btab c.part ∧ s.Readable x.qbuf c.part ∧ s.Readable (x.qbuf + 64) c.part ∧ s.Readable
      at_ c.part ∧ s.Readable (at_ + 64 * p.bt) c.part ∧ s.dev.Placed x.out c.part ∧ attOf (s.dev.engOf n.val c) b = some x ∧ x.t = 1 ∧ x.layer = 0 ∧
      x.group = 1 ∧ x.append = false ∧ x.lse = false ∧ x.otype = 1 ∧ x.window = 0 ∧ x.ctr = none ∧ poolOf (s.bytesAt x.pool) = some p ∧ p.ktype = 0x0A
      ∧ p.hkv = 1 ∧ p.hdim = 32 ∧ blk = fld (s.bytesAt x.btab) 0 4 % 2 ^ 31 ∧ blk < p.blocks ∧ qb = s.bytesAt x.qbuf ++ s.bytesAt (x.qbuf + 64) ∧ fld
      qb 0 2 = 0x4B51 ∧ fld qb 2 1 = 0x0A ∧ fld qb 3 1 = 0 ∧ zeroed qb 8 64 = true ∧ s.dev.homedRun x.pool 64 = true ∧ s.dev.homedRun x.btab 64 = true
      ∧ at_ = p.base + blk * p.bpitch ∧ s.dev.homedRun at_ p.lpitch = true ∧ x.out < 2 ^ 62 ∧ ((∀ y ∈ s.dev.pairs, y.2.helps = none)))
    ∧ (∃ (n : Fin 1024) (b : List Byte) (c : Chain) (p : Pool) (g : GEnt) (blk : Nat) (a : Nat) (s : State), s.dev.Idle ∧ s.dev.Engine n.val 0x91 b c
      ∧ s.Readable (fld b 0x10 8) c.part ∧ s.Readable (fld b 0x18 8) c.part ∧ fld b 0x20 4 = 1 ∧ fld b 0x24 4 = 0 ∧ fld b 0x28 8 % 64 = 0 ∧ fld b 0x28
      8 < 2 ^ 62 ∧ zeroed b 0x30 64 = true ∧ poolOf (s.bytesAt (fld b 0x10 8)) = some p ∧ blk = fld (s.bytesAt (fld b 0x18 8)) 0 4 % 2 ^ 31 ∧ blk <
      p.blocks ∧ a = p.base + blk * p.bpitch ∧ granuleOf (a + p.bpitch - 1) = granuleOf a ∧ s.dev.gran.get? (granuleOf a) = some g ∧ g.part = c.part ∧
      (s.dev.pair n.val).outs = []) :=
  ⟨⟨0, attentionAndCachesD0, (ch attentionAndCachesD0), ⟨0xA00000, 0xA00040, 0xA00080, 0xA00100, 1, 0, 1, false, false, 1, 0, none⟩, poolRecord, 0,
    0xA10000,
    ({ mkSt (eng attentionAndCachesD0 []) with mem := memAt 0xA00000 poolBody ++ memOf [(0xA00080, 3, 0x0A4B51), (0xA000C0, 4, 0x3F803F80), (0xA10000, 4, 0x3F804000), (0xA10400, 4, 0x3F804040)] }).bytesAt
    0xA00080 ++
    ({ mkSt (eng attentionAndCachesD0 []) with mem := memAt 0xA00000 poolBody ++ memOf [(0xA00080, 3, 0x0A4B51), (0xA000C0, 4, 0x3F803F80), (0xA10000, 4, 0x3F804000), (0xA10400, 4, 0x3F804040)] }).bytesAt
    0xA000C0,
    { mkSt (eng attentionAndCachesD0 []) with mem := memAt 0xA00000 poolBody ++ memOf [(0xA00080, 3, 0x0A4B51), (0xA000C0, 4, 0x3F803F80), (0xA10000, 4, 0x3F804000), (0xA10400, 4, 0x3F804040)] },
    idle_of (by decide +kernel), engine_of (by decide +kernel), readable_of g5 (by decide +kernel), readable_of g5 (by decide +kernel), readable_of g5
    (by decide +kernel), readable_of g5 (by decide +kernel), readable_of g5 (by decide +kernel), readable_of g5 (by decide +kernel), placed_of g5
    (by decide +kernel), by decide +kernel⟩,
   ⟨0, attentionAndCachesD1, (ch attentionAndCachesD1), poolRecord, g5, 0, 0xA10000,
     { mkSt (eng attentionAndCachesD1 []) with mem := memAt 0xA00000 poolBody }, idle_of (by decide +kernel), engine_of (by decide +kernel),
     readable_of g5 (by decide +kernel), readable_of g5 (by decide +kernel), by decide +kernel⟩⟩

/-- States and operands that meet the hypotheses of each clause of `HartAccesses`. -/
theorem wit_HartAccesses :
    (∃ (h : Fin 32) (pa : BitVec 56) (w : Fin 4) (sa : Nat) (part : Nat) (e : L2E) (s : State), s.dev.Quiet ∧ s.dev.HartFree h.val part ∧ s.dev.Window
      h.val pa.toNat sa false ∧ sa % 64 + 2 ^ w.val ≤ 64 ∧ s.dev.l2.get? (l2Key (h.val / 4) (lineNo sa)) = some e)
    ∧ (∃ (h : Fin 32) (pa : BitVec 56) (sa : Nat) (part : Nat) (e : L2E) (s : State), s.dev.Quiet ∧ s.dev.HartFree h.val part ∧ s.dev.Window h.val
      pa.toNat sa false ∧ sa % 64 + 4 ≤ 64 ∧ s.dev.l2.get? (l2Key (h.val / 4) (lineNo sa)) = some e)
    ∧ (∃ (h : Fin 32) (pa : BitVec 56) (w : Fin 4) (sa : Nat) (part : Nat) (e : L2E) (s : State), s.dev.Quiet ∧ s.dev.HartFree h.val part ∧
      s.dev.Window h.val pa.toNat sa true ∧ sa % 64 + 2 ^ w.val ≤ 64 ∧ s.dev.l2.get? (l2Key (h.val / 4) (lineNo sa)) = some e ∧ (e.st = .m ∨ e.st =
      .e))
    ∧ (∃ (h : Fin 32) (pa : BitVec 56) (w : Fin 4) (sa : Nat) (part : Nat) (s : State), s.dev.Idle ∧ s.dev.HartFree h.val part ∧ s.dev.FreeLanes part
      ∧ s.dev.Window h.val pa.toNat sa false ∧ s.dev.Placed sa part ∧ s.dev.l2 = [] ∧ s.dev.o 0 0x2000 1 = 0 ∧ s.dev.resWay = [] ∧ sa % 64 + 2 ^ w.val
      ≤ 64 ∧ (s.lineAt sa).poison = false)
    ∧ (∃ (h : Fin 32) (pa : BitVec 56) (part : Nat) (x : Nat) (s : State), s.dev.Quiet ∧ s.dev.HartFree h.val part ∧ pa.toNat < 2 ^ 55 ∧
      s.dev.apert.get? (h.val / 4 * 2048 + bits pa.toNat 44 11) = some x ∧ bit x 0 = false)
    ∧ (∃ (k : Fin 8) (h : Nat) (n : Nat) (i : Nat) (c : Credit) (s : State), ({ s.dev with harts := [] } : Dev).Quiet ∧ h / 4 = k.val ∧ n < 32768 ∧
      s.dev.harts = [(h, { pend := some { kind := 0, pa := 2 ^ 55 + 64 * n, width := 3 }, credit := some i })] ∧ s.dev.credits.get? i = some c ∧ c.cls
      = 0 ∧ s.dev.o 0 0x2000 1 = 0 ∧ c.start ≤ s.dev.now ∧ s.dev.now ≤ c.until_ ∧ s.dev.agentState k.val = 1 ∧ s.dev.ctrOwner n = s.dev.corePart k.val
      (h % 4))
    ∧ (∃ (ses : Session) (v : BitVec 64) (s : State), s.dev.Desk ses (wr 0x5F00 2 v.toNat)) :=
  ⟨⟨8, 0xA00000, 2, 0xA00000, 0, ⟨.s, 9⟩, mkSt { core8 with l2 := [(l2Key 2 0x28000, ⟨.s, 9⟩)] }, quiet_of (by decide +kernel), hartFree_of
    (by decide +kernel), window_of 1 (by decide +kernel), by decide +kernel⟩,
   ⟨8, 0xA00000, 0xA00000, 0, ⟨.s, 9⟩, mkSt { core8 with l2 := [(l2Key 2 0x28000, ⟨.s, 9⟩)] }, quiet_of (by decide +kernel), hartFree_of
     (by decide +kernel), window_of 1 (by decide +kernel), by decide +kernel⟩,
   ⟨8, 0xA00000, 2, 0xA00000, 0, ⟨.e, 9⟩, mkSt { core8 with l2 := [(l2Key 2 0x28000, ⟨.e, 9⟩)] }, quiet_of (by decide +kernel), hartFree_of
     (by decide +kernel), window_of 1 (by decide +kernel), by decide +kernel⟩,
   ⟨8, 0xA00000, 2, 0xA00000, 0, byte5 core8, idle_of (by decide +kernel), hartFree_of (by decide +kernel), freeLanes_of (by decide +kernel),
     window_of 1 (by decide +kernel), placed_of g5 (by decide +kernel), by decide +kernel⟩,
   ⟨8, 0xA00000, 0, 0, mkSt { clu with apert := [(4096, 0)] }, quiet_of (by decide +kernel), hartFree_of (by decide +kernel), by decide +kernel⟩,
   ⟨2, 8, 3, 4,
     { src := .cluster 2, tag := 1, part := 0, cls := 0, code := 0x52, addr := 0, asid := 0, start := 0, until_ := 9, hint := 0, reason := 1, home := false, loc := 3, booked := [] },
     mkSt
     { clu with now := 5, credits := [(4, { src := .cluster 2, tag := 1, part := 0, cls := 0, code := 0x52, addr := 0, asid := 0, start := 0, until_ := 9, hint := 0, reason := 1, home := false, loc := 3, booked := [] })], harts := [(8, { pend := some { kind := 0, pa := 2 ^ 55 + 64 * 3, width := 3 }, credit := some 4 })], ctrs := [(3, { value := 77 })] },
     quiet_of (by decide +kernel), by decide +kernel⟩,
   ⟨.pf, 6, mkSt { dk [] with apert := [(4096, 1)] }, desk_of (quiet_of (by decide +kernel)) (by decide +kernel)⟩⟩

/-- States and operands that meet the hypotheses of each clause of `CacheBlocks`. -/
theorem wit_CacheBlocks :
    (∃ (h : Fin 32) (pa : BitVec 56) (sa : Nat) (part : Nat) (x : Line) (s : State), ({ s.dev with dir := [] } : Dev).Idle ∧ s.dev.HartFree h.val part
      ∧ s.dev.Window h.val (pa.toNat / 64 * 64) sa false ∧ s.dev.Placed sa part ∧ s.dev.dir = [(lineNo sa, { st := .dx, p0 := h.val / 4 })] ∧ s.dev.l2
      = [(l2Key (h.val / 4) (lineNo sa), ⟨.m, x⟩)])
    ∧ (∃ (h : Fin 32) (pa : BitVec 56) (sa : Nat) (part : Nat) (x : Line) (s : State), ({ s.dev with dir := [] } : Dev).Idle ∧ s.dev.HartFree h.val
      part ∧ s.dev.Window h.val (pa.toNat / 64 * 64) sa false ∧ s.dev.Placed sa part ∧ s.dev.dir = [(lineNo sa, { st := .dx, p0 := h.val / 4 })] ∧
      s.dev.l2 = [(l2Key (h.val / 4) (lineNo sa), ⟨.m, x⟩)])
    ∧ (∃ (h : Fin 32) (pa : BitVec 56) (sa : Nat) (part : Nat) (x : Line) (s : State), ({ s.dev with dir := [] } : Dev).Idle ∧ s.dev.HartFree h.val
      part ∧ s.dev.Window h.val (pa.toNat / 64 * 64) sa false ∧ s.dev.Placed sa part ∧ s.dev.dir = [(lineNo sa, { st := .dx, p0 := h.val / 4 })] ∧
      s.dev.l2 = [(l2Key (h.val / 4) (lineNo sa), ⟨.m, x⟩)]) :=
  ⟨⟨8, 0xA00000, 0xA00000, 0, 9, mkSt { core8 with dir := [(0x28000, { st := .dx, p0 := 2 })], l2 := [(l2Key 2 0x28000, ⟨.m, 9⟩)] }, idle_of
    (by decide +kernel), hartFree_of (by decide +kernel), window_of 1 (by decide +kernel), placed_of g5 (by decide +kernel), by decide +kernel⟩,
   ⟨8, 0xA00000, 0xA00000, 0, 9, mkSt { core8 with dir := [(0x28000, { st := .dx, p0 := 2 })], l2 := [(l2Key 2 0x28000, ⟨.m, 9⟩)] }, idle_of
     (by decide +kernel), hartFree_of (by decide +kernel), window_of 1 (by decide +kernel), placed_of g5 (by decide +kernel), by decide +kernel⟩,
   ⟨8, 0xA00000, 0xA00000, 0, 9, mkSt { core8 with dir := [(0x28000, { st := .dx, p0 := 2 })], l2 := [(l2Key 2 0x28000, ⟨.m, 9⟩)] }, idle_of
     (by decide +kernel), hartFree_of (by decide +kernel), window_of 1 (by decide +kernel), placed_of g5 (by decide +kernel), by decide +kernel⟩⟩

/-- States and operands that meet the hypotheses of each clause of `CounterWindow`. -/
theorem wit_CounterWindow :
    (∃ (h : Fin 32) (c : BitVec 15) (part : Nat) (s : State), s.dev.Idle ∧ s.dev.HartFree h.val part ∧ s.dev.FreeLanes part ∧ s.dev.o 0 0x2000 1 = 0 ∧
      s.dev.ctrOwner c.toNat = part)
    ∧ (∃ (h : Fin 32) (c : BitVec 15) (part : Nat) (s : State), s.dev.Idle ∧ s.dev.HartFree h.val part ∧ s.dev.FreeLanes part ∧ s.dev.o 0 0x2000 1 = 0
      ∧ s.dev.ctrOwner c.toNat = part)
    ∧ (∃ (h : Fin 32) (c : BitVec 15) (part : Nat) (s : State), s.dev.Idle ∧ s.dev.HartFree h.val part ∧ s.dev.FreeLanes part ∧ s.dev.o 0 0x2000 1 = 0
      ∧ s.dev.ctrOwner c.toNat = part)
    ∧ (∃ (h : Fin 32) (c : BitVec 15) (part : Nat) (s : State), s.dev.Idle ∧ s.dev.HartFree h.val part ∧ s.dev.FreeLanes part ∧ s.dev.o 0 0x2000 1 = 0
      ∧ s.dev.ctrOwner c.toNat = part ∧ s.dev.doorbells c.toNat = [] ∧ (s.dev.ctr c.toNat).arm = none)
    ∧ (∃ (h : Fin 32) (c : BitVec 15) (part : Nat) (s : State), s.dev.Idle ∧ s.dev.HartFree h.val part ∧ s.dev.FreeLanes part ∧ s.dev.o 0 0x2000 1 = 0
      ∧ s.dev.ctrOwner c.toNat = part ∧ s.dev.doorbells c.toNat = [])
    ∧ (∃ (h : Fin 32) (c : BitVec 15) (v : BitVec 64) (part : Nat) (s : State), s.dev.Idle ∧ s.dev.HartFree h.val part ∧ s.dev.FreeLanes part ∧
      s.dev.o 0 0x2000 1 = 0 ∧ s.dev.ctrOwner c.toNat = part ∧ s.dev.doorbells c.toNat = [] ∧ v.toNat ≤ 2)
    ∧ (∃ (h : Fin 32) (c : BitVec 15) (v : BitVec 64) (part : Nat) (s : State), s.dev.Idle ∧ s.dev.HartFree h.val part ∧ s.dev.FreeLanes part ∧
      s.dev.o 0 0x2000 1 = 0 ∧ s.dev.ctrOwner c.toNat = part ∧ s.dev.doorbells c.toNat = [] ∧ reached (s.dev.ctr c.toNat).value v = false) :=
  ⟨⟨8, 2, 0, mkSt { clu with ctrs := [(2, { value := 77, mode := 1, thresh := 5 })] }, idle_of (by decide +kernel), hartFree_of (by decide +kernel),
    freeLanes_of (by decide +kernel), by decide +kernel⟩,
   ⟨8, 2, 0, mkSt { clu with ctrs := [(2, { value := 77, mode := 1, thresh := 5 })] }, idle_of (by decide +kernel), hartFree_of (by decide +kernel),
     freeLanes_of (by decide +kernel), by decide +kernel⟩,
   ⟨8, 2, 0, mkSt { clu with ctrs := [(2, { value := 77, mode := 1, thresh := 5 })] }, idle_of (by decide +kernel), hartFree_of (by decide +kernel),
     freeLanes_of (by decide +kernel), by decide +kernel⟩,
   ⟨8, 2, 0, mkSt { clu with ctrs := [(2, { value := 77, mode := 1, thresh := 5 })] }, idle_of (by decide +kernel), hartFree_of (by decide +kernel),
     freeLanes_of (by decide +kernel), by decide +kernel⟩,
   ⟨8, 2, 0, mkSt { clu with ctrs := [(2, { value := 77, mode := 1, thresh := 5 })] }, idle_of (by decide +kernel), hartFree_of (by decide +kernel),
     freeLanes_of (by decide +kernel), by decide +kernel⟩,
   ⟨8, 2, 1, 0, mkSt { clu with ctrs := [(2, { value := 77, mode := 1, thresh := 5 })] }, idle_of (by decide +kernel), hartFree_of
     (by decide +kernel), freeLanes_of (by decide +kernel), by decide +kernel⟩,
   ⟨8, 2, 99, 0, mkSt { clu with ctrs := [(2, { value := 77, mode := 1, thresh := 5 })] }, idle_of (by decide +kernel), hartFree_of
     (by decide +kernel), freeLanes_of (by decide +kernel), by decide +kernel⟩⟩

/-- States and operands that meet the hypotheses of each clause of `PartitionObjects`. -/
theorem wit_PartitionObjects :
    (∃ (ses : Session) (i : Fin 21) (v : BitVec 64) (part : Nat) (s : State), s.dev.Desk ses (wr 0x6060 (i.val + 1) v.toNat) ∧ s.dev.instOf (sesNum
      ses) 0x6060 = part ∧ s.dev.routeOk part v.toNat = true)
    ∧ (∃ (ses : Session) (v : BitVec 16) (b : Nat) (s : State), s.dev.Desk ses (wr 0x6F10 2 v.toNat) ∧ s.dev.sel (sesNum ses) 0x6F10 1 = b ∧ v.toNat ≤
      255 ∧ s.dev.ctrOwn.getD b 0 = 0xFFFF)
    ∧ (∃ (ses : Session) (b : Nat) (s : State), s.dev.Desk ses (wr 0x6F10 2 0xFFFF) ∧ s.dev.sel (sesNum ses) 0x6F10 1 = b ∧ s.dev.waits = [])
    ∧ (∃ (ses : Session) (v : BitVec 16) (b : Nat) (s : State), s.dev.Desk ses (wr 0x6F20 2 v.toNat) ∧ s.dev.sel (sesNum ses) 0x6F20 1 = b ∧ v.toNat ≤
      255 ∧ s.dev.castOwn.getD b 0 = 0xFFFF)
    ∧ (∃ (ses : Session) (b : Nat) (s : State), s.dev.Desk ses (wr 0x6F20 2 0xFFFF) ∧ s.dev.sel (sesNum ses) 0x6F20 1 = b)
    ∧ (∃ (ses : Session) (q : Fin 16) (v : BitVec 16) (part : Nat) (s : State), s.dev.Desk ses (wr (0x6040 + q.val) 7 v.toNat) ∧ s.dev.instOf (sesNum
      ses) (0x6040 + q.val) = part ∧ s.dev.o part (0x6040 + q.val) 1 = 0 ∧ v.toNat < 32768 ∧ s.dev.ctrOwner v.toNat = part ∧ (s.dev.ctr v.toNat).arm =
      none)
    ∧ (∃ (ses : Session) (q : Fin 16) (v : BitVec 64) (part : Nat) (s : State), s.dev.Desk ses (wr (0x6040 + q.val) 1 v.toNat) ∧ s.dev.instOf (sesNum
      ses) (0x6040 + q.val) = part ∧ v.toNat % 4096 = 0 ∧ s.dev.o part (0x6040 + q.val) 7 = 0xFFFF)
    ∧ (∃ (p : Fin 16) (h : Hdr) (data : List DLine) (x : DLine) (s : State) (e : Nat × Sys2Proof.Instr), s.dev.Idle ∧ s.dev.LinkFree p.val ∧
      s.dev.takes p.val = true ∧ ((s.dev.role p.val = 1 ∨ s.dev.role p.val = 2)) ∧ ((s.dev.role p.val = 2 → s.dev.agentState (8 + p.val) < 2)) ∧
      s.dev.identP.get? (p.val * 128 + bits h.stream.toNat 0 7) = none ∧ e ∈ portRequests p h data x ∧ headerOk (s.dev.role p.val) e.1 h = true)
    ∧ (∃ (ses : Session) (v : BitVec 16) (p : Nat) (i : Nat) (s : State), s.dev.Desk ses (wr 0x3050 2 v.toNat) ∧ ((∃ e ∈ s.dev.identP, e.1 / 128 = p ∧
      e.1 ≠ p * 128 + i ∧ e.2 ≠ v.toNat)) ∧ s.dev.instOf (sesNum ses) 0x3050 = p ∧ s.dev.sel (sesNum ses) 0x3050 1 = i ∧ v.toNat ≤ 255 ∧ s.dev.role p
      = 2)
    ∧ (∃ (ses : Session) (v : BitVec 16) (p : Nat) (i : Nat) (s : State), s.dev.Desk ses (wr 0x3050 2 v.toNat) ∧ s.dev.instOf (sesNum ses) 0x3050 = p
      ∧ s.dev.sel (sesNum ses) 0x3050 1 = i ∧ v.toNat ≤ 255 ∧ ((s.dev.role p = 2 → ∀ e ∈ s.dev.identP, e.1 / 128 = p → e.1 ≠ p * 128 + i → e.2 =
      v.toNat)))
    ∧ (∃ (ses : Session) (p : Nat) (i : Nat) (s : State), s.dev.Desk ses (wr 0x3050 2 0xFFFF) ∧ s.dev.instOf (sesNum ses) 0x3050 = p ∧ s.dev.sel
      (sesNum ses) 0x3050 1 = i) :=
  ⟨⟨.pf, 0, 0, 0, mkSt (dk []), desk_of (quiet_of (by decide +kernel)) (by decide +kernel), by decide +kernel⟩,
   ⟨.pf, 1, 0, mkSt { dk [] with ctrOwn := [(0, 0xFFFF)] }, desk_of (quiet_of (by decide +kernel)) (by decide +kernel), by decide +kernel⟩,
   ⟨.pf, 0, mkSt { dk [] with ctrs := [(2, { value := 77 })] }, desk_of (quiet_of (by decide +kernel)) (by decide +kernel), by decide +kernel⟩,
   ⟨.pf, 1, 0, mkSt { dk [] with castOwn := [(0, 0xFFFF)] }, desk_of (quiet_of (by decide +kernel)) (by decide +kernel), by decide +kernel⟩,
   ⟨.pf, 0, mkSt { dk [] with casts := [(2, ⟨0, 64, [(0, 0)]⟩)] }, desk_of (quiet_of (by decide +kernel)) (by decide +kernel), by decide +kernel⟩,
   ⟨.pf, 0, 5, 0, mkSt { dk [] with ctrs := [(5, { value := 77 })] }, desk_of (quiet_of (by decide +kernel)) (by decide +kernel), by decide +kernel⟩,
   ⟨.pf, 0, 0x1000, 0, mkSt (dk [(0, 0x6040, 7, 0xFFFF)]), desk_of (quiet_of (by decide +kernel)) (by decide +kernel), by decide +kernel⟩,
   ⟨3, hG, [], good 0, mkSt { prt 1 with identP := [] }, (1, .memLoad 3 hG []), idle_of (by decide +kernel), linkFree_of (by decide +kernel),
     by decide +kernel⟩,
   ⟨.pf, 1, 0, 0, mkSt { dk [(0, 0x3010, 2, 2)] with identP := [(1, 5)] }, desk_of (quiet_of (by decide +kernel)) (by decide +kernel), ⟨(1, 5),
     by decide +kernel⟩, by decide +kernel⟩,
   ⟨.pf, 1, 0, 0, mkSt { dk [(0, 0x3010, 2, 2)] with identP := [(1, 1)] }, desk_of (quiet_of (by decide +kernel)) (by decide +kernel),
     by decide +kernel⟩,
   ⟨.pf, 0, 0, mkSt { dk [] with identP := [(0, 1), (1, 1)] }, desk_of (quiet_of (by decide +kernel)) (by decide +kernel), by decide +kernel⟩⟩

/-- States and operands that meet the hypotheses of each clause of `PartitionLife`. -/
theorem wit_PartitionLife :
    (∃ (ses : Session) (part : Nat) (s : State), s.dev.Desk ses (wr 0x6070 1 1) ∧ s.dev.instOf (sesNum ses) 0x6070 = part ∧ s.dev.resets = [] ∧
      s.dev.partState part = 0)
    ∧ (∃ (ses : Session) (part : Nat) (s : State), s.dev.Desk ses (wr 0x6070 1 2) ∧ s.dev.instOf (sesNum ses) 0x6070 = part ∧ s.dev.resets = [] ∧
      s.dev.partState part = 1)
    ∧ (∃ (ses : Session) (part : Nat) (s : State), s.dev.Desk ses (wr 0x6070 1 3) ∧ s.dev.instOf (sesNum ses) 0x6070 = part ∧ s.dev.resets = [] ∧
      s.dev.partState part = 1 ∧ part ≠ 0 ∧ ((∀ g ∈ s.dev.gran, g.2.part ≠ part)))
    ∧ (∃ (part : BitVec 8) (release : Bool) (s : State), ({ s.dev with resets := [] } : Dev).Idle ∧ s.dev.resets = [(part.toNat, release)] ∧
      s.dev.pairs = [] ∧ s.dev.phases = [] ∧ s.dev.o part.toNat 0x6060 0x15 = 0)
    ∧ (∃ (ses : Session) (e : BitVec 32) (part : Nat) (g : GEnt) (s : State), s.dev.Idle ∧ s.dev.Desk ses (wr 0x6070 2 e.toNat) ∧ s.dev.instOf (sesNum
      ses) 0x6070 = part ∧ s.dev.gran.get? (e.toNat * 512) = some g ∧ g.part = part)
    ∧ (∃ (e : BitVec 32) (v : Revoke) (s : State), ({ s.dev with revokes := [] } : Dev).Idle ∧ s.dev.revokes = [(e.toNat, v)] ∧ v.done = false ∧
      v.jobs = [] ∧ s.dev.homed e.toNat = true)
    ∧ (∃ (ses : Session) (e : BitVec 32) (part : Nat) (s : State), ({ s.dev with revoked := [] } : Dev).Idle ∧ s.dev.Desk ses (wr 0x6070 3 e.toNat) ∧
      s.dev.instOf (sesNum ses) 0x6070 = part ∧ s.dev.revoked = [e.toNat] ∧ ((∀ g ∈ s.dev.gran, g.2.prot = false)) ∧ s.dev.o part 0x6050 5 = 192 ∧
      s.dev.o part 0x6050 6 = 0xFFFFFFFF ∧ s.dev.tierUse part 0 + (s.dev.gran.filter fun g => g.1 / 512 == e.toNat).length ≤ 192 ∧ s.dev.gran.Pairwise
      (fun x y => x.1 < y.1)) :=
  ⟨⟨.pf, 0, mkSt (dk [(0, 0x6050, 1, 0)]), desk_of (quiet_of (by decide +kernel)) (by decide +kernel), by decide +kernel⟩,
   ⟨.pf, 0, mkSt { dk [] with pairs := [(0, { chain := some (ch []) })] }, desk_of (quiet_of (by decide +kernel)) (by decide +kernel),
     by decide +kernel⟩,
   ⟨.pf, 1, mkSt { dk [(1, 0x6050, 1, 1)] with ses := [(0, { sel := [(0x6000 * 256, 1)] })] }, desk_of (quiet_of (by decide +kernel))
     (by decide +kernel), by decide +kernel⟩,
   ⟨1, true, mkSt { up [(1, 0x6050, 1, 3)] with resets := [(1, true)] }, idle_of (by decide +kernel), by decide +kernel⟩,
   ⟨.pf, 0, 0, g5, mkSt { dk [] with gran := [(0, g5)] }, idle_of (by decide +kernel), desk_of (quiet_of (by decide +kernel)) (by decide +kernel),
     by decide +kernel⟩,
   ⟨0, { part := 0, jobs := [], began := 0, bound := 5 }, mkSt
     { up [] with revokes := [(0, { part := 0, jobs := [], began := 0, bound := 5 })], gran := [(5, g5)] }, idle_of (by decide +kernel),
     by decide +kernel⟩,
   ⟨.pf, 0, 1,
     { mkSt { dk [(1, 0x6050, 1, 1), (1, 0x6050, 5, 192), (1, 0x6050, 6, 0xFFFFFFFF)] with ses := [(0, { sel := [(0x6000 * 256, 1)] })], revoked := [0], gran := [(5, g5), (513, g5)] } with mem := memOf [(0xA00000, 4, 9), (0x40200000, 1, 3)] },
     idle_of (by decide +kernel), desk_of (quiet_of (by decide +kernel)) (by decide +kernel), by decide +kernel⟩⟩

/-- States and operands that meet the hypotheses of each clause of `PartResets`. -/
theorem wit_PartResets :
    (∃ (ses : Session) (s : State), s.dev.Desk ses (wr 0x6F00 1 1) ∧ s.dev.comb = [] ∧ s.dev.pointing = false)
    ∧ (∃ (ses : Session) (s : State), s.dev.Desk ses (wr 0x6F00 1 2))
    ∧ (∃ (p : Fin 16) (s : State), s.dev.Idle ∧ s.dev.reliefWho = [] ∧ s.dev.role p.val ≠ 2 ∧ s.dev.o p.val 0x3040 1 ≠ 2)
    ∧ (∃ (ses : Session) (v : BitVec 8) (p : Nat) (s : State), s.dev.Idle ∧ s.dev.Desk ses (wr 0x3010 1 v.toNat) ∧ s.dev.instOf (sesNum ses) 0x3010 =
      p ∧ v.toNat ≤ 3 ∧ bit (s.dev.o 0 0xA020 3) p = false ∧ s.dev.o p 0x3010 1 ≠ v.toNat ∧ s.dev.reliefWho = [] ∧ s.dev.role p ≠ 2 ∧ s.dev.o p 0x3040
      1 ≠ 2)
    ∧ (∃ (trigger : Fin 7) (s : State), s.dev.Quiet ∧ s.dev.ready = true ∧ trigger.val ≠ 0 ∧ trigger.val ≠ 2 ∧ s.dev.quar = [] ∧ s.dev.comb = [] ∧
      s.dev.pairs = [])
    ∧ (∃ (slice : Fin 256) (t0 : Nat) (s : State), s.dev.Quiet ∧ s.dev.quar = [(slice.val, t0)] ∧ s.dev.txns = [] ∧ s.dev.fills = [])
    ∧ (∃ (k : Fin 8) (line : Nat) (part : Nat) (x : Line) (s : State), ({ s.dev with dir := [] } : Dev).Idle ∧ s.dev.Placed (64 * line) part ∧
      s.dev.ready = true ∧ s.dev.dir = [(line, { st := .dx, p0 := k.val })] ∧ s.dev.l2 = [(l2Key k.val line, ⟨.m, x⟩)] ∧ line < 2 ^ 56)
    ∧ (∃ (s : State), s.dev.Idle ∧ s.dev.ready = true) :=
  ⟨⟨.pf, mkSt (dk []), desk_of (quiet_of (by decide +kernel)) (by decide +kernel), by decide +kernel⟩,
   ⟨.pf, mkSt { dk [] with gran := [(5, g5)] }, desk_of (quiet_of (by decide +kernel)) (by decide +kernel)⟩,
   ⟨3, mkSt (up []), idle_of (by decide +kernel), by decide +kernel⟩,
   ⟨.pf, 1, 0, mkSt (dk []), idle_of (by decide +kernel), desk_of (quiet_of (by decide +kernel)) (by decide +kernel), by decide +kernel⟩,
   ⟨1, mkSt (up []), quiet_of (by decide +kernel), by decide +kernel⟩,
   ⟨5, 0, mkSt { up [] with quar := [(5, 0)] }, quiet_of (by decide +kernel), by decide +kernel⟩,
   ⟨2, 0x28000, 0, 9, mkSt { clu with dir := [(0x28000, { st := .dx, p0 := 2 })], l2 := [(l2Key 2 0x28000, ⟨.m, 9⟩)] }, idle_of (by decide +kernel),
     placed_of g5 (by decide +kernel), by decide +kernel⟩,
   ⟨mkSt clu, idle_of (by decide +kernel), by decide +kernel⟩⟩

/-- A descriptor of `wit_PlacementDescriptors`. -/
def placementDescriptorsD0 : List Byte := dsc 0x40 0 [(0x10, 8, 0xA00000), (0x18, 4, 1), (0x1C, 1, 0)]
/-- A descriptor of `wit_PlacementDescriptors`. -/
def placementDescriptorsD1 : List Byte := dsc 0x40 0 [(0x10, 8, 0xA00000), (0x18, 4, 1), (0x1C, 1, 1)]
/-- A descriptor of `wit_PlacementDescriptors`. -/
def placementDescriptorsD2 : List Byte := dsc 0x41 0 [(0x10, 8, 0), (0x18, 4, 512), (0x1C, 1, 1), (0x20, 2, 9)]
/-- A descriptor of `wit_PlacementDescriptors`. -/
def placementDescriptorsD3 : List Byte := dsc 0x42 0 [(0x10, 8, 0xA00000), (0x18, 4, 1), (0x1C, 1, 0)]
/-- A descriptor of `wit_PlacementDescriptors`. -/
def placementDescriptorsD4 : List Byte := dsc 0x42 0 [(0x10, 8, 0xA00000), (0x18, 4, 1), (0x1C, 1, 1)]
/-- A descriptor of `wit_PlacementDescriptors`. -/
def placementDescriptorsD5 : List Byte := dsc 0x42 0 [(0x10, 8, 0xA00000), (0x18, 4, 1), (0x1C, 1, 2)]
/-- A descriptor of `wit_PlacementDescriptors`. -/
def placementDescriptorsD6 : List Byte := dsc 0x42 0 [(0x10, 8, 0xA00000), (0x18, 4, 1), (0x1C, 1, 3)]
/-- A descriptor of `wit_PlacementDescriptors`. -/
def placementDescriptorsD7 : List Byte := dsc 0x43 0 [(0x10, 8, 0xA00000), (0x18, 4, 1), (0x1C, 1, 0)]
/-- A descriptor of `wit_PlacementDescriptors`. -/
def placementDescriptorsD8 : List Byte := dsc 0x44 0 [(0x10, 8, 0xA00000), (0x18, 4, 1), (0x1C, 1, 0), (0x28, 8, 0xA00400)]

/-- States and operands that meet the hypotheses of each clause of `PlacementDescriptors`. -/
theorem wit_PlacementDescriptors :
    (∃ (n : Fin 1024) (b : List Byte) (c : Chain) (g : Nat) (x : GEnt) (s : State), s.dev.Placing n.val 0x40 2 b c g x ∧ fld b 0x1C 1 = 0 ∧ x.tier = 1
      ∧ x.state = 0 ∧ s.dev.overQuota c.part 0 1 = false ∧ 0 < s.dev.freeCount 0)
    ∧ (∃ (n : Fin 1024) (b : List Byte) (c : Chain) (g : Nat) (x : GEnt) (s : State), s.dev.Placing n.val 0x40 2 b c g x ∧ fld b 0x1C 1 = x.tier ∧
      x.state = 0)
    ∧ (∃ (n : Fin 1024) (b : List Byte) (c : Chain) (e : Nat) (dest : Nat) (prot : Bool) (s : State), s.dev.Idle ∧ s.dev.Engine n.val 0x41 b c ∧
      placeOk b 2 512 = true ∧ fld b 0x18 4 = 512 ∧ fld b 0x1D 1 = 0 ∧ fld b 0x10 8 = e * 2 ^ 30 ∧ e < 2 ^ 32 ∧ fld b 0x20 2 = dest ∧ ((∀ i, i < 512 →
      (s.dev.gran.get? (512 * e + i)).map (fun x => (x.part, x.state, x.prot)) = some (c.part, 0, prot))) ∧ s.dev.phases = [])
    ∧ (∃ (n : Fin 1024) (b : List Byte) (c : Chain) (g : Nat) (x : GEnt) (s : State), s.dev.Placing n.val 0x42 3 b c g x ∧ fld b 0x1C 1 = 0 ∧ x.tier =
      2 ∧ x.state ≠ 2 ∧ s.dev.frames = [] ∧ s.dev.deep = [])
    ∧ (∃ (n : Fin 1024) (b : List Byte) (c : Chain) (g : Nat) (x : GEnt) (s : State), s.dev.Placing n.val 0x42 3 b c g x ∧ fld b 0x1C 1 = 1 ∧ x.tier =
      2 ∧ x.state ≠ 2 ∧ s.dev.opening = [])
    ∧ (∃ (n : Fin 1024) (b : List Byte) (c : Chain) (g : Nat) (x : GEnt) (s : State), s.dev.Placing n.val 0x42 3 b c g x ∧ fld b 0x1C 1 = 2 ∧ x.tier =
      2 ∧ x.state ≠ 2)
    ∧ (∃ (n : Fin 1024) (b : List Byte) (c : Chain) (g : Nat) (k : Nat) (x : GEnt) (f : Frame) (s : State), s.dev.Placing n.val 0x42 3 b c g x ∧ fld b
      0x1C 1 = 3 ∧ x.tier = 2 ∧ x.state ≠ 2 ∧ s.dev.frames = [(k, f)] ∧ k / 128 = g ∧ s.dev.progs = [] ∧ s.dev.deep = [])
    ∧ (∃ (n : Fin 1024) (b : List Byte) (c : Chain) (g : Nat) (x : GEnt) (s : State), s.dev.Placing n.val 0x43 0 b c g x ∧ x.state = 0 ∧ x.prot =
      false)
    ∧ (∃ (n : Fin 1024) (b : List Byte) (c : Chain) (g : Nat) (x : GEnt) (s : State), s.dev.Placing n.val 0x44 0 b c g x ∧ fld b 0x28 8 ≠ 0) :=
  ⟨⟨0, placementDescriptorsD0, (ch placementDescriptorsD0), 5, g5, mkSt (eng placementDescriptorsD0 []), placing_of (idle_of (by decide +kernel))
    (engine_of (by decide +kernel)) (by decide +kernel), by decide +kernel⟩,
   ⟨0, placementDescriptorsD1, (ch placementDescriptorsD1), 5, g5, mkSt (eng placementDescriptorsD1 []), placing_of (idle_of (by decide +kernel))
     (engine_of (by decide +kernel)) (by decide +kernel), by decide +kernel⟩,
   ⟨0, placementDescriptorsD2, (ch placementDescriptorsD2), 0, 9, false, mkSt
     { eng placementDescriptorsD2 [] with gran := (List.range 512).map fun i => (i, { tier := 1, part := 0, slot := i }) }, idle_of
     (by decide +kernel), engine_of (by decide +kernel), by decide +kernel⟩,
   ⟨0, placementDescriptorsD3, (ch placementDescriptorsD3), 5, { tier := 2, part := 0, slot := 1 }, mkSt
     { eng placementDescriptorsD3 [] with gran := [(5, { tier := 2, part := 0, slot := 1 })] }, placing_of (idle_of (by decide +kernel)) (engine_of
     (by decide +kernel)) (by decide +kernel), by decide +kernel⟩,
   ⟨0, placementDescriptorsD4, (ch placementDescriptorsD4), 5, { tier := 2, part := 0, slot := 1 }, mkSt
     { eng placementDescriptorsD4 [] with gran := [(5, { tier := 2, part := 0, slot := 1 })] }, placing_of (idle_of (by decide +kernel)) (engine_of
     (by decide +kernel)) (by decide +kernel), by decide +kernel⟩,
   ⟨0, placementDescriptorsD5, (ch placementDescriptorsD5), 5, { tier := 2, part := 0, slot := 1 }, mkSt
     { eng placementDescriptorsD5 [] with gran := [(5, { tier := 2, part := 0, slot := 1 })], frames := [(640, {}), (3, {})] }, placing_of (idle_of
     (by decide +kernel)) (engine_of (by decide +kernel)) (by decide +kernel), by decide +kernel⟩,
   ⟨0, placementDescriptorsD6, (ch placementDescriptorsD6), 5, 640, { tier := 2, part := 0, slot := 1 }, { valid := 3, dirty := 3 }, mkSt
     { eng placementDescriptorsD6 [] with gran := [(5, { tier := 2, part := 0, slot := 1 })], frames := [(640, { valid := 3, dirty := 3 })] },
     placing_of (idle_of (by decide +kernel)) (engine_of (by decide +kernel)) (by decide +kernel), by decide +kernel⟩,
   ⟨0, placementDescriptorsD7, (ch placementDescriptorsD7), 5, g5, mkSt (eng placementDescriptorsD7 []), placing_of (idle_of (by decide +kernel))
     (engine_of (by decide +kernel)) (by decide +kernel), by decide +kernel⟩,
   ⟨0, placementDescriptorsD8, (ch placementDescriptorsD8), 5, g5, mkSt (eng placementDescriptorsD8 []), placing_of (idle_of (by decide +kernel))
     (engine_of (by decide +kernel)) (by decide +kernel), by decide +kernel⟩⟩

/-- States and operands that meet the hypotheses of each clause of `MovesGoOn`. -/
theorem wit_MovesGoOn :
    (∃ (g : BitVec 41) (m : Move) (x : GEnt) (s : State), ({ s.dev with moves := [] } : Dev).Idle ∧ s.dev.moves = [(g.toNat, m)] ∧ s.dev.gran.get?
      g.toNat = some x ∧ m.verified = false ∧ m.outbound = false ∧ m.marked = [] ∧ m.fails = [] ∧ m.quiesced = false ∧ m.admitAt ≤ s.dev.now)
    ∧ (∃ (g : BitVec 41) (twin : Bool) (m : Move) (x : GEnt) (n : Nat) (o : PlaceOp) (c : Chain) (s : State),
      ({ s.dev with moves := [], places := [] } : Dev).Idle ∧ s.dev.moves = [(g.toNat, m)] ∧ s.dev.gran.get? g.toNat = some x ∧ m.verified = true ∧
      m.outbound = false ∧ m.owner = some n ∧ s.dev.places = [(n, o)] ∧ o.todo = [] ∧ o.flight = [g.toNat] ∧ o.fail = none ∧ o.abandoned = 0 ∧
      o.skiplost = 0 ∧ x.tier ≠ 2 ∧ (s.dev.pair n).chain = some c ∧ ((m.twinMove = true → twin = true)))
    ∧ (∃ (e : BitVec 32) (st : BitVec 4) (x : ExtMove) (n : Nat) (o : PlaceOp) (c : Chain) (s : State), ({ s.dev with exts := [], places := [] } :
      Dev).Idle ∧ s.dev.exts = [(e.toNat, x)] ∧ x.phase = 1 ∧ x.pair = some n ∧ s.dev.places = [(n, o)] ∧ (s.dev.pair n).chain = some c ∧ st ≠ 0)
    ∧ (∃ (e : BitVec 32) (x : ExtMove) (s : State), ({ s.dev with exts := [] } : Dev).Idle ∧ s.dev.exts = [(e.toNat, x)] ∧ x.phase = 1)
    ∧ (∃ (n : Fin 1024) (e : Nat) (x : ExtMove) (s : State), ({ s.dev with exts := [], moves := [] } : Dev).Idle ∧ s.dev.exts = [(e, x)] ∧ x.pair =
      some n.val ∧ x.phase = 2 ∧ ((∀ y ∈ s.dev.gran, y.1 / 512 = e → y.2.state = 3 → (s.dev.moves.get? y.1).map (·.verified) = some true)))
    ∧ (∃ (e : BitVec 32) (x : ExtMove) (s : State), ({ s.dev with exts := [], moves := [] } : Dev).Idle ∧ s.dev.exts = [(e.toNat, x)] ∧ x.phase = 3 ∧
      ((∀ m ∈ s.dev.moves, m.2.marked = [])))
    ∧ (∃ (src : BitVec 14) (e : BitVec 32) (dest : BitVec 14) (epoch : BitVec 32) (x : MaqEntry) (s : State), s.dev.Idle ∧ s.dev.ready = true ∧
      s.dev.keeps e.toNat = true ∧ s.dev.kpend = [] ∧ s.dev.kept e.toNat = x ∧ x.state = 1 ∧ x.home = src ∧ x.epoch = epoch ∧ s.dev.roleOf dest.toNat
      = 2 ∧ src.toNat ≠ s.dev.self ∧ dest.toNat ≠ s.dev.self)
    ∧ (∃ (src : BitVec 14) (e : BitVec 32) (epoch : BitVec 32) (s : State), s.dev.Idle ∧ s.dev.ready = true ∧ s.dev.keeps e.toNat = true ∧ s.dev.kpend
      = [] ∧ (s.dev.kept e.toNat).epoch ≠ epoch ∧ src.toNat ≠ s.dev.self)
    ∧ (∃ (e : BitVec 32) (entry : MaqEntry) (x : ExtMove) (n : Nat) (o : PlaceOp) (c : Chain) (s : State), ({ s.dev with exts := [], places := [] } :
      Dev).Idle ∧ s.dev.exts = [(e.toNat, x)] ∧ x.phase = 4 ∧ x.pair = some n ∧ s.dev.places = [(n, o)] ∧ o.skiplost = 0 ∧ (s.dev.pair n).chain = some
      c ∧ entry.home.toNat ≠ s.dev.self ∧ s.dev.o 0 0x8000 5 = 0)
    ∧ (∃ (e : BitVec 32) (entry : MaqEntry) (c : Coming) (s : State), s.dev.Idle ∧ s.dev.inAlloc = [(e.toNat, c)] ∧ entry.home.toNat = s.dev.self ∧
      s.dev.o 0 0x8000 5 = 0) :=
  ⟨⟨5, { owner := some 0, toT := 0, toSlot := 3 }, { tier := 1, state := 1, part := 0, slot := 7 }, mkSt
    { up [] with moves := [(5, { owner := some 0, toT := 0, toSlot := 3 })], gran := [(5, { tier := 1, state := 1, part := 0, slot := 7 })] }, idle_of
    (by decide +kernel), by decide +kernel⟩,
   ⟨5, false, { owner := some 0, toT := 0, toSlot := 3, verified := true }, { tier := 1, state := 1, part := 0, slot := 7 }, 0,
     { code := 0x40, addr := 0, count := 1, kind := 0, bclass := false, dest := 0, result := 0, part := 0, tag := 0, todo := [], flight := [5] }, (ch
     []), mkSt
     { up [] with moves := [(5, { owner := some 0, toT := 0, toSlot := 3, verified := true })], gran := [(5, { tier := 1, state := 1, part := 0, slot := 7 })], places := [(0, { code := 0x40, addr := 0, count := 1, kind := 0, bclass := false, dest := 0, result := 0, part := 0, tag := 0, todo := [], flight := [5] })], pairs := [(0, { chain := some (ch []) })] },
     idle_of (by decide +kernel), by decide +kernel⟩,
   ⟨0, 9, { pair := some 0, dest := 9, tier := 1, phase := 1, epoch := 3, part := 0, tag := 0 }, 0,
     { code := 0x40, addr := 0, count := 1, kind := 0, bclass := false, dest := 0, result := 0, part := 0, tag := 0, todo := [], flight := [5] }, (ch
     []), mkSt
     { up [] with exts := [(0, { pair := some 0, dest := 9, tier := 1, phase := 1, epoch := 3, part := 0, tag := 0 })], places := [(0, { code := 0x40, addr := 0, count := 1, kind := 0, bclass := false, dest := 0, result := 0, part := 0, tag := 0, todo := [], flight := [5] })], pairs := [(0, { chain := some (ch []) })], gran := [(5, g5)] },
     idle_of (by decide +kernel), by decide +kernel⟩,
   ⟨0, { pair := some 0, dest := 9, tier := 1, phase := 1, epoch := 3, part := 0, tag := 0 }, mkSt
     { up [] with exts := [(0, { pair := some 0, dest := 9, tier := 1, phase := 1, epoch := 3, part := 0, tag := 0 })], gran := [(5, g5), (513, g5)] },
     idle_of (by decide +kernel), by decide +kernel⟩,
   ⟨0, 0, { pair := some 0, dest := 9, tier := 1, phase := 2, epoch := 3, part := 0, tag := 0 }, mkSt
     { up [] with exts := [(0, { pair := some 0, dest := 9, tier := 1, phase := 2, epoch := 3, part := 0, tag := 0 })], gran := [(5, { g5 with state := 3 })], moves := [(5, { owner := some 0, toT := 0, toSlot := 3, verified := true })] },
     idle_of (by decide +kernel), by decide +kernel⟩,
   ⟨0, { pair := some 0, dest := 9, tier := 1, phase := 3, epoch := 3, part := 0, tag := 0 }, mkSt
     { up [(0, 0x7000, 1, 1)] with exts := [(0, { pair := some 0, dest := 9, tier := 1, phase := 3, epoch := 3, part := 0, tag := 0 })], gran := [(5, { g5 with state := 3 })] },
     idle_of (by decide +kernel), by decide +kernel⟩,
   ⟨9, 0, 8, 3, { epoch := 3, home := 9, state := 1 }, mkSt
     { up [(0, 0x7000, 1, 1)] with kpairs := [(0, (1, 1))], keeper := [(0, { epoch := 3, home := 9, state := 1 })], devs := [(8, { role := 2 })] },
     idle_of (by decide +kernel), by decide +kernel⟩,
   ⟨9, 0, 4, mkSt { up [(0, 0x7000, 1, 1)] with kpairs := [(0, (1, 1))], keeper := [(0, { epoch := 3, home := 9, state := 1 })] }, idle_of
     (by decide +kernel), by decide +kernel⟩,
   ⟨0, { epoch := 3, home := 9, state := 1 }, { pair := some 0, dest := 9, tier := 1, phase := 4, epoch := 3, part := 0, tag := 0 }, 0,
     { code := 0x40, addr := 0, count := 1, kind := 0, bclass := false, dest := 0, result := 0, part := 0, tag := 0, todo := [], flight := [5] }, (ch
     []),
     { mkSt { up [] with exts := [(0, { pair := some 0, dest := 9, tier := 1, phase := 4, epoch := 3, part := 0, tag := 0 })], places := [(0, { code := 0x40, addr := 0, count := 1, kind := 0, bclass := false, dest := 0, result := 0, part := 0, tag := 0, todo := [], flight := [5] })], pairs := [(0, { chain := some (ch []) })], gran := [(0, g5)] } with mem := [(64, 7)] },
     idle_of (by decide +kernel), by decide +kernel⟩,
   ⟨0, { epoch := 3, home := 1, state := 1 }, { tier := 1, part := 0, src := 9, prot := false, came := [3] }, mkSt
     { up [(0, 0x7000, 1, 1)] with inAlloc := [(0, { tier := 1, part := 0, src := 9, prot := false, came := [3] })] }, idle_of (by decide +kernel),
     by decide +kernel⟩⟩

/-- States and operands that meet the hypotheses of each clause of `FlashBehindCache`. -/
theorem wit_FlashBehindCache :
    (∃ (g : BitVec 41) (x : GEnt) (t0 : Nat) (s : State), s.dev.Idle ∧ s.dev.opening = [(g.toNat, t0)] ∧ s.dev.gran.get? g.toNat = some x ∧ x.tier =
      2)
    ∧ (∃ (g : BitVec 41) (x : GEnt) (s : State), s.dev.Idle ∧ s.dev.gran.get? g.toNat = some x ∧ x.tier = 2 ∧ x.opened = true ∧ x.state = 0 ∧ ((∀ f ∈
      s.dev.frames, f.1 / 128 = g.toNat → f.2.dirty = 0)) ∧ s.dev.progs = [] ∧ s.dev.dirtyAt.getD g.toNat 0 + us 10000 ≤ s.dev.now)
    ∧ (∃ (k : BitVec 48) (f : Frame) (s : State), s.dev.Idle ∧ s.dev.frames.get? k.toNat = some f ∧ f.dirty ≠ 0 ∧ s.dev.progs.get? k.toNat = none ∧
      s.dev.deep.get? k.toNat = none)
    ∧ (∃ (k : BitVec 48) (f : Frame) (mask : BitVec 256) (s : State), s.dev.Idle ∧ s.dev.frames.get? k.toNat = some f ∧ s.dev.progs.get? k.toNat =
      some mask)
    ∧ (∃ (k : BitVec 48) (f : Frame) (mask : BitVec 256) (s : State), s.dev.Idle ∧ s.dev.frames.get? k.toNat = some f ∧ s.dev.progs.get? k.toNat =
      some mask)
    ∧ (∃ (k : BitVec 48) (f : Fill) (x : GEnt) (s : State), ({ s.dev with fills := [] } : Dev).Idle ∧ s.dev.fills = [(k.toNat, f)] ∧ f.jobs = [] ∧
      s.dev.frames = [] ∧ s.dev.gran.get? (k.toNat / 128) = some x ∧ x.tier = 2 ∧ x.state ≠ 2)
    ∧ (∃ (k : BitVec 48) (step : Nat) (s : State), s.dev.Idle ∧ s.dev.deep = [(k.toNat, step)] ∧ s.dev.frames = [])
    ∧ (∃ (ses : Session) (c : BitVec 64) (s : State), s.dev.Desk ses (wr 0x4080 1 c.toNat) ∧ splitOk c.toNat = true ∧ s.dev.split = none ∧
      s.dev.frames = [] ∧ ((∀ g ∈ s.dev.gran, g.2.tier = 1 → g.2.slot < 512 * 8 * (96 - max c.toNat (s.dev.o 0 0x4080 1)))) ∧ (s.dev.moves = [] ∧
      s.dev.copies = [] ∧ s.dev.inAlloc = []) ∧ (s.dev.usedSlots 1).length ≤ 512 * 8 * (96 - c.toNat)) :=
  ⟨⟨5, { tier := 2, part := 0, slot := 1 }, 0,
    { mkSt { up [] with gran := [(5, { tier := 2, part := 0, slot := 1 })], opening := [(5, 0)] } with mem := [(0xA00001, 7)], flash := [(0xA00002, 8), (0xA00045, 8)] },
    idle_of (by decide +kernel), by decide +kernel⟩,
   ⟨5, { tier := 2, part := 0, slot := 1, opened := true }, mkSt
     { up [] with gran := [(5, { tier := 2, part := 0, slot := 1, opened := true })], now := us 10000 }, idle_of (by decide +kernel),
     by decide +kernel⟩,
   ⟨640, { valid := BitVec.allOnes 256, dirty := 3 },
     { mkSt { up [] with gran := [(5, { tier := 2, part := 0, slot := 1 })], frames := [(640, { valid := BitVec.allOnes 256, dirty := 3 })] } with mem := [(0xA00001, 7)], flash := [(0xA00002, 8), (0xA00045, 8)] },
     idle_of (by decide +kernel), by decide +kernel⟩,
   ⟨640, { valid := BitVec.allOnes 256, dirty := 3 }, 1,
     { mkSt { up [] with gran := [(5, { tier := 2, part := 0, slot := 1 })], frames := [(640, { valid := BitVec.allOnes 256, dirty := 3 })], progs := [(640, 1)] } with mem := [(0xA00001, 7)], flash := [(0xA00002, 8), (0xA00045, 8)] },
     idle_of (by decide +kernel), by decide +kernel⟩,
   ⟨640, { valid := BitVec.allOnes 256, dirty := 3 }, 1,
     { mkSt { up [] with gran := [(5, { tier := 2, part := 0, slot := 1 })], frames := [(640, { valid := BitVec.allOnes 256, dirty := 3 })], progs := [(640, 1)] } with mem := [(0xA00001, 7)], flash := [(0xA00002, 8), (0xA00045, 8)] },
     idle_of (by decide +kernel), by decide +kernel⟩,
   ⟨640, { began := 0 }, { tier := 2, part := 0, slot := 1 },
     { mkSt { up [] with gran := [(5, { tier := 2, part := 0, slot := 1 })], fills := [(640, { began := 0 })] } with mem := [(0xA00001, 7)], flash := [(0xA00002, 8), (0xA00045, 8)] },
     idle_of (by decide +kernel), by decide +kernel⟩,
   ⟨640, 2,
     { mkSt { up [] with gran := [(5, { tier := 2, part := 0, slot := 1 })], deep := [(640, 2)] } with mem := [(0xA00001, 7)], flash := [(0xA00002, 8), (0xA00045, 8)] },
     idle_of (by decide +kernel), by decide +kernel⟩,
   ⟨.pf, 8, mkSt (dk []), desk_of (quiet_of (by decide +kernel)) (by decide +kernel), by decide +kernel⟩⟩

/-- States and operands that meet the hypotheses of each clause of `ProposalsAreDecided`. -/
theorem wit_ProposalsAreDecided :
    (∃ (ses : Session) (keeper : Nat) (s : State), s.dev.Desk ses (wr 0x7030 6 1) ∧ s.dev.o 0 0x7030 1 = 1 ∧ s.dev.prop = none ∧ keeper = (if 1 ≤ 2
      then s.dev.keeperFor (s.dev.o 0 0x7030 2) else s.dev.keeperOf 0) ∧ keeper ≠ s.dev.self ∧ s.dev.unreachable keeper = false ∧ ((3 ≤ 1 → s.dev.o 0
      0x7030 3 < 16384)))
    ∧ (∃ (p : Prop_) (s : State), s.dev.Quiet ∧ s.dev.self < 16384 ∧ s.dev.prop = some p ∧ p.kind = 1 ∧ p.keeper ≠ s.dev.self)
    ∧ (∃ (ses : Session) (keeper : Nat) (s : State), s.dev.Desk ses (wr 0x7030 6 1) ∧ s.dev.o 0 0x7030 1 = 2 ∧ s.dev.prop = none ∧ keeper = (if 2 ≤ 2
      then s.dev.keeperFor (s.dev.o 0 0x7030 2) else s.dev.keeperOf 0) ∧ keeper ≠ s.dev.self ∧ s.dev.unreachable keeper = false ∧ ((3 ≤ 2 → s.dev.o 0
      0x7030 3 < 16384)))
    ∧ (∃ (p : Prop_) (s : State), s.dev.Quiet ∧ s.dev.self < 16384 ∧ s.dev.prop = some p ∧ p.kind = 2 ∧ p.keeper ≠ s.dev.self)
    ∧ (∃ (ses : Session) (keeper : Nat) (s : State), s.dev.Desk ses (wr 0x7030 6 1) ∧ s.dev.o 0 0x7030 1 = 3 ∧ s.dev.prop = none ∧ keeper = (if 3 ≤ 2
      then s.dev.keeperFor (s.dev.o 0 0x7030 2) else s.dev.keeperOf 0) ∧ keeper ≠ s.dev.self ∧ s.dev.unreachable keeper = false ∧ ((3 ≤ 3 → s.dev.o 0
      0x7030 3 < 16384)))
    ∧ (∃ (p : Prop_) (s : State), s.dev.Quiet ∧ s.dev.self < 16384 ∧ s.dev.prop = some p ∧ p.kind = 3 ∧ p.keeper ≠ s.dev.self)
    ∧ (∃ (ses : Session) (keeper : Nat) (s : State), s.dev.Desk ses (wr 0x7030 6 1) ∧ s.dev.o 0 0x7030 1 = 4 ∧ s.dev.prop = none ∧ keeper = (if 4 ≤ 2
      then s.dev.keeperFor (s.dev.o 0 0x7030 2) else s.dev.keeperOf 0) ∧ keeper ≠ s.dev.self ∧ s.dev.unreachable keeper = false ∧ ((3 ≤ 4 → s.dev.o 0
      0x7030 3 < 16384)))
    ∧ (∃ (p : Prop_) (s : State), s.dev.Quiet ∧ s.dev.self < 16384 ∧ s.dev.prop = some p ∧ p.kind = 4 ∧ p.keeper ≠ s.dev.self)
    ∧ (∃ (p : Prop_) (s : State), s.dev.Quiet ∧ s.dev.prop = some p ∧ p.kind = 1 ∧ p.keeper = s.dev.self ∧ s.dev.self < 16384 ∧ s.dev.kpend = [] ∧
      s.dev.pointing = false ∧ p.device < 16384 ∧ p.device ≠ s.dev.self)
    ∧ (∃ (ses : Session) (dev : Nat) (new : Nat) (s : State), s.dev.Desk ses (wr 0x7030 6 1) ∧ s.dev.o 0 0x7030 1 = 3 ∧ s.dev.prop = none ∧ s.dev.self
      < 16384 ∧ s.dev.keeperOf 0 = s.dev.self ∧ s.dev.o 0 0x7030 3 = dev ∧ dev < 16384 ∧ s.dev.o 0 0x7030 4 = new ∧ roleChange (s.dev.roleOf dev) new
      = true ∧ new ≠ 4 ∧ ((∀ k ∈ s.dev.kpairs, k.2.1 ≠ dev ∧ k.2.2 ≠ dev)) ∧ s.dev.tpend = [])
    ∧ (∃ (ses : Session) (dev : Nat) (s : State), s.dev.Desk ses (wr 0x7030 6 1) ∧ s.dev.o 0 0x7030 1 = 4 ∧ s.dev.prop = none ∧ s.dev.self < 16384 ∧
      s.dev.keeperOf 0 = s.dev.self ∧ s.dev.o 0 0x7030 3 = dev ∧ dev < 16384 ∧ s.dev.o 0 0x7030 4 = 0 ∧ s.dev.roleOf s.dev.self ≠ 5 ∧ s.dev.roleOf dev
      ≠ 5 ∧ s.dev.roleOf dev ≠ 0)
    ∧ (∃ (dev : BitVec 14) (asker : Nat) (t0 : Nat) (s : State), s.dev.Idle ∧ s.dev.probing = [(dev.toNat, (asker, t0))] ∧ t0 + us 1000 ≤ s.dev.now ∧
      asker < 16384 ∧ asker ≠ s.dev.self ∧ dev.toNat ≠ s.dev.self)
    ∧ (∃ (dev : BitVec 14) (c : TChange) (s : State), s.dev.Idle ∧ s.dev.tpend = [(dev.toNat, c)] ∧ c.asker < 16384 ∧ c.asker ≠ s.dev.self ∧
      c.row.role ≠ 5) :=
  ⟨⟨.pf, 0, mkSt { dk [(0, 0x7000, 1, 1), (0, 0x7030, 1, 1), (0, 0x7030, 3, 9)] with paths := [(0, (0x43, 0, 0, 0))] }, desk_of (quiet_of
    (by decide +kernel)) (by decide +kernel), by decide +kernel⟩,
   ⟨{ kind := 1, extent := 5, device := 9, param := 0, expect := 0, keeper := 0 }, mkSt
     { up [(0, 0x7000, 1, 1)] with prop := some { kind := 1, extent := 5, device := 9, param := 0, expect := 0, keeper := 0 } }, quiet_of
     (by decide +kernel), by decide +kernel⟩,
   ⟨.pf, 0, mkSt { dk [(0, 0x7000, 1, 1), (0, 0x7030, 1, 2), (0, 0x7030, 3, 9)] with paths := [(0, (0x43, 0, 0, 0))] }, desk_of (quiet_of
     (by decide +kernel)) (by decide +kernel), by decide +kernel⟩,
   ⟨{ kind := 2, extent := 5, device := 9, param := 0, expect := 0, keeper := 0 }, mkSt
     { up [(0, 0x7000, 1, 1)] with prop := some { kind := 2, extent := 5, device := 9, param := 0, expect := 0, keeper := 0 } }, quiet_of
     (by decide +kernel), by decide +kernel⟩,
   ⟨.pf, 0, mkSt { dk [(0, 0x7000, 1, 1), (0, 0x7030, 1, 3), (0, 0x7030, 3, 9)] with paths := [(0, (0x43, 0, 0, 0))] }, desk_of (quiet_of
     (by decide +kernel)) (by decide +kernel), by decide +kernel⟩,
   ⟨{ kind := 3, extent := 5, device := 9, param := 0, expect := 0, keeper := 0 }, mkSt
     { up [(0, 0x7000, 1, 1)] with prop := some { kind := 3, extent := 5, device := 9, param := 0, expect := 0, keeper := 0 } }, quiet_of
     (by decide +kernel), by decide +kernel⟩,
   ⟨.pf, 0, mkSt { dk [(0, 0x7000, 1, 1), (0, 0x7030, 1, 4), (0, 0x7030, 3, 9)] with paths := [(0, (0x43, 0, 0, 0))] }, desk_of (quiet_of
     (by decide +kernel)) (by decide +kernel), by decide +kernel⟩,
   ⟨{ kind := 4, extent := 5, device := 9, param := 0, expect := 0, keeper := 0 }, mkSt
     { up [(0, 0x7000, 1, 1)] with prop := some { kind := 4, extent := 5, device := 9, param := 0, expect := 0, keeper := 0 } }, quiet_of
     (by decide +kernel), by decide +kernel⟩,
   ⟨{ kind := 1, extent := 5, device := 9, param := 0, expect := 0, keeper := 1 }, mkSt
     { up [(0, 0x7000, 1, 1)] with prop := some { kind := 1, extent := 5, device := 9, param := 0, expect := 0, keeper := 1 } }, quiet_of
     (by decide +kernel), by decide +kernel⟩,
   ⟨.pf, 9, 3, mkSt
     { dk [(0, 0x7000, 1, 1), (0, 0x7030, 1, 3), (0, 0x7030, 3, 9), (0, 0x7030, 4, 3)] with kpairs := [(0, (1, 1))], devs := [(8, { role := 2 }), (9, { role := 2 })] },
     desk_of (quiet_of (by decide +kernel)) (by decide +kernel), by decide +kernel⟩,
   ⟨.pf, 9, mkSt { dk [(0, 0x7000, 1, 1), (0, 0x7030, 1, 4), (0, 0x7030, 3, 9)] with kpairs := [(0, (1, 1))], devs := [(9, { role := 2 })] }, desk_of
     (quiet_of (by decide +kernel)) (by decide +kernel), by decide +kernel⟩,
   ⟨9, 8, 0, mkSt { up [(0, 0x7000, 1, 1)] with probing := [(9, (8, 0))], now := us 1000, devs := [(8, { role := 2 }), (9, { role := 2 })] }, idle_of
     (by decide +kernel), by decide +kernel⟩,
   ⟨9, { row := { role := 3 }, asker := 8 }, mkSt
     { up [(0, 0x7000, 1, 1)] with tpend := [(9, { row := { role := 3 }, asker := 8 })], devs := [(8, { role := 2 }), (9, { role := 2 })] }, idle_of
     (by decide +kernel), by decide +kernel⟩⟩

/-- States and operands that meet the hypotheses of each clause of `MapEntries`. -/
theorem wit_MapEntries :
    (∃ (keeper : BitVec 14) (e : BitVec 32) (tier : BitVec 2) (prot : Bool) (part : BitVec 8) (s : State), s.dev.Idle ∧ s.dev.ready = true ∧
      s.dev.maq.get? e.toNat = none ∧ keeper.toNat = s.dev.keeperFor e.toNat ∧ tier.toNat < 2 ∧ s.dev.mayTake e.toNat tier.toNat part.toNat prot false
      = .ok)
    ∧ (∃ (e : BitVec 32) (x : GEnt) (s : State), ({ s.dev with assigned := [] } : Dev).Idle ∧ s.dev.assigned = [(e.toNat, x)] ∧ s.dev.maq.get? e.toNat
      = none)
    ∧ (∃ (e : BitVec 32) (s : State), s.dev.Idle ∧ s.dev.ready = true ∧ s.dev.homed e.toNat = true ∧ s.dev.keeps e.toNat = false)
    ∧ (∃ (e : BitVec 32) (s : State), s.dev.Idle ∧ s.dev.ready = true ∧ s.dev.homed e.toNat = false ∧ s.dev.keeps e.toNat = true ∧ s.dev.unassign =
      [e.toNat] ∧ s.dev.pointing = false)
    ∧ (∃ (e : BitVec 32) (c : KChange) (s : State), s.dev.Idle ∧ s.dev.kpend = [(e.toNat, c)] ∧ c.kind = 1 ∧ c.asker < 16384 ∧ c.asker ≠ s.dev.self ∧
      c.entry.home.toNat ≠ s.dev.self)
    ∧ (∃ (e : BitVec 32) (t0 : Nat) (p : Nat) (dev : Nat) (path : Nat) (reqid : Nat) (s : State), s.dev.Quiet ∧ s.dev.LinkFree p ∧ s.dev.fetch =
      [(e.toNat, t0)] ∧ s.dev.maq.get? e.toNat = none ∧ s.dev.owed = [(e.toNat, .port p dev path reqid)])
    ∧ (∃ (e : BitVec 32) (entry : MaqEntry) (t0 : Nat) (s : State), s.dev.Quiet ∧ s.dev.maq.get? e.toNat = some { entry := entry, pin := some t0 } ∧
      t0 ≤ s.dev.now)
    ∧ (∃ (dev : BitVec 14) (row : DevRow) (s : State), s.dev.Idle ∧ row.role = 5 ∧ dev.toNat ≠ s.dev.self ∧ s.dev.pointing = false)
    ∧ (∃ (row : DevRow) (i : Fin 256) (g : BitVec 16) (s : State), s.dev.Idle ∧ row.role = 2 ∧ s.dev.ready = true ∧ newerBy 16 g.toNat
      (s.dev.gens.getD i.val 0) = true)
    ∧ (∃ (e : BitVec 32) (x : Depart) (s : State), s.dev.Quiet ∧ s.dev.depart.get? e.toNat = some x ∧ x.at_ + us 1000000 ≤ s.dev.now)
    ∧ (∃ (dev : BitVec 14) (agent : BitVec 16) (reqid : BitVec 32) (f : FwdRec) (s : State), s.dev.Quiet ∧ s.dev.fwds = [f] ∧ f.dev = dev.toNat ∧
      f.agent = agent.toNat ∧ f.reqid = reqid.toNat ∧ f.at_ + us 100000 ≤ s.dev.now)
    ∧ (∃ (twin : BitVec 14) (e : BitVec 32) (x : MaqEntry) (s : State), s.dev.Idle ∧ s.dev.keeps e.toNat = true ∧ s.dev.kept e.toNat = x ∧ x.prot =
      true ∧ x.state = 1 ∧ x.twin = twin ∧ s.dev.roleOf x.home.toNat = 5 ∧ s.dev.pointing = false)
    ∧ (∃ (reporter : BitVec 14) (a : ReclaimAnswer) (s : State), s.dev.Idle ∧ reporter.toNat = s.dev.self ∧ s.dev.bring.reclaim = [a.extent.toNat]) :=
  ⟨⟨0, 0, 1, false, 0, { mkSt (up [(0, 0x7000, 1, 1)]) with mem := [(0x40000000, 7)] }, idle_of (by decide +kernel), by decide +kernel⟩,
   ⟨0, g5, mkSt { up [(0, 0x7000, 1, 1)] with assigned := [(0, g5)] }, idle_of (by decide +kernel), by decide +kernel⟩,
   ⟨0, { mkSt { up [(0, 0x7000, 1, 1)] with gran := [(0, g5)] } with mem := [(64, 7), (0x40000000, 7)] }, idle_of (by decide +kernel),
     by decide +kernel⟩,
   ⟨0, mkSt { up [(0, 0x7000, 1, 1)] with kpairs := [(0, (1, 1))], keeper := [(0, { epoch := 3, home := 9, state := 1 })], unassign := [0] }, idle_of
     (by decide +kernel), by decide +kernel⟩,
   ⟨0, { entry := { epoch := 3, home := 9, state := 1 }, asker := 8, kind := 1, other := 0 }, mkSt
     { up [(0, 0x7000, 1, 1)] with kpend := [(0, { entry := { epoch := 3, home := 9, state := 1 }, asker := 8, kind := 1, other := 0 })] }, idle_of
     (by decide +kernel), by decide +kernel⟩,
   ⟨0, 0, 3, 0, 0, 77, mkSt { up [(3, 0x3040, 1, 2)] with fetch := [(0, 0)], owed := [(0, .port 3 0 0 77)] }, quiet_of (by decide +kernel),
     linkFree_of (by decide +kernel), by decide +kernel⟩,
   ⟨0, { epoch := 3, home := 9, state := 1 }, 4, mkSt
     { up [] with maq := [(0, { entry := { epoch := 3, home := 9, state := 1 }, pin := some 4 })], now := 4 }, quiet_of (by decide +kernel),
     by decide +kernel⟩,
   ⟨9, { role := 5 }, mkSt
     { up [(0, 0x7000, 1, 1)] with kpairs := [(0, (1, 1))], keeper := [(0, { epoch := 3, home := 9, state := 1 })], maq := [(0, { entry := { epoch := 3, home := 9, state := 1 } })] },
     idle_of (by decide +kernel), by decide +kernel⟩,
   ⟨{ role := 2 }, 0, 5, mkSt { up [(0, 0x7000, 1, 1)] with maq := [(0, { entry := { epoch := 3, home := 9, state := 1 } })] }, idle_of
     (by decide +kernel), by decide +kernel⟩,
   ⟨0, { home := 9, epoch := 1, at_ := 0 }, mkSt { up [] with depart := [(0, { home := 9, epoch := 1, at_ := 0 })], now := us 1000000 }, quiet_of
     (by decide +kernel), by decide +kernel⟩,
   ⟨9, 5, 6, { dev := 9, agent := 5, reqid := 6, st := Compl.of .ok, extent := 0, at_ := 0 }, mkSt
     { up [] with fwds := [{ dev := 9, agent := 5, reqid := 6, st := Compl.of .ok, extent := 0, at_ := 0 }], now := us 100000 }, quiet_of
     (by decide +kernel), by decide +kernel⟩,
   ⟨9, 0, { epoch := 3, home := 8, twin := 9, state := 1, prot := true }, mkSt
     { up [(0, 0x7000, 1, 1)] with kpairs := [(0, (1, 1))], keeper := [(0, { epoch := 3, home := 8, twin := 9, state := 1, prot := true })], devs := [(8, { role := 5 })] },
     idle_of (by decide +kernel), by decide +kernel⟩,
   ⟨1, { extent := 0, keep := true, entry := { epoch := 3, home := 9, state := 1 } }, mkSt
     { up [(0, 0x7000, 1, 1)] with bring := { reclaim := [0] }, gran := [(0, { tier := 2, part := 0, slot := 1 })] }, idle_of (by decide +kernel),
     by decide +kernel⟩⟩

/-- States and operands that meet the hypotheses of each clause of `TwinLives`. -/
theorem wit_TwinLives :
    (∃ (p : Fin 16) (dev : BitVec 14) (s : State), s.dev.Idle ∧ s.dev.twinPorts = [p.val] ∧ s.dev.pairState = 0 ∧ dev.toNat = s.dev.twin)
    ∧ (∃ (p : Fin 16) (dev : BitVec 14) (s : State), s.dev.Idle ∧ s.dev.reliefWho = [] ∧ s.dev.role p.val = 4 ∧ s.dev.o p.val 0x3040 1 = 2 ∧ dev.toNat
      ≠ s.dev.twin)
    ∧ (∃ (p : Fin 16) (h : Hdr) (st : RecvS) (s : State), s.dev.Idle ∧ s.dev.LinkFree p.val ∧ s.dev.ready = true ∧ s.dev.o p.val 0x3040 1 = 2 ∧
      s.dev.role p.val = 4 ∧ 0x1100 ≤ h.agent ∧ h.agent ≤ 0x11FF ∧ h.src = s.dev.twin ∧ h.dst = s.dev.self ∧ h.cast = none ∧ pointHdrOk h = true ∧
      s.dev.copies.has (granuleOf h.a) = true ∧ s.dev.pbuf = [] ∧ st.next = h.seq.toNat ∧ st.held = [] ∧ s.dev.recvs.get? (rKey h.src h.agent none) =
      some st)
    ∧ (∃ (a : BitVec 64) (st : SendS) (n : Nat) (q : Req) (s : State), s.dev.Idle ∧ s.dev.sends = [(sKey (0x1100 + s.dev.homeSlice a.toNat) s.dev.twin
      none, st)] ∧ st.unacked = [(n, q)] ∧ lineNo q.h.a = lineNo a.toNat)
    ∧ (∃ (s : State), s.dev.Idle ∧ s.dev.ready = true ∧ s.dev.twinPorts ≠ [])
    ∧ (∃ (s : State), s.dev.Idle ∧ s.dev.pointing = true ∧ ((∀ p, p < 16 → s.dev.role p = 4 → (s.dev.link p).lastGood + us 100 ≤ s.dev.now)) ∧
      s.dev.keeperOf 0 ≠ s.dev.self ∧ s.dev.kpend = [] ∧ s.dev.tpend = [])
    ∧ (∃ (s : State), s.dev.Idle ∧ s.dev.pointing = true ∧ s.dev.kpend = [] ∧ s.dev.tpend = [])
    ∧ (∃ (g : Nat) (c : CopyG) (s : State), s.dev.Idle ∧ ((∀ l, l / 32768 = g → s.stored .mem l = good 0)) ∧ s.dev.roleOf s.dev.twin = 5 ∧
      s.dev.pairState ≠ 5 ∧ s.dev.pairState ≠ 0 ∧ s.dev.whole = true ∧ s.dev.copies = [(g, c)] ∧ c.tier ≠ 2 ∧ s.dev.pbuf = [] ∧ s.dev.keys = [] ∧
      s.dev.keeperFor (g / 512) ≠ s.dev.self ∧ s.dev.kpend = [] ∧ s.dev.tpend = [])
    ∧ (∃ (s : State), s.dev.Idle ∧ ((s.dev.pairState = 3 ∨ s.dev.pairState = 4)) ∧ s.dev.pairedPorts ≠ [])
    ∧ (∃ (s : State), s.dev.Idle ∧ s.dev.pairState = 1 ∧ s.dev.resync = [] ∧ ((∀ e ∈ s.dev.protExtents, s.dev.keeperFor e ≠ s.dev.self)))
    ∧ (∃ (ses : Session) (s : State), s.dev.Desk ses (wr 0x8000 5 1) ∧ s.dev.o 0 0x8000 5 = 0 ∧ ((s.dev.pairState = 0 ∨ s.dev.pairState = 5)) ∧
      s.dev.pairedPorts ≠ [])
    ∧ (∃ (ses : Session) (s : State), s.dev.Idle ∧ s.dev.Desk ses (wr 0x8000 5 2) ∧ s.dev.o 0 0x8000 5 = 0 ∧ s.dev.keys = [] ∧ s.dev.kpend = [] ∧
      s.dev.tpend = [])
    ∧ (∃ (ses : Session) (e : Nat) (s : State), s.dev.Idle ∧ s.dev.Desk ses (wr 0x8000 5 3) ∧ s.dev.o 0 0x8000 5 = 0 ∧ s.dev.pairState = 2 ∧
      s.dev.protExtents = [e])
    ∧ (∃ (home : BitVec 14) (e : BitVec 32) (tier : BitVec 2) (s : State), s.dev.Idle ∧ s.dev.ready = true ∧ home.toNat = s.dev.twin ∧ s.dev.pointing
      = true ∧ tier.toNat ≠ 2 ∧ 512 ≤ s.dev.freeCount 1 ∧ s.dev.copies.has (e.toNat * 512) = false) :=
  ⟨⟨14, 9, mkSt
    { up [(0, 0x7000, 1, 1), (14, 0x3040, 1, 2), (14, 0x3010, 2, 4), (0, 0x8000, 1, 9), (0, 0x8000, 2, 0)] with gran := [(5, { tier := 1, part := 0, slot := 7, prot := true })] },
    idle_of (by decide +kernel), by decide +kernel⟩,
   ⟨14, 8, mkSt
     { up [(0, 0x7000, 1, 1), (14, 0x3040, 1, 2), (14, 0x3010, 2, 4), (0, 0x8000, 1, 9), (0, 0x8000, 2, 2)] with gran := [(5, { tier := 1, part := 0, slot := 7, prot := true })] },
     idle_of (by decide +kernel), by decide +kernel⟩,
   ⟨14, { sword := 0x000000FFFFFF0003, stream := 0x1100, srcdev := 9, dstdev := 1, addr := 0xA00000, seq := 4 }, { next := 4 }, mkSt
     { up [(0, 0x7000, 1, 1), (14, 0x3040, 1, 2), (14, 0x3010, 2, 4), (0, 0x8000, 1, 9), (0, 0x8000, 2, 2)] with copies := [(5, { tier := 1, slot := 0, part := 0 })], recvs := [(rKey 9 0x1100 none, { next := 4 })] },
     idle_of (by decide +kernel), linkFree_of (by decide +kernel), by decide +kernel⟩,
   ⟨0xA00000, { unacked := [(1, { code := 2, h := { addr := 0xA00000 } })] }, 1, { code := 2, h := { addr := 0xA00000 } }, mkSt
     { up [(0, 0x8000, 1, 9)] with sends := [(sKey (0x1100 + (up []).homeSlice 0xA00000) 9 none, { unacked := [(1, { code := 2, h := { addr := 0xA00000 } })] })], resync := [5, 6] },
     idle_of (by decide +kernel), rfl, by decide +kernel⟩,
   ⟨mkSt
     { up [(0, 0x7000, 1, 1), (14, 0x3040, 1, 2), (14, 0x3010, 2, 4), (0, 0x8000, 1, 9), (0, 0x8000, 2, 2)] with gran := [(5, { tier := 1, part := 0, slot := 7, prot := true })] },
     idle_of (by decide +kernel), by decide +kernel⟩,
   ⟨mkSt
     { up [(0, 0x7000, 1, 1), (14, 0x3040, 1, 2), (14, 0x3010, 2, 4), (0, 0x8000, 1, 9), (0, 0x8000, 2, 2)] with gran := [(5, { tier := 1, part := 0, slot := 7, prot := true })], now := us 100 },
     idle_of (by decide +kernel), by decide +kernel⟩,
   ⟨mkSt
     { up [(0, 0x7000, 1, 1), (14, 0x3040, 1, 2), (14, 0x3010, 2, 4), (0, 0x8000, 1, 9), (0, 0x8000, 2, 2)] with gran := [(5, { tier := 1, part := 0, slot := 7, prot := true })] },
     idle_of (by decide +kernel), by decide +kernel⟩,
   ⟨5, { tier := 1, slot := 0, part := 0 },
     { mkSt { up [(0, 0x7000, 1, 1), (14, 0x3040, 1, 2), (14, 0x3010, 2, 4), (0, 0x8000, 1, 9), (0, 0x8000, 2, 3)] with whole := true, copies := [(5, { tier := 1, slot := 0, part := 0 })], devs := [(9, { role := 5 })] } with copy := [(0xA00001, 7)] },
     idle_of (by decide +kernel), fun l _ => stored_nil rfl rfl l, by decide +kernel⟩,
   ⟨mkSt
     { up [(0, 0x7000, 1, 1), (14, 0x3040, 1, 2), (14, 0x3010, 2, 4), (0, 0x8000, 1, 9), (0, 0x8000, 2, 3)] with gran := [(5, { tier := 1, part := 0, slot := 7, prot := true })], shakes := [(14, 9)], exposed := [5] },
     idle_of (by decide +kernel), by decide +kernel⟩,
   ⟨mkSt
     { up [(0, 0x7000, 1, 1), (14, 0x3040, 1, 2), (14, 0x3010, 2, 4), (0, 0x8000, 1, 9), (0, 0x8000, 2, 1)] with gran := [(5, { tier := 1, part := 0, slot := 7, prot := true })] },
     idle_of (by decide +kernel), by decide +kernel⟩,
   ⟨.pf, mkSt
     { dk [(0, 0x7000, 1, 1), (14, 0x3040, 1, 2), (14, 0x3010, 2, 4), (0, 0x8000, 1, 9), (0, 0x8000, 2, 0)] with gran := [(5, { tier := 1, part := 0, slot := 7, prot := true })], shakes := [(14, 9)] },
     desk_of (quiet_of (by decide +kernel)) (by decide +kernel), by decide +kernel⟩,
   ⟨.pf, mkSt
     { dk [(0, 0x7000, 1, 1), (14, 0x3040, 1, 2), (14, 0x3010, 2, 4), (0, 0x8000, 1, 9), (0, 0x8000, 2, 2)] with gran := [(5, { tier := 1, part := 0, slot := 7, prot := true })] },
     idle_of (by decide +kernel), desk_of (quiet_of (by decide +kernel)) (by decide +kernel), by decide +kernel⟩,
   ⟨.pf, 0, mkSt
     { dk [(0, 0x7000, 1, 1), (14, 0x3040, 1, 2), (14, 0x3010, 2, 4), (0, 0x8000, 1, 9), (0, 0x8000, 2, 2)] with gran := [(5, { tier := 1, part := 0, slot := 7, prot := true })] },
     idle_of (by decide +kernel), desk_of (quiet_of (by decide +kernel)) (by decide +kernel), by decide +kernel⟩,
   ⟨9, 0, 1, mkSt
     { up [(0, 0x7000, 1, 1), (14, 0x3040, 1, 2), (14, 0x3010, 2, 4), (0, 0x8000, 1, 9), (0, 0x8000, 2, 2)] with gran := [(5, { tier := 1, part := 0, slot := 7, prot := true })] },
     idle_of (by decide +kernel), by decide +kernel⟩⟩

/-- States and operands that meet the hypotheses of each clause of `UpkeepCommands`. -/
theorem wit_UpkeepCommands :
    (∃ (a : BitVec 64) (x : GEnt) (s : State), s.dev.Idle ∧ s.dev.ready = true ∧ s.dev.g? (a.toNat / 64 * 64) = some x ∧ x.state ≠ 2 ∧ x.tier < 2 ∧
      s.dev.mayBurst (s.dev.scrubGate (a.toNat / 64 * 64)).key = true)
    ∧ (∃ (a : BitVec 64) (n : Nat) (x : GEnt) (s : State), s.dev.Idle ∧ s.dev.ready = true ∧ a.toNat < 2 ^ 62 ∧ s.dev.g? (a.toNat / 64 * 64) = some x
      ∧ x.state = 0 ∧ x.tier = 1 ∧ x.prot = false ∧ (s.lineAt a.toNat).poison = false ∧ 2 < n ∧ s.dev.mayBurst (s.dev.scrubGate (a.toNat / 64 *
      64)).key = true)
    ∧ (∃ (k : BitVec 48) (x : GEnt) (s : State), s.dev.Idle ∧ s.dev.ready = true ∧ s.dev.deep = [] ∧ s.dev.frames = [] ∧ s.dev.gran.get? (k.toNat /
      128) = some x ∧ x.tier = 2 ∧ x.state ≠ 2)
    ∧ (∃ (ses : Session) (s : State), s.dev.Desk ses (wr 0x1040 2 1) ∧ s.dev.o 0 0x1040 2 = 0 ∧ s.dev.standbyFixed 0 = false ∧ s.dev.quar = [])
    ∧ (∃ (ses : Session) (s : State), s.dev.Desk ses (wr 0x1040 2 2) ∧ s.dev.o 0 0x1040 2 = 0 ∧ s.dev.o 0 0x1040 5 ≠ 0)
    ∧ (∃ (ses : Session) (s : State), s.dev.Desk ses (wr 0x1040 2 3) ∧ s.dev.o 0 0x1040 2 = 0 ∧ s.dev.o 0 0x1040 4 = 0)
    ∧ (∃ (ses : Session) (s : State), s.dev.Desk ses (wr 0x1040 2 4) ∧ s.dev.o 0 0x1040 2 = 0)
    ∧ (∃ (s : State), s.dev.Idle ∧ s.dev.ready = true)
    ∧ (∃ (s : State), s.dev.Idle ∧ s.dev.ready = true) :=
  ⟨⟨0xA00000, g5, mkSt { up [] with gran := [(5, g5)] }, idle_of (by decide +kernel), by decide +kernel⟩,
   ⟨0xA00000, 3, g5, mkSt { up [] with gran := [(5, g5)] }, idle_of (by decide +kernel), by decide +kernel⟩,
   ⟨640, { tier := 2, part := 0, slot := 1 },
     { mkSt { up [] with gran := [(5, { tier := 2, part := 0, slot := 1 })], now := 0 } with mem := [(0xA00001, 7)], flash := [(0xA00002, 8), (0xA00045, 8)] },
     idle_of (by decide +kernel), by decide +kernel⟩,
   ⟨.pf, mkSt (dk []), desk_of (quiet_of (by decide +kernel)) (by decide +kernel), by decide +kernel⟩,
   ⟨.pf, mkSt (dk [(0, 0x1040, 5, 5)]), desk_of (quiet_of (by decide +kernel)) (by decide +kernel), by decide +kernel⟩,
   ⟨.pf, mkSt (dk []), desk_of (quiet_of (by decide +kernel)) (by decide +kernel), by decide +kernel⟩,
   ⟨.pf, mkSt (dk []), desk_of (quiet_of (by decide +kernel)) (by decide +kernel), by decide +kernel⟩,
   ⟨mkSt (up []), idle_of (by decide +kernel), by decide +kernel⟩,
   ⟨mkSt (up []), idle_of (by decide +kernel), by decide +kernel⟩⟩

/-- States and operands that meet the hypotheses of each clause of `DictionaryRequests`. -/
theorem wit_DictionaryRequests :
    (∃ (ses : Session) (x : BitVec 16) (u : BitVec 8) (o : ORow) (s : State) (q : NReq), s.dev.Desk ses q ∧ q =
      { opc := 1, index := x.toNat, sub := u.toNat } ∧ oRow? x.toNat u.toNat = some o ∧ o.text = false ∧ x ≠ 0x9020 ∧ x ≠ 0x7020)
    ∧ (∃ (ses : Session) (x : BitVec 16) (u : BitVec 8) (v : List Byte) (o : ORow) (s : State) (q : NReq), s.dev.Desk ses q ∧ q =
      { opc := 2, index := x.toNat, sub := u.toNat, length := v.length, data := v } ∧ oRow? x.toNat u.toNat = some o ∧ o.text = false ∧ bit o.acc 1 =
      true ∧ bit o.acc 3 = false ∧ isSelect x.toNat u.toNat = false ∧ x.toNat ∉ ruledObjects ∧ ((x.toNat < 0x6040 ∨ 0x604F < x.toNat)) ∧ v.length =
      o.bytes ∧ o.min_ ≤ leNat v ∧ leNat v ≤ o.max_)
    ∧ (∃ (ses : Session) (x : BitVec 16) (u : BitVec 8) (v : List Byte) (s : State) (q : NReq), s.dev.Desk ses q ∧ ((match oRow? x.toNat u.toNat with
      | some o => bit o.acc 1 = false ∨ bit o.acc 3 = true | none => True)) ∧ q =
      { opc := 2, index := x.toNat, sub := u.toNat, length := v.length, data := v })
    ∧ (∃ (ses : Session) (x : BitVec 16) (u : BitVec 8) (o : ORow) (s : State) (q : NReq), s.dev.Desk ses q ∧ q =
      { opc := 3, index := x.toNat, sub := u.toNat } ∧ oRow? x.toNat u.toNat = some o) :=
  ⟨⟨.pf, 0x1020, 1, ((oRow? 0x1020 1).get (by decide +kernel)), mkSt (dk []), { opc := 1, index := 0x1020, sub := 1 }, desk_of (quiet_of
    (by decide +kernel)) (by decide +kernel), by decide +kernel⟩,
   ⟨.pf, 0x3030, 3, [1], ((oRow? 0x3030 3).get (by decide +kernel)), mkSt (dk []), { opc := 2, index := 0x3030, sub := 3, length := 1, data := [1] },
     desk_of (quiet_of (by decide +kernel)) (by decide +kernel), by decide +kernel⟩,
   ⟨.pf, 0x1020, 1, [1], mkSt (dk []), { opc := 2, index := 0x1020, sub := 1, length := 1, data := [1] }, desk_of (quiet_of (by decide +kernel))
     (by decide +kernel), Or.inl (by decide +kernel), by decide +kernel⟩,
   ⟨.pf, 0x1020, 1, ((oRow? 0x1020 1).get (by decide +kernel)), mkSt (dk []), { opc := 3, index := 0x1020, sub := 1 }, desk_of (quiet_of
     (by decide +kernel)) (by decide +kernel), by decide +kernel⟩⟩

/-- States and operands that meet the hypotheses of each clause of `PcieFunctions`. -/
theorem wit_PcieFunctions :
    (∃ (f : Func) (request : List Byte) (ses : Session) (o : ORow) (q : NReq) (s : State), s.dev.Desk ses q ∧ sesNum ses = f.val ∧ (s.dev.fns.getD
      f.val {}).mbxState = 0 ∧ request.length = 16 ∧ q = parseReq request ∧ q.opc = 1 ∧ q.formed = true ∧ q.length = 0 ∧ q.offset = 0 ∧ oRow? q.index
      q.sub = some o ∧ o.text = false ∧ q.index ≠ 0x9020 ∧ q.index ≠ 0x7020)
    ∧ (∃ (f : Func) (entry : Fin 4096) (c : Nat) (s : State), s.dev.Idle ∧ s.dev.peUp = true ∧ f = 0 ∧ s.dev.ready = true ∧ s.dev.noAdmit = false ∧
      s.dev.o (entry.val / 16) (0x6040 + entry.val % 16) 7 = c ∧ c ≠ 0xFFFF ∧ (s.dev.ctr c).arm = none)
    ∧ (∃ (f : Func) (entry : Fin 4096) (s : State), s.dev.Idle ∧ s.dev.peUp = true ∧ f ≠ 0 ∧ entry.val < 16 ∧ s.dev.vfPart f.val = none)
    ∧ (∃ (f : Func) (vec : Fin 2048) (a : Nat) (d0 : Nat) (m : Bool) (pend : Bool) (s : State), s.dev.Quiet ∧ s.dev.peUp = true ∧ vec.val < (if f = 0
      then 64 else 31) ∧ s.dev.msix.get? (vector0 f.val + vec.val) = some (a, d0, m, pend))
    ∧ (∃ (s : State), s.dev.Quiet ∧ s.dev.peUp = true)
    ∧ (∃ (s : State), s.dev.Quiet ∧ s.dev.pins.pwrgood = true ∧ s.dev.ready = true)
    ∧ (∃ (ses : Session) (v : BitVec 8) (part : Nat) (s : State), s.dev.Desk ses (wr 0x6050 2 v.toNat) ∧ s.dev.instOf (sesNum ses) 0x6050 = part ∧
      v.toNat ≤ 64 ∧ ((∀ p, p < 256 → p ≠ part → s.dev.o p 0x6050 2 ≠ v.toNat))) :=
  ⟨⟨0, getPhase, .pf, ((oRow? 0x1020 1).get (by decide +kernel)), (parseReq getPhase), mkSt (dk []), desk_of (quiet_of (by decide +kernel))
    (by decide +kernel), by decide +kernel⟩,
   ⟨0, 0, 0, mkSt { dk [(0, 0x6040, 7, 0)] with ctrs := [(0, { value := 7 })] }, idle_of (by decide +kernel), by decide +kernel⟩,
   ⟨3, 0, mkSt (dk []), idle_of (by decide +kernel), by decide +kernel⟩,
   ⟨0, 0, 1, 2, true, true, mkSt { dk [] with msix := [(0, (1, 2, true, true))] }, quiet_of (by decide +kernel), by decide +kernel⟩,
   ⟨mkSt { dk [] with msix := [(0, (1, 2, true, true)), (127, (1, 2, true, true))] }, quiet_of (by decide +kernel), by decide +kernel⟩,
   ⟨mkSt { dk [] with msix := [(0, (1, 2, true, true))] }, quiet_of (by decide +kernel), by decide +kernel⟩,
   ⟨.pf, 3, 0, mkSt (dk []), desk_of (quiet_of (by decide +kernel)) (by decide +kernel), by decide +kernel⟩⟩

/-- States and operands that meet the hypotheses of each clause of `MctpMessages`. -/
theorem wit_MctpMessages :
    (∃ (i3c : Bool) (ep : BitVec 8) (k : Fin 16) (body : List Byte) (o : ORow) (q : NReq) (s : State), s.dev.Desk (.mctp k) q ∧ 19 ≤ body.length ∧ fld
      body 0 2 = s.dev.o 0 0x1000 2 ∧ fld body 2 1 = 1 ∧ s.dev.eids = [(k.val, ep.toNat + 256 * b2n i3c)] ∧ q = parseReq (body.drop 3) ∧ q.opc = 1 ∧
      q.formed = true ∧ q.length = 0 ∧ q.offset = 0 ∧ oRow? q.index q.sub = some o ∧ o.text = false ∧ q.index ≠ 0x9020 ∧ q.index ≠ 0x7020 ∧
      s.dev.linkPe = true)
    ∧ (∃ (i3c : Bool) (op : BitVec 2) (eid : BitVec 8) (s : State), s.dev.Quiet ∧ (if i3c then s.dev.i3cUp else s.dev.peUp) = true ∧ op.toNat < 2 ∧
      eid ≠ 0 ∧ eid ≠ 255)
    ∧ (∃ (i3c : Bool) (s : State), s.dev.Quiet ∧ (if i3c then s.dev.i3cUp else s.dev.peUp) = true)
    ∧ (∃ (s : State), s.dev.Quiet ∧ s.dev.i3cUp = true) :=
  ⟨⟨false, 5, 0, (leBytes 2 0x1F7A ++ [1] ++ getPhase), ((oRow? 0x1020 1).get (by decide +kernel)), (parseReq getPhase), mkSt
    { dk [] with eids := [(0, 5)] }, desk_of (quiet_of (by decide +kernel)) (by decide +kernel), by decide +kernel⟩,
   ⟨true, 0, 9, mkSt (up []), quiet_of (by decide +kernel), by decide +kernel⟩,
   ⟨true, mkSt (up []), quiet_of (by decide +kernel), by decide +kernel⟩,
   ⟨mkSt (up []), quiet_of (by decide +kernel), by decide +kernel⟩⟩

/-- States and operands that meet the hypotheses of each clause of `UpkeepKeepsBytes`. -/
theorem wit_UpkeepKeepsBytes :
    ∃ (c : Sys2Proof.Instr) (s : State) (t : State), s.dev.Quiet ∧ exec c s = .next t ∧ touchesNoBytes c = true :=
  ⟨.thermtrip, byte5 (up []), (match exec .thermtrip (byte5 (up [])) with | .next t => t | _ => State.reset), quiet_of (by decide +kernel), rfl,
    by decide +kernel⟩

/-- States and operands that meet the hypotheses of each clause of `KeysAndReports`. -/
theorem wit_KeysAndReports :
    (∃ (ses : Session) (s : State), s.dev.Desk ses (wr 0xB030 9 1) ∧ (s.dev.ses.getD (sesNum ses) {}).rstate ≠ 1)
    ∧ (∃ (sig : List Byte) (r : Report) (x : Ses) (s : State), s.dev.Quiet ∧ s.dev.reports = [r] ∧ s.dev.ses.get? r.ses = some x ∧ x.rstate = 1 ∧
      sig.length = 49856)
    ∧ (∃ (ses : Session) (part : Nat) (a : Nat) (s : State), s.dev.Idle ∧ s.dev.Desk ses (wr 0xB020 3 1) ∧ ((∀ i, i < 26 → s.Readable (a + 64 * i)
      part)) ∧ s.dev.sel (sesNum ses) 0xB020 1 = part ∧ s.dev.debug = 0 ∧ s.dev.keys.has part = false ∧ s.dev.o 0 0xB020 2 = a)
    ∧ (∃ (ses : Session) (s : State), s.dev.Desk ses (wr 0xB020 3 1) ∧ s.dev.debug ≠ 0)
    ∧ (∃ (ses : Session) (part : Nat) (s : State), s.dev.Desk ses (wr 0xB020 3 2) ∧ s.dev.sel (sesNum ses) 0xB020 1 = part ∧ ((∀ g ∈ s.dev.gran,
      g.2.part = part → g.2.tier ≠ 2)) ∧ s.dev.copies = [])
    ∧ (∃ (s : State), s.dev.Quiet)
    ∧ (∃ (ses : Session) (s : State), s.dev.Desk ses (wr 0xB040 3 0) ∧ s.dev.debug = 1) :=
  ⟨⟨.pf, mkSt (dk []), desk_of (quiet_of (by decide +kernel)) (by decide +kernel), by decide +kernel⟩,
   ⟨List.replicate 49856 7, ⟨0, [1]⟩, { rstate := 1 }, mkSt { dk [] with ses := [(0, { rstate := 1 })], reports := [⟨0, [1]⟩] }, quiet_of
     (by decide +kernel), by decide +kernel⟩,
   ⟨.pf, 0, 0xA00000, { mkSt { dk [(0, 0xB020, 2, 0xA00000)] with gran := [(5, g5)] } with mem := memOf [(0xA00000, 4, 0x4E594B42)] }, idle_of
     (by decide +kernel), desk_of (quiet_of (by decide +kernel)) (by decide +kernel), readables_of 0xA00000 g5 (by decide +kernel),
     by decide +kernel⟩,
   ⟨.pf, mkSt (dk [(0, 0xB040, 1, 1)]), desk_of (quiet_of (by decide +kernel)) (by decide +kernel), by decide +kernel⟩,
   ⟨.pf, 0, mkSt (dk []), desk_of (quiet_of (by decide +kernel)) (by decide +kernel), by decide +kernel⟩,
   ⟨mkSt (up []), quiet_of (by decide +kernel)⟩,
   ⟨.pf, mkSt (dk [(0, 0xB040, 1, 1)]), desk_of (quiet_of (by decide +kernel)) (by decide +kernel), by decide +kernel⟩⟩

end

end Sys2Proof.Tests
end

section
/-! PROOFS. How a command ends and answers; changes that leave the bytes, or leave everything but dictionary objects. -/
namespace Sys2Proof.Machine

/-! ### The end of a command -/

/-- A command that ends by `close` answers where its run ends, if nothing can go on there. -/
theorem Answers.of_close {c : Instr} {s : State} {P : State → Prop} (r : Run s) (h : exec c s = r.close) (q : r.d.Calm)
    (hP : P r.cur) : Answers c s P := ⟨r.cur, by rw [h, r.close_calm q], hP⟩

/-- A command that ends by `requestDone` answers where its run ends, if nothing can go on there. -/
theorem Answers.of_requestDone {c : Instr} {s : State} {P : State → Prop} (r : Run s) (h : exec c s = r.requestDone) (q : r.d.Calm)
    (hP : P r.cur) : Answers c s P := ⟨r.cur, by rw [h, r.requestDone_calm q], hP⟩

/-- What waits inside a device, and the time at which it looks. -/
def Dev.waiting (d : Dev) :=
  (d.again, d.objWait, d.harts, d.recov, d.relief, d.lates, d.now, d.after, d.castOps, d.fences)

/-- Whether something that waits can go on is a matter of that alone. -/
theorem Dev.Calm.of_waiting {d e : Dev} (q : d.Calm) (h : e.waiting = d.waiting) : e.Calm := by
  simp only [Dev.waiting, Prod.mk.injEq] at h
  obtain ⟨hagain, hobjWait, hharts, hrecov, hrelief, hlates, hnow, hafter, hcastOps, hfences⟩ := h
  constructor
  case again => rw [hagain]; exact q.again
  case objWait => rw [hobjWait]; exact q.objWait
  case harts => rw [hharts]; exact q.harts
  case recov => rw [hrecov]; exact q.recov
  case relief => rw [hrelief]; exact q.relief
  case lates => rw [hlates]; exact q.lates
  case after => rw [hafter, hnow]; exact q.after
  case castOps => rw [hcastOps]; exact q.castOps
  case fences => rw [hfences]; exact q.fences

/-! ### Sending -/

/-- What was sent in `a` is sent still in `b`. -/
def Grows (a b : State) : Prop := ∃ new, b.out = new ++ a.out

theorem Grows.refl (a : State) : Grows a a := ⟨[], rfl⟩

theorem Grows.of_eq {a b : State} (h : b.out = a.out) : Grows a b := ⟨[], h⟩

theorem Grows.trans {a b c : State} (h : Grows a b) (k : Grows b c) : Grows a c := by
  obtain ⟨n, e⟩ := h
  obtain ⟨m, f⟩ := k
  exact ⟨m ++ n, by rw [f, e, List.append_assoc]⟩

theorem Sends.emit {s : State} (r : Run s) (o : Out) : Sends s (r.emit o).cur o := by
  obtain ⟨-, new, h⟩ := r.grows
  exact ⟨o :: new, by simp [h], by simp⟩

/-- What was sent is sent still, whatever a run does then. -/
theorem Sends.grow {s t u : State} {o : Out} (h : Sends s t o) (hu : Grows t u) : Sends s u o := by
  obtain ⟨a, ha, ho⟩ := h
  obtain ⟨b, hb⟩ := hu
  exact ⟨b ++ a, by rw [hb, ha, List.append_assoc], List.mem_append_right _ ho⟩

theorem Sends.of_out_eq {s t u : State} {o : Out} (h : Sends s t o) (hu : u.out = t.out) : Sends s u o := h.grow (.of_eq hu)

/-! ### Bytes -/

theorem SameBytes.refl (a : State) : SameBytes a a := ⟨rfl, rfl, rfl, rfl, rfl, rfl⟩

theorem SameBytes.trans {a b c : State} (h : SameBytes a b) (k : SameBytes b c) : SameBytes a c :=
  ⟨k.mem.trans h.mem, k.flash.trans h.flash, k.copy.trans h.copy, k.bad.trans h.bad, k.fbad.trans h.fbad, k.cbad.trans h.cbad⟩

section
variable {s₀ : State}

theorem Run.mod_sameBytes (r : Run s₀) (f : Dev → Dev) : SameBytes r.cur (r.mod f).cur := ⟨rfl, rfl, rfl, rfl, rfl, rfl⟩

theorem Run.setO_sameBytes (r : Run s₀) (i x u v : Nat) : SameBytes r.cur (r.setO i x u v).cur := ⟨rfl, rfl, rfl, rfl, rfl, rfl⟩

theorem Run.emit_sameBytes (r : Run s₀) (o : Out) : SameBytes r.cur (r.emit o).cur := ⟨rfl, rfl, rfl, rfl, rfl, rfl⟩

end

/-! ### Changes of objects alone -/

/-- `b` is `a` but for dictionary objects. -/
def OnlyObjects (a b : State) : Prop := ∃ t, b = { a with dev := { a.dev with obj := t } }

theorem OnlyObjects.refl (a : State) : OnlyObjects a a := ⟨a.dev.obj, rfl⟩

section
variable {a b : State} (h : OnlyObjects a b)
include h

theorem OnlyObjects.sameBytes : SameBytes a b := by obtain ⟨t, rfl⟩ := h; exact ⟨rfl, rfl, rfl, rfl, rfl, rfl⟩
theorem OnlyObjects.out : b.out = a.out := by obtain ⟨t, rfl⟩ := h; rfl
theorem OnlyObjects.pins : b.dev.pins = a.dev.pins := by obtain ⟨t, rfl⟩ := h; rfl
theorem OnlyObjects.calm (q : a.dev.Calm) : b.dev.Calm := by obtain ⟨t, rfl⟩ := h; exact q.of_waiting rfl

end

section
variable {s₀ : State}

theorem Run.setO_onlyObjects (r : Run s₀) (i x u v : Nat) : OnlyObjects r.cur (r.setO i x u v).cur := ⟨_, rfl⟩

end

end Sys2Proof.Machine
end

section
/-! PROOFS. -/
namespace Sys2Proof.Machine

/-- P of R13 for aligned block `b` of 16 KiB. -/
def Dev.blockHash (d : Dev) (b : Nat) : BitVec 8 := Config.lineHash d.key (bits (16384 * b) 21 41) (bits (16384 * b) 14 7)

/-- Within a block the home slice is the line's number, exclusive-or one value for the whole block (R13). -/
theorem Dev.homeSlice_block (d : Dev) (b i : Nat) (hi : i < 256) :
    d.homeSlice (16384 * b + 64 * i) = (BitVec.ofNat 8 i ^^^ d.blockHash b).toNat := by
  have hline : bits (16384 * b + 64 * i) 6 8 = i := by unfold bits; omega
  have hgran : bits (16384 * b + 64 * i) 21 41 = bits (16384 * b) 21 41 := by unfold bits; omega
  have hblock : bits (16384 * b + 64 * i) 14 7 = bits (16384 * b) 14 7 := by unfold bits; omega
  rw [Dev.homeSlice, hline, hgran, hblock, Dev.blockHash]

/-- Slice `k` is home to one line of a block, the line whose number is `k` exclusive-or the block's value. -/
theorem Dev.homeSlice_block_eq_iff (d : Dev) (b : Nat) {i k : Nat} (hi : i < 256) (hk : k < 256) :
    d.homeSlice (16384 * b + 64 * i) = k ↔ i = (BitVec.ofNat 8 k ^^^ d.blockHash b).toNat := by
  rw [d.homeSlice_block b i hi]
  generalize d.blockHash b = h
  have hki : (BitVec.ofNat 8 k).toNat = k := by rw [BitVec.toNat_ofNat]; omega
  have hii : (BitVec.ofNat 8 i).toNat = i := by rw [BitVec.toNat_ofNat]; omega
  constructor
  · intro e
    have : BitVec.ofNat 8 i ^^^ h = BitVec.ofNat 8 k := BitVec.eq_of_toNat_eq (e.trans hki.symm)
    rw [← this, BitVec.xor_assoc, BitVec.xor_self, BitVec.xor_zero, hii]
  · intro e
    have : BitVec.ofNat 8 i = BitVec.ofNat 8 k ^^^ h := BitVec.eq_of_toNat_eq (hii.trans e)
    rw [this, BitVec.xor_assoc, BitVec.xor_self, BitVec.xor_zero, hki]

/-- Of the 256 lines of a block, one is at home in slice `k`. -/
theorem Dev.countP_homeSlice_block (d : Dev) (b : Nat) (k : Fin 256) :
    (List.range 256).countP (fun i => d.homeSlice (16384 * b + 64 * i) == k.val) = 1 := by
  have heq : ∀ i ∈ List.range 256, (d.homeSlice (16384 * b + 64 * i) == k.val)
      = (i == (BitVec.ofNat 8 k.val ^^^ d.blockHash b).toNat) := fun i hi => by
    simp only [Bool.beq_eq_decide_eq, d.homeSlice_block_eq_iff b (List.mem_range.1 hi) k.isLt]
  rw [List.countP_congr fun i hi => by rw [heq i hi]]
  exact List.count_eq_one_of_mem List.nodup_range (List.mem_range.2 (BitVec.isLt _))

/-- Of the lines of `n` blocks in a row from block `b` on, `n` are at home in slice `k`. -/
theorem Dev.countP_homeSlice_blocks (d : Dev) (b n : Nat) (k : Fin 256) :
    (List.range (256 * n)).countP (fun i => d.homeSlice (16384 * b + 64 * i) == k.val) = n := by
  induction n with
  | zero => rfl
  | succ n ih =>
    have hshift : ∀ i, 16384 * b + 64 * (256 * n + i) = 16384 * (b + n) + 64 * i := fun i => by omega
    rw [Nat.mul_succ, List.range_add, List.countP_append, ih, List.countP_map]
    simp only [Function.comp_def, hshift, d.countP_homeSlice_block]

end Sys2Proof.Machine

open Sys2Proof Sys2Proof.Machine

/-- Settles O7: within a block the home slice is a bijection of the line's number, and a granule is 128 blocks. -/
theorem homeSlicesEven : Obligations.HomeSlicesEven := by
  intro d k
  refine ⟨fun b _ => ?_, fun g _ => ?_⟩
  · rw [← List.countP_eq_length_filter]
    exact d.countP_homeSlice_block b k
  · have hgran : ∀ i, 2 ^ 21 * g + 64 * i = 16384 * (128 * g) + 64 * i := fun i => by omega
    simp only [hgran, ← List.countP_eq_length_filter]
    exact d.countP_homeSlice_blocks (128 * g) 128 k
end

section
/-! PROOFS. The speed monitors and the core voltage (R17, R18). -/
namespace Sys2Proof.Machine

section
variable {s₀ : State}

/-! ### Holds and excursions -/

/-- A hold that begins changes objects alone. -/
theorem Run.setHold_true_onlyObjects (r : Run s₀) (i : Nat) : OnlyObjects r.cur (r.setHold i true).cur := by
  unfold Run.setHold
  dsimp only
  split
  · exact .refl _
  · exact r.setO_onlyObjects ..

/-- A bit that is clear is set by adding its weight. -/
theorem bit_add_two_pow {h i : Nat} (hb : bit h i = false) : bit (h + 2 ^ i) i = true := by
  simp only [bit, beq_eq_false_iff_ne, beq_iff_eq] at hb ⊢
  rw [Nat.add_div_right _ (Nat.two_pow_pos i)]
  omega

/-- A hold that begins is set. -/
theorem Run.setHold_true_bit (r : Run s₀) (i : Nat) : bit ((r.setHold i true).cur.dev.o 0 0x2000 1) i = true := by
  unfold Run.setHold
  dsimp only
  split
  · rename_i h; simpa using h
  · rename_i h
    rw [if_pos rfl, if_pos rfl, Run.setO_o_self]
    exact bit_add_two_pow (by simpa using h)

/-- What an upkeep step leaves: the pins and the holds, what was sent, the bytes; nothing that waits can go on. -/
structure Keeps (a b : State) : Prop where
  pins : b.dev.pins = a.dev.pins
  holds : b.dev.o 0 0x2000 1 = a.dev.o 0 0x2000 1
  out : Grows a b
  bytes : SameBytes a b
  calm : a.dev.Calm → b.dev.Calm

theorem Side.keeps {a b : State} (h : Side a b) : Keeps a b :=
  ⟨h.pins, h.o (by decide), h.out, h.sameBytes, h.calm⟩

theorem Keeps.refl (a : State) : Keeps a a := (Side.refl a).keeps

theorem Keeps.trans {a b c : State} (h : Keeps a b) (k : Keeps b c) : Keeps a c where
  pins := k.pins.trans h.pins
  holds := k.holds.trans h.holds
  out := h.out.trans k.out
  bytes := h.bytes.trans k.bytes
  calm := k.calm ∘ h.calm

/-- A write to an object other than the holds. -/
theorem Run.setO_keeps (r : Run s₀) (i x u v : Nat) (h : okey i x u ≠ okey 0 0x2000 1) : Keeps r.cur (r.setO i x u v).cur :=
  ⟨rfl, r.setO_o_ne _ _ _ _ _ _ _ h, .of_eq rfl, r.setO_sameBytes .., (r.setO_onlyObjects ..).calm⟩

/-- A bound excursion is counted and recorded (R123). -/
theorem Run.excursion_keeps (r : Run s₀) (kind value : Nat) : Keeps r.cur (r.excursion kind value).cur := by
  unfold Run.excursion
  dsimp only
  split
  · exact .refl _
  · exact (r.setO_keeps _ _ _ _ (by decide)).trans (Run.each_side _ _ _ fun r p => Run.error_side ..).keeps

/-! ### A sample of the speed monitors -/

/-- A sample is taken in the test reserve and its slowest reading shown; one above 1.15 ns puts off the end of the hold. -/
def Run.noteSpeed (r : Run s₀) (slow : Nat) : Run s₀ :=
  let r := (r.burst speedBurst).setO 0 0xA000 5 (slow % 65536)
  if 1150 < slow then r.mod fun d => { d with pins := { d.pins with slowAt := d.now } } else r

/-- The target that a long step raises: the one that waits for the bus while it fails. -/
def Dev.target (d : Dev) : Nat := if d.o 0 0xA010 1 == 2 then max d.pins.mv d.pins.want else d.pins.mv

/-- A long step of monitor `i` raises the target and begins the speed hold, and is recorded (R18). -/
def Run.raiseTarget (r : Run s₀) (slow i : Nat) : Run s₀ :=
  let failing := r.d.o 0 0xA010 1 == 2
  let old := r.d.target
  let new := min topMv (old + 10)
  let r := r.mod fun d => { d with pins := (if failing then { d.pins with want := new } else { d.pins with mv := new, lowered := d.now }) }
  let r := if new == old then r else r.emit (.avs new)
  (r.setHold 1 true).error (mkErr 0x11 4 7 0 none 0 (slow % 2 ^ 48 + i * 2 ^ 48) new)

section
variable (r : Run s₀) (ps : List Nat) (hp : r.d.pins.pwrgood = true) (hv : r.d.pins.mv ≠ 0) (hb : r.d.mayBurst speedBurst = true)
include hp hv hb

/-- A sample with a step above 1.20 ns raises the target; one above 1.25 ns is an excursion too. -/
theorem Run.speedSample_long (h : 1200 < ps.foldl max 0) :
    r.speedSample ps = (if 1250 < ps.foldl max 0
      then ((r.noteSpeed (ps.foldl max 0)).raiseTarget (ps.foldl max 0) (ps.findIdx (· == ps.foldl max 0))).excursion 0 (ps.foldl max 0)
      else (r.noteSpeed (ps.foldl max 0)).raiseTarget (ps.foldl max 0) (ps.findIdx (· == ps.foldl max 0))) := by
  unfold Run.speedSample
  rw [if_neg (by simp [hp, hv, hb])]
  dsimp only
  rw [if_pos h]
  rfl

/-- A sample in which every monitor reads 1.15 ns or less lowers a target above the nominal one a millisecond after its last change. -/
theorem Run.speedSample_short (h : ps.foldl max 0 ≤ 1150) (hn : nominalMv + 5 ≤ r.d.pins.mv) (hf : r.d.o 0 0xA010 1 ≠ 2)
    (hl : r.d.pins.lowered + us 1000 ≤ r.d.now) :
    r.speedSample ps = ((r.noteSpeed (ps.foldl max 0)).mod fun d => { d with pins := { d.pins with mv := r.d.pins.mv - 5, lowered := d.now } }).emit
      (.avs (r.d.pins.mv - 5)) := by
  have hslow : ¬ 1150 < ps.foldl max 0 := by omega
  unfold Run.speedSample
  rw [if_neg (by simp [hp, hv, hb])]
  dsimp only
  rw [if_neg (by omega), if_pos]
  · simp only [Run.noteSpeed, if_neg hslow]; rfl
  · rw [if_neg hslow]
    have ho : ((r.burst speedBurst).setO 0 0xA000 5 (ps.foldl max 0 % 65536)).d.o 0 0xA010 1 = r.d.o 0 0xA010 1 :=
      Run.setO_o_ne _ _ _ _ _ _ _ _ (by decide)
    rw [ho]
    simp only [Bool.and_eq_true, decide_eq_true_eq, Bool.not_eq_true', beq_eq_false_iff_ne]
    exact ⟨⟨⟨h, hn⟩, hf⟩, hl⟩

end

/-- A long step raises the target, sends it, and begins the hold. -/
theorem Run.raiseTarget_effect (r : Run s₀) (slow i : Nat) (h : r.d.target + 10 ≤ 900) :
    let t := (r.raiseTarget slow i).cur
    t.dev.pins = (if r.d.o 0 0xA010 1 == 2 then { r.d.pins with want := r.d.target + 10 }
        else { r.d.pins with mv := r.d.target + 10, lowered := r.d.now })
      ∧ bit (t.dev.o 0 0x2000 1) 1 = true ∧ Sends s₀ t (.avs (r.d.target + 10)) ∧ SameBytes r.cur t ∧ (r.d.Calm → t.dev.Calm) := by
  have hnew : min topMv (r.d.target + 10) = r.d.target + 10 := Nat.min_eq_right h
  have hne : (r.d.target + 10 == r.d.target) = false := by simp
  unfold Run.raiseTarget
  dsimp only
  rw [hnew, hne, if_neg (by decide)]
  generalize hr₁ : (r.mod _).emit _ = r₁
  have hsends : Sends s₀ r₁.cur (.avs (r.d.target + 10)) := hr₁ ▸ Sends.emit _ _
  have hpins : r₁.cur.dev.pins = (if r.d.o 0 0xA010 1 == 2 then { r.d.pins with want := r.d.target + 10 }
      else { r.d.pins with mv := r.d.target + 10, lowered := r.d.now }) := hr₁ ▸ rfl
  have hbytes : SameBytes r.cur r₁.cur := hr₁ ▸ ⟨rfl, rfl, rfl, rfl, rfl, rfl⟩
  have hcalm : r.d.Calm → r₁.d.Calm := fun q => hr₁ ▸ q.of_waiting rfl
  have hold := r₁.setHold_true_onlyObjects 1
  have hrec := ((r₁.setHold 1 true).error_side (mkErr 0x11 4 7 0 none 0 (slow % 2 ^ 48 + i * 2 ^ 48) (r.d.target + 10))).keeps
  refine ⟨?_, ?_, ?_, ?_, ?_⟩
  · rw [hrec.pins, hold.pins, hpins]
  · rw [hrec.holds]; exact r₁.setHold_true_bit 1
  · exact (hsends.of_out_eq hold.out).grow hrec.out
  · exact (hbytes.trans hold.sameBytes).trans hrec.bytes
  · exact fun q => hrec.calm (hold.calm (hcalm q))

/-- A sample with a step above 1.20 ns raises the target, sends it, and begins the hold, an excursion or not. -/
theorem Run.speedSample_raises (r : Run s₀) (ps : List Nat) (hp : r.d.pins.pwrgood = true) (hv : r.d.pins.mv ≠ 0)
    (hb : r.d.mayBurst speedBurst = true) (hs : 1200 < ps.foldl max 0) (h : r.d.target + 10 ≤ 900) :
    let t := (r.speedSample ps).cur
    t.dev.pins = (if r.d.o 0 0xA010 1 == 2 then { r.d.pins with slowAt := r.d.now, want := r.d.target + 10 }
        else { r.d.pins with slowAt := r.d.now, mv := r.d.target + 10, lowered := r.d.now })
      ∧ bit (t.dev.o 0 0x2000 1) 1 = true ∧ Sends s₀ t (.avs (r.d.target + 10)) ∧ SameBytes r.cur t ∧ (r.d.Calm → t.dev.Calm) := by
  have hlong : 1150 < ps.foldl max 0 := by omega
  rw [r.speedSample_long ps hp hv hb hs]
  generalize ps.foldl max 0 = slow at *
  generalize List.findIdx _ ps = i
  generalize hr₁ : r.noteSpeed slow = r₁
  rw [Run.noteSpeed, if_pos hlong] at hr₁
  have ho : r₁.d.o 0 0xA010 1 = r.d.o 0 0xA010 1 := hr₁ ▸ Run.setO_o_ne _ _ _ _ _ _ _ _ (by decide)
  have hpins : r₁.d.pins = { r.d.pins with slowAt := r.d.now } := hr₁ ▸ rfl
  have hnow : r₁.d.now = r.d.now := hr₁ ▸ rfl
  have htarget : r₁.d.target = r.d.target := by unfold Dev.target; rw [ho, hpins]
  have hbytes : SameBytes r.cur r₁.cur := hr₁ ▸ ⟨rfl, rfl, rfl, rfl, rfl, rfl⟩
  have hcalm : r.d.Calm → r₁.d.Calm := fun q => hr₁ ▸ q.of_waiting rfl
  obtain ⟨epins, ebit, esends, ebytes, ecalm⟩ := r₁.raiseTarget_effect slow i (htarget ▸ h)
  have hkeeps : Keeps (r₁.raiseTarget slow i).cur
      (if 1250 < slow then (r₁.raiseTarget slow i).excursion 0 slow else r₁.raiseTarget slow i).cur := by
    split
    · exact Run.excursion_keeps ..
    · exact .refl _
  rw [ho, hpins, htarget, hnow] at epins
  rw [htarget] at esends
  exact ⟨hkeeps.pins.trans epins, hkeeps.holds ▸ ebit, esends.grow hkeeps.out, (hbytes.trans ebytes).trans hkeeps.bytes,
    fun q => hkeeps.calm (ecalm (hcalm q))⟩

end

end Sys2Proof.Machine
end

section
/-! PROOFS. The core voltage goes down again, and a failing AVSBus (R476). -/
namespace Sys2Proof.Machine

section
variable {s₀ : State}

/-- The third AVSBus transaction in a row that fails during work: the failure shows, DEVALERT_N is asserted, a record written (R476). -/
theorem Run.avsFail_third (r : Run s₀) (hp : r.d.pins.pwrgood = true) (hph : r.d.phase = 7) (hv : r.d.pins.mv ≠ 0)
    (ho : r.d.o 0 0xA010 1 ≠ 2) (hn : 2 ≤ r.d.pins.busFails) :
    r.avsFail = (((r.mod fun d => { d with pins := { d.pins with busFails := d.pins.busFails + 1 } }).setO 0 0xA010 1 2).devalert true).putRecord
      (mkErr 0x11 4 7 0 none 0 (r.d.o 0 0xA000 5) r.d.pins.mv) := by
  unfold Run.avsFail
  rw [if_neg (by simp [hp, hv])]
  dsimp only
  have hfails : ¬ (r.mod fun d => { d with pins := { d.pins with busFails := d.pins.busFails + 1 } }).d.pins.busFails < 3 := by
    show ¬ r.d.pins.busFails + 1 < 3
    omega
  have hphase : ((r.mod fun d => { d with pins := { d.pins with busFails := d.pins.busFails + 1 } }).d.phase == 2) = false := by
    show (r.d.phase == 2) = false
    rw [hph]; rfl
  have hbus : ((r.mod fun d => { d with pins := { d.pins with busFails := d.pins.busFails + 1 } }).d.o 0 0xA010 1 == 2) = false :=
    beq_eq_false_iff_ne.2 ho
  rw [if_neg hfails, hphase, hbus, if_neg (by decide), if_neg (by decide)]
  exact Run.error_plain _ _ (by simp [mkErr]) rfl

end

/-- After a write to one object every other reads as it did. -/
theorem SameObjects.of_set {s t : State} {i x u v : Nat} (hx : x < 65536) (hu : u < 256)
    (h : t.dev.obj = s.dev.obj.set (okey i x u) v) : SameObjects s t [(i, x, u)] := by
  intro j y w hy hw hne
  rw [Dev.o_eq, Dev.o_eq, h, objGet_set, if_neg]
  intro hk
  obtain ⟨rfl, rfl, rfl⟩ := okey_inj hx hy hu hw hk
  exact hne (List.mem_singleton.2 rfl)

/-! ### The commands -/

theorem exec_speedMonitorSample (ps : Vector Nat 16) (s : State) :
    exec (.speedMonitorSample ps) s = ((Run.start s).speedSample ps.toList).close := rfl

theorem exec_avsbusTransactionFail (s : State) : exec .avsbusTransactionFail s = (Run.start s).avsFail.close := rfl

/-- The run of a retry that succeeds on a failing bus. -/
def Run.avsRetried {s₀ : State} (r : Run s₀) : Run s₀ :=
  let want := r.d.pins.want
  ((if want == 0 then r else r.emit (.avs want)).setO 0 0xA010 1 1).mod fun d => { d with pins := { d.pins with
    busFails := 0, mv := max d.pins.mv want, lowered := if want == 0 then d.pins.lowered else d.now, want := 0 } }

section
variable {s₀ : State} (r : Run s₀)

theorem Run.avsRetried_calm (q : r.d.Calm) : r.avsRetried.d.Calm := by
  unfold Run.avsRetried
  dsimp only
  split <;> exact q.of_waiting rfl

theorem Run.avsRetried_obj : r.avsRetried.cur.dev.obj = r.cur.dev.obj.set (okey 0 0xA010 1) 1 := by
  unfold Run.avsRetried
  dsimp only
  split <;> rfl

theorem Run.avsRetried_bus : r.avsRetried.cur.dev.o 0 0xA010 1 = 1 := by
  rw [Dev.o_eq, r.avsRetried_obj, objGet_set, if_pos rfl]

theorem Run.avsRetried_pins : r.avsRetried.cur.dev.pins = { r.d.pins with
    busFails := 0, mv := max r.d.pins.mv r.d.pins.want, lowered := if r.d.pins.want == 0 then r.d.pins.lowered else r.d.now, want := 0 } := by
  unfold Run.avsRetried
  dsimp only
  split <;> rfl

theorem Run.avsRetried_sends (h : r.d.pins.want ≠ 0) : Sends s₀ r.avsRetried.cur (.avs r.d.pins.want) := by
  unfold Run.avsRetried
  dsimp only
  rw [beq_eq_false_iff_ne.2 h, if_neg (by decide)]
  exact (Sends.emit _ _).of_out_eq rfl

end

theorem exec_avsbusRetry (s : State) (h : s.dev.o 0 0xA010 1 = 2) : exec (.avsbusRetry true) s = (Run.start s).avsRetried.close := by
  show execAvsbusRetry true s = _
  unfold execAvsbusRetry
  rw [h]
  rfl

/-- A sample in which every monitor reads 1.15 ns or less lowers the target, a millisecond after its last change (log entry 113). -/
theorem speedSample_lowers (ps : Vector Nat 16) (s : State) (q : s.dev.Quiet) (hp : s.dev.pins.pwrgood = true) (hv : s.dev.pins.mv ≠ 0)
    (ho : s.dev.o 0 0xA010 1 ≠ 2) (hb : s.dev.mayBurst speedBurst = true) (hs : ps.toList.foldl max 0 ≤ 1150)
    (hn : nominalMv + 5 ≤ s.dev.pins.mv) (hl : s.dev.pins.lowered + us 1000 ≤ s.dev.now) :
    Answers (.speedMonitorSample ps) s fun t => t.dev.pins.mv = s.dev.pins.mv - 5 ∧ Sends s t (.avs (s.dev.pins.mv - 5))
      ∧ t.dev.ring = s.dev.ring ∧ SameBytes s t := by
  refine Answers.of_close _ (exec_speedMonitorSample ps s) ?_ ?_
  all_goals rw [(Run.start s).speedSample_short ps.toList hp hv hb hs hn ho hl, Run.noteSpeed, if_neg (by omega)]
  · exact q.calm.of_waiting rfl
  · exact ⟨rfl, Sends.emit _ _, rfl, by constructor <;> simp [Run.burst]⟩

/-- The third failure in a row shows and is recorded (R476). -/
theorem avsbusTransactionFail_answers (s : State) (q : s.dev.Quiet) (hp : s.dev.pins.pwrgood = true) (hph : s.dev.phase = 7)
    (hv : s.dev.pins.mv ≠ 0) (ho : s.dev.o 0 0xA010 1 ≠ 2) (hn : 2 ≤ s.dev.pins.busFails) :
    Answers .avsbusTransactionFail s fun t => t.dev.o 0 0xA010 1 = 2 ∧ t.dev.pins.devalert = true ∧ t.dev.pins.mv = s.dev.pins.mv
      ∧ Sends s t (.pin "DEVALERT_N" true) ∧ ∃ e, t.dev.ring.head? = some e ∧ e.kind = 0x11 ∧ e.d1 = s.dev.pins.mv := by
  have hexec := exec_avsbusTransactionFail s
  rw [(Run.start s).avsFail_third hp hph hv ho hn] at hexec
  generalize hr : Run.devalert _ _ = r at hexec
  have hcalm : r.d.Calm := hr ▸ q.calm.of_waiting rfl
  have hpins : r.d.pins.devalert = true ∧ r.d.pins.mv = s.dev.pins.mv := hr ▸ ⟨rfl, rfl⟩
  have hbus : r.d.o 0 0xA010 1 = 2 := hr ▸ Run.setO_o_self ..
  have hsends : Sends s r.cur (.pin "DEVALERT_N" true) := hr ▸ Sends.emit _ _
  have side := r.putRecord_side (mkErr 0x11 4 7 0 none 0 ((Run.start s).d.o 0 0xA000 5) (Run.start s).d.pins.mv)
  refine Answers.of_close _ hexec (side.calm hcalm) ⟨?_, ?_, ?_, side.sends hsends, _, r.putRecord_ring _, rfl, rfl⟩
  · rw [side.o (by decide)]; exact hbus
  · rw [side.pins]; exact hpins.1
  · rw [side.pins]; exact hpins.2

/-- A retry that succeeds ends the failure and sends the target that waited for it (R476, log entry 36). -/
theorem avsbusRetry_answers (s : State) (q : s.dev.Quiet) (ho : s.dev.o 0 0xA010 1 = 2) :
    Answers (.avsbusRetry true) s fun t => t.dev.o 0 0xA010 1 = 1 ∧ t.dev.pins.busFails = 0
      ∧ t.dev.pins.mv = max s.dev.pins.mv s.dev.pins.want ∧ t.dev.pins.want = 0
      ∧ (s.dev.pins.want ≠ 0 → Sends s t (.avs s.dev.pins.want)) ∧ SameObjects s t [(0, 0xA010, 1)] := by
  have hpins := (Run.start s).avsRetried_pins
  refine Answers.of_close _ (exec_avsbusRetry s ho) ((Run.start s).avsRetried_calm q.calm)
    ⟨Run.avsRetried_bus _, ?_, ?_, ?_, (Run.start s).avsRetried_sends, SameObjects.of_set (by decide) (by decide) (Run.avsRetried_obj _)⟩
  all_goals rw [hpins]
  rfl

/-- While the bus fails a long step raises the target that waits for the retry (R18, log entry 36). -/
theorem speedSample_raises_want (ps : Vector Nat 16) (s : State) (q : s.dev.Quiet) (hp : s.dev.pins.pwrgood = true) (hv : s.dev.pins.mv ≠ 0)
    (ho : s.dev.o 0 0xA010 1 = 2) (hb : s.dev.mayBurst speedBurst = true) (hs : 1200 < ps.toList.foldl max 0)
    (hmax : max s.dev.pins.mv s.dev.pins.want + 10 ≤ 900) :
    Answers (.speedMonitorSample ps) s fun t => t.dev.pins.mv = s.dev.pins.mv ∧ bit (t.dev.o 0 0x2000 1) 1 = true
      ∧ t.dev.pins.want = max s.dev.pins.mv s.dev.pins.want + 10 ∧ Sends s t (.avs t.dev.pins.want) ∧ SameBytes s t := by
  have htarget : s.dev.target = max s.dev.pins.mv s.dev.pins.want := by simp [Dev.target, ho]
  obtain ⟨hpins, hhold, hsend, hbytes, hcalm⟩ := (Run.start s).speedSample_raises ps.toList hp hv hb hs (htarget ▸ hmax)
  simp only [Run.d, Run.start_cur, ho, beq_self_eq_true, if_true, htarget] at hpins hsend
  refine Answers.of_close _ (exec_speedMonitorSample ps s) (hcalm q.calm) ?_
  rw [hpins]
  exact ⟨rfl, hhold, rfl, hsend, hbytes⟩

end Sys2Proof.Machine

open Sys2Proof Sys2Proof.Machine

/-- Settles O9: a short sample lowers the target; the third failure, the retry and a long sample while the bus fails, each by its
effect. -/
theorem voltageAndBus : Obligations.VoltageAndBus :=
  ⟨speedSample_lowers, avsbusTransactionFail_answers, avsbusRetry_answers, speedSample_raises_want⟩
end

section
/-! PROOFS. A long step that is an excursion too: its record can flood the ring (R18, R123, R350). -/
namespace Sys2Proof.Machine

/-! ### The ring of error records under an event that cannot be raised -/

/-- The ring holds at most 4,096 records, and the newest `k` of them are no SPEED records. -/
structure Dev.NoSpeed (d : Dev) (k : Nat) : Prop where
  length : d.ring.length ≤ 4096
  newest : ∀ e ∈ d.ring.take k, e.kind ≠ 0x11

/-- A ring whose newest 4,096 records are no SPEED records holds none. -/
theorem Dev.NoSpeed.none {d : Dev} (h : d.NoSpeed 4096) : ∀ e ∈ d.ring, e.kind ≠ 0x11 := by
  have := h.newest
  rwa [List.take_of_length_le h.length] at this

theorem Dev.NoSpeed.mono {d : Dev} {k n : Nat} (h : d.NoSpeed n) (hk : k ≤ n) : d.NoSpeed k :=
  ⟨h.length, fun e he => h.newest e (List.take_subset_take_left _ hk he)⟩

/-- Error events of partition `p` are routed to a counter of this device that is not the partition's (R350). -/
structure Dev.StrayRoute (d : Dev) (p : Nat) : Prop where
  kind : bits (d.o p 0x6060 0x13) 0 2 = 3
  dev : bits (d.o p 0x6060 0x13) 44 14 = d.self
  owner : d.ctrOwner (bits (d.o p 0x6060 0x13) 29 15) ≠ p

theorem Side.strayRoute {a b : State} (h : Side a b) {p : Nat} (hr : a.dev.StrayRoute p) : b.dev.StrayRoute p := by
  have ho : b.dev.o p 0x6060 0x13 = a.dev.o p 0x6060 0x13 := h.o (by rw [sideKey_okey (by decide) (by decide)]; rfl)
  have hself : b.dev.self = a.dev.self := h.o (by decide)
  have hown : b.dev.ctrOwn = a.dev.ctrOwn := by rw [h.dev]
  constructor
  · rw [ho]; exact hr.kind
  · rw [ho, hself]; exact hr.dev
  · rw [ho, Dev.ctrOwner, hown]; exact hr.owner

/-- The record of an event of partition `p` whose route `w` names a counter that is not the partition's (R350). -/
def strayRecord (p w : Nat) : ERec := { seq := 0, kind := 0x13, sev := 4, unit := 5, loc := 0, part := some p, time := 0, d0 := w, d1 := 10 }

section
variable {s₀ : State}

/-- The ring after a record: it stands newest of at most 4,096 (R416, R417). -/
theorem Run.putRecord_ring_eq (r : Run s₀) (e : ERec) : (r.putRecord e).cur.dev.ring =
    ({ e with seq := r.cur.dev.eseq, time := (r.now - r.cur.dev.bring.upAt) / 8000 } :: r.cur.dev.ring).take 4096 := by
  unfold Run.putRecord
  dsimp only
  split <;> rfl

/-- A record that is no SPEED record pushes those of before one place on. -/
theorem Run.putRecord_noSpeed (r : Run s₀) (e : ERec) {k : Nat} (he : e.kind ≠ 0x11) (h : r.d.NoSpeed k) :
    (r.putRecord e).d.NoSpeed (k + 1) := by
  have hring := r.putRecord_ring_eq e
  constructor
  · rw [hring]; exact List.length_take_le ..
  · intro x hx
    rw [hring, List.take_take] at hx
    have hx' := List.take_subset_take_left _ (Nat.min_le_left (k + 1) 4096) hx
    rw [List.take_succ_cons] at hx'
    rcases List.mem_cons.1 hx' with rfl | hx'
    · exact he
    · exact h.newest x hx'

/-- The record of a partition raises its error event; one whose route is stray is recorded in turn. -/
theorem Run.acts_record_stray (r : Run s₀) (f : Nat) (e : ERec) {p : Nat} (he : e.part = some p) (h : r.d.StrayRoute p) :
    Run.acts (f + 2) [.record e] r = Run.acts f [.record (strayRecord p (r.d.o p 0x6060 0x13))] (r.putRecord e) := by
  have side := r.putRecord_side e
  have h' := side.strayRoute h
  have ho : (r.putRecord e).d.o p 0x6060 0x13 = r.d.o p 0x6060 0x13 := side.o (by rw [sideKey_okey (by decide) (by decide)]; rfl)
  have hdev : bits ((r.putRecord e).d.o p 0x6060 0x13) 44 14 == (r.putRecord e).d.self := beq_iff_eq.2 h'.dev
  have hown : ((r.putRecord e).d.ctrOwner (bits ((r.putRecord e).d.o p 0x6060 0x13) 29 15) == p) = false := beq_eq_false_iff_ne.2 h'.owner
  simp only [Run.acts, he, List.nil_append, h'.kind]
  rw [if_neg (by decide), if_neg (by decide), if_neg (by decide), if_pos hdev, if_neg (by simp [hown]), ho]
  rfl

/-- With fuel for `n` records and their events, a stray route fills the ring with `n` records. -/
theorem Run.acts_flood (n : Nat) (r : Run s₀) (e : ERec) {p k : Nat} (he : e.part = some p) (hk : e.kind ≠ 0x11) (h : r.d.StrayRoute p)
    (hr : r.d.NoSpeed k) : (Run.acts (2 * n) [.record e] r).d.NoSpeed (k + n) := by
  induction n generalizing r e k with
  | zero => exact hr
  | succ n ih =>
    rw [Nat.mul_succ, r.acts_record_stray _ e he h, Nat.add_comm n, ← Nat.add_assoc]
    exact ih _ _ rfl (by simp [strayRecord]) ((r.putRecord_side e).strayRoute h) (r.putRecord_noSpeed e hk hr)

/-- An error record of a partition with a stray route fills the ring where enough counters are armed. -/
theorem Run.error_flood (r : Run s₀) (e : ERec) {p : Nat} (he : e.part = some p) (hk : e.kind ≠ 0x11) (hs : e.sev ≠ 0) (h : r.d.StrayRoute p)
    (hl : r.d.ring.length ≤ 4096) (ha : 2046 ≤ (r.d.ctrs.filter fun c => c.2.arm.isSome).length) : (r.error e).d.NoSpeed 4096 := by
  have hfuel : 4 * (1 + (r.d.ctrs.filter fun c => c.2.arm.isSome).length) + 4
      = 2 * (2 * (r.d.ctrs.filter fun c => c.2.arm.isSome).length + 4) := by omega
  have hflood := r.acts_flood (2 * (r.d.ctrs.filter fun c => c.2.arm.isSome).length + 4) e he hk h (k := 0) ⟨hl, by simp⟩
  rw [← hfuel] at hflood
  unfold Run.error
  rw [if_neg (by simpa using hs)]
  exact hflood.mono (by omega)

/-- An excursion of a partition with a stray route fills the ring where enough counters are armed. -/
theorem Run.excursion_flood (r : Run s₀) (kind value p : Nat) (hp : ((List.range 256).filter fun p => 0 < r.d.inFlight p) = [p])
    (h : (r.bump 0 0x2000 5).d.StrayRoute p) (hl : r.d.ring.length ≤ 4096)
    (ha : 2046 ≤ (r.d.ctrs.filter fun c => c.2.arm.isSome).length) : (r.excursion kind value).cur.dev.NoSpeed 4096 := by
  unfold Run.excursion
  dsimp only
  rw [hp, if_neg (by simp), Run.each_cons, Run.each_nil]
  exact Run.error_flood _ _ rfl (by simp [mkErr]) (by simp [mkErr]) h hl ha

end

/-- A command that ends by `close` answers where its run ends and nowhere else. -/
theorem Answers.of_exec_close {c : Instr} {s : State} {P : State → Prop} (h : Answers c s P) {r : Run s} (hx : exec c s = r.close)
    (q : r.d.Calm) : P r.cur := by
  obtain ⟨t, ht, hP⟩ := h
  rw [hx, r.close_calm q] at ht
  exact Host.Outcome.next.inj ht ▸ hP

theorem Run.speedSample_calm {s₀ : State} (r : Run s₀) (ps : List Nat) (hp : r.d.pins.pwrgood = true) (hv : r.d.pins.mv ≠ 0)
    (hb : r.d.mayBurst speedBurst = true) (hs : 1200 < ps.foldl max 0) (h : r.d.target + 10 ≤ 900) (q : r.d.Calm) :
    (r.speedSample ps).d.Calm := by
  obtain ⟨-, -, -, -, hcalm⟩ := r.speedSample_raises ps hp hv hb hs h
  exact hcalm q

/-! ### A state in which an excursion loses the SPEED record -/

/-- Counters 0 to `n` − 1, each with a pending arm. -/
def armedCtrs (n : Nat) : Tab Ctr :=
  (List.range n).map fun i => (i, { arm := some { event := true, notify := false, nctr := 0, ndev := 0, namt := 0, part := 0 } })

theorem armedCtrs_armed (n : Nat) : ((armedCtrs n).filter fun c => c.2.arm.isSome).length = n := by
  rw [List.filter_eq_self.2 (by simp [armedCtrs]), armedCtrs, List.length_map, List.length_range]

/-- A device in READY at 850 mV: partition 0 has a request in flight, and its error events go to counter 0, which partition 1 owns; 2,046
counters are armed. -/
def floodDev : Dev := {
  obj := [(okey 0 0x1020 1, 7), (okey 0 0x6060 0x13, 3)]
  pins := { mv := 850 }
  ctrOwn := [(0, 1)]
  ctrs := armedCtrs 2046
  jobs := [(0, { src := .plinth, reply := .none, part := some 0, code := 1, addr := 0, lines := 1, left := 1 })] }

/-- That device, its stores empty. -/
@[irreducible] def floodState : State := { State.reset with dev := floodDev }

/-- A sample in which every monitor reads 1.251 ns. -/
@[irreducible] def floodSample : Vector Nat 16 := Vector.replicate 16 1251

/-- The device when the target has been raised and the SPEED record stands in the ring. -/
@[irreducible] def floodRaised : Run floodState := ((Run.start floodState).noteSpeed 1251).raiseTarget 1251 0

theorem floodState_quiet : floodState.dev.Quiet := by unfold floodState; exact ⟨rfl, rfl, by decide, rfl, rfl, rfl, rfl, rfl, rfl⟩

theorem floodSample_max : floodSample.toList.foldl max 0 = 1251 := by decide +kernel

theorem floodRaised_strayRoute : (floodRaised.bump 0 0x2000 5).d.StrayRoute 0 :=
  ⟨by decide +kernel, by decide +kernel, by decide +kernel⟩

theorem floodRaised_inFlight : ((List.range 256).filter fun p => 0 < floodRaised.d.inFlight p) = [0] := by decide +kernel

theorem floodRaised_armed : 2046 ≤ (floodRaised.d.ctrs.filter fun c => c.2.arm.isSome).length := by
  have hctrs : floodRaised.d.ctrs = armedCtrs 2046 := by decide +kernel
  rw [hctrs, armedCtrs_armed]

theorem floodSample_raises : (Run.start floodState).speedSample floodSample.toList = floodRaised.excursion 0 1251 := by
  have hfirst : floodSample.toList.findIdx (· == 1251) = 0 := by decide +kernel
  rw [Run.speedSample_long _ _ (by decide +kernel) (by decide +kernel) (by decide +kernel) (by rw [floodSample_max]; decide), floodSample_max,
    hfirst, if_pos (by decide), floodRaised]

/-- The excursion's record raises the error event of partition 0 again and again, until the ring holds no other record. -/
theorem floodSample_floods : ((Run.start floodState).speedSample floodSample.toList).cur.dev.NoSpeed 4096 := by
  rw [floodSample_raises]
  exact floodRaised.excursion_flood 0 1251 0 floodRaised_inFlight floodRaised_strayRoute (by decide +kernel) floodRaised_armed

theorem floodSample_calm : ((Run.start floodState).speedSample floodSample.toList).d.Calm :=
  Run.speedSample_calm _ _ (by decide +kernel) (by decide +kernel) (by decide +kernel) (by rw [floodSample_max]; decide) (by decide +kernel)
    floodState_quiet.calm

end Sys2Proof.Machine

open Sys2Proof Sys2Proof.Machine

/-- Refutes O8: a step above 1.25 ns is an excursion too. Where the error events of a partition with a request in flight go to a counter that
is not its own, the excursion's record raises an event that cannot be raised, which is recorded in turn (R350), as often as `Run.act` has
fuel for: with 2,046 counters armed 4,096 times, and the ring of 4,096 has lost the SPEED record. -/
theorem not_slowMonitorRaisesVoltage : ¬ Obligations.SlowMonitorRaisesVoltage := by
  intro h
  have hanswers := h floodSample floodState floodState_quiet (by decide +kernel) (by decide +kernel)
    (by decide +kernel) (by decide +kernel) (by rw [floodSample_max]; decide) (by decide +kernel)
  obtain ⟨-, -, -, -, ⟨e, he, hkind, -⟩, -⟩ := hanswers.of_exec_close (exec_speedMonitorSample floodSample floodState) floodSample_calm
  exact floodSample_floods.none e he hkind
end

section
/-! PROOFS. Dictionary sessions: a WRITE of a session that may make it is performed and answered. -/
namespace Sys2Proof.Machine

/-- The bytes of a number spell it. -/
theorem leNat_leBytes (n v : Nat) : leNat (leBytes n v) = v % 256 ^ n := by
  induction n generalizing v with
  | zero => simp [leBytes, leNat, Nat.mod_one]
  | succ n ih =>
    rw [leBytes, leNat, ih, Nat.pow_succ', Nat.mod_mul, BitVec.toNat_ofNat]

@[simp] theorem length_leBytes (n v : Nat) : (leBytes n v).length = n := by
  induction n generalizing v with
  | zero => rfl
  | succ n ih => simp [leBytes, ih]

/-- A row whose object takes the value `v` by a WRITE of a session. -/
def ORow.takes (o : ORow) (v : Nat) : Bool :=
  bit o.acc 1 && !o.text && !bit o.acc 3 && o.min_ ≤ v && v ≤ o.max_ && v < 256 ^ o.bytes

/-- `b` is `a` but for sessions, mailboxes, message vectors, and what was sent. -/
structure AtDesk (a b : State) : Prop where
  dev : ∃ ss fs ms rs, b.dev = { a.dev with ses := ss, fns := fs, msix := ms, reports := rs }
  bytes : SameBytes a b
  out : Grows a b

theorem AtDesk.refl (a : State) : AtDesk a a := ⟨⟨a.dev.ses, a.dev.fns, a.dev.msix, a.dev.reports, rfl⟩, .refl a, .refl a⟩

theorem AtDesk.trans {a b c : State} (h : AtDesk a b) (k : AtDesk b c) : AtDesk a c where
  dev := by
    obtain ⟨_, _, _, _, e⟩ := h.dev
    obtain ⟨_, _, _, _, f⟩ := k.dev
    exact ⟨_, _, _, _, by rw [f, e]⟩
  bytes := h.bytes.trans k.bytes
  out := h.out.trans k.out

theorem AtDesk.calm {a b : State} (h : AtDesk a b) (q : a.dev.Calm) : b.dev.Calm := by
  obtain ⟨_, _, _, _, e⟩ := h.dev
  rw [e]
  exact q.of_waiting rfl

theorem AtDesk.o {a b : State} (h : AtDesk a b) (i x u : Nat) : b.dev.o i x u = a.dev.o i x u := by
  obtain ⟨_, _, _, _, e⟩ := h.dev
  rw [e]; rfl

section
variable {s₀ : State}

theorem Run.updSes_atDesk (r : Run s₀) (ses : Nat) (f : Ses → Ses) : AtDesk r.cur (r.updSes ses f).cur :=
  ⟨⟨_, _, _, _, rfl⟩, r.mod_sameBytes _, .of_eq rfl⟩

theorem Run.mod_fns_atDesk (r : Run s₀) (f : Dev → Tab Fn) : AtDesk r.cur (r.mod fun d => { d with fns := f d }).cur :=
  ⟨⟨_, _, _, _, rfl⟩, r.mod_sameBytes _, .of_eq rfl⟩

theorem Run.emit_atDesk (r : Run s₀) (o : Out) : AtDesk r.cur (r.emit o).cur :=
  ⟨⟨_, _, _, _, rfl⟩, r.emit_sameBytes o, [o], rfl⟩

theorem Run.msixRaise_atDesk (r : Run s₀) (v : Nat) : AtDesk r.cur (r.msixRaise v).cur := by
  unfold Run.msixRaise
  split
  · split
    · exact .refl _
    · exact r.emit_atDesk _
  all_goals exact ⟨⟨_, _, _, _, rfl⟩, r.mod_sameBytes _, .of_eq rfl⟩

/-- An answer changes its function's mailbox and vectors, and is sent. -/
theorem Run.nyAnswer_atDesk (r : Run s₀) (ses : Nat) (q : NReq) (st : Status) (reason : Nat) (data : List Byte) :
    AtDesk r.cur (r.nyAnswer ses q st reason data).cur := by
  unfold Run.nyAnswer
  dsimp only
  split
  · have h := (r.mod_fns_atDesk fun d => d.fns.set ses { r.d.fns.getD ses {} with
      mbxRsp := nyMsg q st reason data, mbxState := 2, mbxCount := ((r.d.fns.getD ses {}).mbxCount + 1) % 2 ^ 32 }).trans
      (Run.emit_atDesk _ (.mailbox ses (nyMsg q st reason data)))
    split
    · exact h.trans (Run.msixRaise_atDesk ..)
    · exact h
  · split
    · exact r.emit_atDesk _
    · split
      · exact r.emit_atDesk _
      · exact .refl _

theorem Run.each_atDesk {α : Type} (r : Run s₀) (xs : List α) (f : Run s₀ → α → Run s₀) (h : ∀ r x, AtDesk r.cur (f r x).cur) :
    AtDesk r.cur (r.each xs f).cur := Run.each_rel AtDesk .refl (fun _ _ _ => .trans) r xs f h

theorem Run.nyFlush_atDesk (r : Run s₀) (ses : Nat) (st : Status) (reason : Nat) : AtDesk r.cur (r.nyFlush ses st reason).cur :=
  (r.updSes_atDesk ses _).trans (Run.each_atDesk _ _ _ fun r _ => r.nyAnswer_atDesk ..)

/-- The end of every session is a matter of the desk (R451). -/
theorem Run.nyBusyAll_atDesk (r : Run s₀) : AtDesk r.cur r.nyBusyAll.cur :=
  (r.each_atDesk _ _ fun r _ => r.nyFlush_atDesk ..).trans ⟨⟨_, _, _, _, rfl⟩, Run.mod_sameBytes .., .of_eq rfl⟩

/-- The answer of a session goes where `Dev.sessionAnswer` says. -/
theorem Run.nyAnswer_sends (r : Run s₀) (ses : Session) (q : NReq) (st : Status) (reason : Nat) (data : List Byte) :
    Sends s₀ (r.nyAnswer (sesNum ses) q st reason data).cur (r.d.sessionAnswer (sesNum ses) (nyMsg q st reason data)) := by
  unfold Run.nyAnswer Dev.sessionAnswer
  dsimp only
  by_cases h64 : sesNum ses ≤ 64
  · rw [if_pos h64, if_pos h64]
    split
    · exact (Sends.emit _ _).grow (Run.msixRaise_atDesk ..).out
    · exact Sends.emit _ _
  · rw [if_neg h64, if_neg h64]
    by_cases h80 : sesNum ses ≤ 80
    · rw [if_pos h80, if_pos h80]; exact Sends.emit _ _
    · have h82 : sesNum ses = 82 := by cases ses <;> simp only [sesNum] at h64 h80 ⊢ <;> omega
      rw [if_neg h80, if_neg h80, if_pos (by rw [h82]; rfl)]; exact Sends.emit _ _

/-- A session in which no request is under way. -/
theorem Dev.Desk.idleSession {d : Dev} {ses : Session} {q : NReq} (h : d.Desk ses q) (k : Nat) :
    (d.ses.getD k {}).busy = none ∧ (d.ses.getD k {}).queue = [] := by
  rcases Tab.getD_mem d.ses k {} with e | ⟨x, hx, e⟩
  · rw [e]; exact ⟨rfl, rfl⟩
  · rw [← e]; exact h.free x hx

theorem Dev.Desk.phase {d : Dev} {ses : Session} {q : NReq} (h : d.Desk ses q) : d.phase = 7 := beq_iff_eq.1 h.ready

/-- In READY, while nothing drains, the dictionary is open (R420, R451). -/
theorem Dev.Desk.open_ {d : Dev} {ses : Session} {q : NReq} (h : d.Desk ses q) (k : Nat) : d.nyClosed k q = false := by
  simp [Dev.nyClosed, h.work, h.ready]

/-- A request that the desk takes is tried at once. -/
theorem Run.nyReq_desk (r : Run s₀) (ses : Session) (q : NReq) (x : NyX) (h : r.d.Desk ses q) {goesOn : Bool} {r' : Run s₀}
    (htry : r.nyTry (sesNum ses) q x false = (goesOn, r')) :
    r.nyReq (sesNum ses) q x = if goesOn then r'.nyNext (sesNum ses) 8 else r' := by
  have hlink : ((sesNum ses ≤ 64 || (sesNum ses ≤ 80 && !r.d.sesI3c (sesNum ses))) && !r.d.linkPe) = false := by
    by_cases hses : sesNum ses ≤ 64 ∨ (sesNum ses ≤ 80 ∧ r.d.sesI3c (sesNum ses) = false)
    · rw [h.link hses]; simp
    · have hpcie : (sesNum ses ≤ 64 || (sesNum ses ≤ 80 && !r.d.sesI3c (sesNum ses))) = false := by
        rw [← Bool.not_eq_true]; simpa using hses
      rw [hpcie]; rfl
  have htap : (sesNum ses == 82 && r.d.debug != 1) = false := by
    cases ses with
    | tap => simp [h.tap rfl]
    | vf n => simp [sesNum]; omega
    | mctp n => simp [sesNum]; omega
    | pf => rfl
  unfold Run.nyReq
  dsimp only
  rw [hlink, htap, h.power, h.phase, if_neg (by decide), (h.idleSession _).1, htry]
  cases goesOn <;> rfl

/-- A WRITE that the session may make and the object's row takes comes to the object's own rule (Table 19-4). -/
theorem Run.nyDo_write (r : Run s₀) (ses : Session) (idx sub v : Nat) (x : NyX) (h : r.d.Desk ses (wr idx sub v))
    (ht : (oRow? idx sub).any (·.takes v) = true) (hs : isSelect idx sub = false) :
    r.nyDo (sesNum ses) (wr idx sub v) x false = r.oWrite (sesNum ses) (r.d.instOf (sesNum ses) idx) idx sub v x false := by
  obtain ⟨o, ho, ht⟩ := Option.any_eq_true _ _ |>.1 ht
  simp only [ORow.takes, Bool.and_eq_true, Bool.not_eq_true', decide_eq_true_eq] at ht
  obtain ⟨⟨⟨⟨⟨hwrite, htext⟩, himage⟩, hmin⟩, hmax⟩, hbytes⟩ := ht
  have hdata : (wr idx sub v).data = leBytes o.bytes v := by simp [wr, ho]
  have hlen : (wr idx sub v).length = o.bytes := by simp [wr, ho]
  have hval : leNat (leBytes o.bytes v) = v := by rw [leNat_leBytes, Nat.mod_eq_of_lt hbytes]
  have hinst : instFits idx (r.d.instOf (sesNum ses) idx) = true := h.inst
  have hright : r.d.nyDenied (sesNum ses) (wr idx sub v) (some o) = false := ho ▸ h.right
  unfold Run.nyDo
  dsimp only
  rw [h.open_, show oRow? (wr idx sub v).index (wr idx sub v).sub = some o from ho, hright, if_neg (by simp [wr]), if_neg (by simp),
    if_neg (by simp)]
  dsimp only
  rw [if_neg (by simp [wr]), if_neg (by simp [wr]), if_neg (by simp [hwrite, htext, himage])]
  unfold Run.nyWrite
  dsimp only
  rw [hdata, hlen, hval, if_neg (by simp [wr]), show isSelect (wr idx sub v).index (wr idx sub v).sub = false from hs, if_neg (by simp),
    if_neg (by simpa [wr] using hinst), if_neg (by simp; omega)]
  rfl

theorem Run.msixRaise_ses (r : Run s₀) (v : Nat) : (r.msixRaise v).d.ses = r.d.ses := by
  unfold Run.msixRaise
  split
  · split <;> rfl
  · rfl
  · rfl

theorem Run.nyAnswer_ses (r : Run s₀) (ses : Nat) (q : NReq) (st : Status) (reason : Nat) (data : List Byte) :
    (r.nyAnswer ses q st reason data).d.ses = r.d.ses := by
  unfold Run.nyAnswer
  dsimp only
  split
  · split
    · exact (Run.msixRaise_ses ..).trans rfl
    · rfl
  · split
    · rfl
    · split <;> rfl

/-- A request of a session is answered `OK`. -/
def Run.nyDone (r : Run s₀) (ses : Nat) (q : NReq) : Run s₀ :=
  (r.updSes ses fun y => { y with busy := none }).nyAnswer ses q .ok 0 []

theorem Run.nyDone_atDesk (r : Run s₀) (ses : Nat) (q : NReq) : AtDesk r.cur (r.nyDone ses q).cur :=
  (r.updSes_atDesk ..).trans (Run.nyAnswer_atDesk ..)

/-- The answer goes where `Dev.sessionAnswer` of a state says whose endpoints are the same. -/
theorem Run.nyDone_sends (r : Run s₀) (ses : Session) (q : NReq) {d : Dev} (he : r.d.eids = d.eids) (ho : r.d.o 0 0x1000 2 = d.o 0 0x1000 2) :
    Sends s₀ (r.nyDone (sesNum ses) q).cur (d.sessionAnswer (sesNum ses) (nyMsg q .ok 0 [])) := by
  have hans : (r.updSes (sesNum ses) fun y => { y with busy := none }).d.sessionAnswer (sesNum ses) (nyMsg q .ok 0 [])
      = d.sessionAnswer (sesNum ses) (nyMsg q .ok 0 []) := by
    have ho' : (r.updSes (sesNum ses) fun y => { y with busy := none }).d.o 0 0x1000 2 = d.o 0 0x1000 2 := ho
    have he' : (r.updSes (sesNum ses) fun y => { y with busy := none }).d.eids = d.eids := he
    unfold Dev.sessionAnswer
    rw [ho', he']
  exact hans ▸ Run.nyAnswer_sends ..

/-- With an empty queue nothing is held behind the request. -/
theorem Run.nyNext_nil (r : Run s₀) (ses n : Nat) (h : (r.d.ses.getD ses {}).queue = []) : r.nyNext ses n = r := by
  cases n with
  | zero => rfl
  | succ n => unfold Run.nyNext; rw [h]

section
variable (r : Run s₀) (ses : Session) (idx sub v : Nat) (x : NyX) (h : r.d.Desk ses (wr idx sub v))
  (ht : (oRow? idx sub).any (·.takes v) = true) (hs : isSelect idx sub = false) {r' : Run s₀}
  (hw : r.oWrite (sesNum ses) (r.d.instOf (sesNum ses) idx) idx sub v x false = (.done .ok 0 [], r'))
include h ht hs hw

/-- A WRITE that its object's rule performs is answered, and no more follows, but for a reset of the device. -/
theorem Run.nyReq_write (hn : (idx == 0x6F00 && sub == 1) = false) (hses : r'.d.ses = r.d.ses) :
    r.nyReq (sesNum ses) (wr idx sub v) x = r'.nyDone (sesNum ses) (wr idx sub v) := by
  have hno : ((wr idx sub v).opc == 2 && (wr idx sub v).index == 0x6F00 && (wr idx sub v).sub == 1 && Status.ok == Status.ok) = false := by
    simpa [wr] using hn
  have htry : r.nyTry (sesNum ses) (wr idx sub v) x false = (true, r'.nyDone (sesNum ses) (wr idx sub v)) := by
    unfold Run.nyTry
    rw [r.nyDo_write ses idx sub v x h ht hs, hw]
    dsimp only
    rw [hno]
    rfl
  rw [r.nyReq_desk ses _ x h htry, if_pos rfl]
  refine Run.nyNext_nil _ _ _ ?_
  rw [Run.nyDone, Run.nyAnswer_ses]
  show ((r'.d.ses.set (sesNum ses) _).getD (sesNum ses) {}).queue = []
  rw [Tab.getD_set_self, hses]
  exact (h.idleSession _).2

end

theorem wr_reset_value {v : Nat} (hv : v < 256) : leNat (wr 0x6F00 1 v).data = v := by
  have hbytes : (oRow? 0x6F00 1).map ORow.bytes = some 1 := by decide +kernel
  obtain ⟨o, ho, hb⟩ := Option.map_eq_some_iff.1 hbytes
  simp only [wr, ho, hb, leNat_leBytes, Nat.pow_one]
  exact Nat.mod_eq_of_lt hv

/-- A WRITE of 0x6F00:01 is answered before the reset that it starts (R451). -/
theorem Run.nyReq_reset (r : Run s₀) (ses : Session) (v : Nat) (x : NyX) (h : r.d.Desk ses (wr 0x6F00 1 v))
    (ht : (oRow? 0x6F00 1).any (·.takes v) = true) (hv : v < 256) :
    r.nyReq (sesNum ses) (wr 0x6F00 1 v) x = (r.nyDone (sesNum ses) (wr 0x6F00 1 v)).deviceReset v x.boot := by
  have hw : r.oWrite (sesNum ses) (r.d.instOf (sesNum ses) 0x6F00) 0x6F00 1 v x false = (.done .ok 0 [], r) := rfl
  have htry : r.nyTry (sesNum ses) (wr 0x6F00 1 v) x false = (false, (r.nyDone (sesNum ses) (wr 0x6F00 1 v)).deviceReset v x.boot) := by
    unfold Run.nyTry
    rw [r.nyDo_write ses 0x6F00 1 v x h ht (by decide), hw]
    dsimp only
    rw [wr_reset_value hv, if_pos (by simp [wr])]
    rfl
  rw [r.nyReq_desk ses _ x h htry, if_neg (by decide)]

end

end Sys2Proof.Machine
end

section
/-! PROOFS. Resets of the device: the start of a warm reset in READY (R352), and a cold reset (R419, R474). -/
namespace Sys2Proof.Machine

section
variable {s₀ : State}

/-! ### The start of a warm reset -/

/-- Stopping chains changes the pairs alone. -/
theorem Run.stopChains_cur (r : Run s₀) (ns_ : List Nat) :
    ∃ p, (r.stopChains ns_).cur = { r.cur with dev := { r.cur.dev with pairs := p } } := by
  unfold Run.stopChains
  induction ns_ generalizing r with
  | nil => exact ⟨r.cur.dev.pairs, rfl⟩
  | cons n ns_ ih =>
    rw [Run.each_cons]
    obtain ⟨p, h⟩ := ih (r.updPair n fun p => { p with chain := p.chain.map fun c => { c with ended := true } })
    exact ⟨p, h⟩

/-- What begins a drain in a device without relief and combining entries and without a twin: the sessions end, the chains stop. -/
structure Drains (a b : State) : Prop where
  dev : ∃ ss fs ms rs ps, b.dev = { a.dev with
    ses := ss, fns := fs, msix := ms, reports := rs, pairs := ps
    bring := { a.dev.bring with upAt := a.dev.now, draining := true } }
  bytes : SameBytes a b
  out : Grows a b

/-- A warm reset that READY begins (R352 steps 1 and 2). -/
theorem Run.warmStart_drains (r : Run s₀) (hp : r.d.pins.pwrgood = true) (hw : r.d.bring.draining = false) (hph : r.d.phase = 7)
    (hr : r.d.relief = []) (hc : r.d.comb = []) (ht : r.d.pointing = false) : Drains r.cur r.warmStart.cur := by
  obtain ⟨⟨ss, fs, ms, rs, hdev⟩, hbytes, hout⟩ := r.nyBusyAll_atDesk
  unfold Run.warmStart
  dsimp only
  rw [hp, hw, hph, if_neg (by decide), if_neg (by decide)]
  generalize r.nyBusyAll = r₁ at hdev hbytes hout
  generalize hr₂ : (r₁.mod fun d => { d with bring := { d.bring with upAt := d.now } }).mod _ = r₂
  have hdev₂ : r₂.cur.dev = { r.cur.dev with
      ses := ss, fns := fs, msix := ms, reports := rs
      bring := { r.cur.dev.bring with upAt := r.cur.dev.now, draining := true } } := by
    rw [← hr₂, Run.mod_dev, Run.mod_dev, hdev]
  have hpoint : r₂.d.pointing = false := by rw [Run.d, hdev₂]; exact ht
  rw [hpoint, if_neg (by decide)]
  obtain ⟨p, hstop⟩ := r₂.stopChains_cur (r₂.d.pairs.map Prod.fst)
  generalize r₂.stopChains _ = r₃ at hstop
  have hrelief : r₃.d.relief = [] := by rw [Run.d, hstop, hdev₂]; exact hr
  rw [hrelief, List.map_nil, Run.each_nil]
  have hcomb : r₃.d.comb = [] := by rw [Run.d, hstop, hdev₂]; exact hc
  rw [hcomb, List.map_nil, Run.each_nil, hstop, hdev₂]
  subst hr₂
  exact ⟨⟨_, _, _, _, _, rfl⟩, ⟨hbytes.mem, hbytes.flash, hbytes.copy, hbytes.bad, hbytes.fbad, hbytes.cbad⟩, hout⟩

/-! ### A cold reset -/

/-- Which firmware copies pass depends on the fused version alone. -/
theorem Dev.copyOk_congr {d e : Dev} (h : d.svn = e.svn) (c : List Byte) : d.copyOk c = e.copyOk c := by
  unfold Dev.copyOk Dev.fusedSvn
  rw [h]

/-- What a cold reset leaves: nothing in the granule table, nothing that waits, no byte of the store, the fused version, all that was sent. -/
structure ColdCleared (a b : State) : Prop where
  gran : b.dev.gran = []
  calm : b.dev.Calm
  svn : b.dev.svn = a.dev.svn
  mem : ∀ x, x < 2 ^ 64 → Mem.get b.mem x = 0
  out : Grows a b

theorem Dev.cold_calm (d : Dev) : d.cold.Calm :=
  ⟨rfl, rfl, by simp [Dev.cold], rfl, rfl, rfl, by simp [Dev.cold], rfl, rfl⟩

theorem Dev.Calm.bringup {d : Dev} (q : d.Calm) {ob : Tab Nat} {br : Bring} {ms : Tab (BitVec 512)} {ch : BitVec 64} :
    ({ d with obj := ob, bring := br, meas := ms, chal := ch } : Dev).Calm :=
  q.of_waiting rfl

/-- `b` is `a` but for objects, the bring-up, measurements and what was sent. -/
structure OnlyBringup (a b : State) : Prop where
  dev : ∃ ob br ms, b.dev = { a.dev with obj := ob, bring := br, meas := ms }
  bytes : SameBytes a b
  out : Grows a b

theorem OnlyBringup.refl (a : State) : OnlyBringup a a := ⟨⟨a.dev.obj, a.dev.bring, a.dev.meas, rfl⟩, .refl a, .refl a⟩

theorem OnlyBringup.trans {a b c : State} (h : OnlyBringup a b) (k : OnlyBringup b c) : OnlyBringup a c where
  dev := by
    obtain ⟨_, _, _, e⟩ := h.dev
    obtain ⟨_, _, _, f⟩ := k.dev
    exact ⟨_, _, _, by rw [f, e]⟩
  bytes := h.bytes.trans k.bytes
  out := h.out.trans k.out

theorem ColdCleared.bringup {a b c : State} (h : ColdCleared a b) (k : OnlyBringup b c) : ColdCleared a c where
  gran := by obtain ⟨_, _, _, e⟩ := k.dev; rw [e]; exact h.gran
  calm := by
    obtain ⟨_, _, _, e⟩ := k.dev
    rw [e]
    exact h.calm.bringup
  svn := by obtain ⟨_, _, _, e⟩ := k.dev; rw [e]; exact h.svn
  mem := fun x hx => k.bytes.mem ▸ h.mem x hx
  out := h.out.trans k.out

theorem Run.emit_onlyBringup (r : Run s₀) (o : Out) : OnlyBringup r.cur (r.emit o).cur :=
  ⟨⟨r.cur.dev.obj, r.cur.dev.bring, r.cur.dev.meas, rfl⟩, r.emit_sameBytes o, [o], rfl⟩

theorem Run.coldClear_cleared (r : Run s₀) : ColdCleared r.cur r.coldClear.cur := by
  unfold Run.coldClear
  dsimp only
  have hsvn : r.nyBusyAll.cur.dev.svn = r.cur.dev.svn := by
    obtain ⟨_, _, _, _, e⟩ := r.nyBusyAll_atDesk.dev
    rw [e]
  have h : ColdCleared r.cur (((r.nyBusyAll.clear .mem 0 (2 ^ 64)).clear .copy 0 (2 ^ 64)).mod Dev.cold).cur :=
    ⟨rfl, Dev.cold_calm _, hsvn, fun x hx => (Mem.get_clear ..).trans (if_pos ⟨Nat.zero_le x, hx⟩), r.nyBusyAll_atDesk.out⟩
  split
  · exact h.bringup (Run.emit_onlyBringup ..)
  · exact h

theorem Run.setO_onlyBringup (r : Run s₀) (i x u v : Nat) : OnlyBringup r.cur (r.setO i x u v).cur :=
  ⟨⟨_, r.cur.dev.bring, r.cur.dev.meas, rfl⟩, r.setO_sameBytes .., .of_eq rfl⟩

theorem Run.mod_bring_onlyBringup (r : Run s₀) (f : Dev → Bring) : OnlyBringup r.cur (r.mod fun d => { d with bring := f d }).cur :=
  ⟨⟨r.cur.dev.obj, _, r.cur.dev.meas, rfl⟩, r.mod_sameBytes _, .of_eq rfl⟩

theorem Run.reportRec_onlyBringup (r : Run s₀) (kind phase unit result loc d0 d1 : Nat) :
    OnlyBringup r.cur (r.reportRec kind phase unit result loc d0 d1).cur := by
  unfold Run.reportRec
  split
  · exact .refl _
  · exact r.mod_bring_onlyBringup fun d => { d.bring with report := d.bring.report ++ [_] }

theorem Run.reportRec_obj (r : Run s₀) (kind phase unit result loc d0 d1 : Nat) :
    (r.reportRec kind phase unit result loc d0 d1).cur.dev.obj = r.cur.dev.obj := by
  unfold Run.reportRec
  split <;> rfl

/-- Bring-up fails: the phase shows it (R422), of the same kind of bring-up. -/
theorem Run.bringFail_effect (r : Run s₀) (phase cause : Nat) : OnlyBringup r.cur (r.bringFail phase cause).cur
    ∧ (r.bringFail phase cause).cur.dev.phase = 0x80 + phase ∧ (r.bringFail phase cause).cur.dev.o 0 0x1020 2 = r.cur.dev.o 0 0x1020 2 := by
  unfold Run.bringFail
  dsimp only
  generalize hr₁ : ((r.setO 0 0x1020 1 (0x80 + phase)).setO 0 0x1020 5 cause).setO 0 0x1020 3 r.d.upMs = r₁
  generalize hr₂ : r₁.setO 0 0x1020 9 r₁.d.waitMs = r₂
  have hset : OnlyBringup r.cur r₂.cur := by
    subst hr₁ hr₂
    exact (((r.setO_onlyBringup ..).trans (Run.setO_onlyBringup ..)).trans (Run.setO_onlyBringup ..)).trans (Run.setO_onlyBringup ..)
  have hobj : ∀ (f : Dev → Bring), (((r₂.reportRec 5 phase 5 3 0 cause 0).emit .ibi).mod fun d => { d with bring := f d }).cur.dev.obj
      = r₂.cur.dev.obj := fun f => r₂.reportRec_obj ..
  have hphase : r₂.cur.dev.phase = 0x80 + phase := by
    subst hr₁ hr₂
    simp [Dev.phase, Dev.o_eq, objGet_set, okey]
  have hkind : r₂.cur.dev.o 0 0x1020 2 = r.cur.dev.o 0 0x1020 2 := by
    subst hr₁ hr₂
    simp [Dev.o_eq, objGet_set, okey]
  refine ⟨hset.trans ?_, (Dev.o_congr (hobj _) ..).trans hphase, (Dev.o_congr (hobj _) ..).trans hkind⟩
  exact ((Run.reportRec_onlyBringup ..).trans (Run.emit_onlyBringup ..)).trans (Run.mod_bring_onlyBringup _ fun d => _)

/-- A bring-up begins in phase 1 (R419), from the boot flash that it finds. -/
theorem Run.bringBegin_effect (r : Run s₀) (kind : Nat) : OnlyBringup r.cur (r.bringBegin kind).cur
    ∧ (r.bringBegin kind).cur.dev.phase = 1 ∧ (r.bringBegin kind).cur.dev.o 0 0x1020 2 = kind
    ∧ (r.bringBegin kind).cur.dev.bring.boot = r.cur.dev.bring.boot := by
  refine ⟨?_, ?_, ?_, rfl⟩
  · exact ((((r.setO_onlyBringup ..).trans (Run.setO_onlyBringup ..)).trans (Run.setO_onlyBringup ..)).trans (Run.setO_onlyBringup ..)).trans
      (Run.mod_bring_onlyBringup _ fun d => _)
  · simp [Run.bringBegin, Dev.phase, Dev.o_eq, objGet_set, okey]
  · simp [Run.bringBegin, Dev.o_eq, objGet_set, okey]

/-- The boot ROM starts from a copy that passes (R454), or bring-up fails in phase 1. -/
theorem Run.bootRom_effect (r : Run s₀) : OnlyBringup r.cur r.bootRom.cur
    ∧ r.bootRom.cur.dev.phase = (if r.d.copyOk r.d.bring.boot.copyA || r.d.copyOk r.d.bring.boot.copyB then r.cur.dev.phase else 0x81)
    ∧ r.bootRom.cur.dev.o 0 0x1020 2 = r.cur.dev.o 0 0x1020 2 := by
  unfold Run.bootRom
  dsimp only
  split
  · rename_i c hc
    have hok : (r.d.copyOk r.d.bring.boot.copyA || r.d.copyOk r.d.bring.boot.copyB) = true := by
      have hmem := List.mem_of_find?_eq_some hc
      have hpass := List.find?_some hc
      simp only [List.mem_cons, List.not_mem_nil, or_false] at hmem
      rcases hmem with rfl | rfl <;> simp [hpass]
    rw [if_pos hok]
    exact ⟨⟨⟨r.cur.dev.obj, _, _, rfl⟩, r.mod_sameBytes _, .of_eq rfl⟩, rfl, rfl⟩
  · rename_i hc
    have hbad : (r.d.copyOk r.d.bring.boot.copyA || r.d.copyOk r.d.bring.boot.copyB) = false := by simpa using hc
    rw [hbad, if_neg (by decide)]
    exact r.bringFail_effect 1 1

/-- A cold reset with what the board wrote into the boot flash (R419, R454, R456). -/
theorem Run.coldReset_effect (r : Run s₀) (b : BootFlash) : ColdCleared r.cur (r.coldReset (some b)).cur
    ∧ (r.coldReset (some b)).cur.dev.phase = (if r.d.copyOk b.copyA || r.d.copyOk b.copyB then 1 else 0x81)
    ∧ (r.coldReset (some b)).cur.dev.o 0 0x1020 2 = 0 := by
  unfold Run.coldReset
  dsimp only
  generalize hr₂ : r.coldClear.draw.2.mod _ = r₂
  have hclear : ColdCleared r.cur r₂.cur := by
    subst hr₂
    exact ⟨r.coldClear_cleared.gran, r.coldClear_cleared.calm.bringup, r.coldClear_cleared.svn, r.coldClear_cleared.mem, r.coldClear_cleared.out⟩
  have hboot : r₂.cur.dev.bring.boot = b := by subst hr₂; rfl
  obtain ⟨hbegin, hphase, hkind, hkeep⟩ := r₂.bringBegin_effect 0
  obtain ⟨hrom, hphase', hkind'⟩ := (r₂.bringBegin 0).bootRom_effect
  have hcopy : ∀ c, (r₂.bringBegin 0).d.copyOk c = r.d.copyOk c := Dev.copyOk_congr (hclear.bringup hbegin).svn
  refine ⟨(hclear.bringup hbegin).bringup hrom, ?_, hkind'.trans hkind⟩
  rw [hphase', hkeep, hboot, hcopy, hcopy, hphase]

end

/-! ### The commands -/

theorem exec_deviceResetWarm (ses : Session) (s : State) :
    exec (.deviceResetWarm ses) s = (Run.start s).session ses (wr 0x6F00 1 1) := rfl

theorem exec_deviceResetCold (ses : Session) (boot : Option BootFlash) (s : State) :
    exec (.deviceResetCold ses boot) s = (Run.start s).session ses (wr 0x6F00 1 2) { boot := boot } := rfl

/-- A warm reset asked for at the desk is answered, and then the drain begins (R352). -/
theorem deviceResetWarm_answers (ses : Session) (s : State) (h : s.dev.Desk ses (wr 0x6F00 1 1)) (hc : s.dev.comb = [])
    (hp : s.dev.pointing = false) :
    Answers (.deviceResetWarm ses) s fun t => Replied s t ses (wr 0x6F00 1 1) ∧ t.dev.bring.draining = true ∧ t.dev.noAdmit = true
      ∧ t.dev.bring.upAt = s.dev.now ∧ t.dev.phase = 7 ∧ SameBytes s t := by
  have hreq := (Run.start s).nyReq_reset ses 1 {} h (by decide +kernel) (by decide)
  have hdesk := (Run.start s).nyDone_atDesk (sesNum ses) (wr 0x6F00 1 1)
  have hsent := (Run.start s).nyDone_sends ses (wr 0x6F00 1 1) (d := s.dev) rfl rfl
  have hexec : exec (.deviceResetWarm ses) s = ((Run.start s).nyDone (sesNum ses) (wr 0x6F00 1 1)).warmStart.requestDone := by
    rw [exec_deviceResetWarm, Run.session, hreq]
    rfl
  generalize (Run.start s).nyDone (sesNum ses) (wr 0x6F00 1 1) = r at hdesk hsent hexec
  obtain ⟨ss, fs, ms, rs, hdev⟩ := hdesk.dev
  have hpoint : r.d.pointing = false := by rw [Run.d, hdev]; exact hp
  have hcomb : r.d.comb = [] := by rw [Run.d, hdev]; exact hc
  have hrelief : r.d.relief = [] := by rw [Run.d, hdev]; exact h.relief
  have hphase : r.d.phase = 7 := (hdesk.o ..).trans h.phase
  have hpower : r.d.pins.pwrgood = true := by rw [Run.d, hdev]; exact h.power
  have hwork : r.d.bring.draining = false := by rw [Run.d, hdev]; exact h.work
  obtain ⟨⟨ss', fs', ms', rs', ps, hdrain⟩, hbytes, hout⟩ := r.warmStart_drains hpower hwork hphase hrelief hcomb hpoint
  have hq : r.warmStart.d.Calm := by
    have q := hdesk.calm h.calm
    rw [Run.d, hdrain]
    exact q.of_waiting rfl
  refine Answers.of_requestDone _ hexec hq ⟨hsent.grow hout, ?_, ?_, ?_, ?_, hdesk.bytes.trans hbytes⟩
  · rw [hdrain]
  · rw [hdrain]; rfl
  · rw [hdrain, hdev]; rfl
  · rw [hdrain]; exact hphase

/-- A cold reset asked for at the desk is answered, and then begins (R419). -/
theorem deviceResetCold_answers (ses : Session) (b : BootFlash) (s : State) (h : s.dev.Desk ses (wr 0x6F00 1 2)) :
    Answers (.deviceResetCold ses (some b)) s fun t => Replied s t ses (wr 0x6F00 1 2)
      ∧ t.dev.phase = (if s.dev.copyOk b.copyA || s.dev.copyOk b.copyB then 1 else 0x81) ∧ t.dev.o 0 0x1020 2 = 0 ∧ t.dev.gran = []
      ∧ ∀ a, a < 2 ^ 64 → Mem.get t.mem a = 0 := by
  have hreq := (Run.start s).nyReq_reset ses 2 { boot := some b } h (by decide +kernel) (by decide)
  have hdesk := (Run.start s).nyDone_atDesk (sesNum ses) (wr 0x6F00 1 2)
  have hsent := (Run.start s).nyDone_sends ses (wr 0x6F00 1 2) (d := s.dev) rfl rfl
  have hexec : exec (.deviceResetCold ses (some b)) s
      = (((Run.start s).nyDone (sesNum ses) (wr 0x6F00 1 2)).coldReset (some b)).requestDone := by
    rw [exec_deviceResetCold, Run.session, hreq]
    rfl
  generalize (Run.start s).nyDone (sesNum ses) (wr 0x6F00 1 2) = r at hdesk hsent hexec
  have hcopy : ∀ c, r.d.copyOk c = s.dev.copyOk c := Dev.copyOk_congr (by obtain ⟨_, _, _, _, e⟩ := hdesk.dev; rw [Run.d, e]; rfl)
  obtain ⟨hcold, hphase, hkind⟩ := r.coldReset_effect b
  rw [hcopy, hcopy] at hphase
  exact Answers.of_requestDone _ hexec hcold.calm ⟨hsent.grow hcold.out, hphase, hkind, hcold.gran, hcold.mem⟩

end Sys2Proof.Machine
end

section
/-! PROOFS. The reset of a port with nothing under way (R20, R356). -/
namespace Sys2Proof.Machine

section
variable {s₀ : State}

/-- Where no credit is held none is cancelled. -/
theorem Run.cancelCredits_nil (r : Run s₀) (f : Credit → Bool) (h : r.d.credits = []) : r.cancelCredits f = r := by
  unfold Run.cancelCredits
  dsimp only
  rw [h]
  refine Run.mod_id _ _ ?_
  have hharts : ∀ x : Nat × Hart,
      (x.1, if (x.2.credit.map ([] : List Nat).contains).getD false then { x.2 with credit := none } else x.2) = x := by
    rintro ⟨k, x⟩
    cases x.credit <;> simp
  exact congrArg (fun hs => ({ r.cur.dev with harts := hs } : Dev)) (List.map_id'' hharts r.cur.dev.harts)

/-- Nothing of the port is under way (R356). -/
structure Dev.PortIdle (d : Dev) (p : Nat) : Prop where
  portRst : d.portRst = []
  again : d.again = []
  fents : d.fents = []
  credits : d.credits = []
  jobs : d.jobs = []
  txns : d.txns = []
  origs : d.origs = []
  after : d.after = []
  relief : d.relief = []
  reliefWho : d.reliefWho = []
  castOps : d.castOps = []
  fences : d.fences = []
  role : d.role p ≠ 2
  link : d.o p 0x3040 1 ≠ 2

theorem Dev.PortIdle.portBusy {d : Dev} {p : Nat} (h : d.PortIdle p) : d.portBusy p = false := by
  simp [Dev.portBusy, h.jobs, h.txns, h.origs, h.after, h.relief, h.reliefWho, h.castOps, h.fences]

/-- The device when a port with nothing under way has been cut off. -/
def Dev.portCut (d : Dev) (p : Nat) (role : Option Nat) : Dev := { d with
  portRst := d.portRst.set p role
  transit := d.transit.keep fun _ t => t.port != p
  again := []
  fents := []
  links := d.links.set p { d.links.getD p {} with flitCr := [], reqCr := [] }
  recvs := d.recvs.map fun s => (s.1, { s.2 with held := s.2.held.filter fun h => h.2.1 != p, gap := if s.2.port == p then none else s.2.gap })
  obj := d.obj.set (okey p 0x3020 6) 0 }

theorem Run.portReset_idle (r : Run s₀) (p : Nat) (role : Option Nat) (h : r.d.PortIdle p) :
    (r.portReset p role).cur = { r.cur with dev := r.d.portCut p role } := by
  unfold Run.portReset
  dsimp only
  have hfree : r.d.portRst.has p = false := by rw [h.portRst]; rfl
  rw [hfree, h.again, h.fents, if_neg (by decide), List.flatMap_nil, List.append_nil, List.filter_nil, Run.each_nil]
  generalize hr₁ : r.mod _ = r₁
  have hcredits : r₁.d.credits = [] := hr₁ ▸ h.credits
  rw [r₁.cancelCredits_nil _ hcredits]
  have hrole : (r₁.setO p 0x3020 6 0).d.role p = r.d.role p := by
    subst hr₁
    exact Run.setO_o_ne _ _ _ _ _ _ _ _ (by unfold okey; omega)
  rw [hrole, beq_eq_false_iff_ne.2 h.role, Bool.false_and, if_neg (by decide)]
  subst hr₁
  have hagain : ∀ f, r.cur.dev.again.filter f = [] := fun f => by rw [h.again, List.filter_nil]
  have hfents : ∀ f : Nat × FEnt → Nat × FEnt, r.cur.dev.fents.map f = [] := fun f => by rw [h.fents, List.map_nil]
  simp only [Run.mod, Run.setO, hagain, hfents]
  rfl

/-- The device when the reset of the port is over: it takes its role, without a link. -/
def Dev.portDone (d : Dev) (p role : Nat) : Dev := { d with
  portRst := d.portRst.del p
  egrant := d.egrant.set p (d.o p 0x3030 3)
  obj := (d.obj.set (okey p 0x3010 2) role).set (okey p 0x3030 2) 0 }

theorem Run.portResetEnd_idle (r : Run s₀) (p : Nat) (role : Option Nat) (h : r.d.portRst.get? p = some role) (hb : r.d.portBusy p = false)
    (hr : r.d.role p ≠ 2) (hl : r.d.o p 0x3040 1 ≠ 2) :
    (r.portResetEnd p).cur = { r.cur with dev := r.d.portDone p (role.getD (r.d.role p)) } := by
  unfold Run.portResetEnd
  rw [h]
  dsimp only
  rw [hb, beq_eq_false_iff_ne.2 hr, if_neg (by simp)]
  generalize hr₁ : r.mod _ = r₁
  have hlink : ∀ x, ((r₁.setO p 0x3010 2 x).d.o p 0x3040 1 == 2) = false := fun x => by
    rw [Run.setO_o_ne _ _ _ _ _ _ _ _ (by unfold okey; omega), beq_eq_false_iff_ne]
    exact hr₁ ▸ hl
  have hrole : r₁.d.role p = r.d.role p := hr₁ ▸ rfl
  rw [hlink, hrole, Bool.and_false, if_pos (by rfl)]
  subst hr₁
  rfl

/-- What the reset of a port with nothing under way leaves (R356). -/
structure PortReset (a b : State) (p role : Nat) : Prop where
  portRst : b.dev.portRst = []
  role : b.dev.role p = role
  credits : b.dev.o p 0x3020 6 = 0
  egrant : b.dev.egrant.get? p = some (a.dev.o p 0x3030 3)
  flits : (b.dev.link p).flitCr = []
  heads : (b.dev.link p).reqCr = []
  roleSet : b.dev.o p 0x3010 1 = a.dev.o p 0x3010 1
  vendor : b.dev.o 0 0x1000 2 = a.dev.o 0 0x1000 2
  ses : b.dev.ses = a.dev.ses
  eids : b.dev.eids = a.dev.eids
  bytes : SameBytes a b
  out : b.out = a.out
  calm : a.dev.Calm → b.dev.Calm

/-- The reset of a port with nothing under way begins and ends at once. -/
theorem Run.portReset_done (r : Run s₀) (p : Nat) (role : Option Nat) (h : r.d.PortIdle p) :
    PortReset r.cur ((r.portReset p role).portResetEnd p).cur p (role.getD (r.d.role p)) := by
  have hcut := r.portReset_idle p role h
  generalize r.portReset p role = r₁ at hcut
  have hdev : r₁.d = r.d.portCut p role := congrArg State.dev hcut
  have hbusy : (r.d.portCut p role).portBusy p = false := h.portBusy
  have hget : (r.d.portCut p role).portRst.get? p = some role := Tab.get?_set_self ..
  have ho : ∀ i x u, okey p 0x3020 6 ≠ okey i x u → (r.d.portCut p role).o i x u = r.d.o i x u := fun i x u hne => by
    rw [Dev.o_eq, Dev.o_eq, Dev.portCut, objGet_set, if_neg hne]
  have hrole : (r.d.portCut p role).role p = r.d.role p := ho _ _ _ (by unfold okey; omega)
  have hlink : (r.d.portCut p role).o p 0x3040 1 = r.d.o p 0x3040 1 := ho _ _ _ (by unfold okey; omega)
  rw [← hdev] at hbusy hget hrole hlink ho
  have hend := r₁.portResetEnd_idle p role hget hbusy (hrole ▸ h.role) (hlink ▸ h.link)
  rw [hrole, hdev, hcut] at hend
  rw [hdev] at ho
  generalize role.getD (r.d.role p) = new at hend
  generalize r₁.portResetEnd p = r₂ at hend
  have ho₂ : ∀ i x u, r₂.cur.dev.o i x u = if okey p 0x3030 2 = okey i x u then 0 else if okey p 0x3010 2 = okey i x u then new
      else (r.d.portCut p role).o i x u := fun i x u => by
    rw [hend, Dev.o_eq, Dev.o_eq, Dev.portDone, objGet_set, objGet_set]
  refine ⟨?_, ?_, ?_, ?_, ?_, ?_, ?_, ?_, ?_, ?_, ?_, ?_, ?_⟩
  · rw [hend]
    show (r.d.portRst.set p role).del p = []
    simp [h.portRst, Tab.set, Tab.del]
  · rw [Dev.role, ho₂, if_neg (by unfold okey; omega), if_pos rfl]
  · rw [ho₂, if_neg (by unfold okey; omega), if_neg (by unfold okey; omega), Dev.o_eq, Dev.portCut, objGet_set, if_pos rfl]
  · rw [hend]
    show (r.d.egrant.set p ((r.d.portCut p role).o p 0x3030 3)).get? p = _
    rw [Tab.get?_set_self, ho _ _ _ (by unfold okey; omega)]
  · rw [hend, Dev.link, Dev.portDone, Dev.portCut, Tab.getD_set_self]
  · rw [hend, Dev.link, Dev.portDone, Dev.portCut, Tab.getD_set_self]
  · rw [ho₂, if_neg (by unfold okey; omega), if_neg (by unfold okey; omega), ho _ _ _ (by unfold okey; omega)]
  · rw [ho₂, if_neg (by unfold okey; omega), if_neg (by unfold okey; omega), ho _ _ _ (by unfold okey; omega)]
  · rw [hend]; rfl
  · rw [hend]; rfl
  · rw [hend]; exact ⟨rfl, rfl, rfl, rfl, rfl, rfl⟩
  · rw [hend]
  · intro q
    rw [hend]
    exact ⟨rfl, q.objWait, q.harts, q.recov, q.relief, q.lates, q.after, q.castOps, q.fences⟩

/-- A new role other than 4 of a port that is used starts its reset (R20, R479). -/
theorem Run.roleWrite_new (r : Run s₀) (p v : Nat) (hu : bit (r.d.o 0 0xA020 3) p = false) (hv : v ≤ 3) (hne : r.d.o p 0x3010 1 ≠ v) :
    r.roleWrite p v = (.ok, ((r.setO p 0x3010 1 v).portReset p (some v)).portResetEnd p) := by
  have hused : r.d.unusedPort p = false := hu
  have hset : r.d.roleSet p = r.d.o p 0x3010 1 := by rw [Dev.roleSet, hused, if_neg (by decide)]
  have h4 : (v == 4) = false := beq_eq_false_iff_ne.2 (by omega)
  unfold Run.roleWrite
  dsimp only
  rw [hused, h4, hset, if_neg (by simp), if_neg (by simpa using Ne.symm hne)]

end

theorem Dev.Idle.portIdle {d : Dev} (h : d.Idle) {p : Nat} (hw : d.reliefWho = []) (hr : d.role p ≠ 2) (hl : d.o p 0x3040 1 ≠ 2) : d.PortIdle p :=
  ⟨h.portRst, h.again, h.fents, h.credits, h.jobs, h.txns, h.origs, h.after, h.relief, hw, h.castOps, h.fences, hr, hl⟩

/-! ### The commands -/

theorem exec_portReset (p : Fin 16) (s : State) :
    exec (.portReset p) s = (((Run.start s).portReset p.val none).portResetEnd p.val).requestDone := rfl

theorem exec_portRoleWrite (ses : Session) (role : BitVec 8) (s : State) :
    exec (.portRoleWrite ses role) s = (Run.start s).session ses (wr 0x3010 1 role.toNat) := rfl

/-- A port with nothing under way is reset at once (R356). -/
theorem portReset_answers (p : Fin 16) (s : State) (h : s.dev.Idle) (hw : s.dev.reliefWho = []) (hr : s.dev.role p.val ≠ 2)
    (hl : s.dev.o p.val 0x3040 1 ≠ 2) :
    Answers (.portReset p) s fun t => t.dev.portRst = [] ∧ t.dev.role p.val = s.dev.role p.val ∧ t.dev.o p.val 0x3020 6 = 0
      ∧ t.dev.egrant.get? p.val = some (s.dev.o p.val 0x3030 3) ∧ (t.dev.link p.val).flitCr = [] ∧ (t.dev.link p.val).reqCr = []
      ∧ SameBytes s t ∧ t.out = s.out := by
  have hdone := (Run.start s).portReset_done p.val none (h.portIdle hw hr hl)
  exact Answers.of_requestDone _ (exec_portReset p s) (hdone.calm h.calm)
    ⟨hdone.portRst, hdone.role, hdone.credits, hdone.egrant, hdone.flits, hdone.heads, hdone.bytes, hdone.out⟩

/-- A new role of a port with nothing under way is in effect at once (R20). -/
theorem portRoleWrite_answers (ses : Session) (v : BitVec 8) (p : Nat) (s : State) (h : s.dev.Idle) (hd : s.dev.Desk ses (wr 0x3010 1 v.toNat))
    (hp : s.dev.instOf (sesNum ses) 0x3010 = p) (hv : v.toNat ≤ 3) (hu : bit (s.dev.o 0 0xA020 3) p = false)
    (hne : s.dev.o p 0x3010 1 ≠ v.toNat) (hw : s.dev.reliefWho = []) (hr : s.dev.role p ≠ 2) (hl : s.dev.o p 0x3040 1 ≠ 2) :
    Answers (.portRoleWrite ses v) s fun t => Replied s t ses (wr 0x3010 1 v.toNat) ∧ t.dev.o p 0x3010 1 = v.toNat ∧ t.dev.role p = v.toNat
      ∧ SameBytes s t := by
  have hval : ∀ x < 4, (oRow? 0x3010 1).any (·.takes x) = true := by decide +kernel
  have hwrite : (Run.start s).oWrite (sesNum ses) ((Run.start s).d.instOf (sesNum ses) 0x3010) 0x3010 1 v.toNat {} false
      = (.done .ok 0 [], (((Run.start s).setO p 0x3010 1 v.toNat).portReset p (some v.toNat)).portResetEnd p) := by
    show ruled ((Run.start s).roleWrite (s.dev.instOf (sesNum ses) 0x3010) v.toNat) = _
    rw [hp, Run.roleWrite_new _ _ _ hu hv hne]
    rfl
  have hrole : ((Run.start s).setO p 0x3010 1 v.toNat).d.role p = s.dev.role p := Run.setO_o_ne _ _ _ _ _ _ _ _ (by unfold okey; omega)
  have hlink : ((Run.start s).setO p 0x3010 1 v.toNat).d.o p 0x3040 1 = s.dev.o p 0x3040 1 :=
    Run.setO_o_ne _ _ _ _ _ _ _ _ (by unfold okey; omega)
  have hvendor : ((Run.start s).setO p 0x3010 1 v.toNat).d.o 0 0x1000 2 = s.dev.o 0 0x1000 2 :=
    Run.setO_o_ne _ _ _ _ _ _ _ _ (by unfold okey; omega)
  have hidle := h.portIdle hw hr hl
  have hdone := ((Run.start s).setO p 0x3010 1 v.toNat).portReset_done p (some v.toNat)
    ⟨hidle.portRst, hidle.again, hidle.fents, hidle.credits, hidle.jobs, hidle.txns, hidle.origs, hidle.after, hidle.relief, hidle.reliefWho,
      hidle.castOps, hidle.fences, hrole ▸ hr, hlink ▸ hl⟩
  have hreq := (Run.start s).nyReq_write ses 0x3010 1 v.toNat {} hd (hval _ (by omega)) (by decide) hwrite rfl hdone.ses
  generalize (((Run.start s).setO p 0x3010 1 v.toNat).portReset p (some v.toNat)).portResetEnd p = r at hdone hreq
  have hdesk := r.nyDone_atDesk (sesNum ses) (wr 0x3010 1 v.toNat)
  have hcalm : ((Run.start s).setO p 0x3010 1 v.toNat).cur.dev.Calm := ((Run.start s).setO_onlyObjects ..).calm h.calm
  refine Answers.of_requestDone _ (by rw [exec_portRoleWrite, Run.session, hreq]) (hdesk.calm (hdone.calm hcalm)) ⟨?_, ?_, ?_, ?_⟩
  · exact r.nyDone_sends ses _ hdone.eids (hdone.vendor.trans hvendor)
  · rw [hdesk.o, hdone.roleSet]; exact Run.setO_o_self ..
  · exact (hdesk.o ..).trans hdone.role
  · exact ((Run.setO_sameBytes ..).trans hdone.bytes).trans hdesk.bytes

end Sys2Proof.Machine
end

section
/-! PROOFS. Lines written home, and the resets of a slice and of a cluster (R357, R358). -/
namespace Sys2Proof.Machine

/-! ### Lines -/

theorem Mem.read_eq_map (m : List Host.Cell) (a n : Nat) : Mem.read m a n = (List.range n).map fun i => Mem.get m (a + i) := by
  induction n generalizing a with
  | zero => rfl
  | succ n ih =>
    rw [Mem.read, ih, List.range_succ_eq_map, List.map_cons, List.map_map]
    simp only [Nat.add_zero, Function.comp_def, Nat.add_assoc, Nat.add_comm 1, Nat.succ_eq_add_one]

/-- What was written is read. -/
theorem Mem.read_write (m : List Host.Cell) (a : Nat) (bs : List Byte) : Mem.read (Mem.write m a bs) a bs.length = bs := by
  rw [Mem.read_eq_map]
  refine List.ext_getElem (by simp) fun i h1 h2 => ?_
  rw [List.getElem_map, List.getElem_range, Mem.get_write, if_pos ⟨by omega, by omega⟩, Nat.add_sub_cancel_left]
  exact (List.getElem_eq_getD 0).symm

@[simp] theorem length_lineBytes (x : Line) : (lineBytes x).length = 64 := length_leBytes ..

/-- The bytes of a line spell it. -/
@[simp] theorem lineOf_lineBytes (x : Line) : lineOf (lineBytes x) = x := by
  rw [lineOf, lineBytes, leNat_leBytes, Nat.mod_eq_of_lt (by have := x.isLt; omega), BitVec.ofNat_toNat, BitVec.setWidth_eq]

theorem lineNo_line {l : Nat} (h : l < 2 ^ 56) : lineNo (64 * l) = l := by unfold lineNo bits; omega

/-- Which line stands at an address is a matter of the bytes and marks. -/
theorem SameBytes.lineAt {a b : State} (h : SameBytes a b) (x : Nat) : b.lineAt x = a.lineAt x := by
  unfold State.lineAt
  rw [h.mem, h.bad]

theorem OnlyLine.sameBytes {a b c : State} {l : Nat} (h : OnlyLine a b l) (k : SameBytes b c) : OnlyLine a c l :=
  ⟨fun x hx => k.mem ▸ h.bytes x hx, fun x hx => k.bad ▸ h.marks x hx, k.flash.trans h.flash, k.copy.trans h.copy, k.fbad.trans h.fbad,
    k.cbad.trans h.cbad⟩

section
variable {s₀ : State}

theorem Run.setLine_mem_dev (r : Run s₀) (l : Nat) (x : DLine) : (r.setLine .mem l x).cur.dev = r.cur.dev := rfl

/-- A good line written into the store changes its own bytes and mark alone. -/
theorem Run.setLine_good_onlyLine (r : Run s₀) (l : Nat) (x : Line) : OnlyLine r.cur (r.setLine .mem l (good x)).cur l := by
  refine ⟨fun a ha => ?_, fun k hk => ?_, rfl, rfl, rfl, rfl⟩
  · show Mem.get (Mem.write r.cur.mem (64 * l) (lineBytes x)) a = _
    rw [Mem.get_write, length_lineBytes, if_neg (by omega)]
  · show k ∈ r.cur.bad.filter (· != l) ↔ _
    simp [hk]

/-- It is the line that stands there. -/
theorem Run.setLine_good_lineAt (r : Run s₀) (l : Nat) (x : Line) (h : l < 2 ^ 56) :
    (r.setLine .mem l (good x)).cur.lineAt (64 * l) = good x := by
  have hbytes : Mem.read (Mem.write r.cur.mem (64 * l) (lineBytes x)) (64 * l) 64 = lineBytes x := by
    have := Mem.read_write r.cur.mem (64 * l) (lineBytes x)
    rwa [length_lineBytes] at this
  have hmark : (r.cur.bad.filter (· != l)).contains l = false := by simp
  unfold State.lineAt
  rw [lineNo_line h]
  show (if (r.cur.bad.filter (· != l)).contains l then bad else
    good (lineOf (Mem.read (Mem.write r.cur.mem (64 * l) (lineBytes x)) (64 * l) 64))) = good x
  rw [hmark, if_neg (by decide), hbytes, lineOf_lineBytes]

/-! ### A line written back -/

/-- A dirty line of the store's home tiers, unprotected and not moving, is written home. -/
theorem Run.putHome_plain (r : Run s₀) (a : Nat) (x : DLine) {g : GEnt} (hg : r.d.g? a = some g) (ht : g.tier < 2) (hs : g.state = 0)
    (hp : g.prot = false) : r.putHome a x = r.setLine .mem (lineNo a) x := by
  have htier : (g.tier == 2) = false := beq_eq_false_iff_ne.2 (by omega)
  have hclean : r.d.dirties g a = false := by rw [Dev.dirties, htier, Bool.false_and]
  have hput : r.put a x = r.setLine .mem (lineNo a) x := by
    unfold Run.put
    rw [hg]
    dsimp only
    rw [hs, if_neg (by decide), Run.putTier, bne, htier, if_pos (by decide)]
  have hpoints : ∀ d : Dev, d.points g = false := fun d => by rw [Dev.points, hp, Bool.false_and]
  unfold Run.putHome
  rw [hg]
  dsimp only
  rw [hclean, Bool.false_and, if_neg (by decide)]
  unfold Run.change
  rw [hg]
  dsimp only
  rw [hpoints, hp, if_neg (by decide), if_neg (by decide), hput]

/-- The write-back of the one holder of a line, in the name of its partition: the line goes home and the entry is freed (Table 6-6). -/
theorem Run.writeBack_holder (r : Run s₀) (ag : Nat) (src : Src) (l : Nat) (x : DLine) {e : DirE} {g : GEnt} (hl : l < 2 ^ 56)
    (he : r.d.dir.get? l = some e) (hst : e.st = .dx) (hp0 : e.p0 = ag) (hproxy : e.proxy = false) (hg : r.d.g? (l * 64) = some g)
    (ht : g.tier < 2) (hs : g.state = 0) (hp : g.prot = false) :
    r.writeBack ag src g.part (l * 64) x = (r.setLine .mem l x).mod fun d => { d with dir := d.dir.del l } := by
  have hline : lineNo (l * 64) = l := by rw [Nat.mul_comm]; exact lineNo_line hl
  have htier : (g.tier == 2) = false := beq_eq_false_iff_ne.2 (by omega)
  have hpart : r.d.linePart l = g.part := by rw [Dev.linePart, hg]
  have hheld : (r.setLine .mem l x).d.heldX l = false := by
    rw [Dev.heldX, show (r.setLine .mem l x).d.g? (l * 64) = some g from hg]
    dsimp only
    rw [htier, Bool.and_false]
  unfold Run.writeBack
  dsimp only
  rw [hline, he]
  dsimp only
  rw [hst, hp0, hg, hpart, hproxy, if_neg (by simp)]
  dsimp only
  rw [if_neg (by decide), if_pos (by simp [hs]), Run.writeHome, if_neg (by decide), r.putHome_plain (l * 64) x hg ht hs hp, hline, Run.setDir, hheld]
  rfl

/-! ### Slices -/

theorem Run.each_id {α : Type} (r : Run s₀) (xs : List α) (f : Run s₀ → α → Run s₀) (h : ∀ x ∈ xs, f r x = r) : r.each xs f = r := by
  induction xs with
  | nil => rfl
  | cons x xs ih => rw [Run.each_cons, h x (by simp), ih fun y hy => h y (by simp [hy])]

theorem Run.error_mkErr (r : Run s₀) {kind sev unit loc addr d0 d1 : Nat} (h : sev ≠ 0) :
    r.error (mkErr kind sev unit loc none addr d0 d1) = r.putRecord (mkErr kind sev unit loc none addr d0 d1) := r.error_plain _ h rfl

/-- A slice without a spare is only recorded (R357). -/
theorem Run.quarantine_none (r : Run s₀) (s trigger : Nat) (hq : r.d.quar = []) (hs : r.d.spares s = []) :
    (r.quarantine s trigger).2 = r.putRecord (mkErr 0x17 4 0 s none 0 trigger 0xFFFF) := by
  unfold Run.quarantine
  rw [hq, if_neg (by simp [Tab.has]), hs]
  exact r.error_mkErr (sev := 4) (by decide)

/-- A slice with a spare is recorded and drains, its combining cache and pairs being idle (R357). -/
theorem Run.quarantine_spare (r : Run s₀) (s trigger : Nat) {p : Nat} {ps : List Nat} (hq : r.d.quar = []) (hc : r.d.comb = [])
    (hp : r.d.pairs = []) (hs : r.d.spares s = p :: ps) :
    (r.quarantine s trigger).2 = ((r.putRecord (mkErr 0x17 4 0 s none 0 trigger (s / 32 * 34 + p))).mod fun d =>
      { d with quar := d.quar.set s d.now }).setO s 0x5010 1 1 := by
  have side := r.putRecord_side (mkErr 0x17 4 0 s none 0 trigger (s / 32 * 34 + p))
  unfold Run.quarantine
  rw [hq, if_neg (by simp [Tab.has]), hs]
  dsimp only
  rw [r.error_mkErr (sev := 4) (by decide)]
  have hcomb : (r.putRecord (mkErr 0x17 4 0 s none 0 trigger (s / 32 * 34 + p))).d.comb = [] := by rw [Run.d, side.dev]; exact hc
  have hpairs : (r.putRecord (mkErr 0x17 4 0 s none 0 trigger (s / 32 * 34 + p))).d.pairs = [] := by
    unfold Run.putRecord; dsimp only; split <;> exact hp
  generalize r.putRecord _ = r₁ at hcomb hpairs
  generalize hr₂ : (r₁.mod _).setO s 0x5010 1 1 = r₂
  have hcomb₂ : r₂.d.comb = [] := hr₂ ▸ hcomb
  have hpairs₂ : r₂.d.pairs = [] := hr₂ ▸ hpairs
  rw [hcomb₂, List.filter_nil, Run.each_nil]
  refine Run.each_id _ _ _ fun n _ => if_neg ?_
  rw [Dev.pair, hpairs₂]
  exact Bool.false_ne_true

/-- The lowest spare takes a drained slice (R357, log entry 178). -/
theorem Run.quarantineEnd_drained (r : Run s₀) (s : Nat) {p : Nat} {ps : List Nat} (hq : r.d.quar.has s = true) (ht : r.d.txns = [])
    (hf : r.d.fills = []) (hs : r.d.spares s = p :: ps) :
    r.quarantineEnd s = (((r.mod fun d => { d with
        quar := d.quar.del s, smap := d.smap.set s p, badSlices := Marks.add d.badSlices (s / 32 * 34 + r.d.physSlice s)
        bring := { d.bring with katBad := d.bring.katBad.filter fun n => n / 4 != s } }).setO s 0x5010 1 2).setO s 0x5010 2
        (s / 32 * 34 + p)).setO s 0x5010 3 3 := by
  unfold Run.quarantineEnd
  dsimp only
  rw [hq, ht, hf, if_neg (by simp), hs]

/-- A slice without a spare does not give way. -/
theorem Run.quarantineEnd_none (r : Run s₀) (s : Nat) (hs : r.d.spares s = []) : r.quarantineEnd s = r := by
  unfold Run.quarantineEnd
  dsimp only
  rw [hs]
  split <;> rfl

/-! ### Clusters -/

theorem Run.resetHarts_idle (r : Run s₀) (k : Nat) (h : r.d.credits = []) : r.resetHarts k = r.mod fun d => { d with
    harts := d.harts.keep fun h _ => h / 4 != k, apDrain := d.apDrain.filter fun h => h / 4 != k
    apert := d.apert.keep fun i _ => i / 2048 != k } := by
  unfold Run.resetHarts
  dsimp only
  rw [Run.cancelCredits_nil _ _ h]

/-- The failure of a cluster's agent with no round open: recorded, shown, its cache empty (R175). -/
theorem Run.failAgent_cluster (r : Run s₀) {k : Nat} (cause : Nat) (hk : k < 8) (ht : r.d.txns = []) :
    r.failAgent k cause = ((r.putRecord { mkErr 0x0A 4 4 k none 0 cause 0 with agent := k }).setO (256 + k) 0x5100 1 2).mod fun d =>
      { d with l2 := d.l2.keep fun x _ => x % 8 != k } := by
  have side := r.putRecord_side { mkErr 0x0A 4 4 k none 0 cause 0 with agent := k }
  unfold Run.failAgent
  dsimp only
  simp only [if_pos hk, Run.setAgent]
  rw [Run.error_plain _ _ (by simp [mkErr]) rfl]
  have htxns : (r.putRecord { mkErr 0x0A 4 4 k none 0 cause 0 with agent := k }).d.txns = [] := by rw [Run.d, side.dev]; exact ht
  generalize hr₂ : Run.mod _ _ = r₂
  have htxns₂ : r₂.d.txns = [] := hr₂ ▸ htxns
  rw [htxns₂, List.filter_nil, Run.each_nil]

end

section
variable {s₀ : State}

/-- A cluster and its agent after a reset of its harts and the failure of its agent, where no credit is held and no round is open. -/
structure ClusterDown (a b : State) (k : Nat) : Prop where
  agent : b.dev.o (256 + k) 0x5100 1 = 2
  l2 : b.dev.l2 = a.dev.l2.keep fun x _ => x % 8 != k
  harts : b.dev.harts = a.dev.harts.keep fun h _ => h / 4 != k
  dir : b.dev.dir = a.dev.dir
  clRst : b.dev.clRst = a.dev.clRst
  record : ∃ e, b.dev.ring.head? = some e ∧ e.kind = 0x0A
  bytes : SameBytes a b
  calm : a.dev.Calm → b.dev.Calm

theorem Run.clusterDown (r : Run s₀) {k : Nat} (cause : Nat) (hk : k < 8) (hc : r.d.credits = []) (ht : r.d.txns = []) :
    ClusterDown r.cur ((r.resetHarts k).failAgent k cause).cur k := by
  rw [r.resetHarts_idle k hc]
  generalize hr₁ : r.mod _ = r₁
  have htxns : r₁.d.txns = [] := hr₁ ▸ ht
  have hcalm : r.d.Calm → r₁.d.Calm := fun q => hr₁ ▸
    ⟨q.again, q.objWait, fun x hx => q.harts x (List.mem_filter.1 hx).1, q.recov, q.relief, q.lates, q.after, q.castOps, q.fences⟩
  have hbytes : SameBytes r.cur r₁.cur := hr₁ ▸ r.mod_sameBytes _
  have hl2 : r₁.d.l2 = r.d.l2 := hr₁ ▸ rfl
  have hharts : r₁.d.harts = r.d.harts.keep fun h _ => h / 4 != k := hr₁ ▸ rfl
  have hdir : r₁.d.dir = r.d.dir := hr₁ ▸ rfl
  have hclRst : r₁.d.clRst = r.d.clRst := hr₁ ▸ rfl
  rw [r₁.failAgent_cluster cause hk htxns]
  have side := r₁.putRecord_side { mkErr 0x0A 4 4 k none 0 cause 0 with agent := k }
  have hring := r₁.putRecord_ring { mkErr 0x0A 4 4 k none 0 cause 0 with agent := k }
  generalize r₁.putRecord _ = r₂ at side hring
  have q : r.d.Calm → r₂.d.Calm := fun q => side.calm (hcalm q)
  have hend : SameBytes r₂.cur ((r₂.setO (256 + k) 0x5100 1 2).mod fun d => { d with l2 := d.l2.keep fun x _ => x % 8 != k }).cur :=
    (Run.setO_sameBytes ..).trans (Run.mod_sameBytes ..)
  refine ⟨Run.setO_o_self .., ?_, ?_, ?_, ?_, ⟨_, hring, rfl⟩, (hbytes.trans side.sameBytes).trans hend, fun q₀ => (q q₀).of_waiting rfl⟩
  · show r₂.cur.dev.l2.keep (fun x _ => x % 8 != k) = _
    rw [side.dev]
    exact congrArg (Tab.keep · _) hl2
  · show r₂.cur.dev.harts = _
    rw [side.dev]; exact hharts
  · show r₂.cur.dev.dir = _
    rw [side.dev]; exact hdir
  · show r₂.cur.dev.clRst = _
    rw [side.dev]; exact hclRst

end

/-! ### The commands -/

theorem exec_quarantine (slice : Fin 256) (trigger : Fin 7) (s : State) (hr : s.dev.ready = true) (h0 : trigger.val ≠ 0) (h2 : trigger.val ≠ 2) :
    exec (.quarantine slice trigger) s = ((Run.start s).quarantine slice.val trigger.val).2.requestDone := by
  show execQuarantine slice trigger s = _
  unfold execQuarantine
  rw [hr, if_neg (by simp [h0, h2])]

theorem exec_quarantineCopyDone (slice : Fin 256) (s : State) :
    exec (.quarantineCopyDone slice) s = ((Run.start s).quarantineEnd slice.val).requestDone := rfl

theorem exec_clusterReset (k : Fin 8) (s : State) (hr : s.dev.ready = true) :
    exec (.clusterReset k) s = ((Run.start s).clusterReset k.val).requestDone := by
  show execClusterReset k s = _
  unfold execClusterReset
  rw [hr]; rfl

theorem exec_clusterFailure (k : Fin 8) (s : State) (hr : s.dev.ready = true) :
    exec (.clusterFailure k) s = ((Run.start s).clusterFail k.val).requestDone := by
  show execClusterFailure k s = _
  unfold execClusterFailure
  rw [hr]; rfl

/-- A quarantine is recorded; a slice with a spare drains for it (R357). -/
theorem quarantine_answers (slice : Fin 256) (trigger : Fin 7) (s : State) (h : s.dev.Quiet) (hr : s.dev.ready = true) (h0 : trigger.val ≠ 0)
    (h2 : trigger.val ≠ 2) (hq : s.dev.quar = []) (hc : s.dev.comb = []) (hp : s.dev.pairs = []) :
    Answers (.quarantine slice trigger) s fun t => SameBytes s t ∧ (∃ e, t.dev.ring.head? = some e ∧ e.kind = 0x17 ∧ e.loc = slice.val)
      ∧ (s.dev.spares slice.val ≠ [] → t.dev.quar = [(slice.val, s.dev.now)] ∧ t.dev.o slice.val 0x5010 1 = 1) := by
  have hexec := exec_quarantine slice trigger s hr h0 h2
  rcases hs : s.dev.spares slice.val with _ | ⟨p, ps⟩
  · have side := (Run.start s).putRecord_side (mkErr 0x17 4 0 slice.val none 0 trigger.val 0xFFFF)
    rw [(Run.start s).quarantine_none _ _ hq hs] at hexec
    exact Answers.of_requestDone _ hexec (side.calm h.calm) ⟨side.sameBytes, ⟨_, Run.putRecord_ring .., rfl, rfl⟩, fun hne => absurd rfl hne⟩
  · have side := (Run.start s).putRecord_side (mkErr 0x17 4 0 slice.val none 0 trigger.val (slice.val / 32 * 34 + p))
    have hring := (Run.start s).putRecord_ring (mkErr 0x17 4 0 slice.val none 0 trigger.val (slice.val / 32 * 34 + p))
    rw [(Run.start s).quarantine_spare _ _ hq hc hp hs] at hexec
    generalize (Run.start s).putRecord _ = r at side hring hexec
    have hquar : r.d.quar = [] := by rw [Run.d, side.dev]; exact hq
    have q := side.calm h.calm
    refine Answers.of_requestDone _ hexec (q.of_waiting rfl)
      ⟨?_, ⟨_, hring, rfl, rfl⟩, fun _ => ⟨?_, Run.setO_o_self ..⟩⟩
    · exact (side.sameBytes.trans (Run.mod_sameBytes ..)).trans (Run.setO_sameBytes ..)
    · show r.cur.dev.quar.set slice.val r.cur.dev.now = _
      rw [show r.cur.dev.quar = [] from hquar, side.now]
      rfl

/-- A drained slice gives way to its lowest spare (R357). -/
theorem quarantineCopyDone_answers (slice : Fin 256) (t0 : Nat) (s : State) (h : s.dev.Quiet) (hq : s.dev.quar = [(slice.val, t0)])
    (ht : s.dev.txns = []) (hf : s.dev.fills = []) :
    Answers (.quarantineCopyDone slice) s fun t => SameBytes s t
      ∧ ∀ p, (s.dev.spares slice.val).head? = some p → t.dev.quar = [] ∧ t.dev.smap.get? slice.val = some p
          ∧ t.dev.o slice.val 0x5010 1 = 2 ∧ t.dev.o slice.val 0x5010 2 = slice.val / 32 * 34 + p := by
  have hexec := exec_quarantineCopyDone slice s
  have q := h.calm
  rcases hs : s.dev.spares slice.val with _ | ⟨p, ps⟩
  · rw [(Run.start s).quarantineEnd_none _ hs] at hexec
    exact Answers.of_requestDone _ hexec q ⟨.refl s, fun p hp => absurd hp (by simp)⟩
  · have hdrains : s.dev.quar.has slice.val = true := by rw [hq]; simp [Tab.has, Tab.get?]
    rw [(Run.start s).quarantineEnd_drained _ hdrains ht hf hs] at hexec
    refine Answers.of_requestDone _ hexec (q.of_waiting rfl)
      ⟨by constructor <;> simp, fun p' hp' => ?_⟩
    obtain rfl : p = p' := by simpa using hp'
    refine ⟨?_, Tab.get?_set_self .., ?_, ?_⟩
    · show s.dev.quar.del slice.val = []
      simp [hq, Tab.del]
    · rw [Run.setO_o_ne _ _ _ _ _ _ _ _ (by unfold okey; omega), Run.setO_o_ne _ _ _ _ _ _ _ _ (by unfold okey; omega),
        Run.setO_o_self]
    · rw [Run.setO_o_ne _ _ _ _ _ _ _ _ (by unfold okey; omega), Run.setO_o_self]

theorem Tab.keep_mem {α : Type} {t : Tab α} {f : Nat → α → Bool} {x : Nat × α} (h : x ∈ t.keep f) : f x.1 x.2 = true :=
  (List.mem_filter.1 h).2

/-- A cluster that fails writes nothing back (R175, R358). -/
theorem clusterFailure_answers (k : Fin 8) (s : State) (h : s.dev.Idle) (hr : s.dev.ready = true) :
    Answers (.clusterFailure k) s fun t => t.dev.o (256 + k.val) 0x5100 1 = 2 ∧ (∀ x ∈ t.dev.l2, x.1 % 8 ≠ k.val)
      ∧ (∀ h ∈ t.dev.harts, h.1 / 4 ≠ k.val) ∧ SameBytes s t ∧ ∃ e, t.dev.ring.head? = some e ∧ e.kind = 0x0A := by
  have hexec := exec_clusterFailure k s hr
  have down := (Run.start s).clusterDown 2 k.isLt h.credits h.txns
  unfold Run.clusterFail at hexec
  generalize ((Run.start s).resetHarts k.val).failAgent k.val 2 = r at hexec down
  have q := down.calm h.calm
  refine Answers.of_requestDone _ hexec (q.of_waiting rfl)
    ⟨down.agent, fun x hx => ?_, fun x hx => ?_, down.bytes.trans (Run.mod_sameBytes ..), down.record⟩
  · change x ∈ r.cur.dev.l2 at hx
    rw [down.l2] at hx
    simpa using Tab.keep_mem hx
  · change x ∈ r.cur.dev.harts at hx
    rw [down.harts] at hx
    simpa using Tab.keep_mem hx

/-- A cluster that is reset writes its dirty line back, and shows failed (R175, R358). -/
theorem clusterReset_answers (k : Fin 8) (line part : Nat) (x : Line) (s : State) (h : ({ s.dev with dir := [] } : Dev).Idle)
    (hr : s.dev.ready = true) (hdir : s.dev.dir = [(line, { st := .dx, p0 := k.val })]) (hl2 : s.dev.l2 = [(l2Key k.val line, ⟨.m, x⟩)])
    (hline : line < 2 ^ 56) (hplaced : s.dev.Placed (64 * line) part) :
    Answers (.clusterReset k) s fun t => t.lineAt (64 * line) = good x ∧ OnlyLine s t line ∧ t.dev.l2 = [] ∧ t.dev.dir = []
      ∧ t.dev.o (256 + k.val) 0x5100 1 = 2 ∧ t.dev.clRst = [k.val] ∧ ∀ h ∈ t.dev.harts, h.1 / 4 ≠ k.val := by
  obtain ⟨g, hg, htier, hstate, hprot, -⟩ := hplaced
  have hkey : l2Key k.val line / 8 = line := by unfold l2Key; omega
  have hagent : l2Key k.val line % 8 = k.val := by unfold l2Key; omega
  have hg' : (Run.start s).d.g? (line * 64) = some g := by rw [Nat.mul_comm]; exact hg
  have hpart : (Run.start s).d.linePart line = g.part := by rw [Dev.linePart, hg']
  have hback := (Run.start s).writeBack_holder k.val (.cluster k.val) line (good x) (e := { st := .dx, p0 := k.val }) hline
    (by rw [Run.d, Run.start_cur, hdir]; simp [Tab.get?]) rfl rfl rfl hg' htier hstate hprot
  have hreset : (Run.start s).clusterReset k.val = (((((Run.start s).setLine .mem line (good x)).mod fun d => { d with dir := d.dir.del line }).mod
      fun d => { d with l2 := d.l2.keep fun x _ => x % 8 != k.val, clRst := Marks.add d.clRst k.val }).resetHarts k.val).failAgent k.val 2 := by
    unfold Run.clusterReset
    dsimp only
    rw [show (Run.start s).d.l2 = [(l2Key k.val line, ⟨.m, x⟩)] from hl2, List.filter_cons_of_pos (by simp [hagent]), List.filter_nil,
      Run.each_cons, Run.each_nil]
    dsimp only
    rw [hkey, hpart, if_pos (by decide), hback]
  have hexec := exec_clusterReset k s hr
  rw [hreset] at hexec
  have hset := (Run.start s).setLine_good_onlyLine line x
  have hat := (Run.start s).setLine_good_lineAt line x hline
  have hsetdev := (Run.start s).setLine_mem_dev line (good x)
  generalize (Run.start s).setLine .mem line (good x) = r₁ at hset hat hsetdev hexec
  generalize hr₂ : (r₁.mod _).mod _ = r₂ at hexec
  have hcredits : r₂.d.credits = [] := by subst hr₂; exact (congrArg (·.credits) hsetdev).trans h.credits
  have htxns : r₂.d.txns = [] := by subst hr₂; exact (congrArg (·.txns) hsetdev).trans h.txns
  have down := r₂.clusterDown 2 k.isLt hcredits htxns
  generalize (r₂.resetHarts k.val).failAgent k.val 2 = r at hexec down
  have hbytes : SameBytes r₁.cur r₂.cur := by subst hr₂; exact (Run.mod_sameBytes ..).trans (Run.mod_sameBytes ..)
  have hcalm : r₂.d.Calm := by
    subst hr₂
    refine ⟨?_, ?_, ?_, ?_, ?_, ?_, ?_, ?_, ?_⟩
    all_goals
      show _
      simp only [Run.d, Run.mod_dev, hsetdev]
    exacts [h.again, h.objWait, h.harts, h.recov, h.relief, h.lates, h.calm.after, h.castOps, h.fences]
  refine Answers.of_requestDone _ hexec (down.calm hcalm) ⟨?_, ?_, ?_, ?_, down.agent, ?_, fun y hy => ?_⟩
  · rw [down.bytes.lineAt, hbytes.lineAt, hat]
  · exact hset.sameBytes (hbytes.trans down.bytes)
  · rw [down.l2, ← hr₂]
    simp only [Run.mod_dev, hsetdev, Run.start_cur, hl2]
    simp [Tab.keep, hagent]
  · rw [down.dir, ← hr₂]
    simp only [Run.mod_dev, hsetdev, Run.start_cur, hdir]
    simp [Tab.del]
  · rw [down.clRst, ← hr₂]
    simp only [Run.mod_dev, hsetdev, Run.start_cur, show s.dev.clRst = [] from h.clRst]
    rfl
  · rw [down.harts] at hy
    simpa using Tab.keep_mem hy

end Sys2Proof.Machine

open Sys2Proof Sys2Proof.Machine

/-- Settles O48: each reset by its effect, the two resets of the device after their answer at the desk. -/
theorem partResets : Obligations.PartResets :=
  ⟨deviceResetWarm_answers, deviceResetCold_answers, portReset_answers, portRoleWrite_answers, quarantine_answers, quarantineCopyDone_answers,
    clusterReset_answers, clusterFailure_answers⟩
end

section
/-! PROOFS. Error records that an event of their partition pushes out of the ring (R53, R350, R408). -/
namespace Sys2Proof.Machine

/-! ### A ring that holds records of events alone -/

/-- The ring holds at most 4,096 records, and the newest `k` of them are of events that could not be raised (R350). -/
structure Dev.Stray (d : Dev) (k : Nat) : Prop where
  length : d.ring.length ≤ 4096
  newest : ∀ e ∈ d.ring.take k, e.kind = 0x13

/-- A ring whose newest 4,096 records are of such events holds no other. -/
theorem Dev.Stray.all {d : Dev} {k : Nat} (h : d.Stray k) (hk : 4096 ≤ k) : ∀ e ∈ d.ring, e.kind = 0x13 := by
  have := h.newest
  rwa [List.take_of_length_le (h.length.trans hk)] at this

section
variable {s₀ : State}

/-- One more such record pushes those of before one place on. -/
theorem Run.putRecord_stray (r : Run s₀) (e : ERec) {k : Nat} (he : e.kind = 0x13) (h : r.d.Stray k) : (r.putRecord e).d.Stray (k + 1) := by
  have hring := r.putRecord_ring_eq e
  constructor
  · rw [hring]; exact List.length_take_le ..
  · intro x hx
    rw [hring, List.take_take] at hx
    have hx' := List.take_subset_take_left _ (Nat.min_le_left (k + 1) 4096) hx
    rw [List.take_succ_cons] at hx'
    rcases List.mem_cons.1 hx' with rfl | hx'
    · exact he
    · exact h.newest x hx'

/-- With fuel for `n` such records, each raises the event that the next one records. -/
theorem Run.acts_stray (n : Nat) (r : Run s₀) (e : ERec) {p k : Nat} (he : e.part = some p) (hk : e.kind = 0x13) (h : r.d.StrayRoute p)
    (hr : r.d.Stray k) : (Run.acts (2 * n) [.record e] r).d.Stray (k + n) := by
  induction n generalizing r e k with
  | zero => exact hr
  | succ n ih =>
    rw [Nat.mul_succ, r.acts_record_stray _ e he h, Nat.add_comm n, ← Nat.add_assoc]
    exact ih _ _ rfl rfl ((r.putRecord_side e).strayRoute h) (r.putRecord_stray e hk hr)

/-- An error record of a partition with a stray route is lost where 2,047 counters are armed: the events that it raises fill the ring. -/
theorem Run.error_lost (r : Run s₀) (e : ERec) {p : Nat} (he : e.part = some p) (hs : e.sev ≠ 0) (h : r.d.StrayRoute p)
    (ha : 2047 ≤ (r.d.ctrs.filter fun c => c.2.arm.isSome).length) : ∀ x ∈ (r.error e).d.ring, x.kind = 0x13 := by
  have hfuel : 4 * (1 + (r.d.ctrs.filter fun c => c.2.arm.isSome).length) + 4
      = 2 * (2 * (r.d.ctrs.filter fun c => c.2.arm.isSome).length + 3) + 2 := by omega
  have hring := r.putRecord_ring_eq e
  have hstart : (r.putRecord e).d.Stray 0 := ⟨by rw [hring]; exact List.length_take_le .., by simp⟩
  have hfill := (r.putRecord e).acts_stray (2 * (r.d.ctrs.filter fun c => c.2.arm.isSome).length + 3)
    (strayRecord p (r.d.o p 0x6060 0x13)) rfl rfl ((r.putRecord_side e).strayRoute h) hstart
  rw [← r.acts_record_stray _ e he h, ← hfuel] at hfill
  unfold Run.error
  rw [if_neg (by simpa using hs)]
  exact hfill.all (by omega)

/-! ### The two commands that write such a record -/

/-- An extent move given up as INDET writes a SUSPECT record (R53, R208), and no record after what follows from it. -/
theorem Run.extAbandon_ring (r : Run s₀) (e : Nat) (st : Status) {x : ExtMove} (hx : r.d.exts.get? e = some x) :
    ∃ q, (r.extAbandon e st true).d.ring = (r.suspect e x.part 0x41 x.phase q).d.ring
      ∧ ((r.suspect e x.part 0x41 x.phase q).d.Calm → (r.extAbandon e st true).d.Calm) := by
  unfold Run.extAbandon
  rw [hx]
  dsimp only
  rw [if_pos rfl]
  refine ⟨(r.d.phaseOf e).elim 0 (·.reqid), ?_⟩
  cases r.d.phaseOf e
  all_goals
    dsimp only [Option.elim]
    generalize r.suspect e x.part 0x41 x.phase _ = r₁
    refine ⟨?_, fun q => q.of_waiting ?_⟩ <;> split
    any_goals split
    all_goals simp only [Run.placeEnd, Run.finish, Run.updPair, Run.tell, Run.journal, Run.endPhase, Run.countPhases, Run.outboundHome,
      Run.setO, Run.d, Run.mod_dev, Run.emit_dev, Dev.waiting]

/-- A program that fails writes a record of its flash block (R408), and no record after what follows from it. -/
theorem Run.programDone_failed (r : Run s₀) (k old new : Nat) {mask : BitVec 256} {f : Frame} (hm : r.d.progs.get? k = some mask)
    (hf : r.d.frames.get? k = some f) :
    r.programDone k false old new = ((((r.error (mkErr 0x08 1 3 (old % 32) ((r.d.gran.get? (k / 128)).map (·.part)) (k * 16384) old new)).bump
      0 0x9030 5).mod fun d => { d with retired := d.retired ++ [old] }).emit (.nandProgram k)) := by
  unfold Run.programDone
  rw [hm, hf]
  rfl

/-- DEST's answer that it was lost gives the move up (R53). -/
theorem Run.extAllocated_lost (r : Run s₀) (e : Nat) {st : Status} {x : ExtMove} (hx : r.d.exts.get? e = some x) (hp : x.phase = 1)
    (hst : (st != .ok && st != .busy && st != .denied) = true) : r.extAllocated e st = r.extAbandon e .indet true := by
  unfold Run.extAllocated
  rw [hx]
  dsimp only
  rw [hp, hst, if_neg (by decide), if_pos rfl]

end

/-! ### The two commands -/

theorem exec_extentAllocateDone (e : BitVec 32) (st : BitVec 4) (s : State) :
    exec (.extentAllocateDone e st) s = ((Run.start s).extAllocated e.toNat (Status.ofCode st.toNat)).requestDone := rfl

theorem exec_flashProgramDone (k : BitVec 48) (ok : Bool) (old new : BitVec 64) (s : State) :
    exec (.flashProgramDone k ok old new) s = ((Run.start s).programDone k.toNat ok old.toNat new.toNat).requestDone := rfl

/-- A command that ends by `requestDone` answers where its run ends and nowhere else. -/
theorem Answers.of_exec_requestDone {c : Instr} {s : State} {P : State → Prop} (h : Answers c s P) {r : Run s}
    (hx : exec c s = r.requestDone) (q : r.d.Calm) : P r.cur := by
  obtain ⟨t, ht, hP⟩ := h
  rw [hx, r.requestDone_calm q] at ht
  exact Host.Outcome.next.inj ht ▸ hP

/-- Where the error events of a partition are stray and 2,047 counters are armed, no record of its SUSPECT extent is left. -/
theorem Answers.suspect_lost {e : BitVec 32} {x : ExtMove} {s : State} {P : State → Prop} (h : Answers (.extentAllocateDone e 6) s P)
    (hx : s.dev.exts.get? e.toNat = some x) (hp : x.phase = 1) (q : s.dev.Calm) (hroute : s.dev.StrayRoute x.part)
    (ha : 2047 ≤ (s.dev.ctrs.filter fun c => c.2.arm.isSome).length) : ∃ t, P t ∧ ∀ y ∈ t.dev.ring, y.kind = 0x13 := by
  have hexec := exec_extentAllocateDone e 6 s
  rw [(Run.start s).extAllocated_lost _ hx hp (by decide)] at hexec
  obtain ⟨reqid, hring, hcalm⟩ := (Run.start s).extAbandon_ring e.toNat .indet hx
  refine ⟨_, h.of_exec_requestDone hexec (hcalm ((Run.error_side ..).calm q)), ?_⟩
  rw [hring]
  exact Run.error_lost _ _ rfl (by simp [mkErr]) hroute ha

/-- In the same way no record of its failed flash block is left. -/
theorem Answers.program_lost {k : BitVec 48} {old new : BitVec 64} {f : Frame} {mask : BitVec 256} {g : GEnt} {s : State}
    {P : State → Prop} (h : Answers (.flashProgramDone k false old new) s P) (hf : s.dev.frames.get? k.toNat = some f)
    (hm : s.dev.progs.get? k.toNat = some mask) (hg : s.dev.gran.get? (k.toNat / 128) = some g) (q : s.dev.Calm)
    (hroute : s.dev.StrayRoute g.part) (ha : 2047 ≤ (s.dev.ctrs.filter fun c => c.2.arm.isSome).length) :
    ∃ t, P t ∧ ∀ y ∈ t.dev.ring, y.kind = 0x13 := by
  have hexec := exec_flashProgramDone k false old new s
  rw [(Run.start s).programDone_failed _ _ _ hm hf] at hexec
  have hpart : ((Run.start s).d.gran.get? (k.toNat / 128)).map (·.part) = some g.part := congrArg _ hg
  have hlost := (Run.start s).error_lost (mkErr 0x08 1 3 (old.toNat % 32) (((Run.start s).d.gran.get? (k.toNat / 128)).map (·.part))
    (k.toNat * 16384) old.toNat new.toNat) hpart (by simp [mkErr]) hroute ha
  have hcalm := ((Run.start s).error_side (mkErr 0x08 1 3 (old.toNat % 32) (((Run.start s).d.gran.get? (k.toNat / 128)).map (·.part))
    (k.toNat * 16384) old.toNat new.toNat)).calm q
  generalize (Run.start s).error _ = r at hexec hlost hcalm
  exact ⟨_, h.of_exec_requestDone hexec (hcalm.of_waiting rfl), hlost⟩

/-! ### States in which the record is lost -/

/-- A device whose partition 0 routes its error events to counter 0, which partition 1 owns; 2,047 counters are armed. -/
@[irreducible] def strayDev : Dev := {
  obj := [(okey 0 0x6060 0x13, 3)]
  ctrOwn := [(0, 1)]
  ctrs := armedCtrs 2047 }

theorem strayDev_armed : 2047 ≤ (strayDev.ctrs.filter fun c => c.2.arm.isSome).length := by
  unfold strayDev
  rw [armedCtrs_armed]

theorem strayDev_route : strayDev.StrayRoute 0 := ⟨by decide +kernel, by decide +kernel, by decide +kernel⟩

theorem strayDev_idle : strayDev.Idle := by
  unfold strayDev
  constructor
  · constructor
    case harts => simp
    all_goals rfl
  all_goals rfl

/-- A move of extent 0 to device 9 in phase 1. -/
def strayMove : ExtMove := { pair := some 0, dest := 9, tier := 1, phase := 1, epoch := 3, part := 0, tag := 0 }

/-- The operation on pair 0 that makes the move. -/
def strayPlace : PlaceOp :=
  { code := 0x41, addr := 0, count := 512, kind := 1, bclass := false, dest := 9, result := 0, part := 0, tag := 0, todo := [], phase := 1 }

/-- Its chain. -/
def strayChain : Chain := { part := 0, queue := 0, start := 0, descs := [[]], stage := .busy }

/-- That device while it moves extent 0. -/
def suspectState : State := { State.reset with dev := { strayDev with
  exts := [(0, strayMove)], places := [(0, strayPlace)], pairs := [(0, { chain := some strayChain })] } }

/-- That device while it programs block 0, of a T2 granule of partition 0. -/
def programState : State := { State.reset with dev := { strayDev with
  frames := [(0, { valid := 1, dirty := 1 })], progs := [(0, 1)], gran := [(0, { tier := 2, part := 0, slot := 0 })] } }

end Sys2Proof.Machine

open Sys2Proof Sys2Proof.Machine

/-- Refutes O50: an extent move whose destination was lost ends with a SUSPECT record of its partition, which raises the partition's error
event. Where that event goes to a counter that is not the partition's, it cannot be raised, which is recorded and raises it in turn
(R350), as often as `Run.act` has fuel for: with 2,047 counters armed 4,097 times, and the ring of 4,096 has lost the SUSPECT record. -/
theorem not_movesGoOn : ¬ Obligations.MovesGoOn := by
  rintro ⟨-, -, hallocate, -⟩
  have hidle : ({ suspectState.dev with exts := [], places := [] } : Dev).Idle := by
    have h := strayDev_idle
    refine { h with exts := rfl, places := rfl }
  have hanswers := hallocate 0 6 strayMove 0 strayPlace strayChain suspectState hidle rfl rfl rfl rfl rfl (by decide)
  obtain ⟨t, ⟨-, -, hend⟩, hlost⟩ := hanswers.suspect_lost rfl rfl (hidle.calm.of_waiting rfl)
    ⟨strayDev_route.kind, strayDev_route.dev, strayDev_route.owner⟩ strayDev_armed
  rw [if_neg (by decide)] at hend
  obtain ⟨-, -, y, hy, -, hkind, -⟩ := hend
  rw [hlost y hy] at hkind
  exact absurd hkind (by decide)

/-- Refutes O51: a program that fails writes a record of its flash block (R408), of the granule's partition; in the same way the ring loses
it to the records of the partition's error event. -/
theorem not_flashBehindCache : ¬ Obligations.FlashBehindCache := by
  rintro ⟨-, -, -, -, hprogram, -⟩
  have hidle : programState.dev.Idle := by
    have h := strayDev_idle
    exact { h with }
  have hanswers := hprogram 0 0 0 { valid := 1, dirty := 1 } 1 programState hidle rfl rfl
  obtain ⟨t, ⟨-, -, -, -, -, y, hy, -, hkind, -⟩, hlost⟩ := hanswers.program_lost (g := { tier := 2, part := 0, slot := 0 }) rfl rfl rfl
    hidle.calm ⟨strayDev_route.kind, strayDev_route.dev, strayDev_route.owner⟩ strayDev_armed
  rw [hlost y hy] at hkind
  exact absurd hkind (by decide)
end

section
/-! PROOFS. Entries of the machine map: the cache of entries, the keeper's changes, and an extent's slots (chapter 15). -/
namespace Sys2Proof.Machine

/-! ### Tables -/

section
variable {α : Type}

theorem Tab.mem_set {t : Tab α} {k : Nat} {v : α} {x : Nat × α} (h : x ∈ t.set k v) : x = (k, v) ∨ x ∈ t := by
  induction t with
  | nil => exact .inl (by simpa [Tab.set] using h)
  | cons e t ih =>
    obtain ⟨j, w⟩ := e
    unfold Tab.set at h
    split at h
    · rcases List.mem_cons.1 h with h | h
      · exact .inl h
      · exact .inr (List.mem_cons_of_mem _ h)
    · split at h
      · rcases List.mem_cons.1 h with h | h
        · exact .inl h
        · exact .inr h
      · rcases List.mem_cons.1 h with rfl | h
        · exact .inr (List.mem_cons_self ..)
        · exact (ih h).imp_right (List.mem_cons_of_mem _)

theorem Tab.mem_of_get? {t : Tab α} {k : Nat} {v : α} (h : t.get? k = some v) : (k, v) ∈ t := by
  induction t with
  | nil => cases h
  | cons e t ih =>
    obtain ⟨j, w⟩ := e
    rw [Tab.get?_cons] at h
    split at h
    · rename_i hj
      obtain rfl := Option.some.inj h
      exact hj ▸ List.mem_cons_self ..
    · exact List.mem_cons_of_mem _ (ih h)

theorem Tab.mem_of_mem_del {t : Tab α} {k : Nat} {x : Nat × α} (h : x ∈ t.del k) : x ∈ t := (List.mem_filter.1 h).1

@[simp] theorem Tab.del_single (k : Nat) (v : α) : Tab.del [(k, v)] k = [] := by simp [Tab.del]

@[simp] theorem Tab.get?_single (k : Nat) (v : α) : Tab.get? [(k, v)] k = some v := by simp [Tab.get?]

theorem Tab.has_of_get? {t : Tab α} {k : Nat} {v : α} (h : t.get? k = some v) : t.has k = true := by simp [Tab.has, h]

end

/-! ### The cache of entries and the keeper's table -/

/-- `b` is `a` but for the entries cached here, those kept here, and the changes that wait for the other keeper. -/
structure OnlyMap (a b : State) : Prop where
  dev : ∃ ks kp mq, b.dev = { a.dev with keeper := ks, kpend := kp, maq := mq }
  bytes : SameBytes a b
  out : Grows a b

theorem OnlyMap.refl (a : State) : OnlyMap a a := ⟨⟨a.dev.keeper, a.dev.kpend, a.dev.maq, rfl⟩, .refl a, .refl a⟩

theorem OnlyMap.trans {a b c : State} (h : OnlyMap a b) (k : OnlyMap b c) : OnlyMap a c where
  dev := by
    obtain ⟨_, _, _, e⟩ := h.dev
    obtain ⟨_, _, _, f⟩ := k.dev
    exact ⟨_, _, _, by rw [f, e]⟩
  bytes := h.bytes.trans k.bytes
  out := h.out.trans k.out

section
variable {a b : State} (h : OnlyMap a b)
include h

theorem OnlyMap.calm (q : a.dev.Calm) : b.dev.Calm := by
  obtain ⟨_, _, _, e⟩ := h.dev
  rw [e]
  exact q.of_waiting rfl

theorem OnlyMap.o (i x u : Nat) : b.dev.o i x u = a.dev.o i x u := by
  obtain ⟨_, _, _, e⟩ := h.dev
  rw [e]; rfl

theorem OnlyMap.self : b.dev.self = a.dev.self := h.o ..

theorem OnlyMap.pointing : b.dev.pointing = a.dev.pointing := by
  unfold Dev.pointing Dev.pairState
  rw [h.o]

end

section
variable {s₀ : State}

/-- What caching an entry does: the cache holds it if it held none of the extent; every other entry was held before. -/
structure Cached (a b : State) (e : Nat) (c : MaqC) : Prop where
  dev : ∃ mq, b.dev = { a.dev with maq := mq }
  bytes : SameBytes a b
  out : b.out = a.out
  held : a.dev.maq.get? e = none → b.dev.maq.get? e = some c
  old : ∀ y ∈ b.dev.maq, y = (e, c) ∨ y ∈ a.dev.maq

theorem Cached.onlyMap {a b : State} {e : Nat} {c : MaqC} (h : Cached a b e c) : OnlyMap a b where
  dev := by
    obtain ⟨mq, e⟩ := h.dev
    exact ⟨a.dev.keeper, a.dev.kpend, mq, e⟩
  bytes := h.bytes
  out := .of_eq h.out

/-- Where the cache is full an entry without a pin leaves it. -/
structure Uncached (a b : State) : Prop where
  dev : ∃ mq, b.dev = { a.dev with maq := mq }
  bytes : SameBytes a b
  out : b.out = a.out
  old : ∀ y ∈ b.dev.maq, y ∈ a.dev.maq

theorem Uncached.refl (a : State) : Uncached a a := ⟨⟨a.dev.maq, rfl⟩, .refl a, rfl, fun _ h => h⟩

theorem Uncached.set {a : State} {r : Run s₀} (h : Uncached a r.cur) (e : Nat) (c : MaqC) :
    Cached a (r.mod fun d => { d with maq := d.maq.set e c }).cur e c := by
  obtain ⟨mq, hdev⟩ := h.dev
  exact ⟨⟨_, by rw [Run.mod_dev, hdev]⟩, h.bytes.trans (Run.mod_sameBytes ..), h.out, fun _ => Tab.get?_set_self ..,
    fun y hy => (Tab.mem_set hy).imp_right (h.old y)⟩

theorem Run.cacheEntry_cached (r : Run s₀) (e : Nat) (x : MaqEntry) (pin : Option Nat) :
    Cached r.cur (r.cacheEntry e x pin).cur e { entry := x, pin := pin } := by
  have hdel (k : Nat) : Uncached r.cur (r.mod fun d => { d with maq := d.maq.del k }).cur :=
    ⟨⟨_, rfl⟩, r.mod_sameBytes _, rfl, fun y hy => Tab.mem_of_mem_del hy⟩
  unfold Run.cacheEntry
  cases hg : r.d.maq.get? e with
  | none =>
    dsimp only
    rw [if_pos rfl]
    refine Uncached.set ?_ _ _
    split
    · split
      exacts [hdel _, .refl _]
    · exact .refl _
  | some c =>
    dsimp only
    split
    · refine Uncached.set ?_ _ _
      split
      · split
        exacts [hdel _, .refl _]
      · exact .refl _
    · exact ⟨⟨r.cur.dev.maq, rfl⟩, .refl _, rfl, fun hn => absurd (hg.symm.trans hn) (by simp), fun y hy => .inr hy⟩

/-- The entry of an extent as its keeper writes it: the epoch goes up by one, the generation is the index's (R365, R370). -/
def Dev.nextEntry (d : Dev) (e : Nat) (x : MaqEntry) : MaqEntry :=
  { x with epoch := (d.kept e).epoch + 1, gen := BitVec.ofNat 16 (d.gens.getD (d.indexOf e) 0) }

/-- A keeper that does not point commits its change at once (R368). -/
theorem Run.keeperWrite_alone (r : Run s₀) (e : Nat) (x : MaqEntry) (asker kind other : Nat) (h : r.d.pointing = false) :
    r.keeperWrite e x asker kind other = r.committed e { entry := r.d.nextEntry e x, asker := asker, kind := kind, other := other } := by
  unfold Run.keeperWrite
  dsimp only
  rw [h, if_neg (by decide)]
  rfl

/-- A committed entry stands in the keeper's table and in the cache. -/
def Run.enterEntry (r : Run s₀) (e : Nat) (x : MaqEntry) : Run s₀ :=
  (r.mod fun d => { d with keeper := d.keeper.set e x, kpend := d.kpend.del e }).cacheEntry e x none

/-- What that does. -/
structure Entered (a b : State) (e : Nat) (x : MaqEntry) : Prop extends OnlyMap a b where
  keeper : b.dev.keeper = a.dev.keeper.set e x
  kpend : b.dev.kpend = a.dev.kpend.del e
  maq : ∀ y ∈ b.dev.maq, y = (e, { entry := x, pin := none }) ∨ y ∈ a.dev.maq

theorem Run.enterEntry_entered (r : Run s₀) (e : Nat) (x : MaqEntry) : Entered r.cur (r.enterEntry e x).cur e x := by
  have h := (r.mod fun d => { d with keeper := d.keeper.set e x, kpend := d.kpend.del e }).cacheEntry_cached e x none
  rw [← Run.enterEntry] at h
  obtain ⟨mq, hdev⟩ := h.dev
  have hmod : OnlyMap r.cur (r.mod fun d => { d with keeper := d.keeper.set e x, kpend := d.kpend.del e }).cur :=
    ⟨⟨_, _, r.cur.dev.maq, rfl⟩, r.mod_sameBytes _, .of_eq rfl⟩
  exact ⟨hmod.trans h.onlyMap, by rw [hdev]; rfl, by rw [hdev]; rfl, h.old⟩

/-! ### What a keeper's change brings with it -/

/-- The end of a proposal shows in the dictionary, or is told to who proposed it (R371). -/
theorem Run.proposalEnd_effect (r : Run s₀) (asker : Nat) (st : Status) (epoch : Nat) :
    (∃ ob pr, (r.proposalEnd asker st epoch).cur.dev = { r.cur.dev with obj := ob, prop := pr })
      ∧ SameBytes r.cur (r.proposalEnd asker st epoch).cur ∧ Grows r.cur (r.proposalEnd asker st epoch).cur := by
  unfold Run.proposalEnd
  split
  · exact ⟨⟨r.cur.dev.obj, r.cur.dev.prop, rfl⟩, .refl _, .refl _⟩
  · split
    · exact ⟨⟨_, _, rfl⟩, ⟨rfl, rfl, rfl, rfl, rfl, rfl⟩, .of_eq rfl⟩
    · exact ⟨⟨r.cur.dev.obj, r.cur.dev.prop, rfl⟩, r.emit_sameBytes _, [_], rfl⟩

theorem Run.proposalEnd_tells (r : Run s₀) {asker : Nat} (st : Status) (epoch : Nat) (h : asker < 16384) (hne : asker ≠ r.d.self) :
    r.proposalEnd asker st epoch = r.tell asker (.proposalDone st epoch) := by
  unfold Run.proposalEnd
  rw [if_neg (by omega), beq_eq_false_iff_ne.2 hne, if_neg (by decide)]

theorem Run.tellOrDo_tells (r : Run s₀) {dst : Nat} (m : PMsg) (f : Run s₀ → Run s₀) (h : dst ≠ r.d.self) : r.tellOrDo dst m f = r.tell dst m := by
  unfold Run.tellOrDo
  rw [beq_eq_false_iff_ne.2 h, if_neg (by decide)]

/-- A rewrite is only entered. -/
theorem Run.committed_rewrite (r : Run s₀) (e : Nat) (x : MaqEntry) (asker other : Nat) :
    r.committed e { entry := x, asker := asker, kind := 6, other := other } = r.enterEntry e x := rfl

/-- A freed extent is entered, and its proposal is done. -/
theorem Run.committed_free (r : Run s₀) (e : Nat) (x : MaqEntry) (asker other : Nat) :
    r.committed e { entry := x, asker := asker, kind := 2, other := other } = (r.enterEntry e x).proposalEnd asker .ok x.epoch.toNat := rfl

/-- An assignment is entered, told to the home, and its proposal is done. -/
theorem Run.committed_assign (r : Run s₀) (e : Nat) (c : KChange) (h : c.kind = 1) :
    r.committed e c = ((r.enterEntry e c.entry).tellOrDo c.entry.home.toNat (.assignTold e c.entry) fun r => r.assignTold e c.entry).proposalEnd
      c.asker .ok c.entry.epoch.toNat := by
  unfold Run.committed
  dsimp only
  rw [h]
  rfl

/-- Extents written `LOST` one after another (R382). -/
theorem Run.each_lost (r : Run s₀) (xs : List (Nat × MaqEntry)) (dev : Nat) (h : r.d.pointing = false) :
    let t := (r.each xs fun r k => r.keeperWrite k.1 { k.2 with state := 2 } r.d.self 6 dev).cur
    OnlyMap r.cur t ∧ (∀ y ∈ t.dev.maq, y ∈ r.cur.dev.maq ∨ y.2.entry.state = 2)
      ∧ ∀ e, (∃ x, (e, x) ∈ xs) ∨ (r.cur.dev.keeper.get? e).map (·.state) = some 2 → (t.dev.keeper.get? e).map (·.state) = some 2 := by
  induction xs generalizing r with
  | nil => exact ⟨.refl _, fun y hy => .inl hy, fun e he => he.elim (fun ⟨x, hx⟩ => absurd hx (by simp)) id⟩
  | cons k xs ih =>
    rw [Run.each_cons, r.keeperWrite_alone _ _ _ _ _ h, Run.committed_rewrite]
    have hent := r.enterEntry_entered k.1 (r.d.nextEntry k.1 { k.2 with state := 2 })
    generalize r.enterEntry k.1 _ = r₁ at hent
    obtain ⟨honly, hmaq, hkeeper⟩ := ih r₁ (hent.pointing.trans h)
    refine ⟨hent.toOnlyMap.trans honly, fun y hy => ?_, fun e he => hkeeper e ?_⟩
    · rcases hmaq y hy with hy | hy
      · rcases hent.maq y hy with rfl | hy
        exacts [.inr rfl, .inl hy]
      · exact .inr hy
    · by_cases hk : k.1 = e
      · right
        rw [hent.keeper, hk, Tab.get?_set_self]
        rfl
      · rcases he with ⟨x, hx⟩ | he
        · rcases List.mem_cons.1 hx with rfl | hx
          exacts [absurd rfl hk, .inl ⟨x, hx⟩]
        · right
          rw [hent.keeper, Tab.get?_set_ne _ _ hk]
          exact he

/-! ### An entry that was fetched -/

/-- A link is free by its own state and what is counted of its flits. -/
theorem Dev.LinkFree.congr {d e : Dev} {p : Nat} (h : d.LinkFree p) (hl : e.links = d.links) (ho : e.o p 0x3040 8 = d.o p 0x3040 8) :
    e.LinkFree p := by
  have hlink : e.link p = d.link p := by rw [Dev.link, Dev.link, hl]
  have hroom : e.lackRoom p = d.lackRoom p := by rw [Dev.lackRoom, Dev.lackRoom, Dev.nextOut, Dev.nextOut, hlink, ho]
  exact ⟨hlink ▸ h.idle, hroom ▸ h.room⟩

/-- Over a free link a completion is sent at once, and only counted besides. -/
theorem Run.completePort_free (r : Run s₀) (p dev path reqid : Nat) (c : Compl) (h : r.d.LinkFree p) :
    ∃ ob, (r.completePort p dev path reqid c).cur =
      { r.cur with dev := { r.cur.dev with obj := ob }, out := .compl p dev path reqid c :: r.cur.out } := by
  unfold Run.completePort
  dsimp only
  split
  · have hfree : (r.bump 0 0x7040 2).d.LinkFree p := h.congr rfl (Run.setO_o_ne _ _ _ _ _ _ _ _ (by unfold okey; omega))
    rw [Run.wire_free _ _ _ hfree]
    exact ⟨_, rfl⟩
  · rw [Run.wire_free _ _ _ h]
    exact ⟨_, rfl⟩

/-- The answer to a request that waited for an entry (R377, R366, R373). -/
def entryAnswer (x : MaqEntry) : Compl :=
  if x.state == 2 then Compl.of .lost else if x.state == 0 then Compl.of .fault else ⟨.moved, movedWord x.epoch.toNat x.home.toNat, 0⟩

theorem entryAnswer_eq (x : MaqEntry) : entryAnswer x =
    if x.state = 2 then Compl.of .lost else if x.state = 0 then Compl.of .fault else ⟨.moved, movedWord x.epoch.toNat x.home.toNat, 0⟩ := by
  simp only [entryAnswer, beq_iff_eq]

/-- A fetched entry that one request of a port waited for. -/
theorem Run.fetched_port (r : Run s₀) {e t0 p dev path reqid : Nat} (x : MaqEntry) (hf : r.d.fetch = [(e, t0)])
    (ho : ((r.mod fun d => { d with fetch := d.fetch.del e }).cacheEntry e x (some (r.now + 4 * fetchHint))).d.owed
      = [(e, .port p dev path reqid)]) :
    r.fetched e x = (((r.mod fun d => { d with fetch := d.fetch.del e }).cacheEntry e x (some (r.now + 4 * fetchHint))).mod
      fun d => { d with owed := d.owed.filter fun o => o.1 != e }).completePort p dev path reqid (entryAnswer x) := by
  have hhas : r.d.fetch.has e = true := by rw [hf]; simp [Tab.has]
  unfold Run.fetched
  dsimp only
  rw [hhas, ho]
  simp only [Bool.not_true, Bool.false_eq_true, if_false, List.filter_cons, beq_self_eq_true, if_true, List.filter_nil, Run.each_cons, Run.each_nil]
  rfl

end

/-! ### The commands that change entries -/

theorem exec_assignTold (e : BitVec 32) (entry : MaqEntry) (s : State) :
    exec (.assignTold e entry) s = ((Run.start s).assignTold e.toNat entry).requestDone := rfl

theorem exec_unassignDrained (e : BitVec 32) (s : State) (hr : s.dev.ready = true) :
    exec (.unassignDrained e) s = ((Run.start s).unassignEnd e.toNat).requestDone := by
  show execUnassignDrained e s = _
  unfold execUnassignDrained
  rw [hr]; rfl

theorem exec_keeperCommit_entry (e : BitVec 32) (s : State) {c : KChange} (h : s.dev.kpend.get? e.toNat = some c) :
    exec (.keeperCommit (.entry e)) s = ((Run.start s).committed e.toNat c).requestDone := by
  show ((Run.start s).keeperCommit (.entry e)).requestDone = _
  unfold Run.keeperCommit
  dsimp only
  rw [show (Run.start s).d.kpend.get? e.toNat = some c from h]

theorem exec_keeperFetchReply (e : BitVec 32) (entry : MaqEntry) (s : State) :
    exec (.keeperFetchReply e entry) s = ((Run.start s).fetched e.toNat entry).requestDone := rfl

theorem exec_maquettePinExpire (e : BitVec 32) (s : State) :
    exec (.maquettePinExpire e) s = ((Run.start s).unpinEntry e.toNat).requestDone := rfl

theorem exec_takeoverReport (twin : BitVec 14) (e : BitVec 32) (s : State) :
    exec (.takeoverReport twin e) s = ((Run.start s).takenOver twin.toNat e.toNat).requestDone := rfl

/-- The home is told of a committed assignment (R372). -/
theorem assignTold_answers (e : BitVec 32) (entry : MaqEntry) (x : GEnt) (s : State) (h : ({ s.dev with assigned := [] } : Dev).Idle)
    (ha : s.dev.assigned = [(e.toNat, x)]) (hm : s.dev.maq.get? e.toNat = none) :
    Answers (.assignTold e entry) s fun t => t.dev.assigned = [] ∧ t.dev.maq.get? e.toNat = some { entry := entry, pin := none }
      ∧ t.dev.gran = s.dev.gran ∧ SameBytes s t := by
  have hexec := exec_assignTold e entry s
  have htold : (Run.start s).assignTold e.toNat entry
      = ((Run.start s).mod fun d => { d with assigned := d.assigned.del e.toNat }).cacheEntry e.toNat entry none := by
    unfold Run.assignTold
    rw [show (Run.start s).d.assigned.has e.toNat = true by rw [Run.d, Run.start_cur, ha]; simp [Tab.has], if_neg (by decide)]
  rw [htold] at hexec
  have hcache := ((Run.start s).mod fun d => { d with assigned := d.assigned.del e.toNat }).cacheEntry_cached e.toNat entry none
  have hdel : s.dev.assigned.del e.toNat = [] := by rw [ha]; exact Tab.del_single ..
  obtain ⟨mq, hdev⟩ := hcache.dev
  refine Answers.of_requestDone _ hexec (hcache.onlyMap.calm (h.calm.of_waiting rfl)) ⟨?_, hcache.held hm, ?_, ?_⟩
  · rw [hdev]; exact hdel
  · rw [hdev]; rfl
  · exact (Run.mod_sameBytes ..).trans hcache.bytes

/-- A keeper writes an extent that is freed UNASSIGNED (R373). -/
theorem unassignDrained_keeper_answers (e : BitVec 32) (s : State) (h : s.dev.Idle) (hr : s.dev.ready = true)
    (hhome : s.dev.homed e.toNat = false) (hk : s.dev.keeps e.toNat = true) (hu : s.dev.unassign = [e.toNat]) (hp : s.dev.pointing = false) :
    Answers (.unassignDrained e) s fun t => t.dev.unassign = [] ∧ SameBytes s t
      ∧ (t.dev.keeper.get? e.toNat).map (fun x => (x.state, x.epoch)) = some (0, (s.dev.kept e.toNat).epoch + 1) := by
  have hexec := exec_unassignDrained e s hr
  have hfree : (Run.start s).unassignEnd e.toNat
      = ((Run.start s).mod fun d => { d with unassign := d.unassign.filter (· != e.toNat) }).keeperWrite e.toNat
        { s.dev.kept e.toNat with state := 0 } s.dev.self 2 s.dev.self := by
    unfold Run.unassignEnd
    dsimp only
    rw [show (Run.start s).d.homed e.toNat = false from hhome, show (Run.start s).d.keeps e.toNat = true from hk,
      show (Run.start s).d.unassign = [e.toNat] from hu, if_neg (by decide), if_pos (by simp)]
    rfl
  rw [hfree, Run.keeperWrite_alone _ _ _ _ _ _ hp, Run.committed_free] at hexec
  generalize hr₁ : (Run.start s).mod _ = r₁ at hexec
  have hdel : r₁.cur.dev.unassign = [] := by subst hr₁; show s.dev.unassign.filter _ = []; rw [hu]; simp
  have hbytes : SameBytes s r₁.cur := hr₁ ▸ (Run.start s).mod_sameBytes _
  have hkept : r₁.d.kept e.toNat = s.dev.kept e.toNat := hr₁ ▸ rfl
  have hcalm : r₁.d.Calm := hr₁ ▸ h.calm.of_waiting rfl
  have hent := r₁.enterEntry_entered e.toNat (r₁.d.nextEntry e.toNat { s.dev.kept e.toNat with state := 0 })
  generalize r₁.enterEntry _ _ = r₂ at hexec hent
  have hend := r₂.proposalEnd_effect s.dev.self .ok (r₁.d.nextEntry e.toNat { s.dev.kept e.toNat with state := 0 }).epoch.toNat
  generalize r₂.proposalEnd _ _ _ = r₃ at hexec hend
  obtain ⟨⟨_, _, hdev⟩, hbytes', -⟩ := hend
  obtain ⟨_, _, _, hdev₂⟩ := hent.dev
  refine Answers.of_requestDone _ hexec ?_ ⟨?_, (hbytes.trans hent.bytes).trans hbytes', ?_⟩
  · rw [Run.d, hdev]
    exact (hent.calm hcalm).of_waiting rfl
  · rw [hdev, hdev₂]; exact hdel
  · rw [hdev]
    show (r₂.cur.dev.keeper.get? e.toNat).map _ = _
    rw [hent.keeper, Tab.get?_set_self, ← hkept]
    rfl

/-- An assignment that the other keeper has is committed, told to the home and to who proposed it (R368, R372). -/
theorem keeperCommit_assign_answers (e : BitVec 32) (c : KChange) (s : State) (h : s.dev.Idle) (hk : s.dev.kpend = [(e.toNat, c)])
    (h1 : c.kind = 1) (ha : c.asker < 16384) (hne : c.asker ≠ s.dev.self) (hhome : c.entry.home.toNat ≠ s.dev.self) :
    Answers (.keeperCommit (.entry e)) s fun t => t.dev.kpend = [] ∧ t.dev.keeper.get? e.toNat = some c.entry
      ∧ Sends s t (.plinth c.entry.home.toNat (.assignTold e.toNat c.entry))
      ∧ Sends s t (.plinth c.asker (.proposalDone .ok c.entry.epoch.toNat)) ∧ SameBytes s t := by
  have hexec := exec_keeperCommit_entry e s (c := c) (by rw [hk]; exact Tab.get?_single ..)
  have hent := (Run.start s).enterEntry_entered e.toNat c.entry
  rw [Run.committed_assign _ _ _ h1] at hexec
  generalize (Run.start s).enterEntry _ _ = r at hent hexec
  have hself : r.d.self = s.dev.self := hent.self
  rw [Run.tellOrDo_tells _ _ _ (hself ▸ hhome), Run.proposalEnd_tells _ _ _ ha (hself ▸ hne)] at hexec
  refine Answers.of_requestDone _ hexec ((hent.calm h.calm).of_waiting rfl) ⟨?_, ?_, (Sends.emit r _).grow ⟨[_], rfl⟩, Sends.emit _ _, ?_⟩
  · show r.cur.dev.kpend = []
    rw [hent.kpend, Run.start_cur, hk]
    exact Tab.del_single ..
  · show r.cur.dev.keeper.get? e.toNat = _
    rw [hent.keeper]
    exact Tab.get?_set_self ..
  · exact (hent.bytes.trans (Run.emit_sameBytes ..)).trans (Run.emit_sameBytes ..)

/-- A fetched entry is cached, pinned, and answers the request that waited for it (R369, R377). -/
theorem keeperFetchReply_answers (e : BitVec 32) (entry : MaqEntry) (t0 p dev path reqid : Nat) (s : State) (h : s.dev.Quiet)
    (hf : s.dev.fetch = [(e.toNat, t0)]) (hm : s.dev.maq.get? e.toNat = none) (ho : s.dev.owed = [(e.toNat, .port p dev path reqid)])
    (hl : s.dev.LinkFree p) :
    Answers (.keeperFetchReply e entry) s fun t => t.dev.fetch = [] ∧ t.dev.owed = [] ∧ SameBytes s t
      ∧ t.dev.maq.get? e.toNat = some { entry := entry, pin := some (s.dev.now + 4 * us 7) }
      ∧ Sends s t (.compl p dev path reqid (if entry.state = 2 then Compl.of .lost else if entry.state = 0 then Compl.of .fault
          else ⟨.moved, movedWord entry.epoch.toNat entry.home.toNat, 0⟩)) := by
  have hexec := exec_keeperFetchReply e entry s
  have hcache := ((Run.start s).mod fun d => { d with fetch := d.fetch.del e.toNat }).cacheEntry_cached e.toNat entry
    (some ((Run.start s).now + 4 * fetchHint))
  obtain ⟨mq, hdev⟩ := hcache.dev
  rw [(Run.start s).fetched_port entry hf (by rw [Run.d, hdev]; exact ho)] at hexec
  generalize Run.cacheEntry _ _ _ _ = r at hcache hdev hexec
  have hbytes : SameBytes s r.cur := (Run.mod_sameBytes (Run.start s) _).trans hcache.bytes
  have hfree : (r.mod fun d => { d with owed := d.owed.filter fun o => o.1 != e.toNat }).d.LinkFree p := by
    refine hl.congr ?_ ?_ <;> simp only [Run.d, Run.mod_dev, hdev] <;> rfl
  obtain ⟨ob, hcur⟩ := Run.completePort_free _ p dev path reqid (entryAnswer entry) hfree
  generalize Run.completePort _ _ _ _ _ _ = r₂ at hexec hcur
  refine Answers.of_requestDone _ hexec ?_ ⟨?_, ?_, ?_, ?_, ?_⟩
  · rw [Run.d, hcur]
    simp only [Run.mod_dev, hdev]
    exact h.calm.of_waiting rfl
  · rw [hcur]
    simp only [Run.mod_dev, hdev, Run.start_cur, hf, Tab.del_single]
  · rw [hcur]
    simp only [Run.mod_dev, hdev, Run.start_cur, ho]
    simp
  · rw [hcur]
    exact ⟨hbytes.mem, hbytes.flash, hbytes.copy, hbytes.bad, hbytes.fbad, hbytes.cbad⟩
  · rw [hcur]
    exact hcache.held hm
  · rw [← entryAnswer_eq, hcur]
    refine ⟨[_], ?_, List.mem_singleton.2 rfl⟩
    simp only [Run.mod_out, hcache.out, Run.start_cur, List.singleton_append]

/-- The pin of a fetched entry ends (R369). -/
theorem maquettePinExpire_answers (e : BitVec 32) (entry : MaqEntry) (t0 : Nat) (s : State) (h : s.dev.Quiet)
    (hm : s.dev.maq.get? e.toNat = some { entry := entry, pin := some t0 }) (ht : t0 ≤ s.dev.now) :
    Answers (.maquettePinExpire e) s fun t => t.dev.maq.get? e.toNat = some { entry := entry, pin := none } ∧ SameBytes s t := by
  have hexec := exec_maquettePinExpire e s
  have hunpin : (Run.start s).unpinEntry e.toNat
      = (Run.start s).mod fun d => { d with maq := d.maq.set e.toNat { entry := entry, pin := none } } := by
    unfold Run.unpinEntry
    rw [show (Run.start s).d.maq.get? e.toNat = _ from hm]
    exact if_pos ht
  rw [hunpin] at hexec
  exact Answers.of_requestDone _ hexec (h.calm.of_waiting rfl) ⟨Tab.get?_set_self .., (Run.start s).mod_sameBytes _⟩

/-- The twin of a failed home becomes the home of a protected extent (R382). -/
theorem takeoverReport_answers (twin : BitVec 14) (e : BitVec 32) (x : MaqEntry) (s : State) (h : s.dev.Idle) (hk : s.dev.keeps e.toNat = true)
    (hx : s.dev.kept e.toNat = x) (hp : x.prot = true) (hs : x.state = 1) (ht : x.twin = twin) (hf : s.dev.roleOf x.home.toNat = 5)
    (hpoint : s.dev.pointing = false) :
    Answers (.takeoverReport twin e) s fun t => SameBytes s t
      ∧ (t.dev.keeper.get? e.toNat).map (fun y => (y.home, y.twin, y.epoch)) = some (twin, 0x3FFF, x.epoch + 1) := by
  have hexec := exec_takeoverReport twin e s
  have htaken : (Run.start s).takenOver twin.toNat e.toNat
      = (Run.start s).keeperWrite e.toNat { x with home := x.twin, twin := 0x3FFF } s.dev.self 6 twin.toNat := by
    unfold Run.takenOver
    dsimp only
    rw [show (Run.start s).d.kept e.toNat = x from hx, show (Run.start s).d.keeps e.toNat = true from hk, hp, hs, ht,
      show (Run.start s).d.roleOf x.home.toNat = 5 from hf, if_pos (by simp)]
    rfl
  rw [htaken, Run.keeperWrite_alone _ _ _ _ _ _ hpoint, Run.committed_rewrite] at hexec
  have hent := (Run.start s).enterEntry_entered e.toNat ((Run.start s).d.nextEntry e.toNat { x with home := x.twin, twin := 0x3FFF })
  refine Answers.of_requestDone _ hexec (hent.calm h.calm) ⟨hent.bytes, ?_⟩
  rw [hent.keeper, Tab.get?_set_self]
  show some (x.twin, (0x3FFF : BitVec 14), ((Run.start s).d.kept e.toNat).epoch + 1) = _
  rw [ht, show (Run.start s).d.kept e.toNat = x from hx]

/-! ### The device table, and records that expire -/

/-- A keeper serves its extents still when another device has failed (R367). -/
theorem Dev.keeps_failed {d : Dev} {dev e : Nat} {row : DevRow} {mq : Tab MaqC} (h : d.keeps e = true) (hr : row.role = 5) (hne : dev ≠ d.self) :
    ({ d with devs := d.devs.set dev row, maq := mq } : Dev).keeps e = true := by
  simp only [Dev.keeps, Bool.and_eq_true, beq_iff_eq] at h ⊢
  refine ⟨h.1, ?_⟩
  have hkeeper := h.2
  show Dev.keeperOf _ (d.indexOf e) = d.self
  rw [Dev.keeperFor, ← Dev.indexOf] at hkeeper
  unfold Dev.keeperOf at hkeeper ⊢
  dsimp only at hkeeper ⊢
  generalize d.kpairs.getD (d.indexOf e) (0, 0) = ab at hkeeper ⊢
  obtain ⟨a, b⟩ := ab
  by_cases ha : dev = a
  · subst ha
    rw [Tab.getD_set_self, hr, if_pos (by decide)]
    split at hkeeper
    exacts [hkeeper, absurd hkeeper hne]
  · rw [Tab.getD_set_ne _ _ _ ha]
    exact hkeeper

section
variable {s₀ : State}

/-- Another device fails, to which no extent moves: what is cached of it is dropped, and its entries kept here that no twin holds are lost
(R370, R382). -/
theorem Run.deviceRow_failed (r : Run s₀) (dev : Nat) (row : DevRow) (hr : row.role = 5) (hne : dev ≠ r.d.self) (hx : r.d.exts = []) :
    r.deviceRow dev row = (r.mod fun d => { d with
        devs := d.devs.set dev row, maq := d.maq.keep fun _ c => c.entry.home.toNat != dev }).each
      (r.d.keeper.filter fun k => ({ r.d with devs := r.d.devs.set dev row, maq := r.d.maq.keep fun _ c => c.entry.home.toNat != dev } : Dev).keeps k.1
        && k.2.home.toNat == dev && k.2.state == 1 && (!k.2.prot || k.2.twin == 0x3FFF))
      fun r k => r.keeperWrite k.1 { k.2 with state := 2 } r.d.self 6 dev := by
  have hself : (dev == (r.mod fun d => { d with devs := d.devs.set dev row }).d.self) = false := beq_eq_false_iff_ne.2 hne
  have hup : (row.role == 2 || row.role == 3) = false := by rw [hr]; rfl
  have hfails : (row.role != 5) = false := by rw [hr]; rfl
  unfold Run.deviceRow
  dsimp only
  simp only [hup, hfails, hself, Bool.not_false, Bool.or_true, Bool.true_or, Bool.false_and, Bool.false_eq_true, if_true, if_false]
  simp only [Run.d, Run.mod_dev] at hx ⊢
  rw [hx]
  rfl

/-- A device that serves is only entered in the table (R370). -/
theorem Run.deviceRow_serves (r : Run s₀) (dev : Nat) (row : DevRow) (hr : row.role = 2) (hready : r.d.ready = true) :
    ∃ ob, (∀ u, okey 0 0x7000 2 ≠ u → ob.get? u = r.d.obj.get? u)
      ∧ (r.deviceRow dev row).cur = { r.cur with dev := { r.cur.dev with devs := r.cur.dev.devs.set dev row, obj := ob } } := by
  have hready' : (r.mod fun d => { d with devs := d.devs.set dev row }).d.ready = true := hready
  have hfails : (row.role == 5) = false := by rw [hr]; rfl
  unfold Run.deviceRow
  dsimp only
  simp only [hready', hfails, bne, Bool.true_or, Bool.and_false, Bool.false_and, Bool.not_false, Bool.false_eq_true, if_true, if_false]
  split
  · exact ⟨_, fun u hu => Tab.get?_set_ne _ _ hu, rfl⟩
  · exact ⟨r.d.obj, fun _ _ => rfl, rfl⟩

/-- A generation that rises (R370). -/
theorem Run.generation_newer (r : Run s₀) (i g : Nat) (h : newerBy 16 g (r.d.gens.getD i 0) = true) :
    r.generation i g = r.mod fun d => { d with
      gens := d.gens.set i g, maq := d.maq.keep fun e c => !(d.indexOf e == i && newerBy 16 g c.entry.gen.toNat) } := by
  unfold Run.generation
  rw [h, if_pos rfl]

end

theorem exec_deviceTableUpdate (dev : BitVec 14) (row : DevRow) (gens : List (Fin 256 × BitVec 16)) (s : State) :
    exec (.deviceTableUpdate dev row gens) s
      = (((Run.start s).deviceRow dev.toNat row).each gens fun r g => r.generation g.1.val g.2.toNat).requestDone := rfl

/-- A device fails (R382). -/
theorem deviceTableUpdate_failed_answers (dev : BitVec 14) (row : DevRow) (s : State) (h : s.dev.Idle) (hr : row.role = 5)
    (hne : dev.toNat ≠ s.dev.self) (hp : s.dev.pointing = false) :
    Answers (.deviceTableUpdate dev row []) s fun t => t.dev.devs.get? dev.toNat = some row ∧ SameBytes s t
      ∧ (∀ x ∈ t.dev.maq, x.2.entry.home = dev → x.2.entry.state = 2)
      ∧ ∀ e x, s.dev.keeper.get? e = some x → s.dev.keeps e = true → x.home = dev →
          x.state = 1 → x.prot = false → (t.dev.keeper.get? e).map (·.state) = some 2 := by
  have hexec := exec_deviceTableUpdate dev row [] s
  rw [Run.each_nil, (Run.start s).deviceRow_failed dev.toNat row hr hne h.exts] at hexec
  generalize hes : List.filter _ _ = es at hexec
  generalize hr₁ : (Run.start s).mod _ = r₁ at hexec
  have hpoint : r₁.d.pointing = false := hr₁ ▸ hp
  have hcalm : r₁.d.Calm := hr₁ ▸ h.calm.of_waiting rfl
  have hbytes : SameBytes s r₁.cur := hr₁ ▸ (Run.start s).mod_sameBytes _
  have hrow : r₁.cur.dev.devs.get? dev.toNat = some row := hr₁ ▸ Tab.get?_set_self ..
  have hkept : ∀ y ∈ r₁.cur.dev.maq, y.2.entry.home.toNat ≠ dev.toNat := fun y hy => by
    subst hr₁
    simp only [Run.mod_dev] at hy
    simpa using Tab.keep_mem hy
  obtain ⟨honly, hmaq, hkeeper⟩ := r₁.each_lost es dev.toNat hpoint
  generalize r₁.each es _ = r₂ at honly hmaq hkeeper hexec
  obtain ⟨_, _, _, hdev⟩ := honly.dev
  refine Answers.of_requestDone _ hexec (honly.calm hcalm) ⟨?_, hbytes.trans honly.bytes, fun y hy hhome => ?_, fun e x hx hk hhome hs hprot => ?_⟩
  · rw [hdev]; exact hrow
  · rcases hmaq y hy with hy | hy
    exacts [absurd (congrArg BitVec.toNat hhome) (hkept y hy), hy]
  · refine hkeeper e (.inl ⟨x, ?_⟩)
    rw [← hes]
    refine List.mem_filter.2 ⟨Tab.mem_of_get? hx, ?_⟩
    have hkeeps := Dev.keeps_failed (mq := s.dev.maq.keep fun _ c => c.entry.home.toNat != dev.toNat) hk hr hne
    simp only [Run.d, Run.start_cur, hkeeps, hhome, hs, hprot, beq_self_eq_true, Bool.and_self, Bool.not_false, Bool.true_or]

/-- A generation rises (R370). -/
theorem deviceTableUpdate_generation_answers (dev : BitVec 14) (row : DevRow) (i : Fin 256) (g : BitVec 16) (s : State) (h : s.dev.Idle)
    (hr : row.role = 2) (hready : s.dev.ready = true) (hg : newerBy 16 g.toNat (s.dev.gens.getD i.val 0) = true) :
    Answers (.deviceTableUpdate dev row [(i, g)]) s fun t => t.dev.devs.get? dev.toNat = some row ∧ t.dev.gens.get? i.val = some g.toNat
      ∧ (∀ x ∈ t.dev.maq, s.dev.indexOf x.1 = i.val → newerBy 16 g.toNat x.2.entry.gen.toNat = false) ∧ SameBytes s t := by
  have hexec := exec_deviceTableUpdate dev row [(i, g)] s
  obtain ⟨ob, hob, hcur⟩ := (Run.start s).deviceRow_serves dev.toNat row hr hready
  rw [Run.each_cons, Run.each_nil] at hexec
  generalize (Run.start s).deviceRow _ _ = r at hcur hexec
  have hgens : r.d.gens = s.dev.gens := by rw [Run.d, hcur]; rfl
  have hindex : ∀ e, r.d.indexOf e = s.dev.indexOf e := fun e => by
    have ho : r.d.o 0 0x7010 1 = s.dev.o 0 0x7010 1 := by
      rw [Run.d, hcur]
      unfold Dev.o
      dsimp only
      rw [hob _ (by decide)]
      rfl
    rw [Dev.indexOf, Dev.indexOf, ho]
  rw [r.generation_newer _ _ (hgens ▸ hg)] at hexec
  refine Answers.of_requestDone _ hexec ?_ ⟨?_, Tab.get?_set_self .., fun x hx hi => ?_, ?_⟩
  · have hcalm : r.d.Calm := by rw [Run.d, hcur]; exact h.calm.of_waiting rfl
    exact hcalm.of_waiting rfl
  · show r.cur.dev.devs.get? _ = _
    rw [hcur]
    exact Tab.get?_set_self ..
  · simp only [Run.mod_dev] at hx
    have hkeep := Tab.keep_mem hx
    rw [← Run.d, hindex, hi] at hkeep
    simpa using hkeep
  · have hbytes : SameBytes s r.cur := by rw [hcur]; exact ⟨rfl, rfl, rfl, rfl, rfl, rfl⟩
    exact hbytes.trans (Run.mod_sameBytes ..)

/-- A departed record expires after a second (R377). -/
theorem departedRecordExpire_answers (e : BitVec 32) (x : Depart) (s : State) (h : s.dev.Quiet) (hx : s.dev.depart.get? e.toNat = some x)
    (ht : x.at_ + us 1000000 ≤ s.dev.now) :
    Answers (.departedRecordExpire e) s fun t => t.dev.depart.get? e.toNat = none ∧ SameBytes s t := by
  have hexec : exec (.departedRecordExpire e) s = ((Run.start s).mod fun d => { d with depart := d.depart.del e.toNat }).requestDone := by
    show execDepartedRecordExpire e s = _
    unfold execDepartedRecordExpire
    rw [hx]
    exact if_neg (by omega)
  exact Answers.of_requestDone _ hexec (h.calm.of_waiting rfl) ⟨Tab.get?_del_self .., (Run.start s).mod_sameBytes _⟩

/-- A forward record expires after 100 ms, and is counted (R378). -/
theorem forwardRecordExpire_answers (dev : BitVec 14) (agent : BitVec 16) (reqid : BitVec 32) (f : FwdRec) (s : State) (h : s.dev.Quiet)
    (hf : s.dev.fwds = [f]) (hd : f.dev = dev.toNat) (ha : f.agent = agent.toNat) (hi : f.reqid = reqid.toNat)
    (ht : f.at_ + us 100000 ≤ s.dev.now) :
    Answers (.forwardRecordExpire dev agent reqid) s fun t => t.dev.fwds = []
      ∧ t.dev.o 0 0x7040 6 = (s.dev.o 0 0x7040 6 + 1) % 2 ^ oWidth 0x7040 6 ∧ SameBytes s t := by
  have hexec : exec (.forwardRecordExpire dev agent reqid) s
      = (((Run.start s).mod fun d => { d with fwds := [] }).bumpBy 0 0x7040 6 1).requestDone := by
    show execForwardRecordExpire dev agent reqid s = _
    unfold execForwardRecordExpire
    have hmod : ((Run.start s).mod fun d => { d with fwds := d.fwds.filter fun f => !(f.dev == dev.toNat && f.agent == agent.toNat
        && f.reqid == reqid.toNat && decide (f.at_ + us 100000 ≤ s.dev.now)) }) = (Run.start s).mod fun d => { d with fwds := [] } := by
      refine Run.ext' ?_
      simp [Run.mod, hf, hd, ha, hi, ht]
    dsimp only
    rw [hmod, hf]
    simp [hd, ha, hi, ht]
  exact Answers.of_requestDone _ hexec (h.calm.of_waiting rfl) ⟨rfl, Run.setO_o_self .., ⟨rfl, rfl, rfl, rfl, rfl, rfl⟩⟩

end Sys2Proof.Machine
end

section
/-! PROOFS. Extents: the granules that an extent gains and gives up, and the statement on the map's entries (R27, R372, R373, R430). -/
namespace Sys2Proof.Machine

/-! ### An extent is freed -/

/-- What freeing an extent does: its granules are gone, its bytes read 0, and what the frame of the map rests on stays. -/
structure Freed (a b : State) (e : Nat) : Prop where
  gran : b.dev.gran = a.dev.gran.keep fun g _ => g / 512 != e
  obj : b.dev.obj = a.dev.obj
  kpairs : b.dev.kpairs = a.dev.kpairs
  devs : b.dev.devs = a.dev.devs
  bring : b.dev.bring = a.dev.bring
  calm : a.dev.Calm → b.dev.Calm
  mem : b.mem = Mem.clear a.mem (e * 2 ^ 30) (e * 2 ^ 30 + 2 ^ 30)
  flash : b.flash = Mem.clear a.flash (e * 2 ^ 30) (e * 2 ^ 30 + 2 ^ 30)
  out : Grows a b

/-- The bytes of an extent lie in the range that is cleared. -/
theorem Mem.get_clear_extent (m : List Host.Cell) (e x : Nat) :
    Mem.get (Mem.clear m (e * 2 ^ 30) (e * 2 ^ 30 + 2 ^ 30)) x = if x / 2 ^ 30 = e then 0 else Mem.get m x := by
  rw [Mem.get_clear]
  exact if_congr (by omega) rfl rfl

section
variable {a b : State} {e : Nat} (h : Freed a b e)
include h

theorem Freed.homed : b.dev.homed e = false := by
  unfold Dev.homed
  rw [h.gran, List.any_eq_false]
  intro x hx
  simpa using Tab.keep_mem hx

theorem Freed.keeperFor (i : Nat) : b.dev.keeperFor i = a.dev.keeperFor i := by
  unfold Dev.keeperFor Dev.keeperOf Dev.o
  rw [h.obj, h.kpairs, h.devs]

theorem Freed.keeps (i : Nat) : b.dev.keeps i = a.dev.keeps i := by
  unfold Dev.keeps Dev.indexOf Dev.self Dev.o
  rw [h.keeperFor, h.obj, h.kpairs]

end

section
variable {s₀ : State}

theorem Run.freeExtent_freed (r : Run s₀) (e : Nat) : Freed r.cur (r.freeExtent e).cur e := by
  unfold Run.freeExtent
  dsimp only
  split
  · exact ⟨rfl, rfl, rfl, rfl, rfl, fun h => h.of_waiting rfl, rfl, rfl, ⟨[_], rfl⟩⟩
  · exact ⟨rfl, rfl, rfl, rfl, rfl, fun h => h.of_waiting rfl, rfl, rfl, .refl _⟩

/-! ### An extent is entered -/

/-- There are always as many free slots as are asked for: the slots in use are fewer than those looked through. -/
theorem Dev.freeSlots_length (d : Dev) (tier k : Nat) : (d.freeSlots tier k).length = k := by
  unfold Dev.freeSlots
  dsimp only
  generalize d.usedSlots tier = used
  have hused : ((List.range (used.length + k)).filter fun i => used.contains i).length ≤ used.length :=
    (List.subperm_of_subset (List.nodup_range.filter _) fun i hi => by simpa using (List.mem_filter.1 hi).2).length_le
  have hsplit := List.length_eq_length_filter_add (l := List.range (used.length + k)) fun i => used.contains i
  rw [List.length_range] at hsplit
  rw [List.length_take]
  omega

/-- One granule of an extent that is entered takes its slot (R27, R36). -/
def Run.enterGranule (tier part : Nat) (prot : Bool) (r : Run s₀) (x : Nat × Nat) : Run s₀ :=
  r.mod fun d => { d with
    gran := d.gran.set x.1 { tier := tier, opened := tier == 2, prot := prot, part := part, slot := x.2 }
    flog := if tier == 2 then d.flog.set x.1 { slot := x.2, opened := true, part := part, prot := prot } else d.flog
    dirtyAt := if tier == 2 then d.dirtyAt.set x.1 d.now else d.dirtyAt
    exposed := if prot && !d.pointing then Marks.add d.exposed x.1 else d.exposed }

/-- `b` is `a` but for granules: their map, the flash log of it, and the marks of what is dirty or exposed. -/
structure OnlyGranules (a b : State) : Prop where
  dev : ∃ gr fl di ex, b.dev = { a.dev with gran := gr, flog := fl, dirtyAt := di, exposed := ex }
  bytes : SameBytes a b
  out : b.out = a.out

theorem OnlyGranules.refl (a : State) : OnlyGranules a a := ⟨⟨a.dev.gran, a.dev.flog, a.dev.dirtyAt, a.dev.exposed, rfl⟩, .refl a, rfl⟩

theorem OnlyGranules.trans {a b c : State} (h : OnlyGranules a b) (k : OnlyGranules b c) : OnlyGranules a c where
  dev := by
    obtain ⟨_, _, _, _, e⟩ := h.dev
    obtain ⟨_, _, _, _, f⟩ := k.dev
    exact ⟨_, _, _, _, by rw [f, e]⟩
  bytes := h.bytes.trans k.bytes
  out := k.out.trans h.out

theorem OnlyGranules.calm {a b : State} (h : OnlyGranules a b) (q : a.dev.Calm) : b.dev.Calm := by
  obtain ⟨_, _, _, _, e⟩ := h.dev
  rw [e]
  exact q.of_waiting rfl

theorem Run.enterGranule_onlyGranules (tier part : Nat) (prot : Bool) (r : Run s₀) (x : Nat × Nat) :
    OnlyGranules r.cur (r.enterGranule tier part prot x).cur := ⟨⟨_, _, _, _, rfl⟩, r.mod_sameBytes _, rfl⟩

/-- Granules entered one after another: each stands in its tier, for its partition; every other stands as it stood. -/
theorem Run.each_enterGranule (r : Run s₀) (xs : List (Nat × Nat)) (tier part : Nat) (prot : Bool) (k : Nat) :
    OnlyGranules r.cur (r.each xs (Run.enterGranule tier part prot)).cur
      ∧ ((r.each xs (Run.enterGranule tier part prot)).cur.dev.gran.get? k).map (fun x => (x.tier, x.part, x.prot, x.state))
        = if k ∈ xs.map Prod.fst then some (tier, part, prot, 0) else (r.cur.dev.gran.get? k).map fun x => (x.tier, x.part, x.prot, x.state) := by
  induction xs generalizing r with
  | nil => exact ⟨.refl _, rfl⟩
  | cons x xs ih =>
    obtain ⟨honly, hgran⟩ := ih (r.enterGranule tier part prot x)
    rw [Run.each_cons]
    refine ⟨(r.enterGranule_onlyGranules tier part prot x).trans honly, hgran.trans ?_⟩
    have hset : (r.enterGranule tier part prot x).cur.dev.gran
        = r.cur.dev.gran.set x.1 { tier := tier, opened := tier == 2, prot := prot, part := part, slot := x.2 } := rfl
    rw [hset, List.map_cons]
    by_cases hx : x.1 = k
    · rw [hx, Tab.get?_set_self, if_pos (List.mem_cons_self ..)]
      exact ite_self _
    · rw [Tab.get?_set_ne _ _ hx]
      exact if_congr ⟨List.mem_cons_of_mem _, fun hk => (List.mem_cons.1 hk).resolve_left (Ne.symm hx)⟩ rfl rfl

/-- An extent that is entered has its 512 granules in the tier (R27). -/
theorem Run.enterExtent_granules (r : Run s₀) (e tier part : Nat) (prot : Bool) :
    OnlyGranules r.cur (r.enterExtent e tier part prot).cur
      ∧ ∀ i, i < 512 → ((r.enterExtent e tier part prot).cur.dev.gran.get? (512 * e + i)).map (fun x => (x.tier, x.part, x.prot, x.state))
        = some (tier, part, prot, 0) := by
  have hent : r.enterExtent e tier part prot
      = r.each (((List.range 512).map (512 * e + ·)).zip (r.d.freeSlots tier 512)) (Run.enterGranule tier part prot) := rfl
  rw [hent]
  refine ⟨(r.each_enterGranule _ tier part prot 0).1, fun i hi => (r.each_enterGranule _ tier part prot (512 * e + i)).2.trans (if_pos ?_)⟩
  rw [List.map_fst_zip (by rw [Dev.freeSlots_length, List.length_map, List.length_range])]
  exact List.mem_map.2 ⟨i, List.mem_range.2 hi, rfl⟩

/-- A granule that was not recovered is entered as lost, without a slot (R430). -/
def Run.fillLost (x : GEnt) (r : Run s₀) (g : Nat) : Run s₀ :=
  if r.d.gran.has g then r else r.mod fun d => { d with gran := d.gran.set g x }

theorem Run.fillLost_onlyGranules (x : GEnt) (r : Run s₀) (g : Nat) : OnlyGranules r.cur (r.fillLost x g).cur := by
  unfold Run.fillLost
  split
  · exact .refl _
  · exact ⟨⟨_, r.cur.dev.flog, r.cur.dev.dirtyAt, r.cur.dev.exposed, rfl⟩, r.mod_sameBytes _, rfl⟩

theorem Run.fillLost_get? (x : GEnt) (r : Run s₀) (g k : Nat) :
    (r.fillLost x g).cur.dev.gran.get? k = (r.cur.dev.gran.get? k).or (if k = g then some x else none) := by
  unfold Run.fillLost
  cases hg : r.d.gran.get? g with
  | some y =>
    rw [if_pos (Tab.has_of_get? hg)]
    split
    · subst k
      rw [show r.cur.dev.gran.get? g = some y from hg]
      rfl
    · exact (Option.or_none ..).symm
  | none =>
    rw [if_neg (by simp [Tab.has, hg])]
    show (r.d.gran.set g x).get? k = _
    split
    · subst k
      rw [Tab.get?_set_self, show r.cur.dev.gran.get? g = none from hg]
      rfl
    · rename_i hk
      rw [Tab.get?_set_ne _ _ (Ne.symm hk)]
      exact (Option.or_none ..).symm

theorem Run.each_fillLost (r : Run s₀) (x : GEnt) (gs : List Nat) (k : Nat) :
    OnlyGranules r.cur (r.each gs (Run.fillLost x)).cur
      ∧ (r.each gs (Run.fillLost x)).cur.dev.gran.get? k = (r.cur.dev.gran.get? k).or (if k ∈ gs then some x else none) := by
  induction gs generalizing r with
  | nil => exact ⟨.refl _, by simp⟩
  | cons g gs ih =>
    obtain ⟨honly, hgran⟩ := ih (r.fillLost x g)
    refine ⟨(r.fillLost_onlyGranules x g).trans honly, hgran.trans ?_⟩
    rw [Run.fillLost_get?, Option.or_assoc]
    by_cases hk : k = g <;> simp [hk]

end

/-! ### The home of an extent -/

theorem exec_assignSlots (keeper : BitVec 14) (e : BitVec 32) (tier : BitVec 2) (prot : Bool) (part : BitVec 8) (s : State) (hr : s.dev.ready = true) :
    exec (.assignSlots keeper e tier prot part) s
      = ((Run.start s).slotsAsked keeper.toNat e.toNat tier.toNat part.toNat prot).requestDone := by
  show execAssignSlots keeper e tier prot part s = _
  unfold execAssignSlots
  rw [hr]; rfl

theorem exec_reclaimList (reporter : BitVec 14) (as : List ReclaimAnswer) (s : State) :
    exec (.reclaimList reporter as) s = ((Run.start s).reclaimed reporter.toNat as).requestDone := rfl

/-- The home gives an extent slots and answers its keeper (R27, R372). -/
theorem assignSlots_answers (keeper : BitVec 14) (e : BitVec 32) (tier : BitVec 2) (prot : Bool) (part : BitVec 8) (s : State) (h : s.dev.Idle)
    (hr : s.dev.ready = true) (hm : s.dev.maq.get? e.toNat = none) (hk : keeper.toNat = s.dev.keeperFor e.toNat) (ht : tier.toNat < 2)
    (htake : s.dev.mayTake e.toNat tier.toNat part.toNat prot false = .ok) :
    Answers (.assignSlots keeper e tier prot part) s fun t => t.dev.assigned.has e.toNat = true
      ∧ Sends s t (.plinth keeper.toNat (.slotsAnswer e.toNat .ok))
      ∧ (∀ i, i < 512 → (t.dev.gran.get? (512 * e.toNat + i)).map (fun x => (x.tier, x.part, x.prot, x.state)) =
          some (tier.toNat, part.toNat, prot, 0))
      ∧ ∀ a, Mem.get t.mem a = if a / 2 ^ 30 = e.toNat then 0 else Mem.get s.mem a := by
  have hexec := exec_assignSlots keeper e tier prot part s hr
  have hasked : (Run.start s).slotsAsked keeper.toNat e.toNat tier.toNat part.toNat prot
      = ((((Run.start s).freeExtent e.toNat).enterExtent e.toNat tier.toNat part.toNat prot).mod fun d => { d with
          assigned := d.assigned.set e.toNat { tier := tier.toNat, prot := prot, part := part.toNat, slot := 0 } }).tell keeper.toNat
            (.slotsAnswer e.toNat .ok) := by
    unfold Run.slotsAsked
    simp only [show (Run.start s).d.maq.get? e.toNat = none from hm, show (Run.start s).d.keeperFor e.toNat = keeper.toNat from hk.symm,
      bne_self_eq_false, Bool.or_false, if_neg (show ¬2 < tier.toNat by omega), Bool.false_eq_true, if_false]
    rw [show (Run.start s).d.mayTake e.toNat tier.toNat part.toNat prot false = .ok from htake]
    rfl
  rw [hasked] at hexec
  have hfree := (Run.start s).freeExtent_freed e.toNat
  generalize (Run.start s).freeExtent _ = r₁ at hexec hfree
  obtain ⟨honly, hgran⟩ := r₁.enterExtent_granules e.toNat tier.toNat part.toNat prot
  generalize r₁.enterExtent _ _ _ _ = r₂ at hexec honly hgran
  refine Answers.of_requestDone _ hexec ((honly.calm (hfree.calm h.calm)).of_waiting rfl) ⟨?_, ?_, hgran, fun a => ?_⟩
  · exact Tab.has_of_get? (Tab.get?_set_self ..)
  · obtain ⟨new, hout⟩ := hfree.out
    exact ⟨_ :: new, by rw [Run.tell, Run.emit_out, Run.mod_out, honly.out, hout]; rfl, List.mem_cons_self ..⟩
  · show Mem.get r₂.cur.mem a = _
    rw [honly.bytes.mem, hfree.mem]
    exact Mem.get_clear_extent ..

/-- A drained extent is freed and its keeper told (R373). -/
theorem unassignDrained_home_answers (e : BitVec 32) (s : State) (h : s.dev.Idle) (hr : s.dev.ready = true)
    (hhome : s.dev.homed e.toNat = true) (hk : s.dev.keeps e.toNat = false) :
    Answers (.unassignDrained e) s fun t => t.dev.homed e.toNat = false
      ∧ Sends s t (.plinth (s.dev.keeperFor e.toNat) (.unassigned e.toNat .ok))
      ∧ ∀ a, Mem.get t.mem a = if a / 2 ^ 30 = e.toNat then 0 else Mem.get s.mem a := by
  have hexec := exec_unassignDrained e s hr
  have hfree := (Run.start s).freeExtent_freed e.toNat
  have hend : (Run.start s).unassignEnd e.toNat
      = ((Run.start s).freeExtent e.toNat).tell (s.dev.keeperFor e.toNat) (.unassigned e.toNat .ok) := by
    have hmay : s.dev.mayFree e.toNat = true := by unfold Dev.mayFree; rw [h.exts, h.revokes]; rfl
    have hjobs : s.dev.admittedFor e.toNat = [] := by unfold Dev.admittedFor; rw [h.jobs]; rfl
    have hcoh : s.dev.cohFor e.toNat = 0 := by unfold Dev.cohFor; rw [h.txns]; rfl
    unfold Run.unassignEnd
    simp only [Run.d, Run.start_cur, hhome, hmay, hk, hjobs, hcoh, h.moves, List.filter_nil, Run.each_nil, hfree.keeps, hfree.keeperFor,
      Bool.not_true, Bool.false_and, Bool.false_eq_true, List.isEmpty_nil, bne_self_eq_false, Bool.or_false, if_true, if_false]
  rw [hend] at hexec
  generalize (Run.start s).freeExtent _ = r at hexec hfree
  refine Answers.of_requestDone _ hexec ((hfree.calm h.calm).of_waiting rfl) ⟨hfree.homed, ?_, fun a => ?_⟩
  · obtain ⟨new, hout⟩ := hfree.out
    exact ⟨_ :: new, by rw [Run.tell, Run.emit_out, hout]; rfl, List.mem_cons_self ..⟩
  · show Mem.get r.cur.mem a = _
    rw [hfree.mem]
    exact Mem.get_clear_extent ..

section
variable {s₀ : State}

/-- The partition that the recovered granules of an extent are for, or the keeper's entry says (R430). -/
def Dev.reclaimedPart (d : Dev) (e : Nat) (x : MaqEntry) : Nat :=
  match d.gran.find? (fun g => g.1 / 512 == e) with | some g => g.2.part | none => x.part.toNat

/-- Granules of an extent that the keeper's answer keeps: those that were not recovered are lost; its entry is cached (R430). -/
def Run.keepReclaimed (r : Run s₀) (gs : List Nat) (e : Nat) (x : MaqEntry) : Run s₀ :=
  (r.each gs (Run.fillLost { tier := 2, state := 2, prot := x.prot, part := r.d.reclaimedPart e x, slot := noSlot })).cacheEntry e x none

/-- The keeper's answer on one extent that this device reported (R430). -/
theorem Run.reclaimed_own (r : Run s₀) (a : ReclaimAnswer) (h : r.d.bring.reclaim = [a.extent.toNat]) :
    r.reclaimed r.d.self [a] =
      let r' := r.mod fun d => { d with bring := { d.bring with reclaim := d.bring.reclaim.filter (· != a.extent.toNat) } }
      if a.keep then r'.keepReclaimed ((List.range 512).map (512 * a.extent.toNat + ·)) a.extent.toNat a.entry
      else r'.freeExtent a.extent.toNat := by
  unfold Run.reclaimed
  rw [beq_self_eq_true, if_pos rfl, Run.each_cons, Run.each_nil]
  dsimp only
  rw [h, if_neg (by simp)]
  cases a.keep with
  | true =>
    rw [if_neg (by decide), if_pos rfl]
    generalize (List.range 512).map _ = gs
    rfl
  | false => rw [if_pos (by decide), if_neg (by decide)]

/-- A kept extent changes granules and the cache only, and each of its granules that is missing is entered. -/
theorem Run.keepReclaimed_effect (r : Run s₀) (gs : List Nat) (e : Nat) (x : MaqEntry) :
    (∃ gr fl di ex mq, (r.keepReclaimed gs e x).cur.dev = { r.cur.dev with gran := gr, flog := fl, dirtyAt := di, exposed := ex, maq := mq })
      ∧ SameBytes r.cur (r.keepReclaimed gs e x).cur
      ∧ ∀ k ∈ gs, (r.keepReclaimed gs e x).cur.dev.gran.get? k = (r.cur.dev.gran.get? k).or
          (some { tier := 2, state := 2, prot := x.prot, part := r.d.reclaimedPart e x, slot := noSlot }) := by
  unfold Run.keepReclaimed
  have hfill := r.each_fillLost { tier := 2, state := 2, prot := x.prot, part := r.d.reclaimedPart e x, slot := noSlot } gs
  generalize r.each gs _ = r₂ at hfill ⊢
  have honly := (hfill 0).1
  have hcache := r₂.cacheEntry_cached e x none
  generalize r₂.cacheEntry _ _ _ = r₃ at hcache ⊢
  obtain ⟨_, hdev₃⟩ := hcache.dev
  obtain ⟨_, _, _, _, hdev₂⟩ := honly.dev
  refine ⟨⟨_, _, _, _, _, by rw [hdev₃, hdev₂]⟩, honly.bytes.trans hcache.bytes, fun k hk => ?_⟩
  rw [hdev₃]
  exact (hfill k).2.trans (by rw [if_pos hk])

end

/-- The keeper's answer keeps an extent, its granules that were not recovered entered as lost, or frees it (R430, R431). -/
theorem reclaimList_answers (reporter : BitVec 14) (a : ReclaimAnswer) (s : State) (h : s.dev.Idle) (hself : reporter.toNat = s.dev.self)
    (hrec : s.dev.bring.reclaim = [a.extent.toNat]) :
    Answers (.reclaimList reporter [a]) s fun t => t.dev.bring.reclaim = []
      ∧ if a.keep then SameBytes s t ∧ ∀ i, i < 512 → t.dev.gran.get? (512 * a.extent.toNat + i) =
            match s.dev.gran.get? (512 * a.extent.toNat + i) with
            | some x => some x
            | none => some { tier := 2, state := 2, prot := a.entry.prot, slot := 0xFFFFFFFF
                             part := s.dev.reclaimedPart a.extent.toNat a.entry }
        else t.dev.homed a.extent.toNat = false ∧ ∀ x, x / 2 ^ 30 = a.extent.toNat → Mem.get t.mem x = 0 ∧ Mem.get t.flash x = 0 := by
  have hexec := exec_reclaimList reporter [a] s
  have hown := (Run.start s).reclaimed_own a hrec
  rw [hself, show s.dev.self = (Run.start s).d.self from rfl, hown] at hexec
  dsimp only at hexec
  generalize hr₁ : (Run.start s).mod _ = r₁ at hexec
  have hreclaim : r₁.cur.dev.bring.reclaim = [] := by subst hr₁; show s.dev.bring.reclaim.filter _ = []; rw [hrec]; simp
  have hcalm : r₁.d.Calm := hr₁ ▸ h.calm.of_waiting rfl
  have hbytes : SameBytes s r₁.cur := hr₁ ▸ (Run.start s).mod_sameBytes _
  have hgran : r₁.cur.dev.gran = s.dev.gran := hr₁ ▸ rfl
  have hpart : r₁.d.reclaimedPart a.extent.toNat a.entry = s.dev.reclaimedPart a.extent.toNat a.entry := by rw [Dev.reclaimedPart, Run.d, hgran]; rfl
  cases hkeep : a.keep with
  | true =>
    rw [hkeep, if_pos rfl] at hexec
    obtain ⟨⟨_, _, _, _, _, hdev⟩, hkept, hget⟩ :=
      r₁.keepReclaimed_effect ((List.range 512).map (512 * a.extent.toNat + ·)) a.extent.toNat a.entry
    generalize r₁.keepReclaimed _ _ _ = r₂ at hexec hdev hkept hget
    refine Answers.of_requestDone _ hexec (by rw [Run.d, hdev]; exact hcalm.of_waiting rfl) ⟨by rw [hdev]; exact hreclaim, ?_⟩
    rw [if_pos rfl]
    refine ⟨hbytes.trans hkept, fun i hi => (hget _ (List.mem_map.2 ⟨i, List.mem_range.2 hi, rfl⟩)).trans ?_⟩
    rw [hgran, hpart]
    cases s.dev.gran.get? (512 * a.extent.toNat + i) <;> rfl
  | false =>
    rw [hkeep, if_neg (by decide)] at hexec
    have hfree := r₁.freeExtent_freed a.extent.toNat
    refine Answers.of_requestDone _ hexec (hfree.calm hcalm) ⟨by rw [hfree.bring]; exact hreclaim, ?_⟩
    rw [if_neg (by decide)]
    refine ⟨hfree.homed, fun x hx => ⟨?_, ?_⟩⟩
    · rw [hfree.mem, Mem.get_clear_extent, if_pos hx]
    · rw [hfree.flash, Mem.get_clear_extent, if_pos hx]

end Sys2Proof.Machine

open Sys2Proof Sys2Proof.Machine

/-- Settles O53: clause by clause. An extent is freed and entered granule by granule; a keeper that does not point commits its change at
once, which enters it in its table and in the cache; the rest is one record or one entry that changes. -/
theorem mapEntries : Obligations.MapEntries :=
  ⟨assignSlots_answers, assignTold_answers, unassignDrained_home_answers, unassignDrained_keeper_answers, keeperCommit_assign_answers,
    keeperFetchReply_answers, maquettePinExpire_answers, deviceTableUpdate_failed_answers, deviceTableUpdate_generation_answers,
    departedRecordExpire_answers, forwardRecordExpire_answers, takeoverReport_answers, reclaimList_answers⟩

end

section
/-! PROOFS. Placement descriptors: how a pair starts one, the range it names, and how it ends (R38-R43, Tables 2-6 and 2-8). -/
namespace Sys2Proof.Machine

/-! ### A pair starts a descriptor -/

/-- What starting a descriptor does: its pair is busy with it, in phase 0; nothing but pairs and what they have had cleaned changes. -/
structure Started (a b : State) (n : Nat) (c : Chain) : Prop where
  dev : ∃ pr rd, b.dev = { a.dev with pairs := pr, readied := rd }
  bytes : SameBytes a b
  out : b.out = a.out
  chain : (b.dev.pair n).chain = some { c with stage := .busy, began := a.dev.now }
  outs : (b.dev.pair n).outs = (a.dev.pair n).outs
  phase : (b.dev.pair n).phase = 0

/-- A pair that stands at a descriptor of the command's operation starts it and runs the command's body. -/
theorem Dev.Engine.starts {s : State} {n code : Nat} {b : List Byte} {c : Chain} (h : s.dev.Engine n code b c) {kind : List Byte → Bool}
    (hkind : kind b = true) (k : Eng → List Byte → Run s → Run s) :
    ∃ (r : Run s) (e : Eng), Started s r.cur n c ∧ (e.n = n ∧ e.part = c.part ∧ e.virt = false) ∧ (Run.start s).op n code kind k = k e b r := by
  have hpair : ((Run.start s).d.pair n).chain = some c := h.chain
  have hready : (Run.start s).d.ready = true := h.ready
  have hclock : (Run.start s).d.pins.refSys = true := h.clock
  have hpos : (c.pos == 255 && dCtl b 0) = false := by
    have := h.inside
    simpa using this
  have hcls : (!dFixed code && code != 0x55 && dCls b == 2 && (Run.start s).d.o c.part 0x6010 3 == 0) = false := by
    rcases h.cls with hf | hf <;> simp [hf]
  unfold Run.op
  dsimp only
  rw [hpair]
  dsimp only
  rw [h.desc, hready, hclock, h.goes, h.op, hkind, h.start, if_neg (by simp)]
  dsimp only
  rw [h.header, hpos, if_neg (by simp)]
  generalize hr : Run.updPair _ n _ = r
  have hobj : r.d.o c.part 0x6010 3 = (Run.start s).d.o c.part 0x6010 3 := hr ▸ rfl
  rw [hobj, hcls, if_neg (by simp)]
  refine ⟨r, _, ?_, ⟨rfl, rfl, ?_⟩, rfl⟩
  · subst hr
    refine ⟨⟨_, _, rfl⟩, ⟨rfl, rfl, rfl, rfl, rfl, rfl⟩, rfl, ?_, ?_, ?_⟩ <;>
      simp only [Dev.pair, Run.updPair, Run.mod_dev, Tab.getD_set_self]
    · rw [show (((Run.start s).unready n).cur.dev.pairs.getD n {}).chain = some c from h.chain]
      rfl
    · rfl
  · show dSvc c.desc 6 = false
    rw [h.desc]
    exact h.plain

section
variable {a b : State} {n : Nat} {c : Chain} (h : Started a b n c)
include h

theorem Started.calm (q : a.dev.Calm) : b.dev.Calm := by
  obtain ⟨_, _, e⟩ := h.dev
  rw [e]
  exact q.of_waiting rfl

theorem Started.gran : b.dev.gran = a.dev.gran := by
  obtain ⟨_, _, e⟩ := h.dev
  rw [e]

end

/-! ### The range a placement descriptor names -/

/-- A body that keeps R40 for a smaller range keeps it for a larger one. -/
theorem placeOk_mono {b : List Byte} {kinds m m' : Nat} (h : placeOk b kinds m = true) (hm : m ≤ m') : placeOk b kinds m' = true := by
  unfold placeOk at h ⊢
  dsimp only at h ⊢
  simp only [Bool.and_eq_true, decide_eq_true_eq] at h ⊢
  grind

theorem placeOk_aligned {b : List Byte} {kinds m : Nat} (h : placeOk b kinds m = true) : fld b 0x10 8 % 2 ^ 21 = 0 := by
  unfold placeOk at h
  simp only [Bool.and_eq_true, beq_iff_eq] at h
  exact h.2

theorem placeOk_result {b : List Byte} {kinds m : Nat} (h : placeOk b kinds m = true) (hv : dSvc b 6 = false) : storeAddrOk (fld b 0x28 8) = true := by
  unfold placeOk at h
  simp only [Bool.and_eq_true, hv, Bool.or_false] at h
  exact h.1.2

section
variable {s₀ : State}

theorem storeAddrOk_of_lt {a : Nat} (h : a < 2 ^ 62) : storeAddrOk a = true := decide_eq_true h

/-- Without VIRT, store addresses stand for themselves (R223). -/
theorem Run.engXlate_plain (r : Run s₀) (e : Eng) (access : Nat) (as : List Nat) (hv : e.virt = false) (h : as.all storeAddrOk = true) :
    r.engXlate e access as = (.ok as, r) := by
  have hmap : (as.map fun va => (va, access)).map (·.1) = as := by
    rw [List.map_map]
    exact List.map_id as
  unfold Run.engXlate Run.engXlateAll
  dsimp only
  rw [hmap, hv, h]
  rfl

theorem Run.withResult_plain (r : Run s₀) (e : Eng) (a : Nat) (k : Nat → Run s₀ → Run s₀) (hv : e.virt = false) (h : storeAddrOk a = true) :
    r.withResult e a k = k a r := by
  unfold Run.withResult
  split
  · rename_i h0
    rw [beq_iff_eq.1 h0]
  · rw [r.engXlate_plain e 1 [a] hv (by simpa using h)]

/-- What stands between a placement operation and its range: the granules are homed here, for the partition; nothing of their extent is
revoked or only assigned. -/
structure Dev.Owned (d : Dev) (part g n : Nat) : Prop where
  pos : 0 < n
  inside : g % 512 + n ≤ 512
  below : (g + n) * 2 ^ 21 ≤ 2 ^ 62
  homed : ∀ i, i < n → (d.gran.get? (g + i)).map (·.part) = some part
  revokes : d.revokes = []
  revoked : d.revoked = []
  assigned : d.assigned = []

@[simp] theorem Tab.has_nil {α : Type} (k : Nat) : Tab.has ([] : Tab α) k = false := rfl

/-- A placement descriptor without VIRT, of class G, runs its body on the granules it names. -/
theorem Run.place_owned (r : Run s₀) (e : Eng) (b : List Byte) (kinds maxn g n : Nat) (k : List Nat → Nat → Run s₀ → Run s₀)
    (hok : placeOk b kinds maxn = true) (hv : e.virt = false) (hplain : dSvc b 6 = false) (hn : fld b 0x18 4 = n) (hsvc : fld b 0x1D 1 = 0)
    (ha : fld b 0x10 8 = g * 2 ^ 21) (h : r.d.Owned e.part g n) :
    r.place e b kinds maxn k = k ((List.range n).map (g + ·)) (fld b 0x28 8) r := by
  obtain ⟨hpos, hin, hbelow, hhomed, hrev, hrevd, hass⟩ := h
  have hgran : ∀ i, i < n → granuleOf (g * 2 ^ 21 + 2 ^ 21 * i) = g + i := fun i hi => by unfold granuleOf bits; omega
  have htos : ((List.range n).map fun i => g * 2 ^ 21 + 2 ^ 21 * i).map granuleOf = (List.range n).map (g + ·) := by
    rw [List.map_map]
    exact List.map_congr_left fun i hi => Function.comp_apply.trans (hgran i (List.mem_range.1 hi))
  have hstore : ((List.range n).map fun i => g * 2 ^ 21 + 2 ^ 21 * i).all storeAddrOk = true := by
    rw [List.all_map, List.all_eq_true]
    intro i hi
    have := List.mem_range.1 hi
    exact Function.comp_apply.trans (storeAddrOk_of_lt (by omega))
  have hhead : ((List.range n).map fun i => g * 2 ^ 21 + 2 ^ 21 * i).headD 0 = g * 2 ^ 21 := by
    obtain ⟨m, rfl⟩ : ∃ m, n = m + 1 := ⟨n - 1, by omega⟩
    rw [List.range_succ_eq_map]
    simp
  have hrun : (((List.range n).map fun i => g * 2 ^ 21 + 2 ^ 21 * i).zipIdx.all fun t => t.1 == g * 2 ^ 21 + 2 ^ 21 * t.2) = true := by
    rw [List.all_eq_true]
    intro t ht
    obtain ⟨i, j⟩ := t
    obtain ⟨hj, hget⟩ := List.mem_zipIdx' ht
    simpa using hget
  have hown : ∀ i, i < n → ∃ y, r.d.gran.get? (g + i) = some y ∧ y.part = e.part := fun i hi => Option.map_eq_some_iff.1 (hhomed i hi)
  have hext : extentOf (g * 2 ^ 21) = g / 512 := by unfold extentOf bits; omega
  have hgr : granuleOf (g * 2 ^ 21) = g := by simpa using hgran 0 hpos
  have hhome : r.d.homed (g / 512) = true := by
    obtain ⟨y, hy, -⟩ := hown 0 hpos
    exact List.any_eq_true.2 ⟨_, Tab.mem_of_get? hy, by simp⟩
  have hcls : (placeCls b == 2) = false := by unfold placeCls; rw [hsvc]; rfl
  unfold Run.place
  dsimp only
  rw [hok, hn, ha, r.engXlate_plain e 0 _ hv hstore]
  dsimp only
  rw [hhead, hrun, hgr, hext, if_neg (by simp), if_neg (by simp; omega), r.withResult_plain e _ _ hv (placeOk_result hok hplain), htos, hhome,
    if_pos rfl, hrev, hrevd, hcls, hass, if_neg, if_neg (by simp), if_neg (by simp)]
  simp only [Tab.has_nil, List.contains_nil, Bool.or_false, Bool.not_eq_true', Bool.not_eq_false, List.all_map, List.all_eq_true, List.mem_range]
  intro i hi
  obtain ⟨y, hy, hp⟩ := hown i hi
  simp [hy, hp]

/-! ### A placement descriptor ends -/

/-- What ending a placement operation `OK` does: the pair's descriptor is done, the operation is gone; nothing else changes. -/
structure PlacedOk (a b : State) (n : Nat) (w : Nat) : Prop where
  dev : ∃ pr, b.dev = { a.dev with places := a.dev.places.del n, pairs := pr }
  bytes : SameBytes a b
  out : b.out = a.out
  ended : b.dev.Ended n .ok w

theorem length_placeResult (done already skip pois aband passes phase epoch : Nat) :
    (placeResult done already skip pois aband passes phase epoch).length = 64 := by
  simp [placeResult, zeros]

/-- What finishing a descriptor makes of its pair: it is done with its word, and its result buffers wait to be written. -/
theorem Run.finish_pair (r : Run s₀) (n : Nat) (st : Status) (word : Nat) (outs : List (Nat × List Byte)) :
    (r.finish n st word outs).d.pair n = { r.d.pair n with
      chain := (r.d.pair n).chain.map fun c => { c with stage := .done st (if st == .ok then word + (outs.map fun x => x.2.length).sum else word) }
      outs := (r.d.pair n).outs ++ outs } := by
  unfold Run.finish
  simp only [Dev.pair, Run.updPair, Run.d, Run.mod_dev, Tab.getD_set_self, Bool.not_false, Bool.and_true]

theorem Run.placeEnd_placedOk (r : Run s₀) (n : Nat) (o : PlaceOp) (b : List Byte) {c : Chain} (hc : (r.d.pair n).chain = some c)
    (ho : o.result = fld b 0x28 8) : PlacedOk r.cur (r.placeEnd n o .ok).cur n (placeWord b) := by
  refine ⟨⟨_, rfl⟩, ⟨rfl, rfl, rfl, rfl, rfl, rfl⟩, rfl, ?_⟩
  have hc' : ((r.mod fun d => { d with places := d.places.del n }).d.pair n).chain = some c := hc
  unfold Run.placeEnd Dev.Ended placeWord
  rw [← Run.d, Run.finish_pair, hc', ho]
  by_cases h : fld b 0x28 8 = 0 <;> simp [h, length_placeResult]

/-- The advice of one granule that is not lost ends `OK`. -/
theorem Run.adviseEnd_placedOk (r : Run s₀) (e : Eng) (b : List Byte) (g : Nat) {x : GEnt} {c : Chain} (hc : (r.d.pair e.n).chain = some c)
    (hx : r.d.gran.get? g = some x) (hs : x.state ≠ 2) : PlacedOk r.cur (r.adviseEnd e b [g] (fld b 0x28 8)).cur e.n (placeWord b) := by
  have hlive : (x.state == 2) = false := beq_eq_false_iff_ne.2 hs
  unfold Run.adviseEnd
  simp only [List.filter_cons, List.filter_nil, hx, hlive, Bool.false_eq_true, if_false, List.length_nil, beq_self_eq_true, if_true]
  exact r.placeEnd_placedOk e.n _ b hc rfl

end

section
variable {a b : State} {n w : Nat} (h : PlacedOk a b n w)
include h

theorem PlacedOk.calm (q : a.dev.Calm) : b.dev.Calm := by
  obtain ⟨_, e⟩ := h.dev
  rw [e]
  exact q.of_waiting rfl

end

/-! ### A descriptor of one granule -/

section
variable {s : State} {n code kinds g : Nat} {b : List Byte} {c : Chain} {x : GEnt} (h : s.dev.Placing n code kinds b c g x)
include h

theorem Dev.Placing.address : fld b 0x10 8 = g * 2 ^ 21 := by
  have halign := placeOk_aligned h.body
  have hrange := h.range
  have hgran := h.granule
  unfold granuleOf bits at hgran
  omega

theorem Dev.Placing.owned {r : Run s} {part : Nat} (hr : Started s r.cur n c) (hp : part = c.part) : r.d.Owned part g 1 := by
  obtain ⟨_, _, e⟩ := hr.dev
  have hrange := h.range
  have haddr := h.address
  refine ⟨by omega, by omega, by omega, fun i hi => ?_, by rw [Run.d, e]; exact h.revokes, by rw [Run.d, e]; exact h.revoked,
    by rw [Run.d, e]; exact h.assigned⟩
  obtain rfl : i = 0 := by omega
  rw [Run.d, hr.gran, Nat.add_zero, h.found, hp, ← h.part]
  rfl

/-- A pair that stands at a placement descriptor of one granule runs the operation's body on that granule. -/
theorem Dev.Placing.runs {maxn : Nat} (hm : 64 ≤ maxn) {r : Run s} {e : Eng} (hr : Started s r.cur n c) (he : e.n = n ∧ e.part = c.part ∧ e.virt = false)
    (k : List Nat → Nat → Run s → Run s) : r.place e b kinds maxn k = k [g] (fld b 0x28 8) r :=
  r.place_owned e b kinds maxn g 1 k (placeOk_mono h.body hm) he.2.2 h.plain h.one h.svc h.address (h.owned hr he.2.1)

end

end Sys2Proof.Machine
end

section
/-! PROOFS. Placement descriptors of one granule, and of an extent: the statement on them (R38-R43, R494, Tables 2-6 and 2-8). -/
namespace Sys2Proof.Machine

/-! ### Query and discard -/

/-- A query answers the granule's entry (R38). -/
theorem placeQuery_answers (n : Fin 1024) (b : List Byte) (c : Chain) (g : Nat) (x : GEnt) (s : State) (h : s.dev.Placing n.val 0x44 0 b c g x)
    (hres : fld b 0x28 8 ≠ 0) :
    Answers (.placeQuery n) s fun t => t.dev.Ended n.val .ok 8 ∧ t.dev.gran = s.dev.gran ∧ SameBytes s t
      ∧ (t.dev.pair n.val).outs = (s.dev.pair n.val).outs ++ [(fld b 0x28 8, leBytes 8 (gentWord x))] := by
  obtain ⟨r, e, hr, he, hop⟩ := h.toEngine.starts (kind := anyKind) rfl fun e b r => r.placeQuery e b
  have hexec : exec (.placeQuery n) s = _ := congrArg Run.requestDone hop
  have hbody : r.placeQuery e b = r.finish n .ok 0 [(fld b 0x28 8, leBytes 8 (gentWord x))] := by
    have hgran : r.d.gran.get? g = some x := hr.gran ▸ h.found
    unfold Run.placeQuery
    rw [h.runs (Nat.le_refl 64) hr he]
    simp [hgran, outAt, hres, he.1]
  rw [hbody] at hexec
  refine Answers.of_requestDone _ hexec ((hr.calm h.calm).of_waiting rfl) ⟨?_, hr.gran, hr.bytes.trans (r.mod_sameBytes _), ?_⟩
  · unfold Dev.Ended
    rw [← Run.d, Run.finish_pair, hr.chain]
    simp
  · rw [← Run.d, Run.finish_pair, hr.outs]

/-- What zeroing a granule does: it stands where it stood, its bytes read 0, and what is held of its lines is gone. -/
structure Zeroed (a b : State) (g : Nat) (x : GEnt) : Prop where
  dev : ∃ gr cb fr pg ex fl dp, b.dev = { a.dev with gran := gr, comb := cb, frames := fr, progs := pg, exposed := ex, fills := fl, deep := dp }
  gran : b.dev.gran.get? g = some { x with state := 0 }
  mem : ∀ y, Mem.get b.mem y = if y / 2 ^ 21 = g then 0 else Mem.get a.mem y
  flash : ∀ y, Mem.get b.flash y = if y / 2 ^ 21 = g then 0 else Mem.get a.flash y

section
variable {s₀ : State}

/-- A granule without a twin copy, which no fill waits for, is zeroed as a whole (R39). -/
theorem Run.zeroGranule_zeroed (r : Run s₀) {g : Nat} {x : GEnt} (hx : r.d.gran.get? g = some x) (hp : x.prot = false) (hf : r.d.fills = []) :
    Zeroed r.cur (r.zeroGranule g).cur g x := by
  have hpoints : r.d.points x = false := by unfold Dev.points; rw [hp]; rfl
  have hclear (m : List Host.Cell) (y : Nat) :
      Mem.get (Mem.clear m (g * 32768 * 64) ((g * 32768 + 32768) * 64)) y = if y / 2 ^ 21 = g then 0 else Mem.get m y := by
    rw [Mem.get_clear]
    exact if_congr (by omega) rfl rfl
  unfold Run.zeroGranule
  rw [hx]
  dsimp only
  rw [hpoints, if_neg (by decide), Run.each_nil]
  unfold Run.servePending
  simp only [Run.d, Run.mod_dev, Run.clear_flash_dev, Run.clear_mem_dev] at hf ⊢
  rw [hf, List.filter_nil, Run.each_nil]
  exact ⟨⟨_, _, _, _, _, _, _, rfl⟩, Tab.get?_set_self .., hclear _, hclear _⟩

/-- A granule that is at home is zeroed, and the discard of it ends. -/
theorem Run.placeDiscard_home (r : Run s₀) {e : Eng} {b : List Byte} {g : Nat} {x : GEnt}
    (hplace : ∀ k, r.place e b 0 512 k = k [g] (fld b 0x28 8) r) (hx : r.d.gran.get? g = some x) (hs : x.state = 0) (hp : x.prot = false)
    (hphase : (r.d.pair e.n).phase = 0) (hexts : r.d.exts = []) (hdir : r.d.dir = []) (htxns : r.d.txns = []) (hf : r.d.fills = []) :
    r.placeDiscard e b = ((r.zeroGranule g).updPair e.n fun p => { p with phase := 2 }).placeEnd e.n
      { placeNew e b [g] (fld b 0x28 8) with done := 1 } .ok := by
  obtain ⟨_, _, _, _, _, _, _, hdev⟩ := (r.zeroGranule_zeroed hx hp hf).dev
  have htxns' : ((r.zeroGranule g).updPair e.n fun p => { p with phase := 2 }).d.txns = [] := by
    simp only [Run.d, Run.updPair, Run.mod_dev, hdev]
    exact htxns
  unfold Run.placeDiscard
  rw [hplace]
  dsimp only
  unfold Run.dropCopies
  simp [hphase, hx, hs, hexts, hdir, htxns']

end

/-- A discard zeroes the granule (R39). -/
theorem placeDiscard_answers (n : Fin 1024) (b : List Byte) (c : Chain) (g : Nat) (x : GEnt) (s : State) (h : s.dev.Placing n.val 0x43 0 b c g x)
    (hs : x.state = 0) (hp : x.prot = false) :
    Answers (.placeDiscard n) s fun t => t.dev.Ended n.val .ok (placeWord b) ∧ t.dev.gran.get? g = some x
      ∧ ∀ a, Mem.get t.mem a = (if a / 2 ^ 21 = g then 0 else Mem.get s.mem a)
          ∧ Mem.get t.flash a = (if a / 2 ^ 21 = g then 0 else Mem.get s.flash a) := by
  obtain ⟨r, e, hr, he, hop⟩ := h.toEngine.starts (kind := anyKind) rfl fun e b r => r.placeDiscard e b
  have hexec : exec (.placeDiscard n) s = _ := congrArg Run.requestDone hop
  obtain ⟨_, _, hdev⟩ := hr.dev
  have hgran : r.d.gran.get? g = some x := hr.gran ▸ h.found
  have hfills : r.d.fills = [] := by rw [Run.d, hdev]; exact h.fills
  rw [r.placeDiscard_home (h.runs (by decide) hr he) hgran hs hp (he.1 ▸ hr.phase) (by rw [Run.d, hdev]; exact h.exts)
    (by rw [Run.d, hdev]; exact h.dir) (by rw [Run.d, hdev]; exact h.txns) hfills, he.1] at hexec
  have hzero := r.zeroGranule_zeroed hgran hp hfills
  generalize r.zeroGranule g = r₁ at hexec hzero
  obtain ⟨_, _, _, _, _, _, _, hdev₁⟩ := hzero.dev
  generalize hr₂ : (r₁.updPair n.val _) = r₂ at hexec
  have hchain : ∃ c', (r₂.d.pair n.val).chain = some c' := by
    subst hr₂
    simp only [Dev.pair, Run.updPair, Run.mod_dev, Tab.getD_set_self, hdev₁]
    exact ⟨_, hr.chain⟩
  obtain ⟨c', hchain⟩ := hchain
  have hend := r₂.placeEnd_placedOk n.val { placeNew e b [g] (fld b 0x28 8) with done := 1 } b hchain rfl
  generalize r₂.placeEnd _ _ _ = r₃ at hexec hend
  obtain ⟨_, hdev₃⟩ := hend.dev
  have hmem : r₃.cur.mem = r₁.cur.mem := hend.bytes.mem.trans (hr₂ ▸ rfl)
  have hflash : r₃.cur.flash = r₁.cur.flash := hend.bytes.flash.trans (hr₂ ▸ rfl)
  have hgran₂ : r₂.cur.dev.gran = r₁.cur.dev.gran := hr₂ ▸ rfl
  refine Answers.of_requestDone _ hexec ?_ ⟨hend.ended, ?_, fun a => ⟨?_, ?_⟩⟩
  · refine hend.calm ?_
    subst hr₂
    simp only [Run.updPair, Run.mod_dev, hdev₁]
    exact (hr.calm h.calm).of_waiting rfl
  · rw [hdev₃]
    show r₂.cur.dev.gran.get? g = _
    rw [hgran₂, hzero.gran, ← hs]
  · rw [hmem, hzero.mem, hr.bytes.mem]
  · rw [hflash, hzero.flash, hr.bytes.flash]

/-! ### Advice -/

section
variable {s₀ : State}

theorem Dev.t2Of_single {d : Dev} {g : Nat} {x : GEnt} (hx : d.gran.get? g = some x) (ht : x.tier = 2) (hs : x.state ≠ 2) : d.t2Of [g] = [g] := by
  simp [Dev.t2Of, hx, ht, hs]

/-- COLD marks the granule's frames, and ends (Table 2-6). -/
theorem Run.advise_cold (r : Run s₀) {e : Eng} {b : List Byte} {g : Nat} {x : GEnt} (hplace : ∀ k, r.place e b 3 512 k = k [g] (fld b 0x28 8) r)
    (hx : r.d.gran.get? g = some x) (ht : x.tier = 2) (hs : x.state ≠ 2) :
    r.advise e b 2 = (r.mod fun d => { d with frames := d.frames.map fun f => (f.1, if f.1 / 128 = g then { f.2 with cold := true } else f.2) }).adviseEnd
      e b [g] (fld b 0x28 8) := by
  have hmem (k : Nat) : ([g].contains (k / 128) = true) = (k / 128 = g) := by simp
  unfold Run.advise
  rw [hplace]
  dsimp only
  rw [Dev.t2Of_single hx ht hs, if_neg (by decide), if_neg (by decide), if_pos (by decide)]
  simp only [hmem]

/-- OPEN starts the opening of a closed granule, and ends where it is open (R34). -/
theorem Run.advise_open (r : Run s₀) {e : Eng} {b : List Byte} {g : Nat} {x : GEnt} (hplace : ∀ k, r.place e b 3 512 k = k [g] (fld b 0x28 8) r)
    (hx : r.d.gran.get? g = some x) (ht : x.tier = 2) (hs : x.state ≠ 2) :
    r.advise e b 1 = if x.opened then r.adviseEnd e b [g] (fld b 0x28 8) else r.startOpen g := by
  unfold Run.advise
  rw [hplace]
  dsimp only
  rw [Dev.t2Of_single hx ht hs, if_neg (by decide), if_pos (by decide)]
  cases ho : x.opened <;> simp [hx, ho]

end

/-- COLD (Table 2-6). -/
theorem placeAdviseCold_answers (n : Fin 1024) (b : List Byte) (c : Chain) (g : Nat) (x : GEnt) (s : State) (h : s.dev.Placing n.val 0x42 3 b c g x)
    (hkind : fld b 0x1C 1 = 2) (ht : x.tier = 2) (hs : x.state ≠ 2) :
    Answers (.placeAdviseCold n) s fun t => t.dev.Ended n.val .ok (placeWord b) ∧ SameBytes s t
      ∧ t.dev.frames = s.dev.frames.map fun f => (f.1, if f.1 / 128 = g then { f.2 with cold := true } else f.2) := by
  obtain ⟨r, e, hr, he, hop⟩ := h.toEngine.starts (kind := adviseKind 2) (beq_iff_eq.2 hkind) fun e b r => r.advise e b 2
  have hexec : exec (.placeAdviseCold n) s = _ := congrArg Run.requestDone hop
  obtain ⟨_, _, hdev⟩ := hr.dev
  have hgran : r.d.gran.get? g = some x := hr.gran ▸ h.found
  rw [r.advise_cold (h.runs (by decide) hr he) hgran ht hs] at hexec
  generalize hr₁ : r.mod _ = r₁ at hexec
  have hchain : (r₁.d.pair e.n).chain = some { c with stage := .busy, began := s.dev.now } := by rw [he.1, ← hr₁]; exact hr.chain
  have hcalm : r₁.d.Calm := by rw [← hr₁]; exact (hr.calm h.calm).of_waiting rfl
  have hend := r₁.adviseEnd_placedOk e b g hchain (by rw [← hr₁]; exact hgran) hs
  generalize r₁.adviseEnd _ _ _ _ = r₂ at hexec hend
  obtain ⟨_, hdev₂⟩ := hend.dev
  refine Answers.of_requestDone _ hexec (hend.calm hcalm)
    ⟨he.1 ▸ hend.ended, (hr.bytes.trans (hr₁ ▸ r.mod_sameBytes _)).trans hend.bytes, ?_⟩
  rw [hdev₂, ← hr₁]
  simp only [Run.mod_dev, hdev]

/-- OPEN (R34). -/
theorem placeAdviseOpen_answers (n : Fin 1024) (b : List Byte) (c : Chain) (g : Nat) (x : GEnt) (s : State) (h : s.dev.Placing n.val 0x42 3 b c g x)
    (hkind : fld b 0x1C 1 = 1) (ht : x.tier = 2) (hs : x.state ≠ 2) (hopen : s.dev.opening = []) :
    Answers (.placeAdviseOpen n) s fun t => SameBytes s t
      ∧ if x.opened then t.dev.Ended n.val .ok (placeWord b) else t.dev.opening = [(g, s.dev.now)] := by
  obtain ⟨r, e, hr, he, hop⟩ := h.toEngine.starts (kind := adviseKind 1) (beq_iff_eq.2 hkind) fun e b r => r.advise e b 1
  have hexec : exec (.placeAdviseOpen n) s = _ := congrArg Run.requestDone hop
  obtain ⟨_, _, hdev⟩ := hr.dev
  have hgran : r.d.gran.get? g = some x := hr.gran ▸ h.found
  rw [r.advise_open (h.runs (by decide) hr he) hgran ht hs] at hexec
  cases ho : x.opened with
  | true =>
    rw [ho, if_pos rfl] at hexec
    have hend := r.adviseEnd_placedOk e b g (he.1 ▸ hr.chain) hgran hs
    exact Answers.of_requestDone _ hexec (hend.calm (hr.calm h.calm)) ⟨hr.bytes.trans hend.bytes, he.1 ▸ hend.ended⟩
  | false =>
    have hstart : r.startOpen g = r.mod fun d => { d with opening := d.opening.set g d.now } := by
      unfold Run.startOpen
      rw [Run.d, hdev]
      dsimp only
      rw [hopen]
      rfl
    rw [ho, if_neg (by decide), hstart] at hexec
    refine Answers.of_requestDone _ hexec ((hr.calm h.calm).of_waiting rfl) ⟨hr.bytes.trans (r.mod_sameBytes _), ?_⟩
    rw [Run.mod_dev, hdev]
    dsimp only
    rw [hopen]
    rfl

/-! ### Fills that a prefetch starts -/

/-- Fills have been begun since `a` at this time, each in class G, its block read. -/
structure Filling (a b : State) : Prop where
  dev : ∃ fl, b.dev = { a.dev with fills := fl }
  bytes : SameBytes a b
  grows : Grows a b
  begun : ∀ k y, b.dev.fills.get? k = some y → y = { began := a.dev.now, classG := true } ∧ Sends a b (.nandRead k)

section
variable {s₀ : State}

theorem Run.startFill_filling {a : State} (r : Run s₀) (h : Filling a r.cur) (hdeep : a.dev.deep = []) (k : Nat) :
    Filling a (r.startFill k true).cur ∧ (∀ j, r.d.fills.has j = true → (r.startFill k true).d.fills.has j = true)
      ∧ (r.startFill k true).d.fills.has k = true := by
  obtain ⟨⟨_, hdev⟩, hbytes, hgrows, hbegun⟩ := h
  have hdeep' : r.d.deep = [] := by rw [Run.d, hdev]; exact hdeep
  have hnow : r.d.now = a.dev.now := by rw [Run.d, hdev]
  unfold Run.startFill
  rw [hdeep', Tab.has_nil, Bool.or_false]
  cases hk : r.d.fills.has k with
  | true => exact ⟨⟨⟨_, hdev⟩, hbytes, hgrows, hbegun⟩, fun _ => id, hk⟩
  | false =>
    rw [if_neg (by decide)]
    have hgrows' : Grows r.cur ((r.mod fun d => { d with fills := d.fills.set k { began := d.now, classG := true } }).emit (.nandRead k)).cur := ⟨[_], rfl⟩
    refine ⟨⟨⟨_, by rw [Run.emit_dev, Run.mod_dev, hdev]⟩, hbytes.trans ⟨rfl, rfl, rfl, rfl, rfl, rfl⟩, hgrows.trans hgrows', fun j y hy => ?_⟩,
      fun j hj => ?_, ?_⟩
    · have hset : (r.d.fills.set k { began := r.d.now, classG := true }).get? j = some y := hy
      rw [Tab.get?_set] at hset
      split at hset
      · rename_i hjk
        obtain rfl := Option.some.inj hset
        obtain ⟨new, hout⟩ := hgrows
        exact ⟨by rw [hnow], .nandRead k :: new, by rw [Run.emit_out, Run.mod_out, hout]; rfl, hjk ▸ List.mem_cons_self ..⟩
      · obtain ⟨hy', hsent⟩ := hbegun j y hset
        exact ⟨hy', hsent.grow hgrows'⟩
    · show ((r.d.fills.set k _).get? j).isSome = true
      rw [Tab.get?_set]
      split
      exacts [rfl, hj]
    · exact Tab.has_of_get? (Tab.get?_set_self ..)

theorem Run.each_startFill {a : State} (r : Run s₀) (ks : List Nat) (h : Filling a r.cur) (hdeep : a.dev.deep = []) :
    Filling a (r.each ks fun r k => r.startFill k true).cur
      ∧ ∀ j, j ∈ ks ∨ r.d.fills.has j = true → (r.each ks fun r k => r.startFill k true).d.fills.has j = true := by
  induction ks generalizing r with
  | nil => exact ⟨h, fun j hj => hj.resolve_left (by simp)⟩
  | cons k ks ih =>
    obtain ⟨hfill, hold, hnew⟩ := r.startFill_filling h hdeep k
    obtain ⟨hall, hhas⟩ := ih (r.startFill k true) hfill
    refine ⟨hall, fun j hj => hhas j ?_⟩
    rcases hj with hj | hj
    · rcases List.mem_cons.1 hj with rfl | hj
      exacts [.inr hnew, .inl hj]
    · exact .inr (hold j hj)

/-- Does no frame hold the block with every line valid? -/
def Dev.notWhole (d : Dev) (k : Nat) : Bool := match d.frames.get? k with | some f => f.valid != BitVec.allOnes 256 | none => true

/-- PREFETCH starts the fill of every block that no frame holds whole, and ends (Table 2-6). -/
theorem Run.advise_prefetch (r : Run s₀) {e : Eng} {b : List Byte} {g : Nat} {x : GEnt} (hplace : ∀ k, r.place e b 3 512 k = k [g] (fld b 0x28 8) r)
    (hx : r.d.gran.get? g = some x) (ht : x.tier = 2) (hs : x.state ≠ 2) (hframes : r.d.frames = []) :
    ∃ ks, (∀ i, i < 128 → 128 * g + i ∈ ks)
      ∧ r.advise e b 0 = (r.each ks fun r k => r.startFill k true).adviseEnd e b [g] (fld b 0x28 8) := by
  refine ⟨([g].flatMap fun g => (List.range 128).map (128 * g + ·)).filter r.d.notWhole, fun i hi => ?_, ?_⟩
  · have hnone : r.d.notWhole (128 * g + i) = true := by unfold Dev.notWhole; rw [hframes]; rfl
    exact List.mem_filter.2 ⟨by simpa using hi, hnone⟩
  · unfold Run.advise
    rw [hplace]
    dsimp only
    rw [Dev.t2Of_single hx ht hs, if_pos (by decide)]
    generalize [g].flatMap _ = bs
    rfl

end

/-- PREFETCH (Table 2-6). -/
theorem placeAdvisePrefetch_answers (n : Fin 1024) (b : List Byte) (c : Chain) (g : Nat) (x : GEnt) (s : State) (h : s.dev.Placing n.val 0x42 3 b c g x)
    (hkind : fld b 0x1C 1 = 0) (ht : x.tier = 2) (hs : x.state ≠ 2) (hframes : s.dev.frames = []) (hdeep : s.dev.deep = []) :
    Answers (.placeAdvisePrefetch n) s fun t => t.dev.Ended n.val .ok (placeWord b) ∧ SameBytes s t
      ∧ ∀ i, i < 128 → t.dev.fills.get? (128 * g + i) = some { began := s.dev.now, classG := true } ∧ Sends s t (.nandRead (128 * g + i)) := by
  obtain ⟨r, e, hr, he, hop⟩ := h.toEngine.starts (kind := adviseKind 0) (beq_iff_eq.2 hkind) fun e b r => r.advise e b 0
  have hexec : exec (.placeAdvisePrefetch n) s = _ := congrArg Run.requestDone hop
  obtain ⟨_, _, hdev⟩ := hr.dev
  have hgran : r.d.gran.get? g = some x := hr.gran ▸ h.found
  obtain ⟨ks, hks, hbody⟩ := r.advise_prefetch (h.runs (by decide) hr he) hgran ht hs (by rw [Run.d, hdev]; exact hframes)
  rw [hbody] at hexec
  have hnone : r.cur.dev.fills = [] := by rw [hdev]; exact h.fills
  obtain ⟨hfill, hhas⟩ := r.each_startFill (a := r.cur) ks ⟨⟨r.cur.dev.fills, rfl⟩, .refl _, .refl _, fun k y hy => by rw [hnone] at hy; cases hy⟩
    (by rw [hdev]; exact hdeep)
  generalize r.each ks _ = r₁ at hexec hfill hhas
  obtain ⟨_, hdev₁⟩ := hfill.dev
  have hchain : (r₁.d.pair e.n).chain = some { c with stage := .busy, began := s.dev.now } := by rw [he.1, Run.d, hdev₁]; exact hr.chain
  have hcalm : r₁.d.Calm := by rw [Run.d, hdev₁]; exact (hr.calm h.calm).of_waiting rfl
  have hend := r₁.adviseEnd_placedOk e b g hchain (by rw [Run.d, hdev₁]; exact hgran) hs
  generalize r₁.adviseEnd _ _ _ _ = r₂ at hexec hend
  obtain ⟨_, hdev₂⟩ := hend.dev
  refine Answers.of_requestDone _ hexec (hend.calm hcalm)
    ⟨he.1 ▸ hend.ended, (hr.bytes.trans hfill.bytes).trans hend.bytes, fun i hi => ?_⟩
  obtain ⟨y, hy⟩ := Option.isSome_iff_exists.1 (hhas _ (.inl (hks i hi)))
  obtain ⟨rfl, new, hout, hmem⟩ := hfill.begun _ y hy
  refine ⟨?_, new, by rw [hend.out, hout, hr.out], hmem⟩
  rw [hdev₂]
  refine hy.trans ?_
  rw [hdev]

/-! ### Dirty blocks that a write-back programs -/

/-- `b` is `a` but for what the pairs keep; pair `n` is at the same place of its chain. -/
structure OnlyPairs (a b : State) (n : Nat) : Prop where
  dev : ∃ pr, b.dev = { a.dev with pairs := pr }
  bytes : SameBytes a b
  out : b.out = a.out
  chain : (b.dev.pair n).chain = (a.dev.pair n).chain

section
variable {s₀ : State}

theorem Run.updPair_onlyPairs (r : Run s₀) (n : Nat) (f : Pair → Pair) (h : (f (r.d.pair n)).chain = (r.d.pair n).chain) :
    OnlyPairs r.cur (r.updPair n f).cur n :=
  ⟨⟨_, rfl⟩, ⟨rfl, rfl, rfl, rfl, rfl, rfl⟩, rfl, by
    simp only [Dev.pair, Run.updPair, Run.mod_dev, Tab.getD_set_self]
    exact h⟩

/-- Where the pair asks for no block, every block has been programmed. -/
theorem Run.backStep_none (r : Run s₀) (n : Nat) (ha : (r.d.pair n).asked = []) (hj : (r.d.pair n).jobs = []) :
    ∃ r', r.backStep n = (true, r') ∧ OnlyPairs r.cur r'.cur n := by
  refine ⟨(r.backStep n).2, Prod.ext ?_ rfl, ?_⟩ <;> unfold Run.backStep <;> dsimp only <;> rw [ha, List.filter_nil, Run.each_nil]
  · simp only [Dev.pair, Run.d, Run.updPair, Run.mod_dev, Tab.getD_set_self]
    simp only [Dev.pair, Run.d] at ha hj
    rw [ha, hj]
    rfl
  · exact r.updPair_onlyPairs n _ rfl

/-- Where the pair asks for one dirty block whose program has not begun, that block's write-back starts, and the pair waits. -/
theorem Run.backStep_one (r : Run s₀) (n : Nat) {k : Nat} {f : Frame} (ha : (r.d.pair n).asked = [k]) (hj : (r.d.pair n).jobs = []) (hp : r.d.progs = [])
    (hpairs : (r.startBack k).d.pairs = r.d.pairs) (hf : (r.startBack k).d.frames.get? k = some f) (hdirty : f.dirty ≠ 0) :
    ∃ r', r.backStep n = (false, r') ∧ OnlyPairs (r.startBack k).cur r'.cur n := by
  have hready : (r.d.pair n).asked.filter (fun k => !r.d.progs.has k) = [k] := by rw [ha, hp]; rfl
  refine ⟨(r.backStep n).2, Prod.ext ?_ rfl, ?_⟩ <;> unfold Run.backStep <;> dsimp only <;> rw [hready, Run.each_cons, Run.each_nil]
  · simp only [Dev.pair, Run.d] at ha hj
    simp only [Dev.pair, Run.d, Run.updPair, Run.mod_dev, Tab.getD_set_self] at hpairs hf ⊢
    rw [hpairs, ha, hj]
    cases hk : (r.startBack k).cur.dev.progs.has k with
    | true => simp [hk]
    | false => simpa [hk, hf] using hdirty
  · exact (r.startBack k).updPair_onlyPairs n _ rfl

/-- A whole dirty block is programmed at once (R33). -/
theorem Run.startBack_whole (r : Run s₀) {k : Nat} {f : Frame} (hf : r.d.frames.get? k = some f) (hd : f.dirty ≠ 0) (hp : r.d.progs = [])
    (hv : f.valid = BitVec.allOnes 256) :
    r.startBack k = (r.mod fun d => { d with progs := d.progs.set k f.dirty }).emit (.nandProgram k) := by
  have hfree : (f.dirty == 0 || r.d.progs.has k) = false := by rw [hp, Tab.has_nil, Bool.or_false]; exact beq_eq_false_iff_ne.2 hd
  unfold Run.startBack Run.startProgram
  rw [hf]
  dsimp only
  rw [hfree, hv, if_neg (by decide), if_pos (beq_self_eq_true _), if_neg (by decide)]

/-- The lines of a dirty block that its frame does not hold are read first (R33). -/
theorem Run.startBack_part (r : Run s₀) {k : Nat} {f : Frame} (hf : r.d.frames.get? k = some f) (hd : f.dirty ≠ 0) (hp : r.d.progs = [])
    (hv : f.valid ≠ BitVec.allOnes 256) (hdeep : r.d.deep = []) (hfills : r.d.fills = []) :
    r.startBack k = (r.mod fun d => { d with fills := d.fills.set k { began := d.now, wb := true } }).emit (.nandRead k) := by
  have hfree : (f.dirty == 0 || r.d.progs.has k) = false := by rw [hp, Tab.has_nil, Bool.or_false]; exact beq_eq_false_iff_ne.2 hd
  unfold Run.startBack
  rw [hf]
  dsimp only
  rw [hfree, hdeep, hfills, Tab.has_nil, Tab.has_nil, if_neg (by decide), if_neg (fun h => hv (beq_iff_eq.1 h)), if_neg (by decide), if_neg (by decide)]

/-- A write-back that starts changes what is programmed or filled only. -/
theorem Run.startBack_backing (r : Run s₀) (k : Nat) :
    (∃ pg fl, (r.startBack k).cur.dev = { r.cur.dev with progs := pg, fills := fl }) ∧ SameBytes r.cur (r.startBack k).cur := by
  have hid : (∃ pg fl, r.cur.dev = { r.cur.dev with progs := pg, fills := fl }) ∧ SameBytes r.cur r.cur :=
    ⟨⟨r.cur.dev.progs, r.cur.dev.fills, rfl⟩, .refl _⟩
  unfold Run.startBack Run.startProgram
  split
  · exact hid
  · split
    · exact hid
    · split
      · split
        · exact hid
        · split
          · exact hid
          · exact ⟨⟨_, r.cur.dev.fills, rfl⟩, ⟨rfl, rfl, rfl, rfl, rfl, rfl⟩⟩
      · split
        · exact hid
        · split
          · exact ⟨⟨r.cur.dev.progs, _, rfl⟩, r.mod_sameBytes _⟩
          · exact ⟨⟨r.cur.dev.progs, _, rfl⟩, ⟨rfl, rfl, rfl, rfl, rfl, rfl⟩⟩

/-- WRITEBACK notes the dirty blocks, and starts their write-back (R494). -/
theorem Run.advise_writeback (r : Run s₀) {e : Eng} {b : List Byte} {g k : Nat} {x : GEnt} {f : Frame}
    (hplace : ∀ k, r.place e b 3 512 k = k [g] (fld b 0x28 8) r) (hx : r.d.gran.get? g = some x) (ht : x.tier = 2) (hs : x.state ≠ 2)
    (hphase : (r.d.pair e.n).phase = 0) (hframes : r.d.frames = [(k, f)]) (hk : k / 128 = g) :
    ∃ r' : Run s₀, OnlyPairs r.cur r'.cur e.n ∧ ((r'.d.pair e.n).asked = if f.dirty = 0 then [] else [k]) ∧ (r'.d.pair e.n).jobs = []
      ∧ ∀ r'', (r'.backStep e.n = (true, r'') → r.advise e b 3 = r''.adviseEnd e b [g] (fld b 0x28 8))
        ∧ (r'.backStep e.n = (false, r'') → r.advise e b 3 = r'') := by
  refine ⟨(r.backBegin e.n fun k => [g].contains (k / 128)).updPair e.n fun p => { p with phase := 1 }, ?_, ?_, ?_, fun r'' => ?_⟩
  · unfold Run.backBegin
    refine ⟨⟨_, rfl⟩, ⟨rfl, rfl, rfl, rfl, rfl, rfl⟩, rfl, ?_⟩
    simp only [Dev.pair, Run.updPair, Run.mod_dev, Tab.getD_set_self]
  · unfold Run.backBegin
    simp only [Dev.pair, Run.d, Run.updPair, Run.mod_dev, Tab.getD_set_self] at hframes ⊢
    have hmine : ([g].contains (k / 128) && f.dirty != 0) = (f.dirty != 0) := by simp [hk]
    rw [hframes]
    simp only [List.filter_cons, List.filter_nil, hmine, bne_iff_ne, ne_eq, ite_not]
    split <;> rfl
  · unfold Run.backBegin
    simp only [Dev.pair, Run.d, Run.updPair, Run.mod_dev, Tab.getD_set_self]
  · unfold Run.advise
    rw [hplace]
    dsimp only
    rw [Dev.t2Of_single hx ht hs, if_neg (by decide), if_neg (by decide), if_neg (by decide), hphase, if_neg (by decide)]
    constructor <;> intro hstep <;> rw [hstep]

end

/-- WRITEBACK (R33, R494). -/
theorem placeAdviseWriteback_answers (n : Fin 1024) (b : List Byte) (c : Chain) (g k : Nat) (x : GEnt) (f : Frame) (s : State)
    (h : s.dev.Placing n.val 0x42 3 b c g x) (hkind : fld b 0x1C 1 = 3) (ht : x.tier = 2) (hs : x.state ≠ 2) (hframes : s.dev.frames = [(k, f)])
    (hk : k / 128 = g) (hprogs : s.dev.progs = []) (hdeep : s.dev.deep = []) :
    Answers (.placeAdviseWriteback n) s fun t => SameBytes s t ∧ t.dev.frames = s.dev.frames
      ∧ if f.dirty = 0 then t.dev.Ended n.val .ok (placeWord b)
        else if f.valid = BitVec.allOnes 256 then t.dev.progs = [(k, f.dirty)] ∧ Sends s t (.nandProgram k)
        else t.dev.fills = [(k, { began := s.dev.now, wb := true })] ∧ Sends s t (.nandRead k) := by
  obtain ⟨r, e, hr, he, hop⟩ := h.toEngine.starts (kind := adviseKind 3) (beq_iff_eq.2 hkind) fun e b r => r.advise e b 3
  have hexec : exec (.placeAdviseWriteback n) s = _ := congrArg Run.requestDone hop
  obtain ⟨_, _, hdev⟩ := hr.dev
  have hgran : r.d.gran.get? g = some x := hr.gran ▸ h.found
  obtain ⟨r₁, hbegun, hasked, hjobs, hbody⟩ := r.advise_writeback (h.runs (by decide) hr he) hgran ht hs (he.1 ▸ hr.phase)
    (by rw [Run.d, hdev]; exact hframes) hk
  obtain ⟨_, hdev₁⟩ := hbegun.dev
  have hbytes := hr.bytes.trans hbegun.bytes
  have hchain : (r₁.d.pair e.n).chain = some { c with stage := .busy, began := s.dev.now } := hbegun.chain.trans (he.1 ▸ hr.chain)
  have hcalm : r₁.d.Calm := by rw [Run.d, hdev₁]; exact (hr.calm h.calm).of_waiting rfl
  have hgran₁ : r₁.d.gran.get? g = some x := by rw [Run.d, hdev₁]; exact hgran
  have hframes₁ : r₁.cur.dev.frames = s.dev.frames := by rw [hdev₁, hdev]
  have hget : r₁.d.frames.get? k = some f := by rw [Run.d, hframes₁, hframes]; exact Tab.get?_single ..
  have hprogs₁ : r₁.d.progs = [] := by rw [Run.d, hdev₁, hdev]; exact hprogs
  have hfills₁ : r₁.d.fills = [] := by rw [Run.d, hdev₁, hdev]; exact h.fills
  have hdeep₁ : r₁.d.deep = [] := by rw [Run.d, hdev₁, hdev]; exact hdeep
  have hnow : r₁.d.now = s.dev.now := by rw [Run.d, hdev₁, hdev]
  by_cases hd : f.dirty = 0
  · rw [if_pos hd] at hasked
    obtain ⟨r₂, hstep, hpairs⟩ := r₁.backStep_none e.n hasked hjobs
    rw [(hbody r₂).1 hstep] at hexec
    obtain ⟨_, hdev₂⟩ := hpairs.dev
    have hend := r₂.adviseEnd_placedOk e b g (hpairs.chain.trans hchain) (by rw [Run.d, hdev₂]; exact hgran₁) hs
    obtain ⟨_, hdev₃⟩ := hend.dev
    refine Answers.of_requestDone _ hexec (hend.calm (by rw [hdev₂]; exact hcalm.of_waiting rfl))
      ⟨(hbytes.trans hpairs.bytes).trans hend.bytes, ?_, by rw [if_pos hd]; exact he.1 ▸ hend.ended⟩
    rw [hdev₃, hdev₂]
    exact hframes₁
  · rw [if_neg hd] at hasked
    obtain ⟨⟨_, _, hdev₂⟩, hback⟩ := r₁.startBack_backing k
    obtain ⟨r₂, hstep, hpairs⟩ := r₁.backStep_one e.n hasked hjobs hprogs₁ (f := f) (by rw [Run.d, hdev₂]) (by rw [Run.d, hdev₂]; exact hget) hd
    rw [(hbody r₂).2 hstep] at hexec
    obtain ⟨_, hdev₃⟩ := hpairs.dev
    refine Answers.of_requestDone _ hexec (by rw [Run.d, hdev₃, hdev₂]; exact hcalm.of_waiting rfl)
      ⟨(hbytes.trans hback).trans hpairs.bytes, by rw [hdev₃, hdev₂]; exact hframes₁, ?_⟩
    rw [if_neg hd]
    split
    next hv =>
      rw [r₁.startBack_whole hget hd hprogs₁ hv] at hpairs hdev₃
      refine ⟨?_, (Sends.emit _ _).of_out_eq hpairs.out⟩
      rw [hdev₃]
      show r₁.d.progs.set k f.dirty = _
      rw [hprogs₁]
      rfl
    next hv =>
      rw [r₁.startBack_part hget hd hprogs₁ hv hdeep₁ hfills₁] at hpairs hdev₃
      refine ⟨?_, (Sends.emit _ _).of_out_eq hpairs.out⟩
      rw [hdev₃]
      show r₁.d.fills.set k { began := r₁.d.now, wb := true } = _
      rw [hfills₁, hnow]
      rfl

/-! ### Moves to another tier -/

section
variable {s₀ : State}

theorem Tab.get?_upd_self {α : Type} {t : Tab α} {k : Nat} {v : α} (f : α → α) (h : t.get? k = some v) : (t.upd k f).get? k = some (f v) := by
  rw [Tab.upd, h]
  exact Tab.get?_set_self ..

/-- No quota forbids a move of nothing. -/
theorem Dev.overQuota_zero (d : Dev) (part tier : Nat) : d.overQuota part tier 0 = false := by
  unfold Dev.overQuota
  split <;> simp

/-- The copy pass of a class G operation is admitted at once. -/
theorem Run.passAdmit_plain (r : Run s₀) {n : Nat} {o : PlaceOp} (part g : Nat) (x : GEnt) (ls : List Nat) (ho : r.d.places.get? n = some o)
    (hb : o.bclass = false) :
    r.passAdmit (some n) part g x ls = r.mod fun d => { d with moves := d.moves.upd g fun m => { m with admitAt := 0 } } := by
  unfold Run.passAdmit
  simp only [ho, hb, Bool.not_false, if_true]

/-- What opening the move of a granule does (R43): the granule is MOVING, the move stands in the table, not verified, and the journal
has its record. -/
structure MoveOpened (a b : State) (n g : Nat) (x : GEnt) (toT slot : Nat) (o : PlaceOp) : Prop where
  dev : ∃ gr jr js mv pl, b.dev = { a.dev with gran := gr, journal := jr, jseq := js, moves := mv, places := pl }
  bytes : SameBytes a b
  gran : b.dev.gran.get? g = some { x with state := 1, jidx := a.dev.jseq % 65536 }
  move : (b.dev.moves.get? g).map (fun m => (m.toT, some m.toSlot, m.verified)) = some (toT, some slot, false)
  journal : b.dev.journal.head?.map (fun j => (j.step, j.granule)) = some (1, g)
  place : b.dev.places.get? n = some { o with flight := o.flight ++ [g] }

theorem Run.openMove_opened (r : Run s₀) {n g : Nat} {x : GEnt} {o : PlaceOp} (tag toT slot : Nat) (hx : r.d.gran.get? g = some x)
    (hflash : (x.tier == 2) = (toT == 2)) (ho : r.d.places.get? n = some o) (hb : o.bclass = false) :
    MoveOpened r.cur (r.openMove (some n) tag toT g slot).cur n g x toT slot o := by
  unfold Run.openMove
  rw [hx]
  dsimp only
  rw [hflash, bne_self_eq_false, Bool.and_false, Bool.false_and, if_neg (by decide)]
  generalize hr₁ : (r.journal _ _ _ _ _ _ _).mod _ = r₁
  have hdev : ∃ gr jr js mv, r₁.cur.dev = { r.cur.dev with gran := gr, journal := jr, jseq := js, moves := mv } := hr₁ ▸ ⟨_, _, _, _, rfl⟩
  have hbytes : SameBytes r.cur r₁.cur := hr₁ ▸ ⟨rfl, rfl, rfl, rfl, rfl, rfl⟩
  have hgran : r₁.d.gran.get? g = some { x with state := 1, jidx := r.d.jseq % 65536 } := hr₁ ▸ Tab.get?_set_self ..
  have hmove : ∃ m, r₁.d.moves.get? g = some m ∧ m.toT = toT ∧ m.toSlot = slot ∧ m.verified = false :=
    hr₁ ▸ ⟨_, Tab.get?_set_self .., rfl, rfl, rfl⟩
  have hjournal : r₁.d.journal.head?.map (fun j => (j.step, j.granule)) = some (1, g) := hr₁ ▸ rfl
  have hplace : r₁.d.places.get? n = some o := hr₁ ▸ ho
  clear hr₁
  obtain ⟨m, hm, rfl, rfl, hv⟩ := hmove
  obtain ⟨_, _, _, _, hdev⟩ := hdev
  have hplace' : (r₁.updPlace (some n) fun o => { o with flight := o.flight ++ [g] }).d.places.get? n = some { o with flight := o.flight ++ [g] } :=
    Tab.get?_upd_self _ hplace
  rw [Run.passAdmit_plain _ _ _ _ _ hplace' hb]
  refine ⟨?_, hbytes.trans ⟨rfl, rfl, rfl, rfl, rfl, rfl⟩, hgran, ?_, hjournal, hplace'⟩
  · simp only [Run.updPlace, Run.mod_dev, hdev]
    exact ⟨_, _, _, _, _, rfl⟩
  · simp only [Run.updPlace, Run.mod_dev]
    rw [Tab.get?_upd_self _ hm, Option.map_some, hv]

/-- An operation whose granules are all done ends; one without a failure ends `OK` (Table 2-8). -/
theorem Run.openNext_ends (r : Run s₀) (n f : Nat) {o : PlaceOp} (ho : r.d.places.get? n = some o) (htodo : o.todo = []) (hflight : o.flight = [])
    (hfail : o.fail = none) (hab : o.abandoned = 0) (hskip : o.skiplost = 0) : r.openNext n (f + 1) = r.placeEnd n o .ok := by
  rw [Run.openNext, ho]
  dsimp only
  rw [htodo, hflight]
  unfold Run.placeDone
  rw [hfail, hab, hskip]
  rfl

/-- An operation with one granule left opens it, and waits for it (R42). -/
theorem Run.openNext_one (r : Run s₀) (n f g slot : Nat) {o : PlaceOp} (ho : r.d.places.get? n = some o) (htodo : o.todo = [(g, slot)])
    (hflight : o.flight = []) (hmoves : r.d.moves = [])
    (hopen : ((r.updPlace (some n) fun o => { o with todo := [] }).openMove (some n) o.tag o.kind g slot).d.places.get? n
      = some { o with todo := [], flight := [g] }) :
    r.openNext n (f + 2) = (r.updPlace (some n) fun o => { o with todo := [] }).openMove (some n) o.tag o.kind g slot := by
  have hroom : r.d.movesOpen = 0 := by unfold Dev.movesOpen; rw [hmoves]; rfl
  rw [Run.openNext, ho]
  dsimp only
  rw [htodo, hflight, hroom]
  dsimp only
  rw [if_neg (by decide), if_neg (by decide), Run.openNext, hopen]
  rfl

/-- A granule that stands in the tier already is counted as such. -/
theorem Run.placeTier_here (r : Run s₀) {e : Eng} {b : List Byte} {g : Nat} {x : GEnt} (hplace : ∀ k, r.place e b 2 512 k = k [g] (fld b 0x28 8) r)
    (hplaces : r.d.places = []) (hx : r.d.gran.get? g = some x) (ht : fld b 0x1C 1 = x.tier) (hs : x.state = 0) :
    r.placeTier e b = (r.mod fun d => { d with places := d.places.set e.n { placeNew e b [g] (fld b 0x28 8) with already := 1 } }).openNext e.n 9 := by
  unfold Run.placeTier
  rw [hplaces, Tab.has_nil, if_neg (by decide), hplace]
  have hents : ([g].filterMap fun g => (r.d.gran.get? g).map fun x => (g, x)) = [(g, x)] := by simp [hx]
  dsimp only
  rw [hents, ht]
  simp only [List.filter_cons, List.filter_nil, bne, beq_self_eq_true, Bool.and_false, Bool.not_true, Bool.false_eq_true, if_false, List.length_nil, List.isEmpty_nil, List.any_nil, List.any_cons, Dev.overQuota_zero, hs]
  rw [if_neg (by simp), if_neg (by simp [Dev.overProt])]
  rfl

end

section
variable {s₀ : State}

/-- A granule of DRAM that goes to SRAM, where a slot is free, is put down with the lowest free slot. -/
theorem Run.placeTier_away (r : Run s₀) {e : Eng} {b : List Byte} {g slot : Nat} {x : GEnt} (hplace : ∀ k, r.place e b 2 512 k = k [g] (fld b 0x28 8) r)
    (hplaces : r.d.places = []) (hx : r.d.gran.get? g = some x) (ht : fld b 0x1C 1 = 0) (h1 : x.tier = 1) (hs : x.state = 0) (hsplit : r.d.split = none)
    (hmoves : r.d.moves = []) (hcls : fld b 0x1D 1 = 0) (hquota : r.d.overQuota e.part 0 1 = false) (hfree : 0 < r.d.freeCount 0)
    (hslot : r.d.freeSlots 0 1 = [slot]) :
    r.placeTier e b = (r.mod fun d => { d with places := d.places.set e.n { placeNew e b [g] (fld b 0x28 8) with todo := [(g, slot)] } }).openNext e.n 9 := by
  have hents : ([g].filterMap fun g => (r.d.gran.get? g).map fun x => (g, x)) = [(g, x)] := by simp [hx]
  have hlive : (x.state == 2) = false := by rw [hs]; rfl
  have haway : (x.tier == 0) = false := by rw [h1]; rfl
  have hplain : (placeCls b == 2) = false := by unfold placeCls; rw [hcls]; rfl
  have hroom : r.d.movesOpen = 0 := by unfold Dev.movesOpen; rw [hmoves]; rfl
  unfold Run.placeTier
  rw [hplaces, Tab.has_nil, if_neg (by decide), hplace]
  dsimp only
  rw [hents, ht]
  simp only [List.filter_cons, List.filter_nil, hlive, haway, hplain, bne, Bool.not_false, Bool.and_self, Bool.and_false, Bool.false_and,
    Bool.false_eq_true, if_true, if_false, List.length_cons, List.length_nil, Nat.zero_add]
  rw [if_neg (by simp [hquota]), if_neg (by simp [hs, hsplit, hroom, Dev.overProt, h1]; omega), hslot]
  rfl

end

/-- A move to T0 reserves the lowest free slot, and opens (R41-R43). -/
theorem placeTier_opens_answers (n : Fin 1024) (b : List Byte) (c : Chain) (g : Nat) (x : GEnt) (s : State) (h : s.dev.Placing n.val 0x40 2 b c g x)
    (ht : fld b 0x1C 1 = 0) (h1 : x.tier = 1) (hs : x.state = 0) (hquota : s.dev.overQuota c.part 0 1 = false) (hfree : 0 < s.dev.freeCount 0) :
    Answers (.placeTier n) s fun t => t.dev.gran.get? g = some { x with state := 1, jidx := s.dev.jseq % 65536 }
      ∧ (t.dev.moves.get? g).map (fun m => (m.toT, some m.toSlot, m.verified)) = some (0, (s.dev.freeSlots 0 1).head?, false)
      ∧ t.dev.journal.head?.map (fun j => (j.step, j.granule)) = some (1, g)
      ∧ (t.dev.places.get? n.val).map (fun o => (o.todo, o.flight)) = some ([], [g]) ∧ SameBytes s t := by
  obtain ⟨r, e, hr, he, hop⟩ := h.toEngine.starts (kind := anyKind) rfl fun e b r => r.placeTier e b
  have hexec : exec (.placeTier n) s = _ := congrArg Run.requestDone hop
  obtain ⟨_, _, hdev⟩ := hr.dev
  have hgran : r.d.gran.get? g = some x := hr.gran ▸ h.found
  obtain ⟨slot, hslot⟩ := List.length_eq_one_iff.1 (s.dev.freeSlots_length 0 1)
  rw [r.placeTier_away (slot := slot) (h.runs (by decide) hr he) (by rw [Run.d, hdev]; exact h.places) hgran ht h1 hs
    (by rw [Run.d, hdev]; exact h.split) (by rw [Run.d, hdev]; exact h.moves) h.svc (by rw [he.2.1, Run.d, hdev]; exact hquota)
    (by rw [Run.d, hdev]; exact hfree) (by rw [Run.d, hdev]; exact hslot), he.1] at hexec
  generalize ho : ({ placeNew e b [g] (fld b 0x28 8) with todo := [(g, slot)] } : PlaceOp) = o at hexec
  have htodo : o.todo = [(g, slot)] := ho ▸ rfl
  have hflight : o.flight = [] := ho ▸ rfl
  have hplain : o.bclass = false := by subst ho; show (placeCls b == 2) = false; unfold placeCls; rw [h.svc]; rfl
  have hkind : o.kind = 0 := by subst ho; exact ht
  generalize hr₁ : r.mod _ = r₁ at hexec
  have hplaces₁ : r₁.d.places.get? n.val = some o := hr₁ ▸ Tab.get?_set_self ..
  have hmoves₁ : r₁.d.moves = [] := by rw [← hr₁]; simp only [Run.d, Run.mod_dev, hdev]; exact h.moves
  have hgran₁ : r₁.d.gran.get? g = some x := hr₁ ▸ hgran
  have hjseq : r₁.d.jseq = s.dev.jseq := by rw [← hr₁]; simp only [Run.d, Run.mod_dev, hdev]
  have hbytes₁ : SameBytes s r₁.cur := hr₁ ▸ hr.bytes.trans (r.mod_sameBytes _)
  have hcalm₁ : r₁.d.Calm := by rw [← hr₁]; exact (hr.calm h.calm).of_waiting rfl
  have hplaces₂ : (r₁.updPlace (some n.val) fun o => { o with todo := [] }).d.places.get? n.val = some { o with todo := [] } :=
    Tab.get?_upd_self _ hplaces₁
  have hopened := (r₁.updPlace (some n.val) fun o => { o with todo := [] }).openMove_opened o.tag o.kind slot hgran₁
    (by rw [h1, hkind]; rfl) hplaces₂ hplain
  rw [r₁.openNext_one n.val 7 g slot hplaces₁ htodo hflight hmoves₁ (by rw [Run.d, hopened.place, hflight]; rfl)] at hexec
  generalize Run.openMove _ _ _ _ _ _ = r₂ at hexec hopened
  obtain ⟨_, _, _, _, _, hdev₂⟩ := hopened.dev
  refine Answers.of_requestDone _ hexec (by rw [Run.d, hdev₂]; exact hcalm₁.of_waiting rfl) ⟨?_, ?_, hopened.journal, ?_, ?_⟩
  · exact hjseq ▸ hopened.gran
  · rw [hslot]
    exact hkind ▸ hopened.move
  · rw [hopened.place, Option.map_some, hflight]
    rfl
  · exact hbytes₁.trans (SameBytes.trans (r₁.mod_sameBytes _) hopened.bytes)

/-- A granule that stands in its target tier ends the operation (Table 2-8). -/
theorem placeTier_here_answers (n : Fin 1024) (b : List Byte) (c : Chain) (g : Nat) (x : GEnt) (s : State) (h : s.dev.Placing n.val 0x40 2 b c g x)
    (ht : fld b 0x1C 1 = x.tier) (hs : x.state = 0) :
    Answers (.placeTier n) s fun t => t.dev.Ended n.val .ok (placeWord b) ∧ t.dev.gran = s.dev.gran ∧ t.dev.moves = [] ∧ SameBytes s t := by
  obtain ⟨r, e, hr, he, hop⟩ := h.toEngine.starts (kind := anyKind) rfl fun e b r => r.placeTier e b
  have hexec : exec (.placeTier n) s = _ := congrArg Run.requestDone hop
  obtain ⟨_, _, hdev⟩ := hr.dev
  have hgran : r.d.gran.get? g = some x := hr.gran ▸ h.found
  rw [r.placeTier_here (h.runs (by decide) hr he) (by rw [Run.d, hdev]; exact h.places) hgran ht hs, he.1] at hexec
  generalize hr₁ : r.mod _ = r₁ at hexec
  have hplaces₁ : r₁.d.places.get? n.val = some { placeNew e b [g] (fld b 0x28 8) with already := 1 } := hr₁ ▸ Tab.get?_set_self ..
  rw [r₁.openNext_ends n.val 8 hplaces₁ rfl rfl rfl rfl rfl] at hexec
  have hchain₁ : (r₁.d.pair n.val).chain = some { c with stage := .busy, began := s.dev.now } := hr₁ ▸ hr.chain
  have hend := r₁.placeEnd_placedOk n.val { placeNew e b [g] (fld b 0x28 8) with already := 1 } b hchain₁ rfl
  obtain ⟨_, hdev₂⟩ := hend.dev
  refine Answers.of_requestDone _ hexec (hend.calm (by rw [← hr₁]; exact (hr.calm h.calm).of_waiting rfl)) ⟨hend.ended, ?_, ?_, ?_⟩
  · rw [hdev₂, ← hr₁]
    exact hr.gran
  · rw [hdev₂, ← hr₁]
    simp only [Run.mod_dev, hdev]
    exact h.moves
  · exact (hr.bytes.trans (hr₁ ▸ r.mod_sameBytes _)).trans hend.bytes

/-! ### An extent to another device -/

/-- The granules of an extent are at home, all protected or none. -/
structure Dev.ExtentHome (d : Dev) (e : Nat) (gs : List Nat) (prot : Bool) : Prop where
  head : gs.headD 0 / 512 = e
  nonempty : gs ≠ []
  homed : ∀ g ∈ gs, ∃ y, d.gran.get? g = some y ∧ y.state = 0 ∧ y.prot = prot

theorem Dev.extentHome_of {d : Dev} {e n : Nat} {prot : Bool} (hn : 0 < n)
    (h : ∀ i, i < n → ∃ y, d.gran.get? (512 * e + i) = some y ∧ y.state = 0 ∧ y.prot = prot) :
    d.ExtentHome e ((List.range n).map (512 * e + ·)) prot := by
  obtain ⟨m, rfl⟩ : ∃ m, n = m + 1 := ⟨n - 1, by omega⟩
  refine ⟨?_, by simp, fun g hg => ?_⟩
  · rw [List.range_succ_eq_map, List.map_cons, List.headD_cons]
    omega
  · obtain ⟨i, hi, rfl⟩ := List.mem_map.1 hg
    exact h i (List.mem_range.1 hi)

section
variable {d : Dev} {e : Nat} {gs : List Nat} {prot : Bool} (h : d.ExtentHome e gs prot)
include h

theorem Dev.ExtentHome.entry {y : GEnt} (hy : y ∈ gs.filterMap fun g => d.gran.get? g) : y.state = 0 ∧ y.prot = prot := by
  obtain ⟨g, hg, hget⟩ := List.mem_filterMap.1 hy
  obtain ⟨z, hz, hs, hp⟩ := h.homed g hg
  obtain rfl := Option.some.inj (hget.symm.trans hz)
  exact ⟨hs, hp⟩

/-- None of its granules is on its way. -/
theorem Dev.ExtentHome.still : ((gs.filterMap fun g => d.gran.get? g).any fun y => y.state == 1 || y.state == 3) = false := by
  rw [List.any_eq_false]
  intro y hy
  rw [(h.entry hy).1]
  decide

theorem Dev.ExtentHome.anyProt : ((gs.filterMap fun g => d.gran.get? g).any fun y => y.prot) = prot := by
  cases prot with
  | false =>
    rw [List.any_eq_false]
    intro y hy
    rw [(h.entry hy).2]
    decide
  | true =>
    obtain ⟨g, hg⟩ := List.exists_mem_of_ne_nil gs h.nonempty
    obtain ⟨z, hz, -, hp⟩ := h.homed g hg
    exact List.any_eq_true.2 ⟨z, List.mem_filterMap.2 ⟨g, hg, hz⟩, hp⟩

end

/-- What phase 1 of an extent move does (R51): the move is entered and journalled in its phase, and its destination is asked for slots. -/
structure ExtentAsked (a b : State) (n e part dest tier : Nat) (prot : Bool) : Prop where
  dev : ∃ ph ps on pl ex ob jr js, b.dev =
    { a.dev with phases := ph, pseq := ps, onext := on, places := pl, exts := ex, obj := ob, journal := jr, jseq := js }
  bytes : SameBytes a b
  move : (b.dev.exts.get? e).map (fun x => (x.pair, x.dest, x.tier, x.phase)) = some (some n, dest, tier, 1)
  phases : b.dev.phases.map (fun p => (p.2.op, p.2.phase, p.2.target)) = [(0x41, 1, e * 2 ^ 30)]
  journal : b.dev.journal.head?.map (fun j => (j.step, j.granule)) = some (5, e * 512)
  asked : b.out = .plinth dest (.allocate e tier part prot) :: a.out

section
variable {s₀ : State}

/-- An extent that is at its destination is left alone (R51). -/
theorem Run.placeExtent_home (r : Run s₀) {e : Eng} {b : List Byte} {gs : List Nat} (hplace : ∀ k, r.place e b 2 512 k = k gs (fld b 0x28 8) r)
    (hplaces : r.d.places = []) (hcount : fld b 0x18 4 = 512) (hdest : fld b 0x20 2 = r.d.self) :
    ∃ o : PlaceOp, o.result = fld b 0x28 8 ∧ r.placeExtent e b = r.placeEnd e.n o .ok := by
  refine ⟨{ placeNew e b gs (fld b 0x28 8) with already := 512, epoch := r.d.cachedEpoch (gs.headD 0 / 512) }, rfl, ?_⟩
  unfold Run.placeExtent
  rw [hplaces, Tab.has_nil, hcount, if_neg (by decide), if_neg (by decide), hplace]
  dsimp only
  rw [hdest, bne_self_eq_false, Bool.false_and, if_neg (by decide), beq_self_eq_true, if_pos rfl]

/-- An extent at home, of which nothing moves, begins phase 1 (R51). -/
theorem Run.placeExtent_away (r : Run s₀) {e : Eng} {b : List Byte} {gs : List Nat} {x : Nat} {prot : Bool}
    (hplace : ∀ k, r.place e b 2 512 k = k gs (fld b 0x28 8) r) (hplaces : r.d.places = []) (hcount : fld b 0x18 4 = 512) (hcls : fld b 0x1D 1 = 0)
    (hdest : fld b 0x20 2 ≠ r.d.self) (hhome : r.d.ExtentHome x gs prot) (hexts : r.d.exts = []) (hmoves : r.d.moves = []) (hphases : r.d.phases = []) :
    ExtentAsked r.cur (r.placeExtent e b).cur e.n x e.part (fld b 0x20 2) (fld b 0x1C 1) prot := by
  have hplain : (placeCls b == 2) = false := by unfold placeCls; rw [hcls]; rfl
  have hroom : r.d.movesOpen = 0 := by unfold Dev.movesOpen; rw [hmoves]; rfl
  unfold Run.placeExtent
  rw [hplaces, Tab.has_nil, hcount, if_neg (by decide), if_neg (by decide), hplace]
  dsimp only
  rw [hplain, hhome.still, hhome.anyProt, hhome.head, hexts, hroom, beq_eq_false_iff_ne.2 hdest, if_neg (by simp), if_neg (by decide),
    if_neg (by simp [hphases])]
  generalize (gs.filterMap fun g => r.d.gran.get? g) = ents
  generalize hr₁ : r.mod _ = r₁
  have hdev : ∃ ph ps on pl ex, r₁.cur.dev = { r.cur.dev with phases := ph, pseq := ps, onext := on, places := pl, exts := ex } := hr₁ ▸ ⟨_, _, _, _, _, rfl⟩
  have hbytes : SameBytes r.cur r₁.cur := hr₁ ▸ r.mod_sameBytes _
  have hout : r₁.cur.out = r.cur.out := hr₁ ▸ rfl
  have hmove : (r₁.cur.dev.exts.get? x).map (fun x => (x.pair, x.dest, x.tier, x.phase)) = some (some e.n, fld b 0x20 2, fld b 0x1C 1, 1) := by
    subst hr₁
    simp only [Run.mod_dev, Tab.get?_set_self]
    rfl
  have hphase : r₁.cur.dev.phases.map (fun p => (p.2.op, p.2.phase, p.2.target)) = [(0x41, 1, x * 2 ^ 30)] := by
    subst hr₁
    simp only [Run.mod_dev]
    rw [show r.cur.dev.phases = [] from hphases]
    rfl
  clear hr₁
  obtain ⟨_, _, _, _, _, hdev⟩ := hdev
  unfold Run.countPhases Run.setO Run.journal Run.tell
  refine ⟨?_, hbytes.trans ⟨rfl, rfl, rfl, rfl, rfl, rfl⟩, hmove, hphase, rfl, by rw [← hout]; rfl⟩
  simp only [Run.emit_dev, Run.mod_dev, hdev]
  exact ⟨_, _, _, _, _, _, _, _, rfl⟩

end

/-- An extent move begins, or ends where the extent is at its destination (R51). -/
theorem placeExtent_answers (n : Fin 1024) (b : List Byte) (c : Chain) (e dest : Nat) (prot : Bool) (s : State) (h : s.dev.Idle)
    (heng : s.dev.Engine n.val 0x41 b c) (hok : placeOk b 2 512 = true) (hcount : fld b 0x18 4 = 512) (hcls : fld b 0x1D 1 = 0)
    (haddr : fld b 0x10 8 = e * 2 ^ 30) (he32 : e < 2 ^ 32) (hdest : fld b 0x20 2 = dest)
    (hgran : ∀ i, i < 512 → (s.dev.gran.get? (512 * e + i)).map (fun x => (x.part, x.state, x.prot)) = some (c.part, 0, prot))
    (hphases : s.dev.phases = []) :
    Answers (.placeExtent n) s fun t => SameBytes s t ∧ t.dev.gran = s.dev.gran
      ∧ if dest = s.dev.self then t.dev.Ended n.val .ok (placeWord b) else
          (t.dev.exts.get? e).map (fun x => (x.pair, x.dest, x.tier, x.phase)) = some (some n.val, dest, fld b 0x1C 1, 1)
          ∧ t.dev.phases.map (fun p => (p.2.op, p.2.phase, p.2.target)) = [(0x41, 1, e * 2 ^ 30)]
          ∧ t.dev.journal.head?.map (fun j => (j.step, j.granule)) = some (5, e * 512)
          ∧ Sends s t (.plinth dest (.allocate e (fld b 0x1C 1) c.part prot)) := by
  obtain ⟨r, en, hr, he, hop⟩ := heng.starts (kind := anyKind) rfl fun e b r => r.placeExtent e b
  have hexec : exec (.placeExtent n) s = _ := congrArg Run.requestDone hop
  obtain ⟨_, _, hdev⟩ := hr.dev
  have hentry : ∀ i, i < 512 → ∃ y, r.d.gran.get? (512 * e + i) = some y ∧ y.part = c.part ∧ y.state = 0 ∧ y.prot = prot := fun i hi => by
    obtain ⟨y, hy, hfields⟩ := Option.map_eq_some_iff.1 (hgran i hi)
    simp only [Prod.mk.injEq] at hfields
    exact ⟨y, by rw [Run.d, hr.gran]; exact hy, hfields⟩
  have howned : r.d.Owned en.part (512 * e) 512 := by
    refine ⟨by omega, by omega, by omega, fun i hi => ?_, by rw [Run.d, hdev]; exact h.revokes, by rw [Run.d, hdev]; exact h.revoked,
      by rw [Run.d, hdev]; exact h.assigned⟩
    obtain ⟨y, hy, hp, -⟩ := hentry i hi
    rw [hy, he.2.1, ← hp]
    rfl
  have haligned : fld b 0x10 8 = 512 * e * 2 ^ 21 := by rw [haddr]; ring
  have hplace : ∀ k, r.place en b 2 512 k = k ((List.range 512).map (512 * e + ·)) (fld b 0x28 8) r :=
    fun k => r.place_owned en b 2 512 (512 * e) 512 k hok he.2.2 heng.plain hcount hcls haligned howned
  have hhome : r.d.ExtentHome e ((List.range 512).map (512 * e + ·)) prot :=
    Dev.extentHome_of (by decide) fun i hi => (hentry i hi).imp fun _ hy => ⟨hy.1, hy.2.2⟩
  generalize (List.range 512).map (512 * e + ·) = gs at hplace hhome
  have hplaces : r.d.places = [] := by rw [Run.d, hdev]; exact h.places
  have hself : r.d.self = s.dev.self := by rw [Run.d, hdev]; rfl
  by_cases hd : dest = s.dev.self
  · obtain ⟨o, ho, hbody⟩ := r.placeExtent_home hplace hplaces hcount (by rw [hdest, hd, hself])
    rw [hbody, he.1] at hexec
    have hend := r.placeEnd_placedOk n.val o b hr.chain ho
    obtain ⟨_, hdev₁⟩ := hend.dev
    refine Answers.of_requestDone _ hexec (hend.calm (hr.calm h.calm)) ⟨hr.bytes.trans hend.bytes, ?_, ?_⟩
    · rw [hdev₁]; exact hr.gran
    · rw [if_pos hd]; exact hend.ended
  · have hasked := r.placeExtent_away hplace hplaces hcount hcls (by rw [hdest, hself]; exact hd) hhome (by rw [Run.d, hdev]; exact h.exts)
      (by rw [Run.d, hdev]; exact h.moves) (by rw [Run.d, hdev]; exact hphases)
    rw [he.1, he.2.1, hdest] at hasked
    generalize r.placeExtent en b = r₁ at hexec hasked
    obtain ⟨_, _, _, _, _, _, _, _, hdev₁⟩ := hasked.dev
    refine Answers.of_requestDone _ hexec (by rw [Run.d, hdev₁]; exact (hr.calm h.calm).of_waiting rfl) ⟨hr.bytes.trans hasked.bytes, ?_, ?_⟩
    · rw [hdev₁]; exact hr.gran
    · rw [if_neg hd]
      refine ⟨hasked.move, hasked.phases, hasked.journal, [_], ?_, List.mem_singleton.2 rfl⟩
      rw [hasked.asked, hr.out]
      rfl

end Sys2Proof.Machine

open Sys2Proof Sys2Proof.Machine

/-- Settles O49: clause by clause. A pair that stands at the descriptor starts it, its range is one of granules homed here, and the body of
the operation is followed on them. -/
theorem placementDescriptors : Obligations.PlacementDescriptors :=
  ⟨placeTier_opens_answers, placeTier_here_answers, placeExtent_answers, placeAdvisePrefetch_answers, placeAdviseOpen_answers,
    placeAdviseCold_answers, placeAdviseWriteback_answers, placeDiscard_answers, placeQuery_answers⟩

end

section
/-! PROOFS. Translation descriptors: how a pair starts one, what a scope drops and drains, and how it ends (R68, R74, R85). -/
namespace Sys2Proof.Machine

/-! ### A pair starts a descriptor, and other pairs stay -/

/-- What starting a descriptor does, as `Started` has it, and that of the pairs only `n` changed: what is parked or under way at others stays. -/
structure StartedAlone (a b : State) (n : Nat) (c : Chain) : Prop where
  dev : ∃ p rd, b.dev = { a.dev with pairs := a.dev.pairs.set n p, readied := rd }
  bytes : SameBytes a b
  chain : (b.dev.pair n).chain = some { c with stage := .busy, began := a.dev.now }

/-- A pair that stands at a descriptor of the command's operation starts it, runs the command's body, and leaves every other pair. -/
theorem Dev.Engine.startsAlone {s : State} {n code : Nat} {b : List Byte} {c : Chain} (h : s.dev.Engine n code b c) {kind : List Byte → Bool}
    (hkind : kind b = true) (k : Eng → List Byte → Run s → Run s) :
    ∃ (r : Run s) (e : Eng), StartedAlone s r.cur n c ∧ (e.n = n ∧ e.part = c.part) ∧ (Run.start s).op n code kind k = k e b r := by
  have hpair : ((Run.start s).d.pair n).chain = some c := h.chain
  have hpos : (c.pos == 255 && dCtl b 0) = false := by
    have := h.inside
    simpa using this
  have hcls : (!dFixed code && code != 0x55 && dCls b == 2 && s.dev.o c.part 0x6010 3 == 0) = false := by
    rcases h.cls with hf | hf <;> simp [hf]
  have hgoes : (!(Run.start s).d.ready || !(Run.start s).d.pins.refSys || (c.ended && !(Run.start s).d.tileUnder n) || dOp b != code || !kind b) = false := by
    simp [show (Run.start s).d.ready = true from h.ready, show (Run.start s).d.pins.refSys = true from h.clock, h.goes, h.op, hkind]
  unfold Run.op
  dsimp only
  rw [hpair]
  dsimp only
  rw [h.desc, hgoes, h.start, h.header, hpos, if_neg (by simp)]
  dsimp only
  rw [if_neg (by simp)]
  refine ⟨_, _, ⟨⟨_, _, rfl⟩, ⟨rfl, rfl, rfl, rfl, rfl, rfl⟩, ?_⟩, ⟨?_, ?_⟩, if_neg (ne_true_of_eq_false hcls)⟩
  · rw [Dev.pair, Run.updPair, Run.mod_dev]
    rw [Tab.getD_set_self]
    rw [show (((Run.start s).unready n).cur.dev.pairs.getD n {}).chain = some c from h.chain]
    rfl
  · rfl
  · rfl

section
variable {a b : State} {n : Nat} {c : Chain} (h : StartedAlone a b n c)
include h

theorem StartedAlone.calm (q : a.dev.Calm) : b.dev.Calm := by
  obtain ⟨_, _, e⟩ := h.dev
  rw [e]
  exact q.of_waiting rfl

theorem StartedAlone.pair_ne {m : Nat} (hm : m ≠ n) : b.dev.pair m = a.dev.pair m := by
  obtain ⟨_, _, e⟩ := h.dev
  rw [e]
  exact Tab.getD_set_ne _ _ _ hm.symm

end

/-! ### A descriptor ends -/

theorem Answers.mono {i : Instr} {s : State} {P Q : State → Prop} (h : Answers i s P) (hPQ : ∀ t, P t → Q t) : Answers i s Q := by
  obtain ⟨t, ht, hP⟩ := h
  exact ⟨t, ht, hPQ t hP⟩

section
variable {s₀ : State}

/-- A descriptor without result buffers ends with the word it is given. -/
theorem Run.finish_ended (r : Run s₀) {n : Nat} {c : Chain} (st : Status) (word : Nat) (hc : (r.d.pair n).chain = some c) :
    (r.finish n st word).cur.dev.Ended n st word := by
  unfold Dev.Ended
  rw [← Run.d, Run.finish_pair, hc]
  simp

theorem Run.finish_sameBytes (r : Run s₀) (n : Nat) (st : Status) (word : Nat) (outs : List (Nat × List Byte)) :
    SameBytes r.cur (r.finish n st word outs).cur := r.mod_sameBytes _

theorem Run.updPair_sameBytes (r : Run s₀) (n : Nat) (f : Pair → Pair) : SameBytes r.cur (r.updPair n f).cur := r.mod_sameBytes _

theorem Run.finish_fents (r : Run s₀) (n : Nat) (st : Status) (word : Nat) (outs : List (Nat × List Byte)) :
    (r.finish n st word outs).cur.dev.fents = r.cur.dev.fents := rfl

theorem Run.finish_pair_ne (r : Run s₀) {n m : Nat} (st : Status) (word : Nat) (outs : List (Nat × List Byte)) (hm : m ≠ n) :
    (r.finish n st word outs).d.pair m = r.d.pair m := Tab.getD_set_ne _ _ _ hm.symm

/-- A well-formed descriptor without a result record, by the owner of its ASID where it names one, runs its body (R85). -/
theorem Run.xlateOp_plain (r : Run s₀) (e : Eng) (b : List Byte) (k : Nat → Run s₀ → Run s₀) (hok : xlateOk b = true)
    (hres : fld b 0x30 8 = 0) (hown : r.d.ownsAsid e.part (xAsid b) = true ∨ (dOp b = 0x49 ∧ xKind b = 2)) : r.xlateOp e b k = k 0 r := by
  have hmay : (!(dOp b == 0x49 && xKind b == 2) && !r.d.ownsAsid e.part (xAsid b)) = false := by
    rcases hown with hown | ⟨hop, hkind⟩
    · simp [hown]
    · simp [hop, hkind]
  unfold Run.xlateOp
  rw [hok, hmay, hres]
  rfl

/-! ### What a scope drops -/

/-- The blocks hold nothing of the scope. -/
theorem Run.dropScope_covers (r : Run s₀) (x : Inval) {y : Nat × List TlbE} (hy : y ∈ (r.dropScope x).2.d.tlb) {e : TlbE} (he : e ∈ y.2) :
    x.covers e.asid (e.vpn * 2 ^ e.bits) (2 ^ e.bits) = false := by
  obtain ⟨z, -, rfl⟩ := List.mem_map.1 hy
  simpa using (List.mem_filter.1 he).2

/-- A scope of one ASID covers all of it. -/
theorem Inval.covers_asid {x : Inval} {asid : Nat} (hlo : x.lo = asid) (hhi : x.hi = asid + 1) (hp : x.pages = none) (va len : Nat) :
    x.covers asid va len = true := by
  simp [Inval.covers, hlo, hhi, hp]

/-- A command that drops a scope and ends its descriptor `OK` leaves nothing of the scope; the roots and the bytes stay. -/
theorem Run.dropScope_answers {i : Instr} {s : State} (r : Run s) {n : Nat} {c : Chain} {x : Inval}
    (hexec : exec i s = ((r.dropScope x).2.finish n .ok 0).requestDone) (q : r.d.Calm) (hc : (r.d.pair n).chain = some c)
    (hb : SameBytes s r.cur) :
    Answers i s fun t => t.dev.Ended n .ok 0 ∧ t.dev.roots = r.d.roots ∧ SameBytes s t
      ∧ ∀ y ∈ t.dev.tlb, ∀ e ∈ y.2, x.covers e.asid (e.vpn * 2 ^ e.bits) (2 ^ e.bits) = false :=
  Answers.of_requestDone _ hexec (q.of_waiting rfl) ⟨Run.finish_ended _ _ _ hc, rfl, hb.trans ((r.mod_sameBytes _).trans (Run.finish_sameBytes ..)),
    fun _ hy _ he => r.dropScope_covers x hy he⟩

/-! ### `BIND` -/

/-- A `BIND` whose root, if it gives one, is a table in SRAM or placed DRAM changes the root and drops the ASID's entries (R66, R68). -/
theorem Run.bind_plain (r : Run s₀) (e : Eng) (b : List Byte) (hok : xlateOk b = true) (hres : fld b 0x30 8 = 0)
    (hown : r.d.ownsAsid e.part (xAsid b) = true)
    (hroot : xKind b = 0 → fld b 0x20 8 % 4096 = 0 ∧ fld b 0x20 8 < 2 ^ 62 ∧ ∃ g, r.d.g? (fld b 0x20 8) = some g ∧ g.tier < 2) :
    r.bind e b = ((r.mod fun d => { d with roots := if xKind b == 0 then d.roots.set (xAsid b) (fld b 0x20 8) else d.roots.del (xAsid b) }).dropScope
      { at_ := r.now, dropped := 0, lo := xAsid b, hi := xAsid b + 1, pages := none }).2.finish e.n .ok 0 := by
  unfold Run.bind
  rw [r.xlateOp_plain e b _ hok hres (.inl hown)]
  dsimp only
  rw [if_neg]
  · rfl
  · by_cases hk : xKind b = 0
    · obtain ⟨halign, hlt, g, hg, ht⟩ := hroot hk
      simp [halign, storeAddrOk_of_lt hlt, hg, Nat.ne_of_lt ht]
    · simp [hk]

/-! ### `INVAL` -/

theorem Tab.any_set {α : Type} (t : Tab α) (k : Nat) (v : α) (f : Nat × α → Bool) (h : ∀ w, f (k, w) = false) : (t.set k v).any f = t.any f := by
  induction t with
  | nil => simp [Tab.set, h]
  | cons e t ih =>
    obtain ⟨j, w⟩ := e
    unfold Tab.set
    split
    · next hj =>
      subst hj
      simp [h]
    · split <;> simp [h, ih]

/-- `e` is `d` but for pair `n`, what the translation blocks hold, and the lines that were cleaned. -/
def Dev.AsideFrom (d e : Dev) (n : Nat) : Prop :=
  ∃ p rd t q w, e = { d with pairs := d.pairs.set n p, readied := rd, tlb := t, ptrs := q, walks := w }

section
variable {d e : Dev} {n : Nat} (h : d.AsideFrom e n)
include h

/-- The pages that other pairs use do not depend on the pair that invalidates. -/
theorem Dev.AsideFrom.pairVia (x : Inval) (m a : Nat) : e.pairVia x n m a = d.pairVia x n m a := by
  obtain ⟨p, rd, t, q, w, rfl⟩ := h
  by_cases hm : m = n
  · simp [Dev.pairVia, hm]
  · unfold Dev.pairVia Dev.pair
    rw [Tab.getD_set_ne _ _ _ (Ne.symm hm)]
    rfl

/-- Whether an invalidation drains is a matter of the requests under way and of the other pairs. -/
theorem Dev.AsideFrom.draining (x : Inval) : e.draining x n = d.draining x n := by
  have hvia := h.pairVia x
  obtain ⟨p, rd, t, q, w, rfl⟩ := h
  unfold Dev.draining
  simp only [hvia]
  rw [Tab.any_set]
  intro p
  simp [Dev.pairVia]

end

theorem StartedAlone.aside {a b : State} {n : Nat} {c : Chain} (h : StartedAlone a b n c) : a.dev.AsideFrom b.dev n := by
  obtain ⟨p, rd, e⟩ := h.dev
  exact ⟨p, rd, _, _, _, e⟩

theorem Dev.AsideFrom.dropScope {d : Dev} {n : Nat} {r : Run s₀} (h : d.AsideFrom r.d n) (x : Inval) : d.AsideFrom (r.dropScope x).2.d n := by
  obtain ⟨p, rd, t, q, w, e⟩ := h
  exact ⟨p, rd, _, _, _, by rw [Run.d, Run.dropScope, Run.mod_dev, ← Run.d, e]⟩

/-- An invalidation drops its scope, and ends where nothing translated through it runs; else it is noted, and drains (R74). -/
theorem Run.inval_plain (r : Run s₀) (e : Eng) (b : List Byte) (hok : xlateOk b = true) (hres : fld b 0x30 8 = 0)
    (hown : r.d.ownsAsid e.part (xAsid b) = true ∨ (dOp b = 0x49 ∧ xKind b = 2)) (hinval : r.d.inval = []) {d : Dev} (h : d.AsideFrom r.d e.n) :
    r.inval e b = if d.draining (r.d.invalScope e.part b) e.n
      then (r.dropScope (r.d.invalScope e.part b)).2.mod fun d =>
        { d with inval := d.inval.set e.n { r.d.invalScope e.part b with dropped := (r.dropScope (r.d.invalScope e.part b)).1 } }
      else (r.dropScope (r.d.invalScope e.part b)).2.finish e.n .ok 0 := by
  unfold Run.inval
  rw [hinval, Tab.has_nil, if_neg (by decide), r.xlateOp_plain e b _ hok hres hown]
  dsimp only
  rw [(h.dropScope _).draining]
  cases d.draining (r.d.invalScope e.part b) e.n <;> rfl

end

/-! ### Faults that are resolved, or failed -/

section
variable {s₀ : State}

/-- What handing back the one tile that is parked on an entry does: the entry is gone, and the pair is parked on it no more (R81). -/
theorem Run.replayEntry_pair (r : Run s₀) (i : Nat) {x : FEnt} {m : Nat} (hx : x.reqs = [.pair m]) :
    r.replayEntry i x = (r.mod fun d => { d with fents := d.fents.del i }).updPair m fun p => { p with parked := p.parked.filter (· != i) } := by
  unfold Run.replayEntry
  rw [hx]
  rfl

/-- A pair's tile leaves an entry. -/
def FEnt.without (x : FEnt) (m : Nat) : FEnt := { x with reqs := x.reqs.filter (· != .pair m) }

/-- Failing the one tile that is parked on an entry ends its descriptor, and it is parked nowhere (R82). -/
theorem Run.failEntry_pair (r : Run s₀) (i : Nat) {x : FEnt} {m : Nat} (hx : x.reqs = [.pair m]) :
    r.failEntry i x = ((r.mod fun d => { d with fents := (d.fents.del i).map fun y => (y.1, y.2.without m) }).updPair m fun p => { p with parked := [] }).finish m .fault x.kind := by
  unfold Run.failEntry
  rw [hx]
  rfl

theorem Tab.get?_map {α β : Type} (t : Tab α) (f : α → β) (k : Nat) : Tab.get? (t.map fun e => (e.1, f e.2)) k = (t.get? k).map f := by
  induction t with
  | nil => rfl
  | cons e t ih =>
    obtain ⟨j, v⟩ := e
    rw [List.map_cons, Tab.get?_cons, Tab.get?_cons, ih]
    split <;> rfl

theorem Run.updPair_pair (r : Run s₀) (n : Nat) (f : Pair → Pair) : (r.updPair n f).d.pair n = f (r.d.pair n) := Tab.getD_set_self ..

theorem Run.updPair_fents (r : Run s₀) (n : Nat) (f : Pair → Pair) : (r.updPair n f).cur.dev.fents = r.cur.dev.fents := rfl

theorem Run.updPair_pair_ne (r : Run s₀) {n m : Nat} (f : Pair → Pair) (hm : m ≠ n) : (r.updPair n f).d.pair m = r.d.pair m :=
  Tab.getD_set_ne _ _ _ hm.symm

/-- Failing the one tile parked on an entry: the entry is gone, the pair's descriptor ended with the entry's kind, nothing else of the pairs
or the bytes changed. -/
structure FailedPair (a b : State) (i m kind : Nat) : Prop where
  gone : b.dev.fents.get? i = none
  ended : b.dev.Ended m .fault kind
  parked : (b.dev.pair m).parked = []
  others : ∀ n, n ≠ m → b.dev.pair n = a.dev.pair n
  bytes : SameBytes a b
  waiting : b.dev.waiting = a.dev.waiting

theorem Run.failEntry_failedPair (r : Run s₀) (i : Nat) {x : FEnt} {m : Nat} {c : Chain} (hx : x.reqs = [.pair m])
    (hc : (r.d.pair m).chain = some c) : FailedPair r.cur (r.failEntry i x).cur i m x.kind := by
  rw [r.failEntry_pair i hx]
  generalize hr₁ : (r.mod _ : Run s₀) = r₁
  have hpair : ∀ n, r₁.d.pair n = r.d.pair n := fun n => hr₁ ▸ rfl
  refine ⟨?_, ?_, ?_, fun n hn => ?_, ?_, ?_⟩
  · rw [Run.finish_fents, Run.updPair_fents, ← hr₁, Run.mod_dev]
    refine (Tab.get?_map (r.d.fents.del i) (·.without m) i).trans ?_
    rw [Tab.get?_del_self]
    rfl
  · refine Run.finish_ended (c := c) _ _ _ ?_
    rw [Run.updPair_pair, hpair]
    exact hc
  · rw [← Run.d, Run.finish_pair, Run.updPair_pair]
  · rw [← Run.d, Run.finish_pair_ne _ _ _ _ hn, Run.updPair_pair_ne _ _ hn, hpair]
  · exact (hr₁ ▸ r.mod_sameBytes _ : SameBytes r.cur r₁.cur).trans ((r₁.updPair_sameBytes _ _).trans (Run.finish_sameBytes ..))
  · subst hr₁
    rfl

/-- A `RESOLVE` that names an entry of its ASID resolves it, and ends `OK` (R86). -/
theorem Run.resolve_plain (r : Run s₀) (e : Eng) (b : List Byte) (fail : Bool) {x : FEnt} (hok : xlateOk b = true) (hres : fld b 0x30 8 = 0)
    (hown : r.d.ownsAsid e.part (xAsid b) = true) (hx : r.d.fents.get? (fld b 0x28 2) = some x) (hasid : x.asid = xAsid b) :
    r.resolve e b fail = (if fail then r.failEntry (fld b 0x28 2) x else r.replayEntry (fld b 0x28 2) x).finish e.n .ok 0 := by
  unfold Run.resolve
  rw [r.xlateOp_plain e b _ hok hres (.inl hown)]
  dsimp only
  rw [hx]
  dsimp only
  rw [hasid, bne_self_eq_false, if_neg (by decide)]
  rfl

/-! ### Pages that are prefetched -/

/-- An entry without its pin. -/
def TlbE.bare (e : TlbE) : TlbE := { e with pin := none, creds := [] }

/-- `b` is `a` but for what the translation blocks hold of leaves. -/
def OnlyTlb (a b : State) : Prop := ∃ t, b = { a with dev := { a.dev with tlb := t } }

theorem OnlyTlb.trans {a b c : State} (h : OnlyTlb a b) (k : OnlyTlb b c) : OnlyTlb a c := by
  obtain ⟨_, rfl⟩ := h
  obtain ⟨t, rfl⟩ := k
  exact ⟨t, rfl⟩

section
variable (r : Run s₀) (blk : Nat) (e : TlbE)

theorem Run.install_onlyTlb : OnlyTlb r.cur (r.install blk e).cur := ⟨_, rfl⟩

theorem Run.putTlb_tlb_ne {k : Nat} (hk : k ≠ blk) : (r.putTlb blk e).d.tlb.getD k [] = r.d.tlb.getD k [] := Tab.getD_set_ne _ _ _ hk.symm

/-- A block with room finds the entry that was put there. -/
theorem Run.putTlb_hit {asid va : Nat} (hroom : (r.d.tlb.getD blk []).length < 4096) (hasid : e.asid = asid) (hvpn : e.vpn = va / 2 ^ e.bits) :
    (r.putTlb blk e).d.hit? blk asid va = some e := by
  have hlen : (e :: (r.d.tlb.getD blk []).filter fun x => !(x.asid == e.asid && x.vpn == e.vpn && x.bits == e.bits)).length ≤ 4096 :=
    Nat.succ_le_of_lt (Nat.lt_of_le_of_lt (List.length_filter_le ..) hroom)
  unfold Run.putTlb
  dsimp only
  rw [if_pos hlen]
  simp [Dev.hit?, Run.d, hasid, hvpn]

/-- A block with room finds the entry that was installed there, but for its pin. -/
theorem Run.install_hit {asid va : Nat} (hroom : (r.d.tlb.getD blk []).length < 4096) (hasid : e.asid = asid) (hvpn : e.vpn = va / 2 ^ e.bits) :
    ((r.install blk e).d.hit? blk asid va).map (·.bare) = some e.bare := by
  unfold Run.install
  rw [Run.putTlb_hit _ _ _ hroom]
  · split <;> rfl
  · split <;> exact hasid
  · split <;> exact hvpn

/-- A block without entries holds the one that is installed as it is. -/
theorem Run.install_hit_empty {asid va : Nat} (hnone : r.d.tlb.get? blk = none) (hasid : e.asid = asid) (hvpn : e.vpn = va / 2 ^ e.bits) :
    (r.install blk e).d.hit? blk asid va = some e := by
  have hempty : r.d.tlb.getD blk [] = [] := by simp [Tab.getD, hnone]
  unfold Run.install
  rw [hempty, List.find?_nil]
  exact r.putTlb_hit blk e (by rw [hempty]; decide) hasid hvpn

end

/-- Every block with room finds the entry that was installed in all of them. -/
theorem Run.each_install (r : Run s₀) {e : TlbE} {asid va : Nat} (hasid : e.asid = asid) (hvpn : e.vpn = va / 2 ^ e.bits) {bs : List Nat}
    (hnd : bs.Nodup) (hroom : ∀ k ∈ bs, (r.d.tlb.getD k []).length < 4096) :
    OnlyTlb r.cur (r.each bs fun r k => r.install k e).cur
      ∧ (∀ k, k ∉ bs → (r.each bs fun r k => r.install k e).d.tlb.getD k [] = r.d.tlb.getD k [])
      ∧ ∀ k ∈ bs, ((r.each bs fun r k => r.install k e).d.hit? k asid va).map (·.bare) = some e.bare := by
  induction bs generalizing r with
  | nil => exact ⟨⟨_, rfl⟩, fun _ _ => rfl, by simp⟩
  | cons j bs ih =>
    obtain ⟨hj, hnd⟩ := List.nodup_cons.1 hnd
    have hne : ∀ k, k ≠ j → (r.install j e).d.tlb.getD k [] = r.d.tlb.getD k [] := fun k hk => r.putTlb_tlb_ne j _ hk
    obtain ⟨honly, hkeep, hhit⟩ := ih (r.install j e) hnd fun k hk => by
      rw [hne k (ne_of_mem_of_not_mem hk hj)]
      exact hroom k (List.mem_cons_of_mem _ hk)
    rw [Run.each_cons]
    refine ⟨(r.install_onlyTlb j e).trans honly, fun k hk => ?_, fun k hk => ?_⟩
    · rw [List.mem_cons, not_or] at hk
      rw [hkeep k hk.2, hne k hk.1]
    · rcases List.mem_cons.1 hk with rfl | hk
      · rw [← r.install_hit k e (hroom k List.mem_cons_self) hasid hvpn]
        unfold Dev.hit?
        rw [hkeep k hj]
      · exact hhit k hk

/-- A prefetch of one page that the pair's block holds, without TIER or REPORT, installs it in every block and ends `OK` (R87). -/
theorem Run.xprefetch_hit (r : Run s₀) (e : Eng) (b : List Byte) {t : TlbE} (hok : xlateOk b = true) (hres : fld b 0x30 8 = 0)
    (hown : r.d.ownsAsid e.part (xAsid b) = true) (hflags : fld b 0x1F 1 = 0) (hone : xCount b = 1)
    (hhit : r.d.hit? (blkOfPair e.n) (xAsid b) (xVa b) = some t) :
    r.xprefetch e b = (r.each (List.range 8) fun r k => r.install k t.bare).finish e.n .ok 0 := by
  unfold Run.xprefetch
  rw [r.xlateOp_plain e b _ hok hres (.inl hown), hone]
  unfold Run.prefetchWalk
  dsimp only
  rw [hhit]
  dsimp only
  unfold Run.prefetchWalk
  dsimp only
  rw [hflags, if_neg (by decide), if_neg (by decide)]
  rfl

end

/-! ### The commands -/

/-- A root that `BIND` gives or takes away (R68). -/
theorem Run.bind_answers {i : Instr} {s : State} {n : Nat} {b : List Byte} {c : Chain} (h : s.dev.Engine n 0x48 b c) (q : s.dev.Calm)
    {kind : List Byte → Bool} (hkind : kind b = true) (hexec : exec i s = ((Run.start s).op n 0x48 kind fun e b r => r.bind e b).requestDone)
    (hok : xlateOk b = true) (hres : fld b 0x30 8 = 0) (hown : s.dev.ownsAsid c.part (xAsid b) = true)
    (hroot : xKind b = 0 → fld b 0x20 8 % 4096 = 0 ∧ fld b 0x20 8 < 2 ^ 62 ∧ ∃ g, s.dev.g? (fld b 0x20 8) = some g ∧ g.tier < 2) :
    Answers i s fun t => t.dev.Ended n .ok 0
      ∧ t.dev.roots = (if xKind b == 0 then s.dev.roots.set (xAsid b) (fld b 0x20 8) else s.dev.roots.del (xAsid b)) ∧ SameBytes s t
      ∧ ∀ x ∈ t.dev.tlb, ∀ e ∈ x.2, e.asid ≠ xAsid b := by
  obtain ⟨r, e, hr, ⟨hn, hpart⟩, hop⟩ := h.startsAlone hkind fun e b r => r.bind e b
  obtain ⟨p, rd, hdev⟩ := hr.dev
  rw [hop, r.bind_plain e b hok hres (by rw [hpart, Run.d, hdev]; exact hown) (by rw [Run.d, hdev]; exact hroot), hn] at hexec
  refine (Run.dropScope_answers _ hexec ((hr.calm q).of_waiting rfl) hr.chain (hr.bytes.trans (r.mod_sameBytes _))).mono ?_
  rintro t ⟨hended, hroots, hbytes, hdrop⟩
  refine ⟨hended, ?_, hbytes, fun x hx e he hasid => ?_⟩
  · rw [hroots, Run.d, Run.mod_dev, hdev]
  · have hcov := hdrop x hx e he
    rw [hasid, Inval.covers_asid rfl rfl rfl] at hcov
    cases hcov

theorem xlateBind_answers (n : Fin 1024) (b : List Byte) (c : Chain) (s : State) (hidle : s.dev.Idle) (h : s.dev.Engine n.val 0x48 b c)
    (hkind : xKind b = 0) (hok : xlateOk b = true) (hres : fld b 0x30 8 = 0) (hown : s.dev.ownsAsid c.part (xAsid b) = true)
    (halign : fld b 0x20 8 % 4096 = 0) (hlt : fld b 0x20 8 < 2 ^ 62) (hplaced : ∃ part, s.dev.Placed (fld b 0x20 8) part) :
    Answers (.xlateBind n) s fun t => t.dev.Ended n.val .ok 0 ∧ t.dev.roots.get? (xAsid b) = some (fld b 0x20 8) ∧ SameBytes s t
      ∧ (∀ x ∈ t.dev.tlb, ∀ e ∈ x.2, e.asid ≠ xAsid b) ∧ ∀ y, y ≠ xAsid b → t.dev.roots.get? y = s.dev.roots.get? y := by
  obtain ⟨_, g, hg, ht, -⟩ := hplaced
  refine (Run.bind_answers h hidle.calm (kind := xkind 0) (by simp [xkind, hkind]) rfl hok hres hown fun _ => ⟨halign, hlt, g, hg, ht⟩).mono ?_
  rintro t ⟨hended, hroots, hbytes, hdrop⟩
  rw [hkind, beq_self_eq_true, if_pos rfl] at hroots
  exact ⟨hended, hroots ▸ Tab.get?_set_self .., hbytes, hdrop, fun y hy => hroots ▸ Tab.get?_set_ne _ _ hy.symm⟩

theorem xlateUnbind_answers (n : Fin 1024) (b : List Byte) (c : Chain) (s : State) (hidle : s.dev.Idle) (h : s.dev.Engine n.val 0x48 b c)
    (hkind : xKind b = 1) (hok : xlateOk b = true) (hres : fld b 0x30 8 = 0) (hown : s.dev.ownsAsid c.part (xAsid b) = true) :
    Answers (.xlateUnbind n) s fun t => t.dev.Ended n.val .ok 0 ∧ t.dev.roots.get? (xAsid b) = none ∧ SameBytes s t
      ∧ (∀ x ∈ t.dev.tlb, ∀ e ∈ x.2, e.asid ≠ xAsid b) ∧ ∀ y, y ≠ xAsid b → t.dev.roots.get? y = s.dev.roots.get? y := by
  refine (Run.bind_answers h hidle.calm (kind := xkind 1) (by simp [xkind, hkind]) rfl hok hres hown (by simp [hkind])).mono ?_
  rintro t ⟨hended, hroots, hbytes, hdrop⟩
  rw [hkind, if_neg (by decide)] at hroots
  exact ⟨hended, hroots ▸ Tab.get?_del_self .., hbytes, hdrop, fun y hy => by rw [hroots, Tab.get?_del, if_neg hy.symm]⟩

/-- An invalidation that finds nothing under way of its scope ends at once (R74). -/
theorem Run.inval_answers {i : Instr} {s : State} {n : Nat} {b : List Byte} {c : Chain} (h : s.dev.Engine n 0x49 b c) (hidle : s.dev.Idle)
    {kind : List Byte → Bool} (hkind : kind b = true) (hexec : exec i s = ((Run.start s).op n 0x49 kind fun e b r => r.inval e b).requestDone)
    (hok : xlateOk b = true) (hres : fld b 0x30 8 = 0) (hown : s.dev.ownsAsid c.part (xAsid b) = true ∨ (dOp b = 0x49 ∧ xKind b = 2))
    (hdrain : s.dev.draining (s.dev.invalScope c.part b) n = false) :
    Answers i s fun t => t.dev.Ended n .ok 0 ∧ t.dev.roots = s.dev.roots ∧ SameBytes s t
      ∧ ∀ x ∈ t.dev.tlb, ∀ e ∈ x.2, (s.dev.invalScope c.part b).covers e.asid (e.vpn * 2 ^ e.bits) (2 ^ e.bits) = false := by
  obtain ⟨r, e, hr, ⟨hn, hpart⟩, hop⟩ := h.startsAlone hkind fun e b r => r.inval e b
  obtain ⟨p, rd, hdev⟩ := hr.dev
  have hscope : r.d.invalScope e.part b = s.dev.invalScope c.part b := by rw [hpart, Run.d, hdev]; rfl
  rw [hop, r.inval_plain e b hok hres (by rw [hpart, Run.d, hdev]; exact hown) (by rw [Run.d, hdev]; exact hidle.inval) (hn ▸ hr.aside), hn,
    hscope, hdrain, if_neg (by decide)] at hexec
  refine (Run.dropScope_answers _ hexec (hr.calm hidle.calm) hr.chain hr.bytes).mono ?_
  rintro t ⟨hended, hroots, hbytes, hdrop⟩
  exact ⟨hended, by rw [hroots, Run.d, hdev], hbytes, hdrop⟩

theorem xlateInvalPages_answers (n : Fin 1024) (b : List Byte) (c : Chain) (s : State) (hidle : s.dev.Idle) (h : s.dev.Engine n.val 0x49 b c)
    (hkind : xKind b = 0) (hok : xlateOk b = true) (hres : fld b 0x30 8 = 0) (hown : s.dev.ownsAsid c.part (xAsid b) = true)
    (hdrain : s.dev.draining (s.dev.invalScope c.part b) n.val = false) :
    Answers (.xlateInvalPages n) s fun t => t.dev.Ended n.val .ok 0 ∧ t.dev.roots = s.dev.roots ∧ SameBytes s t
      ∧ ∀ x ∈ t.dev.tlb, ∀ e ∈ x.2, e.asid = xAsid b →
          e.vpn * 2 ^ e.bits + 2 ^ e.bits ≤ xVa b ∨ xVa b + 65536 * xCount b ≤ e.vpn * 2 ^ e.bits := by
  refine (Run.inval_answers h hidle (kind := xkind 0) (by simp [xkind, hkind]) rfl hok hres (.inl hown) hdrain).mono ?_
  rintro t ⟨hended, hroots, hbytes, hdrop⟩
  refine ⟨hended, hroots, hbytes, fun x hx e he hasid => ?_⟩
  have hcov := hdrop x hx e he
  simp only [Inval.covers, Dev.invalScope, hkind, hasid, Bool.and_eq_false_iff, decide_eq_false_iff_not] at hcov
  omega

theorem xlateInvalAsid_answers (n : Fin 1024) (b : List Byte) (c : Chain) (s : State) (hidle : s.dev.Idle) (h : s.dev.Engine n.val 0x49 b c)
    (hkind : xKind b = 1) (hok : xlateOk b = true) (hres : fld b 0x30 8 = 0) (hown : s.dev.ownsAsid c.part (xAsid b) = true)
    (hdrain : s.dev.draining (s.dev.invalScope c.part b) n.val = false) :
    Answers (.xlateInvalAsid n) s fun t => t.dev.Ended n.val .ok 0 ∧ t.dev.roots = s.dev.roots ∧ SameBytes s t
      ∧ ∀ x ∈ t.dev.tlb, ∀ e ∈ x.2, e.asid ≠ xAsid b := by
  refine (Run.inval_answers h hidle (kind := xkind 1) (by simp [xkind, hkind]) rfl hok hres (.inl hown) hdrain).mono ?_
  rintro t ⟨hended, hroots, hbytes, hdrop⟩
  refine ⟨hended, hroots, hbytes, fun x hx e he hasid => ?_⟩
  have hcov := hdrop x hx e he
  simp [Inval.covers, Dev.invalScope, hkind, hasid] at hcov

theorem xlateInvalPartition_answers (n : Fin 1024) (b : List Byte) (c : Chain) (s : State) (hidle : s.dev.Idle) (h : s.dev.Engine n.val 0x49 b c)
    (hkind : xKind b = 2) (hok : xlateOk b = true) (hres : fld b 0x30 8 = 0)
    (hdrain : s.dev.draining (s.dev.invalScope c.part b) n.val = false) :
    Answers (.xlateInvalPartition n) s fun t => t.dev.Ended n.val .ok 0 ∧ t.dev.roots = s.dev.roots ∧ SameBytes s t
      ∧ ∀ x ∈ t.dev.tlb, ∀ e ∈ x.2, s.dev.ownsAsid c.part e.asid = false := by
  refine (Run.inval_answers h hidle (kind := xkind 2) (by simp [xkind, hkind]) rfl hok hres (.inr ⟨h.op, hkind⟩) hdrain).mono ?_
  rintro t ⟨hended, hroots, hbytes, hdrop⟩
  refine ⟨hended, hroots, hbytes, fun x hx e he => ?_⟩
  have hcov := hdrop x hx e he
  simpa only [Inval.covers, Dev.invalScope, Dev.ownsAsid, hkind, Bool.and_true] using hcov

/-- Requests of an ASID that are under way make its invalidation wait (R74). -/
theorem xlateInvalAsid_waits_answers (n : Fin 1024) (b : List Byte) (c : Chain) (j : Nat × Job) (asid va : Nat) (s : State)
    (hidle : ({ s.dev with jobs := [] } : Dev).Idle) (hjobs : s.dev.jobs = [j]) (hvia : j.2.via = some (asid, va)) (hbegan : j.2.began ≤ s.dev.now)
    (h : s.dev.Engine n.val 0x49 b c) (hkind : xKind b = 1) (hok : xlateOk b = true) (hres : fld b 0x30 8 = 0)
    (hown : s.dev.ownsAsid c.part (xAsid b) = true) (hasid : asid = xAsid b) :
    Answers (.xlateInvalAsid n) s fun t => (∃ x, t.dev.inval.get? n.val = some x ∧ x.at_ = s.dev.now ∧ x.lo = asid ∧ x.hi = asid + 1)
      ∧ (∀ x ∈ t.dev.tlb, ∀ e ∈ x.2, e.asid ≠ xAsid b) ∧ t.dev.jobs = s.dev.jobs ∧ SameBytes s t := by
  obtain ⟨r, e, hr, ⟨hn, hpart⟩, hop⟩ := h.startsAlone (kind := xkind 1) (by simp [xkind, hkind]) fun e b r => r.inval e b
  obtain ⟨p, rd, hdev⟩ := hr.dev
  have hscope : r.d.invalScope e.part b = { at_ := s.dev.now, dropped := 0, lo := xAsid b, hi := xAsid b + 1, pages := none } := by
    rw [hpart, Run.d, hdev, Dev.invalScope, hkind]
    rfl
  have hdrain : s.dev.draining (r.d.invalScope e.part b) n.val = true := by
    simp [Dev.draining, hscope, hjobs, hvia, hbegan, hasid, Inval.covers_asid]
  have hexec : exec (.xlateInvalAsid n) s = _ := congrArg Run.requestDone hop
  rw [r.inval_plain e b hok hres (.inl (by rw [hpart, Run.d, hdev]; exact hown)) (by rw [Run.d, hdev]; exact hidle.inval) (hn ▸ hr.aside), hn,
    hdrain, if_pos rfl] at hexec
  refine Answers.of_requestDone _ hexec ((hr.calm ?_).of_waiting rfl) ⟨⟨_, Tab.get?_set_self .., ?_, ?_, ?_⟩, fun x hx e' he hasid => ?_, ?_,
    hr.bytes.trans ⟨rfl, rfl, rfl, rfl, rfl, rfl⟩⟩
  · exact hidle.calm.of_waiting rfl
  · rw [hscope]
  · rw [hscope, hasid]
  · rw [hscope, hasid]
  · have hcov := r.dropScope_covers _ hx he
    rw [hscope, hasid, Inval.covers_asid rfl rfl rfl] at hcov
    cases hcov
  · show r.cur.dev.jobs = s.dev.jobs
    rw [hdev]

/-- A drain that has ended ends its invalidation (R74). -/
theorem xlateInvalDrained_answers (n : Fin 1024) (c : Chain) (x : Inval) (s : State) (q : s.dev.Quiet) (hx : s.dev.inval.get? n.val = some x)
    (hdrain : s.dev.draining x n.val = false) (hc : (s.dev.pair n.val).chain = some c) (hres : fld c.desc 0x30 8 = 0) :
    Answers (.xlateInvalDrained n) s fun t => t.dev.Ended n.val .ok 0 ∧ t.dev.inval.get? n.val = none ∧ SameBytes s t := by
  have hend : (Run.start s).invalEnd n.val = ((Run.start s).mod fun d => { d with inval := d.inval.del n.val }).finish n.val .ok 0 := by
    unfold Run.invalEnd
    rw [Run.d, Run.start_cur, hx, hc]
    dsimp only
    rw [hdrain, hres]
    rfl
  have hexec : exec (.xlateInvalDrained n) s = _ := congrArg Run.requestDone hend
  exact Answers.of_requestDone _ hexec (q.calm.of_waiting rfl) ⟨Run.finish_ended _ _ _ hc, Tab.get?_del_self .., rfl, rfl, rfl, rfl, rfl, rfl⟩

theorem xlateResolveReplay_answers (n : Fin 1024) (b : List Byte) (c : Chain) (x : FEnt) (m : Nat) (s : State) (q : s.dev.Quiet)
    (h : s.dev.Engine n.val 0x4A b c) (hkind : xKind b = 0) (hok : xlateOk b = true) (hres : fld b 0x30 8 = 0)
    (hown : s.dev.ownsAsid c.part (xAsid b) = true) (hx : s.dev.fents.get? (fld b 0x28 2) = some x) (hasid : x.asid = xAsid b)
    (hreqs : x.reqs = [.pair m]) (hm : m ≠ n.val) :
    Answers (.xlateResolveReplay n) s fun t => t.dev.Ended n.val .ok 0 ∧ t.dev.fents.get? (fld b 0x28 2) = none ∧ SameBytes s t
      ∧ (t.dev.pair m).parked = (s.dev.pair m).parked.filter (· != fld b 0x28 2) := by
  obtain ⟨r, e, hr, ⟨hn, hpart⟩, hop⟩ := h.startsAlone (kind := xkind 0) (by simp [xkind, hkind]) fun e b r => r.resolve e b false
  obtain ⟨p, rd, hdev⟩ := hr.dev
  have hexec : exec (.xlateResolveReplay n) s = _ := congrArg Run.requestDone hop
  rw [r.resolve_plain e b false hok hres (by rw [hpart, Run.d, hdev]; exact hown) (by rw [Run.d, hdev]; exact hx) hasid, if_neg (by decide),
    r.replayEntry_pair _ hreqs, hn] at hexec
  refine Answers.of_requestDone _ hexec ((hr.calm q.calm).of_waiting rfl)
    ⟨Run.finish_ended (c := { c with stage := .busy, began := s.dev.now }) _ _ _ ?_, ?_,
      hr.bytes.trans (((r.mod_sameBytes _).trans (Run.updPair_sameBytes ..)).trans (Run.finish_sameBytes ..)), ?_⟩
  · rw [Run.updPair_pair_ne _ _ hm.symm]
    exact hr.chain
  · rw [Run.finish_fents, Run.updPair_fents, Run.mod_dev, Tab.get?_del_self]
  · rw [← Run.d, Run.finish_pair_ne _ _ _ _ hm, Run.updPair_pair]
    exact congrArg (fun p : Pair => p.parked.filter (· != fld b 0x28 2)) (hr.pair_ne hm)

theorem xlateResolveFail_answers (n : Fin 1024) (b : List Byte) (c cm : Chain) (x : FEnt) (m : Nat) (s : State) (q : s.dev.Quiet)
    (h : s.dev.Engine n.val 0x4A b c) (hkind : xKind b = 1) (hok : xlateOk b = true) (hres : fld b 0x30 8 = 0)
    (hown : s.dev.ownsAsid c.part (xAsid b) = true) (hx : s.dev.fents.get? (fld b 0x28 2) = some x) (hasid : x.asid = xAsid b)
    (hreqs : x.reqs = [.pair m]) (hm : m ≠ n.val) (hcm : (s.dev.pair m).chain = some cm) :
    Answers (.xlateResolveFail n) s fun t => t.dev.Ended n.val .ok 0 ∧ t.dev.fents.get? (fld b 0x28 2) = none ∧ SameBytes s t
      ∧ t.dev.Ended m .fault x.kind ∧ (t.dev.pair m).parked = [] := by
  obtain ⟨r, e, hr, ⟨hn, hpart⟩, hop⟩ := h.startsAlone (kind := xkind 1) (by simp [xkind, hkind]) fun e b r => r.resolve e b true
  obtain ⟨p, rd, hdev⟩ := hr.dev
  have hexec : exec (.xlateResolveFail n) s = _ := congrArg Run.requestDone hop
  rw [r.resolve_plain e b true hok hres (by rw [hpart, Run.d, hdev]; exact hown) (by rw [Run.d, hdev]; exact hx) hasid, if_pos rfl, hn] at hexec
  have hfail := r.failEntry_failedPair (fld b 0x28 2) hreqs (hr.pair_ne hm ▸ hcm)
  generalize r.failEntry _ _ = r₁ at hexec hfail
  refine Answers.of_requestDone _ hexec ((hr.calm q.calm).of_waiting hfail.waiting)
    ⟨Run.finish_ended (c := { c with stage := .busy, began := s.dev.now }) _ _ _ ?_, hfail.gone, ?_, ?_, ?_⟩
  · rw [Run.d, hfail.others _ hm.symm]
    exact hr.chain
  · exact (hr.bytes.trans hfail.bytes).trans (r₁.finish_sameBytes ..)
  · unfold Dev.Ended
    rw [← Run.d, Run.finish_pair_ne _ _ _ _ hm]
    exact hfail.ended
  · rw [← Run.d, Run.finish_pair_ne _ _ _ _ hm]
    exact hfail.parked

theorem xlatePrefetch_answers (n : Fin 1024) (b : List Byte) (c : Chain) (e : TlbE) (s : State) (hidle : s.dev.Idle)
    (h : s.dev.Engine n.val 0x4B b c) (hok : xlateOk b = true) (hres : fld b 0x30 8 = 0) (hflags : fld b 0x1F 1 = 0) (hone : xCount b = 1)
    (hown : s.dev.ownsAsid c.part (xAsid b) = true) (hhit : s.dev.hit? (blkOfPair n.val) (xAsid b) (xVa b) = some e)
    (hroom : ∀ blk, blk < 8 → (s.dev.tlb.getD blk []).length < 4096) :
    Answers (.xlatePrefetch n) s fun t => t.dev.Ended n.val .ok 0 ∧ SameBytes s t
      ∧ ∀ blk, blk < 8 → (t.dev.hit? blk (xAsid b) (xVa b)).map (fun x => { x with pin := none, creds := [] })
          = some { e with pin := none, creds := [] } := by
  obtain ⟨r, en, hr, ⟨hn, hpart⟩, hop⟩ := h.startsAlone (kind := anyKind) rfl fun e b r => r.xprefetch e b
  obtain ⟨p, rd, hdev⟩ := hr.dev
  have hexec : exec (.xlatePrefetch n) s = _ := congrArg Run.requestDone hop
  rw [r.xprefetch_hit en b hok hres (by rw [hpart, Run.d, hdev]; exact hown) hflags hone (by rw [hn, Run.d, hdev]; exact hhit), hn] at hexec
  have hpage : e.asid = xAsid b ∧ e.vpn = xVa b / 2 ^ e.bits := by simpa [Dev.hit?] using List.find?_some hhit
  obtain ⟨honly, -, hhits⟩ := r.each_install (e := e.bare) hpage.1 hpage.2 (List.nodup_range (n := 8)) fun k hk => by
    rw [Run.d, hdev]
    exact hroom k (List.mem_range.1 hk)
  generalize r.each _ _ = r₁ at hexec honly hhits
  obtain ⟨t, hcur⟩ := honly
  refine Answers.of_requestDone _ hexec ?_ ⟨Run.finish_ended (c := { c with stage := .busy, began := s.dev.now }) _ _ _ ?_, ?_,
    fun k hk => hhits k (List.mem_range.2 hk)⟩
  · refine Dev.Calm.of_waiting (d := r₁.d) ?_ rfl
    rw [Run.d, hcur]
    exact (hr.calm hidle.calm).of_waiting rfl
  · rw [Run.d, hcur]
    exact hr.chain
  · refine (hr.bytes.trans ?_).trans (r₁.finish_sameBytes ..)
    rw [hcur]
    exact ⟨rfl, rfl, rfl, rfl, rfl, rfl⟩

end Sys2Proof.Machine

open Sys2Proof Sys2Proof.Machine

/-- Settles O33: clause by clause. A pair starts its descriptor and leaves every other pair; its body is followed on the caches, the
coalescing table and what is under way. -/
theorem translationOps : Obligations.TranslationOps :=
  ⟨xlateBind_answers, xlateUnbind_answers, xlateInvalPages_answers, xlateInvalAsid_answers, xlateInvalPartition_answers,
    xlateInvalAsid_waits_answers, xlateInvalDrained_answers, xlateResolveReplay_answers, xlateResolveFail_answers, xlatePrefetch_answers⟩

end

section
/-! PROOFS. Walks, pins and faults: a walk reads a table entry where it stands, and what its end brings the requests that wait (R64-R71, R82). -/
namespace Sys2Proof.Machine

/-! ### The device reads a word of its own -/

/-- Nothing stands between the device and a line here: no directory entry, reduction or round, no extent that is revoked. -/
structure Dev.Open (d : Dev) : Prop where
  dir : d.dir = []
  comb : d.comb = []
  txns : d.txns = []
  revokes : d.revokes = []
  revoked : d.revoked = []

theorem Dev.Idle.isOpen {d : Dev} (h : d.Idle) : d.Open := ⟨h.dir, h.comb, h.txns, h.revokes, h.revoked⟩

section
variable {s₀ : State}

/-- A line that no agent holds is ready at once. -/
theorem Run.ready_open (r : Run s₀) (h : r.d.Open) (a n : Nat) (op : HOp) : r.ready a op n = (true, r) := by
  have hsettle : r.settle (lineNo a) = r := by
    unfold Run.settle
    rw [h.dir, Tab.get?_nil]
  have hmerge : r.mergeComb a = r := by
    unfold Run.mergeComb
    rw [h.comb, Tab.get?_nil]
  unfold Run.ready
  dsimp only
  rw [h.txns, Tab.has_nil, if_neg (by decide), hsettle, hmerge, h.dir]
  split <;> rfl

/-- The device reads a line of SRAM or placed DRAM on its own behalf at once (R489). -/
theorem Run.ownLine_open (r : Run s₀) (h : r.d.Open) (n a : Nat) {g : GEnt} (hg : r.d.g? a = some g) (ht : g.tier < 2) (hs : g.state = 0)
    (hp : (r.home a).poison = false) : r.ownLine n none a = (.bytes (lineBytes (r.home a).data), r) := by
  have hplace : r.d.place g a ≠ .miss := by
    unfold Dev.place
    rcases (show g.tier = 0 ∨ g.tier = 1 by omega) with e | e <;> simp [e]
  unfold Run.ownLine
  rw [hg]
  dsimp only
  rw [h.revokes, h.revoked, r.ready_open h]
  simp [hs, Nat.ne_of_lt ht, hplace, hp]

/-- A word within one line is read with that line. -/
theorem Run.ownRead_word (r : Run s₀) (h : r.d.Open) (n a : Nat) {g : GEnt} (hin : a % 64 + 8 ≤ 64) (hg : r.d.g? (a / 64 * 64) = some g)
    (ht : g.tier < 2) (hs : g.state = 0) (hp : (r.home (a / 64 * 64)).poison = false) :
    r.ownRead n none a 8 = (.bytes (((lineBytes (r.home (a / 64 * 64)).data).drop (a % 64)).take 8), r) := by
  have hone : (a % 64 + 8 + 63) / 64 = 1 := by omega
  unfold Run.ownRead
  rw [hone]
  unfold Run.ownLines
  rw [r.ownLine_open h n _ hg ht hs hp]
  unfold Run.ownLines
  dsimp only
  rw [List.append_nil]

/-- A table's word is read where the table stands in SRAM or placed DRAM (R66, R69). -/
theorem Run.tableEnt_word (r : Run s₀) (h : r.d.Open) (n a part : Nat) (hin : a % 64 + 8 ≤ 64) (hr : r.cur.Readable (a / 64 * 64) part) :
    r.tableEnt n a = (.word (fld (r.cur.bytesAt (a / 64 * 64)) (a % 64) 8), r) := by
  obtain ⟨-, -, ⟨g, hg, ht, hs, -⟩, hgood⟩ := hr
  have hg' : r.d.g? a = some g := by
    rw [← hg]
    unfold Dev.g? granuleOf bits
    congr 1
    omega
  unfold Run.tableEnt
  rw [hg']
  dsimp only
  rw [if_neg (by simp [Nat.ne_of_lt ht]), r.ownRead_word h n a hin hg ht hs hgood]
  rfl

end

/-! ### A walk finds its leaf -/

/-- A walk of a page in a block starts at a pointer entry of level 3, and finds a leaf of level 2 there: word `x` of `table`. -/
structure State.LeafAt2 (s : State) (blk asid va table x : Nat) : Prop extends Dev.Open s.dev where
  root : ∃ root, s.dev.roots.get? asid = some root
  ptr : s.dev.ptrs.get? blk = some [(asid, 3, va / 2 ^ 39, table)]
  aligned : table % 4096 = 0
  readable : ∃ part, s.Readable ((table + 8 * levelIdx 2 va) / 64 * 64) part
  word : fld (s.bytesAt ((table + 8 * levelIdx 2 va) / 64 * 64)) ((8 * levelIdx 2 va) % 64) 8 = x
  valid : bit x 0 = true
  leaf : bit x 1 = true
  wellFormed : malformed 2 x = false

/-- The entry of a leaf of level 2. -/
def leaf2 (asid va x : Nat) : TlbE :=
  { asid := asid, vpn := va / 2 ^ 30, bits := 30, pa := bits x 8 54 * 256, rd := bit x 2, wr := bit x 3, red := bit x 4 }

section
variable {s₀ : State}

/-- A walk ends at a valid leaf. -/
theorem Run.walkFrom_leaf (r : Run s₀) {blk n asid va l table x : Nat} (hent : r.tableEnt n (table + 8 * levelIdx l va) = (.word x, r))
    (hvalid : bit x 0 = true) (hwf : malformed l x = false) (hleaf : bit x 1 = true) :
    r.walkFrom blk n asid va l table = (.leaf
      { asid := asid, vpn := va / 2 ^ levelBits l, bits := levelBits l, pa := bits x 8 54 * 256, rd := bit x 2, wr := bit x 3, red := bit x 4 },
      r) := by
  unfold Run.walkFrom
  rw [hent]
  dsimp only
  rw [hvalid, hwf, hleaf]
  rfl

/-- A walk from the deepest cached pointer entry (R67). -/
theorem Run.walk_leafAt2 (r : Run s₀) {blk asid va table x : Nat} (h : r.cur.LeafAt2 blk asid va table x) :
    r.walk blk 1024 asid va = (.leaf (leaf2 asid va x), r.unready 1024) := by
  obtain ⟨root, hroot⟩ := h.root
  obtain ⟨part, hread⟩ := h.readable
  have haligned := h.aligned
  have hmod : (table + 8 * levelIdx 2 va) % 64 = 8 * levelIdx 2 va % 64 := by omega
  have hent : r.tableEnt 1024 (table + 8 * levelIdx 2 va) = (.word x, r) := by
    rw [r.tableEnt_word h.toOpen _ _ part (by omega) hread, hmod, h.word]
  have hfrom : r.walkFrom blk 1024 asid va 2 table = (.leaf (leaf2 asid va x), r) := r.walkFrom_leaf hent h.valid h.wellFormed h.leaf
  have hptrs : r.d.ptrs.getD blk [] = [(asid, 3, va / 2 ^ 39, table)] := by
    rw [Tab.getD, h.ptr]
    rfl
  have honce : r.walkOnce blk 1024 asid va = (.leaf (leaf2 asid va x), r) := by
    unfold Run.walkOnce
    rw [hroot, hptrs]
    simp [levelBits, hfrom]
  unfold Run.walk
  rw [honce]
  rfl

/-! ### The end of a walk -/

/-- One request waits for the walk of a page. -/
structure Dev.WalksFor (d : Dev) (w : Walk) (blk asid va : Nat) (y : XWait) : Prop where
  walks : d.walks = [w]
  blk : w.blk = blk
  asid : w.asid = asid
  va : w.va = va
  valid : w.void = false
  waits : w.waits = [y]
  due : y.done = none

theorem Dev.WalksFor.find {d : Dev} {w : Walk} {blk asid va : Nat} {y : XWait} (h : d.WalksFor w blk asid va y) :
    (d.walks.find? fun w => w.blk == blk && w.asid == asid && w.va == va && w.waits.any fun x => x.done.isNone) = some w := by
  simp [h.walks, h.blk, h.asid, h.va, h.waits, h.due]

theorem Dev.WalksFor.told {d : Dev} {w : Walk} {blk asid va : Nat} {y : XWait} (h : d.WalksFor w blk asid va y) :
    (w.waits.filter fun x => x.done.isSome) = [] := by simp [h.waits, h.due]

theorem Dev.WalksFor.untold {d : Dev} {w : Walk} {blk asid va : Nat} {y : XWait} (h : d.WalksFor w blk asid va y) :
    (w.waits.filter fun x => x.done.isNone) = [y] := by simp [h.waits, h.due]

/-- An entry pinned for the retry of a request that its walk was for: for four hints, as measured from the start of the walk. -/
def TlbE.pinnedFor (e : TlbE) (w : Walk) (y : XWait) : TlbE := { e with pin := some (w.began + 4 * y.hint), creds := [y.cred] }

/-- The leaf of a walk is installed, pinned for four hints, where the request that waits may use it (R70). -/
theorem Run.walkEnd_allowed (r t : Run s₀) {w : Walk} {blk asid va : Nat} {y : XWait} {e : TlbE} (h : r.d.WalksFor w blk asid va y)
    (hwalk : r.walk blk 1024 asid va = (.leaf e, t)) (ht : t.d.walks = [w]) (hallow : e.allows y.access = true) :
    r.walkEnd blk asid va = (t.install blk (e.pinnedFor w y)).mod fun d => { d with walks := [] } := by
  unfold Run.walkEnd
  rw [h.find]
  dsimp only
  rw [h.valid, if_neg (by decide), hwalk, h.told, h.untold]
  dsimp only
  have hok : [y].filter (fun x => e.allows x.access) = [y] := List.filter_eq_self.2 (by simp [hallow])
  have hno : [y].filter (fun x => !e.allows x.access) = [] := by simp [hallow]
  rw [hok, hno, if_neg (by simp)]
  simp only [List.foldl_cons, List.foldl_nil, List.map_cons, List.map_nil, Nat.zero_max]
  have hwalks (f : TlbE) : (t.install blk f).cur.dev.walks = [w] := ht
  refine Run.ext' ?_
  simp [TlbE.pinnedFor, Run.mod, hwalks]

/-- A fault of a partition without a ring, where no entry is taken, is not recorded (R84). -/
theorem Run.takeEntry_noRing (r : Run s₀) (f : FaultAt) (n : Nat) (who : List Parked) (hfents : r.d.fents = []) (hring : r.d.o f.part 0x6020 1 = 0) :
    r.takeEntry f n who = (none, r) := by
  have hput : ∀ i : Nat, r.putFault f i n false = (none, r) := by
    intro i
    unfold Run.putFault Dev.ringFull
    rw [hring]
    rfl
  unfold Run.takeEntry Dev.fentAt
  rw [hfents]
  dsimp only [List.find?_nil]
  rw [show Tab.free ([] : Tab FEnt) 0 2048 = some 0 from rfl]
  dsimp only
  rw [hput]

/-- A leaf that the request that waits may not use is a PERM fault, which is kept for its retry (R71). -/
theorem Run.walkEnd_denied (r t : Run s₀) {w : Walk} {blk asid va : Nat} {y : XWait} {e : TlbE} (h : r.d.WalksFor w blk asid va y)
    (hwalk : r.walk blk 1024 asid va = (.leaf e, t)) (ht : t.d.walks = [w]) (hfents : t.d.fents = []) (hring : t.d.o w.part 0x6020 1 = 0)
    (hallow : e.allows y.access = false) :
    r.walkEnd blk asid va = t.mod fun d => { d with walks := [{ w with waits := [{ y with done := some (2, 2048) }] }] } := by
  have hentry : t.takeEntry (e.fault w.part y.va (accessBit y.access) y.port 0) 0 [] = (none, t) := t.takeEntry_noRing _ _ _ hfents hring
  unfold Run.walkEnd
  rw [h.find]
  dsimp only
  rw [h.valid, if_neg (by decide), hwalk, h.told, h.untold]
  dsimp only
  have hok : [y].filter (fun x => e.allows x.access) = [] := by simp [hallow]
  have hno : [y].filter (fun x => !e.allows x.access) = [y] := List.filter_eq_self.2 (by simp [hallow])
  rw [hok, hno, if_pos (by simp)]
  simp only [List.foldl_cons, List.foldl_nil, hentry]
  refine Run.ext' ?_
  simp [Run.mod, show t.cur.dev.walks = [w] from ht]

end

/-! ### The commands -/

/-- The command names the page's first byte. -/
theorem walkDone_walkEnd (blk : Fin 8) (asid : BitVec 16) (va : BitVec 57) (s : State) (hva : va.toNat % 65536 = 0) :
    exec (.walkDone blk asid va) s = ((Run.start s).walkEnd blk.val asid.toNat va.toNat).requestDone := by
  have hpage : va.toNat / 65536 * 65536 = va.toNat := by omega
  show ((Run.start s).walkEnd blk.val asid.toNat (va.toNat / 65536 * 65536)).requestDone = _
  rw [hpage]

/-- One request waits for the walk of a page that no entry of its block translates, on a device where nothing else is under way; the walk
finds a leaf of level 2. -/
structure State.WalkDue (s : State) (blk asid va x : Nat) (w : Walk) (y : XWait) : Prop where
  idle : s.dev.Idle
  leaf : ∃ table, s.LeafAt2 blk asid va table x
  unheld : s.dev.tlb.get? blk = none
  waits : ({ s.dev with walks := [w] } : Dev).WalksFor w blk asid va y

/-- The walks that are under way make no difference to what a walk reads. -/
theorem State.LeafAt2.underWay {s : State} {blk asid va table x : Nat} (h : s.LeafAt2 blk asid va table x) (ws : List Walk) :
    ({ s with dev := { s.dev with walks := ws } } : State).LeafAt2 blk asid va table x := by
  obtain ⟨part, hline, hrange, hplaced, hgood⟩ := h.readable
  exact ⟨⟨h.dir, h.comb, h.txns, h.revokes, h.revoked⟩, h.root, h.ptr, h.aligned, ⟨part, hline, hrange, hplaced, hgood⟩, h.word, h.valid,
    h.leaf, h.wellFormed⟩

section
variable {blk : Fin 8} {asid : BitVec 16} {va : BitVec 57} {w : Walk} {y : XWait} {x : Nat} {s : State} (hva : va.toNat % 65536 = 0)
  (h : s.WalkDue blk.val asid.toNat va.toNat x w y)
include hva h

theorem State.WalkDue.installs_answers (hallow : (leaf2 asid.toNat va.toNat x).allows y.access = true) :
    Answers (.walkDone blk asid va) { s with dev := { s.dev with walks := [w] } } fun t => t.dev.walks = [] ∧ SameBytes s t
      ∧ t.dev.hit? blk.val asid.toNat va.toNat = some ((leaf2 asid.toNat va.toNat x).pinnedFor w y) := by
  obtain ⟨table, hleaf⟩ := h.leaf
  have hexec := walkDone_walkEnd blk asid va { s with dev := { s.dev with walks := [w] } } hva
  have hwalk := (Run.start { s with dev := { s.dev with walks := [w] } }).walk_leafAt2 (hleaf.underWay [w])
  rw [Run.walkEnd_allowed _ _ h.waits hwalk rfl hallow] at hexec
  generalize hr : (Run.start { s with dev := { s.dev with walks := [w] } }).unready 1024 = r at hexec
  have hcur : r.cur = { s with dev := { s.dev with walks := [w], readied := s.dev.readied.filter fun l => l.1 != 1024 } } := hr ▸ rfl
  have hhit := r.install_hit_empty blk.val ((leaf2 asid.toNat va.toNat x).pinnedFor w y) (va := va.toNat) (by rw [Run.d, hcur]; exact h.unheld) rfl rfl
  obtain ⟨t, ht⟩ := r.install_onlyTlb blk.val ((leaf2 asid.toNat va.toNat x).pinnedFor w y)
  generalize r.install _ _ = u at hexec hhit ht
  rw [hcur] at ht
  refine Answers.of_requestDone _ hexec ?_ ⟨rfl, ?_, hhit⟩
  · rw [Run.d, Run.mod_dev, ht]
    exact h.idle.calm.of_waiting rfl
  · refine SameBytes.trans ?_ (u.mod_sameBytes _)
    rw [ht]
    exact ⟨rfl, rfl, rfl, rfl, rfl, rfl⟩

theorem State.WalkDue.permission_answers (hallow : (leaf2 asid.toNat va.toNat x).allows y.access = false) (hring : s.dev.o w.part 0x6020 1 = 0) :
    Answers (.walkDone blk asid va) { s with dev := { s.dev with walks := [w] } } fun t => SameBytes s t
      ∧ t.dev.walks = [{ w with waits := [{ y with done := some (2, 2048) }] }] ∧ t.dev.hit? blk.val asid.toNat va.toNat = none := by
  obtain ⟨table, hleaf⟩ := h.leaf
  have hexec := walkDone_walkEnd blk asid va { s with dev := { s.dev with walks := [w] } } hva
  have hwalk := (Run.start { s with dev := { s.dev with walks := [w] } }).walk_leafAt2 (hleaf.underWay [w])
  rw [Run.walkEnd_denied _ _ h.waits hwalk rfl h.idle.fents hring hallow] at hexec
  refine Answers.of_requestDone _ hexec (h.idle.calm.of_waiting rfl) ⟨⟨rfl, rfl, rfl, rfl, rfl, rfl⟩, rfl, ?_⟩
  show ((s.dev.tlb.getD blk.val []).find? _) = none
  rw [Tab.getD, h.unheld]
  rfl

end

/-- A pin whose time has passed ends (R70). -/
theorem xlatePinExpire_answers (blk : Fin 8) (asid : BitVec 16) (va : BitVec 57) (e : TlbE) (until_ : Nat) (s : State) (q : s.dev.Quiet)
    (htlb : s.dev.tlb = [(blk.val, [e])]) (hasid : e.asid = asid.toNat) (hvpn : e.vpn = va.toNat / 2 ^ e.bits) (hpin : e.pin = some until_)
    (hpast : until_ ≤ s.dev.now) :
    Answers (.xlatePinExpire blk asid va) s fun t => t.dev = { s.dev with tlb := [(blk.val, [{ e with pin := none, creds := [] }])] } ∧ SameBytes s t := by
  have hexec : exec (.xlatePinExpire blk asid va) s = ((Run.start s).pinEnd blk.val asid.toNat va.toNat).close := rfl
  refine Answers.of_close _ hexec (q.calm.of_waiting rfl) ⟨?_, rfl, rfl, rfl, rfl, rfl, rfl⟩
  rw [Run.pinEnd, Run.mod_dev, Run.start_cur, htlb]
  simp [Tab.upd, Tab.set, hasid, hvpn, hpin, hpast]

/-- A fault that nothing resolves in time ends what is parked on it (R82). -/
theorem faultTimeout_answers (i : Fin 2048) (e : FEnt) (n : Nat) (c : Chain) (s : State) (q : s.dev.Quiet) (hfents : s.dev.fents = [(i.val, e)])
    (hreqs : e.reqs = [.pair n]) (hlate : e.began + us (s.dev.o e.part 0x6020 3) ≤ s.dev.now) (hc : (s.dev.pair n).chain = some c) :
    Answers (.faultTimeout i) s fun t => t.dev.fents = [] ∧ t.dev.Ended n .fault e.kind ∧ (t.dev.pair n).parked = [] ∧ SameBytes s t := by
  have hget : s.dev.fents.get? i.val = some e := by rw [hfents, Tab.get?_single]
  have hend : (Run.start s).entryTimeout i.val = (Run.start s).failEntry i.val e := by
    unfold Run.entryTimeout
    rw [Run.d, Run.start_cur, hget]
    exact if_neg (Nat.not_lt.2 hlate)
  have hexec : exec (.faultTimeout i) s = _ := congrArg Run.requestDone hend
  have hfail := (Run.start s).failEntry_failedPair i.val hreqs hc
  refine Answers.of_requestDone _ hexec (q.calm.of_waiting hfail.waiting) ⟨?_, hfail.ended, hfail.parked, hfail.bytes⟩
  rw [Run.failEntry_pair _ _ hreqs]
  show (s.dev.fents.del i.val).map _ = []
  rw [hfents, Tab.del_single]
  rfl

end Sys2Proof.Machine

open Sys2Proof Sys2Proof.Machine

/-- Settles O32: clause by clause. The word of the table is read where it stands; the end of the walk then turns on whether its leaf allows
the access that waits. -/
theorem walksAndFaults : Obligations.WalksAndFaults := by
  refine ⟨?_, ?_, xlatePinExpire_answers, faultTimeout_answers⟩
  · intro blk asid va w y root table x s hidle hva hroot hptr htlb haligned hread hword hvalid hleaf hwf hblk hasid hwva hvoid hwaits hdone haccess hrd
    exact State.WalkDue.installs_answers hva
      ⟨hidle, ⟨table, hidle.isOpen, ⟨root, hroot⟩, hptr, haligned, hread, hword, hvalid, hleaf, hwf⟩, htlb, rfl, hblk, hasid, hwva, hvoid, hwaits, hdone⟩
      (by rw [haccess]; exact hrd)
  · intro blk asid va w y root table x s hidle hva hroot hptr htlb haligned hread hword hvalid hleaf hwf hblk hasid hwva hvoid hwaits hdone haccess hwr
      hring
    exact State.WalkDue.permission_answers hva
      ⟨hidle, ⟨table, hidle.isOpen, ⟨root, hroot⟩, hptr, haligned, hread, hword, hvalid, hleaf, hwf⟩, htlb, rfl, hblk, hasid, hwva, hvoid, hwaits, hdone⟩
      (by rw [haccess]; exact hwr) hring

end

section
/-! PROOFS. A tick while the pair yields (R398). -/
namespace Sys2Proof.Machine

/-- A device in READY whose pair is asked to yield (0x8000:05 is 3), with no protected extent homed here. -/
def yieldDev : Dev := { obj := [(okey 0 0x1020 1, 7), (okey 0 0x8000 5, 3)] }

/-- That device, its stores and its queue empty. -/
def yieldState : State := { State.reset with dev := yieldDev }

theorem yieldState_quiet : yieldState.dev.Quiet := ⟨rfl, rfl, by simp [yieldState, yieldDev], rfl, rfl, rfl, rfl, rfl, rfl⟩

/-- The tick finds no extent left to hand over: the pair detaches and the object is 0 again. -/
theorem yieldState_tick_detaches : yieldState.tick.dev.o 0 0x8000 5 = 0 := by decide +kernel

end Sys2Proof.Machine

open Sys2Proof Sys2Proof.Machine

/-- Refutes O2: a tick also takes YIELD a step on (R398), which the hypotheses do not shut out. Where 0x8000:05 asks the pair to yield and no
protected extent is left, nothing waits and no extent moves, yet the tick detaches the pair and sets the object to 0. -/
theorem not_emptyQueueTicks : ¬ Obligations.EmptyQueueTicks := by
  intro h
  have hstep : Host.Outcome.next yieldState.tick = .next { yieldState with dev := { yieldState.dev with now := yieldState.dev.now + 8000 } } :=
    h yieldState rfl yieldState_quiet rfl rfl rfl
  have htick : yieldState.tick.dev.o 0 0x8000 5 = yieldState.dev.o 0 0x8000 5 := by
    rw [Host.Outcome.next.inj hstep]
    rfl
  have hasked : yieldState.dev.o 0 0x8000 5 = 3 := by decide +kernel
  rw [yieldState_tick_detaches, hasked] at htick
  exact absurd htick (by decide)
end

section
/-! PROOFS. Holds begin and end, and the pins of the sensors (R120, R121, R480, R482). -/
namespace Sys2Proof.Machine

/-! ### Objects after changes in a row -/

/-- Changes in a row change the objects of each. -/
theorem SameObjects.trans {s t u : State} {xs ys : List (Nat × Nat × Nat)} (h : SameObjects s t xs) (k : SameObjects t u ys) :
    SameObjects s u (xs ++ ys) := by
  intro i x w hx hw hne
  rw [List.mem_append, not_or] at hne
  exact (k i x w hx hw hne.2).trans (h i x w hx hw hne.1)

section
variable {s₀ : State}

theorem Run.setO_sameObjects (r : Run s₀) (i : Nat) {x u : Nat} (v : Nat) (hx : x < 65536) (hu : u < 256) :
    SameObjects r.cur (r.setO i x u v).cur [(i, x, u)] := .of_set hx hu rfl

/-! ### Holds -/

/-- A hold that is off begins: its bit is added. -/
theorem Run.setHold_begins (r : Run s₀) (i : Nat) (h : bit (r.d.o 0 0x2000 1) i = false) :
    r.setHold i true = r.setO 0 0x2000 1 (r.d.o 0 0x2000 1 + 2 ^ i) := by
  unfold Run.setHold
  dsimp only
  rw [h, if_neg (by decide), if_pos rfl, if_pos rfl]

/-- The only hold ends: none is left, and the credits that it deferred start again (R120). -/
theorem Run.setHold_ends (r : Run s₀) (i : Nat) (h : r.d.o 0 0x2000 1 = 2 ^ i) :
    r.setHold i false = (r.setO 0 0x2000 1 0).restartCredits (11 + i) := by
  have hbit : bit (2 ^ i) i = true := by simp [bit]
  unfold Run.setHold
  dsimp only
  rw [h, hbit, if_neg (by decide), if_neg (by decide), if_neg (by decide), Nat.sub_self]

theorem Run.restartCredits_sameBytes (r : Run s₀) (reason : Nat) : SameBytes r.cur (r.restartCredits reason).cur := r.mod_sameBytes _

/-- A credit that starts again is held no more for the reason that ended. -/
theorem Run.restartCredits_held (r : Run s₀) (reason : Nat) : ∀ c ∈ (r.restartCredits reason).cur.dev.credits, c.2.held ≠ some reason := by
  intro c hc
  obtain ⟨e, -, rfl⟩ := List.mem_map.1 hc
  dsimp only
  split
  · simp
  · rename_i hne
    simpa using hne

end

/-- A command that ends the only hold leaves none, and no credit held for it. -/
theorem Answers.holdEnd {c : Instr} {s : State} (i : Nat) (q : s.dev.Quiet) (h : s.dev.o 0 0x2000 1 = 2 ^ i)
    (hexec : exec c s = ((Run.start s).setHold i false).requestDone) :
    Answers c s fun t => t.dev.o 0 0x2000 1 = 0 ∧ SameObjects s t [(0, 0x2000, 1)] ∧ SameBytes s t
      ∧ ∀ c ∈ t.dev.credits, c.2.held ≠ some (11 + i) := by
  rw [(Run.start s).setHold_ends i h] at hexec
  exact Answers.of_requestDone _ hexec (q.calm.of_waiting rfl)
    ⟨Run.setO_o_self .., (Run.start s).setO_sameObjects 0 0 (by decide) (by decide),
      ((Run.start s).setO_sameBytes ..).trans (Run.restartCredits_sameBytes ..), Run.restartCredits_held _ _⟩

/-! ### Sensors and power -/

section
variable {s₀ : State}

/-- A reading above 97 °C is noted, and puts off the end of the thermal hold (R120). -/
def Run.noteHot (r : Run s₀) (ts : List Int) : Run s₀ :=
  r.mod fun d => { d with pins := { d.pins with temps := ts, hotAt := d.now } }

/-- A reading between 100 °C and 105 °C begins the thermal hold and is no excursion (R482). -/
theorem Run.sensors_hot (r : Run s₀) (ts : List Int) (hp : r.d.pins.pwrgood = true) (hb : bit (r.d.o 0 0x2000 1) 0 = false)
    (hlo : 100000 ≤ ts.foldl max (-273150)) (hhi : ts.foldl max (-273150) ≤ 105000) :
    r.sensors ts = ((r.noteHot ts).setO 0 0x2000 1 (r.d.o 0 0x2000 1 + 2 ^ 0)).bump 0 0xA030 3 := by
  have hwarm : 97000 < ts.foldl max (-273150) := by omega
  have hob : bit ((r.noteHot ts).d.o 0 0x2000 1) 0 = false := hb
  have hcond : (decide (100000 ≤ ts.foldl max (-273150)) && !bit ((r.noteHot ts).d.o 0 0x2000 1) 0) = true := by simp [hlo, hob]
  unfold Run.sensors
  rw [hp, if_neg (by decide)]
  simp only [if_pos hwarm]
  rw [if_neg (by omega), ← Run.noteHot, if_pos hcond, Run.setHold_begins _ _ hob]
  rfl

/-- The sample that opens a window of the power average is kept; a reading of the regulator did not fail (R480). -/
def Run.noteSample (r : Run s₀) (mW : Nat) : Run s₀ :=
  r.mod fun d => { d with pins := { d.pins with samples := [mW], busFails := if d.o 0 0xA010 1 == 2 then d.pins.busFails else 0 } }

/-- That sample is the average of its window; the highest average is kept (R480). -/
def Run.notePower (r : Run s₀) (mA mW : Nat) : Run s₀ :=
  (((r.noteSample mW).setO 0 0xA010 2 mA).setO 0 0xA000 4 mW).setO 0 0xA010 3 (max mW (r.d.o 0 0xA010 3))

/-- Such a sample above 720 W begins the power throttle (R480, R121). -/
theorem Run.power_high (r : Run s₀) (mA mW : Nat) (hp : r.d.pins.pwrgood = true) (hs : r.d.pins.samples = []) (hw : 720000 < mW) :
    r.power mA mW = (r.notePower mA mW).setHold 2 true := by
  have havg : [mW].sum / [mW].length = mW := by simp
  have hpeak : (r.noteSample mW).d.o 0 0xA010 3 = r.d.o 0 0xA010 3 := rfl
  unfold Run.power
  rw [hp, if_neg (by decide), hs, show (mW :: []).take 100 = [mW] from rfl]
  dsimp only
  rw [havg, if_pos hw, ← Run.noteSample, hpeak, Run.notePower]

/-- What a sample shows, and what it leaves. -/
theorem Run.notePower_effect (r : Run s₀) (mA mW : Nat) (hpeak : r.d.o 0 0xA010 3 ≤ mW) :
    let t := (r.notePower mA mW).cur
    t.dev.o 0 0xA010 2 = mA ∧ t.dev.o 0 0xA000 4 = mW ∧ t.dev.o 0 0xA010 3 = mW ∧ t.dev.o 0 0x2000 1 = r.d.o 0 0x2000 1 ∧ SameBytes r.cur t
      ∧ t.dev.waiting = r.d.waiting := by
  have hmax : max mW (r.d.o 0 0xA010 3) = mW := Nat.max_eq_left hpeak
  have hwait : (r.noteSample mW).d.waiting = r.d.waiting := rfl
  have hholds : (r.noteSample mW).cur.dev.o 0 0x2000 1 = r.d.o 0 0x2000 1 := rfl
  have hbytes : SameBytes r.cur (r.noteSample mW).cur := r.mod_sameBytes _
  dsimp only
  unfold Run.notePower
  rw [hmax]
  generalize r.noteSample mW = r₁ at *
  refine ⟨?_, ?_, Run.setO_o_self .., ?_, ?_, hwait⟩
  · rw [Run.setO_o_ne _ _ _ _ _ _ _ _ (by decide), Run.setO_o_ne _ _ _ _ _ _ _ _ (by decide), Run.setO_o_self]
  · rw [Run.setO_o_ne _ _ _ _ _ _ _ _ (by decide), Run.setO_o_self]
  · rw [Run.setO_o_ne _ _ _ _ _ _ _ _ (by decide), Run.setO_o_ne _ _ _ _ _ _ _ _ (by decide), Run.setO_o_ne _ _ _ _ _ _ _ _ (by decide), hholds]
  · exact ((hbytes.trans (Run.setO_sameBytes ..)).trans (Run.setO_sameBytes ..)).trans (Run.setO_sameBytes ..)

end

/-! ### The commands -/

theorem exec_junctionSensorRead (ts : Vector Int 72) (s : State) :
    exec (.junctionSensorRead ts) s = ((Run.start s).sensors ts.toList).close := rfl

theorem exec_powerSample (mA mW : Nat) (s : State) : exec (.powerSample mA mW) s = ((Run.start s).power mA mW).close := rfl

theorem exec_speedHoldEnd (s : State) (h : s.dev.pins.slowAt + us 100 ≤ s.dev.now) :
    exec .speedHoldEnd s = ((Run.start s).setHold 1 false).requestDone := if_neg (Nat.not_lt.2 h)

theorem exec_thermalHoldEnd (s : State) (h : s.dev.pins.hotAt + us 1000 ≤ s.dev.now) :
    exec .thermalHoldEnd s = ((Run.start s).setHold 0 false).requestDone := if_neg (Nat.not_lt.2 h)

theorem exec_thermtrip (s : State) (hp : s.dev.pins.pwrgood = true) (ht : s.dev.pins.thermtrip = false) :
    exec .thermtrip s = (((Run.start s).mod fun d => { d with pins := { d.pins with thermtrip := true } }).emit (.pin "THERMTRIP_N" true)).close :=
  if_neg (by simp [hp, ht])

/-- The thermal hold begins at 100 °C and is counted once (Table 4-9, R482). -/
theorem junctionSensorRead_answers (ts : Vector Int 72) (s : State) (q : s.dev.Quiet) (hp : s.dev.pins.pwrgood = true)
    (hb : bit (s.dev.o 0 0x2000 1) 0 = false) (hlo : 100000 ≤ ts.toList.foldl max (-273150)) (hhi : ts.toList.foldl max (-273150) ≤ 105000) :
    Answers (.junctionSensorRead ts) s fun t => bit (t.dev.o 0 0x2000 1) 0 = true
      ∧ t.dev.o 0 0xA030 3 = (s.dev.o 0 0xA030 3 + 1) % 2 ^ oWidth 0xA030 3 ∧ t.dev.pins.hotAt = s.dev.now
      ∧ SameObjects s t [(0, 0x2000, 1), (0, 0xA030, 3)] ∧ SameBytes s t ∧ t.out = s.out := by
  have hexec := exec_junctionSensorRead ts s
  rw [(Run.start s).sensors_hot _ hp hb hlo hhi, Run.bump, Run.bumpBy] at hexec
  refine Answers.of_close _ hexec (q.calm.of_waiting rfl) ⟨?_, ?_, rfl, ?_, ⟨rfl, rfl, rfl, rfl, rfl, rfl⟩, rfl⟩
  · rw [Run.setO_o_ne _ _ _ _ _ _ _ _ (by decide), Run.setO_o_self]
    exact bit_add_two_pow hb
  · rw [Run.setO_o_self, Run.d, Run.setO_o_ne _ _ _ _ _ _ _ _ (by decide)]
    rfl
  · have hhold := ((Run.start s).noteHot ts.toList).setO_sameObjects 0 (x := 0x2000) (u := 1) (s.dev.o 0 0x2000 1 + 2 ^ 0) (by decide) (by decide)
    exact hhold.trans (Run.setO_sameObjects _ 0 _ (by decide) (by decide))

/-- The speed hold ends 100 µs after the last step above 1.15 ns (R120). -/
theorem speedHoldEnd_answers (s : State) (q : s.dev.Quiet) (ho : s.dev.o 0 0x2000 1 = 2) (ht : s.dev.pins.slowAt + us 100 ≤ s.dev.now) :
    Answers .speedHoldEnd s fun t => t.dev.o 0 0x2000 1 = 0 ∧ SameObjects s t [(0, 0x2000, 1)] ∧ SameBytes s t
      ∧ ∀ c ∈ t.dev.credits, c.2.held ≠ some 12 := Answers.holdEnd 1 q ho (exec_speedHoldEnd s ht)

/-- The thermal hold ends 1 ms after the last reading above 97 °C (R120). -/
theorem thermalHoldEnd_answers (s : State) (q : s.dev.Quiet) (ho : s.dev.o 0 0x2000 1 = 1) (ht : s.dev.pins.hotAt + us 1000 ≤ s.dev.now) :
    Answers .thermalHoldEnd s fun t => t.dev.o 0 0x2000 1 = 0 ∧ SameObjects s t [(0, 0x2000, 1)] ∧ SameBytes s t
      ∧ ∀ c ∈ t.dev.credits, c.2.held ≠ some 11 := Answers.holdEnd 0 q ho (exec_thermalHoldEnd s ht)

/-- The power throttle begins above 720 W (R480, R121). -/
theorem powerSample_answers (mA mW : Nat) (s : State) (q : s.dev.Quiet) (hp : s.dev.pins.pwrgood = true) (hs : s.dev.pins.samples = [])
    (hw : 720000 < mW) (hb : bit (s.dev.o 0 0x2000 1) 2 = false) (hpeak : s.dev.o 0 0xA010 3 ≤ mW) :
    Answers (.powerSample mA mW) s fun t => bit (t.dev.o 0 0x2000 1) 2 = true ∧ t.dev.o 0 0xA010 2 = mA ∧ t.dev.o 0 0xA000 4 = mW
      ∧ t.dev.o 0 0xA010 3 = mW ∧ SameBytes s t := by
  have hexec := exec_powerSample mA mW s
  rw [(Run.start s).power_high mA mW hp hs hw] at hexec
  obtain ⟨hcurrent, havg, hmax, hholds, hbytes, hwait⟩ := (Run.start s).notePower_effect mA mW hpeak
  generalize (Run.start s).notePower mA mW = r at *
  have hoff : bit (r.d.o 0 0x2000 1) 2 = false := hholds ▸ hb
  rw [r.setHold_begins 2 hoff] at hexec
  refine Answers.of_close _ hexec (q.calm.of_waiting hwait) ⟨?_, ?_, ?_, ?_, hbytes.trans (Run.setO_sameBytes ..)⟩
  · rw [Run.setO_o_self]
    exact bit_add_two_pow hoff
  all_goals rwa [Run.setO_o_ne _ _ _ _ _ _ _ _ (by decide)]

/-- THERMTRIP_N is asserted, and nothing else changes (R482). -/
theorem thermtrip_answers (s : State) (q : s.dev.Quiet) (hp : s.dev.pins.pwrgood = true) (ht : s.dev.pins.thermtrip = false) :
    Answers .thermtrip s fun t => t.dev.pins.thermtrip = true ∧ Sends s t (.pin "THERMTRIP_N" true)
      ∧ t.dev = { s.dev with pins := { s.dev.pins with thermtrip := true } } ∧ SameBytes s t :=
  Answers.of_close _ (exec_thermtrip s hp ht) (q.calm.of_waiting rfl)
    ⟨rfl, Sends.emit .., rfl, ((Run.start s).mod_sameBytes _).trans (Run.emit_sameBytes ..)⟩

end Sys2Proof.Machine

open Sys2Proof Sys2Proof.Machine

/-- Settles O10: clause by clause. What begins a hold adds its bit; what ends the only hold leaves none, and lets the credits start again that it
deferred. -/
theorem holdsAndSensors : Obligations.HoldsAndSensors :=
  ⟨junctionSensorRead_answers, speedHoldEnd_answers, thermalHoldEnd_answers, powerSample_answers, thermtrip_answers⟩
end

section
/-! PROOFS. Lines of the store as they stand after a write, and a line poisoned at its home (R409-R411). -/
namespace Sys2Proof.Machine

/-! ### Lines after a write -/

theorem Marks.contains_put (m : List Nat) (l : Nat) (on : Bool) (k : Nat) :
    (Marks.put m l on).contains k = if k = l then on else m.contains k := by
  have hmem : k ∈ Marks.put m l on ↔ if k = l then on = true else k ∈ m := by
    cases on
    · by_cases h : k = l <;> simp [Marks.put, Marks.del, h]
    · by_cases h : k = l <;> simp [Marks.put, Marks.add_mem, h]
  rw [Bool.eq_iff_iff, List.contains_iff_mem, hmem]
  split
  · rfl
  · exact List.contains_iff_mem.symm

/-- The bytes that a line is written as. -/
def storedBytes (x : DLine) : List Byte := if x.poison then zeros 64 else lineBytes x.data

@[simp] theorem length_storedBytes (x : DLine) : (storedBytes x).length = 64 := by
  unfold storedBytes
  split
  · exact List.length_replicate
  · exact length_lineBytes _

/-- Reading a line where another was written. -/
theorem Mem.read_write_line (m : List Host.Cell) {l k : Nat} {bs : List Byte} (hb : bs.length = 64) (h : k ≠ l) :
    Mem.read (Mem.write m (64 * l) bs) (64 * k) 64 = Mem.read m (64 * k) 64 := by
  rw [Mem.read_eq_map, Mem.read_eq_map]
  refine List.map_congr_left fun i hi => ?_
  have := List.mem_range.1 hi
  rw [Mem.get_write, hb, if_neg (by omega)]

theorem State.stored_mem (s : State) (l : Nat) :
    s.stored .mem l = if s.bad.contains l then Machine.bad else good (lineOf (Mem.read s.mem (64 * l) 64)) := rfl

/-- What stands in a store is a good line or the poisoned one. -/
theorem State.stored_poison (s : State) (w : Store) (l : Nat) (h : (s.stored w l).poison = true) : s.stored w l = Machine.bad := by
  unfold State.stored at h ⊢
  split
  · rfl
  · rename_i hgood
    rw [if_neg hgood] at h
    exact absurd h (by simp [good])

section
variable {s₀ : State}

/-- A line written into the store changes its own bytes and mark alone. -/
theorem Run.setLine_onlyLine (r : Run s₀) (l : Nat) (x : DLine) : OnlyLine r.cur (r.setLine .mem l x).cur l := by
  refine ⟨fun a ha => ?_, fun k hk => ?_, rfl, rfl, rfl, rfl⟩
  · show Mem.get (Mem.write r.cur.mem (64 * l) (storedBytes x)) a = _
    rw [Mem.get_write, (length_storedBytes x), if_neg (by omega)]
  · show k ∈ Marks.put r.cur.bad l x.poison ↔ _
    rw [← List.contains_iff_mem, Marks.contains_put, if_neg hk, List.contains_iff_mem]

/-- It is the line that stands there, and every other line stands as it did. -/
theorem Run.setLine_stored (r : Run s₀) (l : Nat) (x : DLine) (hx : x.poison = true → x = bad) (k : Nat) :
    (r.setLine .mem l x).cur.stored .mem k = if k = l then x else r.cur.stored .mem k := by
  have hbad : (r.setLine .mem l x).cur.bad = Marks.put r.cur.bad l x.poison := rfl
  have hmem : (r.setLine .mem l x).cur.mem = Mem.write r.cur.mem (64 * l) (storedBytes x) := rfl
  rw [State.stored_mem, State.stored_mem, hbad, hmem, Marks.contains_put]
  by_cases h : k = l
  · subst h
    rw [if_pos rfl, if_pos rfl]
    obtain ⟨data, poison⟩ := x
    cases poison
    · have hread := Mem.read_write r.cur.mem (64 * k) (lineBytes data)
      rw [length_lineBytes] at hread
      rw [if_neg Bool.false_ne_true, storedBytes, if_neg Bool.false_ne_true, hread, lineOf_lineBytes]
      rfl
    · rw [if_pos rfl, hx rfl]
  · rw [if_neg h, if_neg h, Mem.read_write_line _ (length_storedBytes x) h]

end

theorem SameBytes.stored {a b : State} (h : SameBytes a b) (w : Store) (l : Nat) : b.stored w l = a.stored w l := by
  have hmarks : b.marks w = a.marks w := by cases w; exacts [h.bad, h.fbad, h.cbad]
  have hcells : b.cells w = a.cells w := by cases w; exacts [h.mem, h.flash, h.copy]
  rw [State.stored, State.stored, hmarks, hcells]

theorem SameBytes.onlyLine {a b c : State} {l : Nat} (h : SameBytes a b) (k : OnlyLine b c l) : OnlyLine a c l :=
  ⟨fun x hx => h.mem ▸ k.bytes x hx, fun x hx => h.bad ▸ k.marks x hx, k.flash.trans h.flash, k.copy.trans h.copy, k.fbad.trans h.fbad,
    k.cbad.trans h.cbad⟩

/-! ### A line poisoned at its home -/

/-- The granule of a line is that of each address in it. -/
theorem granuleOf_lineNo {a : Nat} (h : a < 2 ^ 62) : granuleOf (lineNo a * 64) = granuleOf a := by
  unfold granuleOf lineNo bits; omega

theorem lineNo_align (a : Nat) : lineNo (a / 64 * 64) = lineNo a := by unfold lineNo bits; omega

section
variable {s₀ : State}

/-- In the store's home tiers, not moving, it is marked poisoned where it stands. -/
theorem Run.poisonLine_plain (r : Run s₀) (a : Nat) {g : GEnt} (hg : r.d.g? a = some g) (ht : g.tier < 2) (hs : g.state = 0) :
    r.poisonLine a = r.setLine .mem (lineNo a) bad := by
  have htier : (g.tier == 2) = false := beq_eq_false_iff_ne.2 (by omega)
  unfold Run.poisonLine Run.put
  rw [hg]
  dsimp only
  rw [hs, if_neg (by decide), Run.putTier, bne, htier, if_pos (by decide)]

end

end Sys2Proof.Machine
end

section
/-! PROOFS. Snoop rounds without an answer and sweeps of failed agents (R175-R179). -/
namespace Sys2Proof.Machine

section
variable {s₀ : State}

/-! ### The directory -/

/-- A line of SRAM or placed DRAM leaves nothing but its entry. -/
theorem Run.setDir_none_plain (r : Run s₀) (l : Nat) {g : GEnt} (hg : r.d.g? (l * 64) = some g) (ht : g.tier < 2) :
    r.setDir l none = r.mod fun d => { d with dir := d.dir.del l } := by
  have hheld : r.d.heldX l = false := by
    rw [Dev.heldX, hg]
    dsimp only
    rw [beq_eq_false_iff_ne.2 (by omega), Bool.and_false]
  rw [Run.setDir, hheld]
  rfl

/-- `b` is `a` after the line of a failed holder was lost: poisoned, its entry freed, and counted and recorded (Table 6-8, R178). -/
structure LineLost (a b : State) (l : Nat) : Prop where
  line : b.stored .mem l = Machine.bad
  only : OnlyLine a b l
  dir : b.dev.dir.get? l = none
  agent : ∀ p, b.dev.o p 0x3030 2 = a.dev.o p 0x3030 2
  calm : a.dev.Calm → b.dev.Calm

/-- A change that touches neither bytes nor agents after it. -/
theorem LineLost.andThen {a b c : State} {l : Nat} (h : LineLost a b l) (hbytes : SameBytes b c) (hdir : c.dev.dir.get? l = none)
    (hagent : ∀ p, c.dev.o p 0x3030 2 = b.dev.o p 0x3030 2) (hwait : c.dev.waiting = b.dev.waiting) : LineLost a c l where
  line := (hbytes.stored ..).trans h.line
  only := h.only.sameBytes hbytes
  dir := hdir
  agent := fun p => (hagent p).trans (h.agent p)
  calm := fun q => (h.calm q).of_waiting hwait

/-- The steps of that loss, for a line homed here in SRAM or placed DRAM. -/
theorem Run.agentPoison_plain (r : Run s₀) (l f : Nat) (e : DirE) {g : GEnt} (hl : l < 2 ^ 56) (hproxy : e.proxy = false)
    (hg : r.d.g? (l * 64) = some g) (ht : g.tier < 2) (hs : g.state = 0) :
    ∃ x, r.agentPoison l f e = (((r.setLine .mem l bad).mod fun d => { d with dir := d.dir.del l }).bump (r.d.homeSlice (l * 64)) 0x5030 6).error
      x := by
  have hline : lineNo (l * 64) = l := by rw [Nat.mul_comm]; exact lineNo_line hl
  have hdev : (r.setLine .mem l bad).d = r.d := r.setLine_mem_dev l bad
  have hg₁ : (r.setLine .mem l bad).d.g? (l * 64) = some g := by rw [hdev]; exact hg
  have hdir : (r.setLine .mem l bad).setDir l none = (r.setLine .mem l bad).mod fun d => { d with dir := d.dir.del l } :=
    Run.setDir_none_plain _ l (g := g) hg₁ ht
  unfold Run.agentPoison
  dsimp only
  rw [hproxy, if_neg (by decide), r.poisonLine_plain _ hg ht hs, hline, hdir, hdev]
  exact ⟨_, rfl⟩

/-- A line homed here is lost with its holder (Table 6-8). -/
theorem Run.agentPoison_lost (r : Run s₀) (l f : Nat) (e : DirE) {g : GEnt} (hl : l < 2 ^ 56) (hproxy : e.proxy = false)
    (hg : r.d.g? (l * 64) = some g) (ht : g.tier < 2) (hs : g.state = 0) : LineLost r.cur (r.agentPoison l f e).cur l
      ∧ (r.agentPoison l f e).cur.dev.txns = r.d.txns ∧ (r.agentPoison l f e).cur.dev.gran = r.d.gran := by
  obtain ⟨x, hx⟩ := r.agentPoison_plain l f e hl hproxy hg ht hs
  rw [hx, Run.bump, Run.bumpBy]
  generalize hr₁ : Run.mod _ _ = r₁
  have hstored := r.setLine_stored l bad (fun _ => rfl) l
  have honly := r.setLine_onlyLine l bad
  have hbytes : SameBytes (r.setLine .mem l bad).cur r₁.cur := hr₁ ▸ Run.mod_sameBytes ..
  have hdev : r₁.cur.dev = { r.d with dir := r.d.dir.del l } := by subst hr₁; rfl
  generalize hr₂ : r₁.setO _ _ _ _ = r₂
  have hbytes₂ : SameBytes r₁.cur r₂.cur := hr₂ ▸ Run.setO_sameBytes ..
  have hdev₂ : ∃ ob, r₂.cur.dev = { r.d with dir := r.d.dir.del l, obj := ob } := hr₂ ▸ ⟨_, by rw [Run.setO_cur_dev, hdev]⟩
  have hagent : ∀ p, r₂.cur.dev.o p 0x3030 2 = r.d.o p 0x3030 2 := fun p => by
    rw [← hr₂, Run.setO_o_ne _ _ _ _ _ _ _ _ (by unfold okey; omega), hdev]
    rfl
  have side := r₂.error_side x
  generalize r₂.error x = r₃ at side
  obtain ⟨ob, hdev₂⟩ := hdev₂
  refine ⟨?_, by rw [side.dev, hdev₂], by rw [side.dev, hdev₂]⟩
  constructor
  case line => rw [side.sameBytes.stored, hbytes₂.stored, hbytes.stored, hstored, if_pos rfl]
  case only => exact honly.sameBytes ((hbytes.trans hbytes₂).trans side.sameBytes)
  case dir => rw [side.dev, hdev₂]; exact Tab.get?_del_self ..
  case agent => exact fun p => (side.o (sideKey_okey (by decide) (by decide))).trans (hagent p)
  case calm => exact fun q => side.calm (by rw [hdev₂]; exact q.of_waiting rfl)

/-! ### A round whose last answer is given up -/

/-- The eviction of a line whose holder failed in the round: the line is lost, and the transaction ends. -/
theorem Run.closeTxn_evict_lost (r : Run s₀) (l ag : Nat) (counted : Bool) {b : Nat} {e : DirE} {g : GEnt} (hl : l < 2 ^ 56)
    (htxns : r.d.txns = [(l, { kind := .evict counted, wait := [], began := b, failed := [ag] })]) (he : r.d.dir.get? l = some e)
    (hst : e.st = .dx) (hp0 : e.p0 = ag) (hproxy : e.proxy = false) (hne : ag ≠ 31) (hfailed : 2 ≤ r.d.agentState ag)
    (hg : r.d.g? (l * 64) = some g) (ht : g.tier < 2) (hs : g.state = 0) :
    LineLost r.cur (r.closeTxn l).cur l ∧ (r.closeTxn l).cur.dev.txns = [] := by
  obtain ⟨lost, htxns_, hgran_⟩ := r.agentPoison_lost l ag e hl hproxy hg ht hs
  have hgone : (ag != 31 && decide (2 ≤ r.d.agentState ag)) = true := by simp [hne, hfailed]
  have hsettle : r.settle l = r.agentPoison l ag e := by
    unfold Run.settle
    rw [he]
    dsimp only
    rw [hst, hp0, if_pos (by decide), if_pos hgone]
  have hget : r.d.txns.get? l = some { kind := .evict counted, wait := [], began := b, failed := [ag] } := by rw [htxns, Tab.get?_single]
  unfold Run.closeTxn
  rw [hget]
  dsimp only
  rw [if_neg (by decide), if_neg (by simp), hsettle]
  generalize r.agentPoison l ag e = r₁ at lost htxns_ hgran_
  have htxns₁ : r₁.d.txns = [(l, { kind := .evict counted, wait := [], began := b, failed := [ag] })] := htxns_.trans htxns
  have hdir₁ : r₁.d.dir.get? l = none := lost.dir
  rw [htxns₁, Tab.get?_single, hdir₁]
  have hg₁ : (r₁.mod fun d => { d with txns := d.txns.del l }).d.g? (l * 64) = some g := by
    rw [← hg]
    exact congrArg (Tab.get? · _) hgran_
  dsimp only [Option.getD_some]
  rw [Run.setDir_none_plain _ l hg₁ ht]
  have hend : ((r₁.mod fun d => { d with txns := d.txns.del l }).mod fun d => { d with dir := d.dir.del l })
      = r₁.mod fun d => { d with txns := [], dir := d.dir.del l } := by
    refine Run.ext' ?_
    simp only [Run.mod]
    rw [show r₁.cur.dev.txns = _ from htxns₁, Tab.del_single]
  rw [hend]
  have shut : LineLost r.cur (r₁.mod fun d => { d with txns := [], dir := d.dir.del l }).cur l :=
    lost.andThen (Run.mod_sameBytes ..) (Tab.get?_del_self ..) (fun _ => rfl) rfl
  generalize hr₂ : (r₁.mod fun d => { d with txns := [], dir := d.dir.del l }) = r₂ at shut
  have htxns₂ : r₂.cur.dev.txns = [] := hr₂ ▸ rfl
  cases counted
  · exact ⟨shut, htxns₂⟩
  · exact ⟨shut.andThen (Run.setO_sameBytes ..) shut.dir (fun p => Run.setO_o_ne _ _ _ _ _ _ _ _ (by unfold okey; omega)) rfl, htxns₂⟩

/-- A port's agent fails while one round waits for it alone: recorded and shown, and the round ends without it (R175, R176). -/
theorem Run.failAgent_port (r : Run s₀) (p cause l : Nat) {k : TKind} {b : Nat}
    (htxns : r.d.txns = [(l, { kind := k, wait := [8 + p], began := b })]) :
    r.failAgent (8 + p) cause = (((r.putRecord { mkErr 0x0A 4 2 p none 0 cause 0 with agent := 8 + p }).setO p 0x3030 2 2).mod fun d =>
      { d with txns := [(l, { kind := k, wait := [], began := b, failed := [8 + p] })] }).closeTxn l := by
  have hport : 8 + p - 8 = p := by omega
  have side := r.putRecord_side { mkErr 0x0A 4 2 p none 0 cause 0 with agent := 8 + p }
  unfold Run.failAgent
  dsimp only
  simp only [if_neg (show ¬ 8 + p < 8 by omega), Run.setAgent, hport]
  rw [Run.error_plain _ _ (by simp [mkErr]) rfl]
  have htxns₁ : (r.putRecord { mkErr 0x0A 4 2 p none 0 cause 0 with agent := 8 + p }).d.txns
      = [(l, { kind := k, wait := [8 + p], began := b })] := by rw [Run.d, side.dev]; exact htxns
  generalize hr₂ : (r.putRecord _).setO p 0x3030 2 2 = r₂
  have htxns₂ : r₂.cur.dev.txns = [(l, { kind := k, wait := [8 + p], began := b })] := hr₂ ▸ htxns₁
  rw [show r₂.d.txns = _ from htxns₂, List.filter_cons_of_pos (by simp), List.filter_nil, Run.each_cons, Run.each_nil]
  congr 1
  refine Run.ext' ?_
  simp only [Run.mod]
  rw [htxns₂, Tab.upd, Tab.get?_single]
  simp [Tab.set]

/-- A round of 0.35 µs in which a port's agent alone has not answered ends with that agent's failure (R175, R93). -/
theorem Run.roundExpire_port (r : Run s₀) (p l : Nat) {k : TKind} {b : Nat} (htxns : r.d.txns = [(l, { kind := k, wait := [8 + p], began := b })])
    (hlate : b + ns 350 ≤ r.d.now) : r.roundExpire l = (r.bump p 0x3030 4).failAgent (8 + p) 0 := by
  have hport : 8 + p - 8 = p := by omega
  unfold Run.roundExpire
  rw [htxns, Tab.get?_single]
  dsimp only
  rw [if_neg (by rw [List.isEmpty_cons, Bool.false_or, decide_eq_true_eq]; exact Nat.not_lt.2 hlate), Run.each_cons, Run.each_nil, if_pos (by omega), hport]

/-- The agent is then failed, and the line that it held lost; the transaction on it has ended (R175-R178). -/
theorem Run.roundExpire_lost (r : Run s₀) (p l : Nat) (counted : Bool) {b : Nat} {e : DirE} {g : GEnt} (hp : p < 16) (hl : l < 2 ^ 56)
    (htxns : r.d.txns = [(l, { kind := .evict counted, wait := [8 + p], began := b })]) (hlate : b + ns 350 ≤ r.d.now)
    (he : r.d.dir.get? l = some e) (hst : e.st = .dx) (hp0 : e.p0 = 8 + p) (hproxy : e.proxy = false) (hg : r.d.g? (l * 64) = some g)
    (ht : g.tier < 2) (hs : g.state = 0) :
    let t := (r.roundExpire l).cur
    t.dev.o p 0x3030 2 = 2 ∧ t.dev.txns = [] ∧ t.dev.dir.get? l = none ∧ t.stored .mem l = Machine.bad ∧ OnlyLine r.cur t l
      ∧ (r.d.Calm → t.dev.Calm) := by
  have htxns₁ : (r.bump p 0x3030 4).d.txns = [(l, { kind := .evict counted, wait := [8 + p], began := b })] := htxns
  dsimp only
  rw [r.roundExpire_port p l htxns hlate, Run.failAgent_port _ p 0 l htxns₁]
  have side := (r.bump p 0x3030 4).putRecord_side { mkErr 0x0A 4 2 p none 0 0 0 with agent := 8 + p }
  generalize (r.bump p 0x3030 4).putRecord _ = r₁ at side
  have hbytes₁ : SameBytes r.cur r₁.cur := (r.setO_sameBytes ..).trans side.sameBytes
  have hdir₁ : r₁.cur.dev.dir = r.d.dir := by rw [side.dev]; rfl
  have hgran₁ : r₁.cur.dev.gran = r.d.gran := by rw [side.dev]; rfl
  have hcalm₁ : r.d.Calm → r₁.cur.dev.Calm := fun q => side.calm (q.of_waiting rfl)
  have hstate₁ : (r₁.setO p 0x3030 2 2).cur.dev.o p 0x3030 2 = 2 := Run.setO_o_self ..
  generalize hr₂ : Run.mod _ _ = r₂
  have hbytes₂ : SameBytes r.cur r₂.cur := hbytes₁.trans (hr₂ ▸ (r₁.setO_sameBytes ..).trans (Run.mod_sameBytes ..))
  have hdir₂ : r₂.d.dir = r.d.dir := by subst hr₂; exact hdir₁
  have hgran₂ : r₂.d.gran = r.d.gran := by subst hr₂; exact hgran₁
  have hstate₂ : r₂.d.o p 0x3030 2 = 2 := by subst hr₂; exact hstate₁
  have hcalm₂ : r.d.Calm → r₂.d.Calm := fun q => by subst hr₂; exact (hcalm₁ q).of_waiting rfl
  have htxns₂ : r₂.d.txns = [(l, { kind := .evict counted, wait := [], began := b, failed := [8 + p] })] := by subst hr₂; rfl
  have hagent : r₂.d.agentState (8 + p) = 2 := by
    rw [Dev.agentState, if_neg (by omega), show 8 + p - 8 = p by omega, hstate₂]
  have hg₂ : r₂.d.g? (l * 64) = some g := by rw [← hg]; exact congrArg (Tab.get? · _) hgran₂
  obtain ⟨lost, hend⟩ := r₂.closeTxn_evict_lost l (8 + p) counted hl htxns₂ (hdir₂ ▸ he) hst hp0 hproxy (by omega) (by omega) hg₂ ht hs
  exact ⟨(lost.agent p).trans hstate₂, hend, lost.dir, lost.line, hbytes₂.onlyLine lost.only, fun q => lost.calm (hcalm₂ q)⟩

/-! ### Credits -/

/-- Changes in a row that change the same objects. -/
theorem SameObjects.trans_same {s t u : State} {xs : List (Nat × Nat × Nat)} (h : SameObjects s t xs) (k : SameObjects t u xs) :
    SameObjects s u xs := fun i x w hx hw hne => (k i x w hx hw hne).trans (h i x w hx hw hne)

/-- Some flits that leave are counted for their port, and no other object changes. -/
theorem Run.leave_sameObjects (r : Run s₀) (p : Nat) (x : TxItem) (n : Nat) : SameObjects r.cur (r.leave p x n).cur [(p, 0x3040, 8)] := by
  unfold Run.leave
  extract_lets r₁ r₂
  have hobj₁ : r₁.cur.dev.obj = r.cur.dev.obj := by unfold r₁; split <;> rfl
  have hobj₂ : r₂.cur.dev.obj = r.cur.dev.obj := by rw [← hobj₁]; unfold r₂; split <;> rfl
  exact .of_set (by decide) (by decide) (congrArg (Tab.set · _ _) hobj₂)

/-- So of a link that is drained. -/
theorem Run.drain_sameObjects (r : Run s₀) (p : Nat) (xs kept : List TxItem) : SameObjects r.cur (r.drain p xs kept).cur [(p, 0x3040, 8)] := by
  induction xs generalizing r kept with
  | nil =>
    unfold Run.drain
    split <;> exact fun _ _ _ _ _ _ => rfl
  | cons x t ih =>
    unfold Run.drain
    extract_lets n
    split
    · exact ih _ _
    · split
      all_goals exact SameObjects.trans_same (Run.leave_sameObjects _ _ _ _) (ih _ _)

end

/-- `b` is `a` without one credit: what it booked, the way reserved with it and its walk's fault are given back. -/
structure CreditDropped (a b : State) (n : Nat) : Prop where
  gone : b.dev.credits.get? n = none
  dev : ∃ ls cs ws wk, b.dev = { a.dev with lanes := ls, credits := cs, resWay := ws, walks := wk }
  bytes : SameBytes a b
  out : b.out = a.out

section
variable {s₀ : State}

/-- `b` is `a` but for the service of the lanes. -/
def OnlyLanes (a b : State) : Prop := ∃ ls, b = { a with dev := { a.dev with lanes := ls } }

theorem OnlyLanes.refl (a : State) : OnlyLanes a a := ⟨a.dev.lanes, rfl⟩

theorem OnlyLanes.trans {a b c : State} (h : OnlyLanes a b) (k : OnlyLanes b c) : OnlyLanes a c := by
  obtain ⟨_, rfl⟩ := h
  obtain ⟨_, rfl⟩ := k
  exact ⟨_, rfl⟩

theorem Run.book_onlyLanes (r : Run s₀) (k t : Nat) (on : Bool) : OnlyLanes r.cur (r.book k t on).cur := by
  unfold Run.book
  split
  · exact .refl _
  · exact ⟨_, rfl⟩

theorem Run.dropCredit_dropped (r : Run s₀) (n : Nat) {c : Credit} (h : r.d.credits.get? n = some c) :
    CreditDropped r.cur (r.dropCredit n).cur n := by
  have hbook : OnlyLanes r.cur (r.each c.booked fun r b => r.book b.1 b.2 false).cur :=
    Run.each_rel OnlyLanes .refl (fun _ _ _ => .trans) r _ _ fun r b => r.book_onlyLanes _ _ _
  unfold Run.dropCredit
  rw [h]
  dsimp only
  generalize r.each c.booked _ = r₁ at hbook
  obtain ⟨ls, hcur⟩ := hbook
  have hbytes : SameBytes r.cur r₁.cur := by rw [hcur]; exact ⟨rfl, rfl, rfl, rfl, rfl, rfl⟩
  refine ⟨Tab.get?_del_self .., ?_, hbytes.trans (r₁.mod_sameBytes _), ?_⟩
  · rw [Run.mod_dev, hcur]
    exact ⟨_, _, _, _, rfl⟩
  · rw [Run.mod_out, hcur]

end

/-! ### The commands -/

theorem exec_snoopRoundExpire (addr : BitVec 64) (s : State) :
    exec (.snoopRoundExpire addr) s = ((Run.start s).roundExpire (lineNo addr.toNat)).requestDone := rfl

theorem exec_directorySweepDone (agent : Fin 24) (s : State) :
    exec (.directorySweepDone agent) s = ((Run.start s).sweepDone agent).requestDone := rfl

theorem exec_creditWindowLapse (n : Nat) (s : State) {c : Credit} (h : s.dev.credits.get? n = some c) (hlate : c.until_ < s.dev.now)
    (hheld : c.held = none) :
    exec (.creditWindowLapse n) s = ((((Run.start s).dropCredit n).grantReq c.src c.part).mod fun d => { d with
      pairs := d.pairs.map fun p => (p.1, if p.2.held == some n then { p.2 with held := none } else p.2) }).close := by
  show execCreditWindowLapse n s = _
  have hnow : ¬ (Run.start s).now ≤ c.until_ := Nat.not_le.2 hlate
  unfold execCreditWindowLapse
  dsimp only
  rw [show (Run.start s).d.credits.get? n = some c from h]
  dsimp only
  rw [if_neg (by simp [hnow, hheld])]

/-- A round that a port's agent leaves unanswered ends with that agent failed and the line it held poisoned (R175-R178, Table 6-8). -/
theorem snoopRoundExpire_answers (p : Fin 16) (addr : BitVec 64) (b part : Nat) (counted : Bool) (s : State) (q : s.dev.Quiet)
    (ha : addr.toNat < 2 ^ 62)
    (htxns : s.dev.txns = [(lineNo addr.toNat, { kind := .evict counted, wait := [8 + p.val], began := b })]) (hlate : b + ns 350 ≤ s.dev.now)
    (howns : s.Owns (lineNo addr.toNat) (8 + p.val)) (hproxy : ∀ e, s.dev.dir.get? (lineNo addr.toNat) = some e → e.proxy = false)
    (hplaced : s.dev.Placed addr.toNat part) :
    Answers (.snoopRoundExpire addr) s fun t => t.dev.o p.val 0x3030 2 = 2 ∧ t.dev.txns = [] ∧ t.dev.dir.get? (lineNo addr.toNat) = none
      ∧ t.lineAt addr.toNat = bad ∧ OnlyLine s t (lineNo addr.toNat) := by
  obtain ⟨g, hg, ht, hs, -, -⟩ := hplaced
  obtain ⟨e, he, hholds⟩ := Option.map_eq_some_iff.1 howns
  obtain ⟨hst, hp0⟩ := Prod.mk.inj hholds
  have hl : lineNo addr.toNat < 2 ^ 56 := by unfold lineNo bits; omega
  have hg' : s.dev.g? (lineNo addr.toNat * 64) = some g := by rw [Dev.g?, granuleOf_lineNo ha]; exact hg
  obtain ⟨hagent, htxns', hdir, hline, honly, hcalm⟩ := (Run.start s).roundExpire_lost p.val _ counted p.isLt hl htxns hlate he hst hp0
    (hproxy e he) hg' ht hs
  exact Answers.of_requestDone _ (exec_snoopRoundExpire addr s) (hcalm q.calm) ⟨hagent, htxns', hdir, hline, honly⟩

/-- What a sweep that has no entry to settle does: it goes on while an entry names the agent, else the agent's link decides (R179). -/
theorem Run.sweepDone_port (r : Run s₀) (p : Nat) (h : 2 ≤ r.d.o p 0x3030 2)
    (hnone : (r.d.dir.filter fun e => e.2.named.contains (8 + p) && !r.d.txns.has e.1) = []) :
    r.sweepDone (8 + p) = r.setO p 0x3030 2 (if (r.d.dir.any fun e => e.2.named.contains (8 + p)) then 3
      else b2n (r.d.role p == 2 && r.d.o p 0x3040 1 == 2 && !r.d.portRst.has p)) := by
  have hport : 8 + p - 8 = p := by omega
  have hstate : r.d.agentState (8 + p) = r.d.o p 0x3030 2 := by rw [Dev.agentState, if_neg (by omega), hport]
  have hsweep : r.sweep (8 + p) = r := by
    unfold Run.sweep
    dsimp only
    rw [hnone, Run.each_nil]
  unfold Run.sweepDone
  dsimp only
  rw [hstate, if_neg (by omega), hsweep]
  simp only [Run.setAgent, if_neg (show ¬ 8 + p < 8 by omega), hport]
  split <;> rfl

/-- A port's agent after a sweep is what the sweep found of it; nothing else has changed. -/
theorem directorySweepDone_answers (p : Fin 16) (v : Nat) (s : State) (q : s.dev.Quiet)
    (hsweep : (Run.start s).sweepDone (8 + p.val) = (Run.start s).setO p.val 0x3030 2 v) :
    Answers (.directorySweepDone ⟨8 + p.val, by omega⟩) s fun t => t.dev.o p.val 0x3030 2 = v ∧ t.dev.dir = s.dev.dir
      ∧ t.dev.txns = s.dev.txns ∧ SameObjects s t [(p.val, 0x3030, 2)] ∧ SameBytes s t := by
  have hexec := exec_directorySweepDone ⟨8 + p.val, by omega⟩ s
  rw [show (Run.start s).sweepDone (⟨8 + p.val, by omega⟩ : Fin 24) = _ from hsweep] at hexec
  exact Answers.of_requestDone _ hexec (q.calm.of_waiting rfl)
    ⟨Run.setO_o_self .., rfl, rfl, .of_set (by decide) (by decide) rfl, (Run.start s).setO_sameBytes ..⟩

/-- With no entry left the agent is active again on a link that is up (R179). -/
theorem directorySweepDone_ends_answers (p : Fin 16) (s : State) (q : s.dev.Quiet) (hdir : s.dev.dir = []) (h : 2 ≤ s.dev.o p.val 0x3030 2) :
    Answers (.directorySweepDone ⟨8 + p.val, by omega⟩) s fun t =>
      t.dev.o p.val 0x3030 2 = (if s.dev.role p.val = 2 ∧ s.dev.o p.val 0x3040 1 = 2 ∧ s.dev.portRst.has p.val = false then 1 else 0)
      ∧ SameObjects s t [(p.val, 0x3030, 2)] ∧ SameBytes s t := by
  have hsweep := (Run.start s).sweepDone_port p.val h (by simp [Run.d, hdir])
  rw [Run.d, Run.start_cur, hdir, List.any_nil, if_neg Bool.false_ne_true] at hsweep
  refine (directorySweepDone_answers p _ s q hsweep).mono ?_
  rintro t ⟨ho, -, -, hobj, hbytes⟩
  refine ⟨ho.trans ?_, hobj, hbytes⟩
  unfold b2n
  simp only [Bool.and_eq_true, beq_iff_eq, Bool.not_eq_true', and_assoc]

/-- While a transaction is open on a line that names the agent, it shows sweeping (log entry 79). -/
theorem directorySweepDone_sweeping_answers (p : Fin 16) (l : Nat) (e : DirE) (x : Txn) (s : State) (q : s.dev.Quiet)
    (hdir : s.dev.dir = [(l, e)]) (hnamed : (8 + p.val) ∈ e.named) (htxns : s.dev.txns = [(l, x)]) (h : 2 ≤ s.dev.o p.val 0x3030 2) :
    Answers (.directorySweepDone ⟨8 + p.val, by omega⟩) s fun t =>
      t.dev.o p.val 0x3030 2 = 3 ∧ t.dev.dir = s.dev.dir ∧ t.dev.txns = s.dev.txns ∧ SameObjects s t [(p.val, 0x3030, 2)] ∧ SameBytes s t := by
  have hopen : s.dev.txns.has l = true := Tab.has_of_get? (v := x) (by rw [htxns, Tab.get?_single])
  have hsweep := (Run.start s).sweepDone_port p.val h (by simp [Run.d, hdir, hopen])
  have hany : (s.dev.dir.any fun e => e.2.named.contains (8 + p.val)) = true := by simp [hdir, hnamed]
  rw [Run.d, Run.start_cur, hany, if_pos rfl] at hsweep
  exact directorySweepDone_answers p 3 s q hsweep

/-- A credit whose window has passed is given back; a port's request credit is granted again (R109, R114). -/
theorem creditWindowLapse_answers (n : Nat) (c : Credit) (s : State) (q : s.dev.Quiet) (hc : s.dev.credits.get? n = some c)
    (hlate : c.until_ < s.dev.now) (hheld : c.held = none) :
    Answers (.creditWindowLapse n) s fun t => t.dev.credits.get? n = none ∧ SameBytes s t
      ∧ (srcPort c.src = none → t.dev.obj = s.dev.obj)
      ∧ ∀ p, srcPort c.src = some p → SameObjects s t [(p, 0x3040, 8)] ∧ (s.dev.LinkFree p → Sends s t (.reqCredits p c.part 1)) := by
  have hexec := exec_creditWindowLapse n s hc hlate hheld
  have dropped := (Run.start s).dropCredit_dropped n hc
  generalize (Run.start s).dropCredit n = r at hexec dropped
  obtain ⟨ls, cs, ws, wk, hdev⟩ := dropped.dev
  have hcalm : r.d.Calm := by rw [Run.d, hdev]; exact q.calm.of_waiting rfl
  have hobj : r.cur.dev.obj = s.dev.obj := by rw [hdev]; rfl
  rcases hsrc : srcPort c.src with _ | p
  · have hgrant : r.grantReq c.src c.part = r := by rw [Run.grantReq, hsrc]
    rw [hgrant] at hexec
    exact Answers.of_close _ hexec (hcalm.of_waiting rfl)
      ⟨dropped.gone, dropped.bytes.trans (Run.mod_sameBytes ..), fun _ => hobj, fun p hp => absurd hp (by simp)⟩
  · have hgrant : r.grantReq c.src c.part = r.wire p (.reqCredits p c.part 1) := by rw [Run.grantReq, hsrc]
    rw [hgrant] at hexec
    have side := r.wire_side p (.reqCredits p c.part 1) 1 none none none
    have hsame := r.drain_sameObjects p ((r.d.link p).txq ++ [{ out := .reqCredits p c.part 1, flits := 1 }]) []
    have hsent : s.dev.LinkFree p → Sends s (r.wire p (.reqCredits p c.part 1)).cur (.reqCredits p c.part 1) := fun hfree => by
      have hfree' : r.d.LinkFree p := hfree.congr (by rw [Run.d, hdev]; rfl) (Dev.o_congr hobj ..)
      rw [r.wire_free p _ hfree']
      exact (Sends.emit r _).of_out_eq rfl
    rw [← Run.wire] at hsame
    generalize r.wire p (.reqCredits p c.part 1) = r₁ at *
    refine Answers.of_close _ hexec ((side.calm hcalm).of_waiting rfl) ⟨?_, ?_, fun h => absurd h (by simp), ?_⟩
    · show r₁.cur.dev.credits.get? n = none
      rw [side.dev]; exact dropped.gone
    · exact (dropped.bytes.trans side.sameBytes).trans (Run.mod_sameBytes ..)
    · rintro p' hp'
      obtain rfl : p = p' := by simpa using hp'
      refine ⟨fun i x u hx hu hne => ?_, fun hfree => (hsent hfree).of_out_eq rfl⟩
      exact (hsame i x u hx hu hne).trans (Dev.o_congr hobj ..)

end Sys2Proof.Machine

open Sys2Proof Sys2Proof.Machine

/-- Settles O26: clause by clause. The one agent that has not answered fails, and the line it holds is poisoned on the way; a sweep sets the
agent's state alone; a credit is dropped, and over a port its request credit is granted again. -/
theorem roundsAndCredits : Obligations.RoundsAndCredits :=
  ⟨snoopRoundExpire_answers, directorySweepDone_ends_answers, directorySweepDone_sweeping_answers, creditWindowLapse_answers⟩
end

section
/-! PROOFS. Patina and flash patina (R407, R410-R415). -/
namespace Sys2Proof.Machine

section
variable {s₀ : State}

/-! ### Patina -/

/-- A line of SRAM or placed DRAM with no transaction open is scrubbed, with what its read found unless it is poisoned already. -/
theorem Run.scrubLine_here (r : Run s₀) (a : Nat) (fs : List Finding) {x : GEnt} (htxns : r.d.txns = []) (hg : r.d.g? a = some x)
    (hs : x.state ≠ 2) (ht : x.tier < 2) :
    r.scrubLine a fs = (if (r.home a).poison then r else r.each fs fun r f => r.found a f true).sawLine (lineNo a) := by
  have hhere : (x.state == 2 || (x.tier == 2 && !r.d.lineValid a)) = false := by
    rw [beq_eq_false_iff_ne.2 hs, beq_eq_false_iff_ne.2 (by omega : x.tier ≠ 2)]
    rfl
  unfold Run.scrubLine
  rw [htxns, if_neg (by simp [Tab.has]), hg]
  dsimp only
  rw [hhere, if_neg Bool.false_ne_true]

/-- A line that has been scrubbed joins those seen; with the last one the pass is counted, and the next begins. -/
theorem Run.sawLine_counts (r : Run s₀) (l : Nat) :
    let t := (r.sawLine l).cur
    if (Marks.add r.d.patSeen l).length < r.d.patinaLines then t.dev.patSeen = Marks.add r.d.patSeen l ∧ t.dev.obj = r.d.obj
    else t.dev.patSeen = [] ∧ t.dev.o 0 0x9010 5 = (r.d.o 0 0x9010 5 + 1) % 2 ^ oWidth 0x9010 5 := by
  unfold Run.sawLine
  dsimp only
  split
  · exact ⟨rfl, rfl⟩
  · exact ⟨rfl, Run.setO_o_self ..⟩

theorem Run.sawLine_sameBytes (r : Run s₀) (l : Nat) : SameBytes r.cur (r.sawLine l).cur := by
  unfold Run.sawLine
  dsimp only
  split
  · exact r.mod_sameBytes _
  · exact (r.mod_sameBytes _).trans (Run.setO_sameBytes ..)

theorem Run.sawLine_waiting (r : Run s₀) (l : Nat) : (r.sawLine l).d.waiting = r.d.waiting := by
  unfold Run.sawLine
  dsimp only
  split <;> rfl

/-- An error of DRAM that cannot be corrected poisons a line that no agent holds (R405). -/
theorem Run.uncorrectable_lost (r : Run s₀) (a n row : Nat) {x : GEnt} (hdir : r.d.dir = []) (htxns : r.d.txns = []) (hg : r.d.g? a = some x)
    (hs : x.state = 0) (ht : x.tier < 2) :
    let t := (r.uncorrectable a 1 n row true).cur
    t.stored .mem (lineNo a) = Machine.bad ∧ OnlyLine r.cur t (lineNo a) ∧ (r.d.Calm → t.dev.Calm) := by
  unfold Run.uncorrectable
  dsimp only
  rw [if_pos (show ((1 : Nat) == 1) = true from rfl)]
  have side := (r.bump 0 0x9030 4).error_side (mkErr 0x06 4 1 ((r.bump 0 0x9030 4).d.homeSlice a) none a 0 row)
  generalize (r.bump 0 0x9030 4).error _ = r₁ at side
  have hbytes₁ : SameBytes r.cur r₁.cur := (r.setO_sameBytes ..).trans side.sameBytes
  have hdir₁ : r₁.d.dir = [] := by rw [Run.d, side.dev]; exact hdir
  have htxns₁ : r₁.d.txns = [] := by rw [Run.d, side.dev]; exact htxns
  have hgran₁ : r₁.d.gran = r.d.gran := by rw [Run.d, side.dev]; rfl
  have hg₁ : r₁.d.g? a = some x := by rw [← hg]; exact congrArg (Tab.get? · _) hgran₁
  have hcalm₁ : r.d.Calm → r₁.d.Calm := fun q => side.calm (q.of_waiting rfl)
  have hsettle : r₁.settle (lineNo a) = r₁ := by
    unfold Run.settle
    rw [hdir₁, Tab.get?_nil]
  rw [htxns₁, if_neg (by simp [Tab.has]), hsettle, hdir₁, Tab.get?_nil]
  dsimp only
  rw [r₁.poisonLine_plain a hg₁ ht hs]
  have hstored := r₁.setLine_stored (lineNo a) bad (fun _ => rfl) (lineNo a)
  have honly := r₁.setLine_onlyLine (lineNo a) bad
  have hdev : (r₁.setLine .mem (lineNo a) bad).d = r₁.d := Run.setLine_mem_dev ..
  generalize r₁.setLine .mem (lineNo a) bad = r₂ at *
  generalize hx : ({ mkErr _ _ _ _ _ _ _ _ with d2 := b2n true } : ERec) = e
  have side₂ := r₂.error_side e
  exact ⟨by rw [side₂.sameBytes.stored, hstored, if_pos rfl], hbytes₁.onlyLine (honly.sameBytes side₂.sameBytes),
    fun q => side₂.calm (show r₂.d.Calm by rw [hdev]; exact hcalm₁ q)⟩

/-- More bytes in error than can be corrected are such an error (R404, R405). -/
theorem Run.found_hbm_uncorrectable (r : Run s₀) (a i n : Nat) (row : BitVec 32) (hn : 2 < n) :
    r.found a (.hbmBytes i n row) true = r.uncorrectable a 1 n row.toNat true := by
  unfold Run.found
  dsimp only
  rw [if_neg (by simp; omega), if_neg (by omega)]

end

/-! ### Blocks of flash in the cache -/

/-- `b` is `a` but for the bytes of the store and their poison marks. -/
def OnlyMem (a b : State) : Prop := ∃ m p, b = { a with mem := m, bad := p }

theorem OnlyMem.refl (a : State) : OnlyMem a a := ⟨a.mem, a.bad, rfl⟩

theorem OnlyMem.trans {a b c : State} (h : OnlyMem a b) (k : OnlyMem b c) : OnlyMem a c := by
  obtain ⟨_, _, rfl⟩ := h
  obtain ⟨_, _, rfl⟩ := k
  exact ⟨_, _, rfl⟩

theorem OnlyMem.stored_flash {a b : State} (h : OnlyMem a b) (l : Nat) : b.stored .flash l = a.stored .flash l := by
  obtain ⟨_, _, rfl⟩ := h
  rfl

section
variable {s₀ : State}

theorem Run.setLine_onlyMem (r : Run s₀) (l : Nat) (x : DLine) : OnlyMem r.cur (r.setLine .mem l x).cur := ⟨_, _, rfl⟩

/-- Lines of a block written one after another, with what does not depend on the store: each stands there, and no other line changes. -/
theorem Run.each_setLine (r : Run s₀) (base : Nat) (f : State → Nat → DLine) (hclean : ∀ a l, (f a l).poison = true → f a l = bad)
    (hf : ∀ a b, OnlyMem a b → f b = f a) (is : List Nat) :
    let t := (r.each is fun r i => r.setLine .mem (base + i) (f r.cur (base + i))).cur
    OnlyMem r.cur t ∧ ∀ l, t.stored .mem l = if base ≤ l ∧ l - base ∈ is then f r.cur l else r.cur.stored .mem l := by
  induction is generalizing r with
  | nil => exact ⟨.refl _, fun l => (if_neg (by simp)).symm⟩
  | cons i is ih =>
    rw [Run.each_cons]
    have hset := r.setLine_onlyMem (base + i) (f r.cur (base + i))
    have hstored := r.setLine_stored (base + i) (f r.cur (base + i)) (hclean _ _)
    obtain ⟨honly, hlines⟩ := ih (r.setLine .mem (base + i) (f r.cur (base + i)))
    refine ⟨hset.trans honly, fun l => ?_⟩
    rw [hlines, hf _ _ hset, hstored]
    by_cases hmem : base ≤ l ∧ l - base ∈ is
    · rw [if_pos hmem, if_pos ⟨hmem.1, List.mem_cons_of_mem _ hmem.2⟩]
    · rw [if_neg hmem]
      by_cases hl : l = base + i
      · subst hl
        rw [if_pos rfl, if_pos ⟨by omega, by simp⟩]
      · rw [if_neg hl, if_neg]
        rintro ⟨hge, hin⟩
        rcases List.mem_cons.1 hin with h | h
        · omega
        · exact hmem ⟨hge, h⟩

/-- The lines of block `k`. -/
theorem mem_block_iff (k l : Nat) : (k * 256 ≤ l ∧ l - k * 256 ∈ List.range 256) ↔ l / 256 = k := by
  rw [List.mem_range]; omega

end

/-- The only block of the cache has no mates in its set. -/
theorem Dev.mates_alone (d : Dev) (k : Nat) (h : ∀ e ∈ d.frames, e.1 = k) : d.mates k = [] := by
  unfold Dev.mates
  split
  · rfl
  · refine List.filter_eq_nil_iff.2 fun e he => ?_
    simp [h e he]

section
variable {s₀ : State}

/-- The first frame takes no other's place. -/
theorem Run.takeFrame_first (r : Run s₀) (k : Nat) (h : r.d.frames = []) :
    r.takeFrame k = r.mod fun d => { d with frames := [(k, { used := d.now })] } := by
  have hways : 0 < r.d.ways k := Nat.lt_of_lt_of_le Nat.zero_lt_one (Nat.le_max_left _ _)
  unfold Run.takeFrame
  rw [h, if_neg (by simp [Tab.has])]
  dsimp only
  rw [r.d.mates_alone k (by simp [h]), List.length_nil, if_pos hways]
  refine Run.ext' ?_
  simp only [Run.mod]
  rw [show r.cur.dev.frames = [] from h, Tab.set]

/-- The only frame needs no other kept clean. -/
theorem Run.keepClean_alone (r : Run s₀) (k : Nat) (h : ∀ e ∈ r.d.frames, e.1 = k) : r.keepClean k = r := by
  unfold Run.keepClean
  rw [r.d.mates_alone k h]
  dsimp only [List.filter_nil]
  split <;> rfl

/-- A frame with no valid line is read whole from flash. -/
theorem Run.readInvalid_whole (r : Run s₀) (k : Nat) (f : Frame) (h : f.valid = 0) :
    OnlyMem r.cur (r.readInvalid k f).cur
      ∧ ∀ l, (r.readInvalid k f).cur.stored .mem l = if l / 256 = k then r.cur.stored .flash l else r.cur.stored .mem l := by
  have hall : (List.range 256).filter (fun i => !f.valid.getLsbD i) = List.range 256 := List.filter_eq_self.2 (by simp [h])
  obtain ⟨honly, hlines⟩ := r.each_setLine (k * 256) (fun s l => s.stored .flash l) (fun a l => a.stored_poison .flash l)
    (fun a b hab => funext hab.stored_flash) (List.range 256)
  unfold Run.readInvalid
  rw [hall]
  refine ⟨honly, fun l => (hlines l).trans ?_⟩
  simp only [mem_block_iff]

end

/-- `b` is `a` with block `k` as the only one of the cache, valid and dirty as a whole; its lines are `x`. -/
structure BlockCached (a b : State) (k : Nat) (x : Nat → DLine) : Prop where
  frames : b.dev.frames = [(k, { valid := BitVec.allOnes 256, dirty := BitVec.allOnes 256, used := a.dev.now })]
  lines : ∀ l, b.stored .mem l = if l / 256 = k then x l else a.stored .mem l
  flash : b.flash = a.flash
  fbad : b.fbad = a.fbad
  waiting : b.dev.waiting = a.dev.waiting

section
variable {s₀ : State}

/-- The first block of the cache is read from flash (R33). -/
theorem Run.installBlock_first (r : Run s₀) (k : Nat) (h : r.d.frames = []) :
    BlockCached r.cur (r.installBlock k true).cur k (r.cur.stored .flash) := by
  unfold Run.installBlock
  dsimp only
  rw [r.takeFrame_first k h, if_pos rfl]
  generalize hr₁ : (r.mod fun d => { d with frames := [(k, { used := d.now })] }) = r₁
  have hcur₁ : r₁.cur = { r.cur with dev := { r.cur.dev with frames := [(k, { used := r.d.now })] } } := by subst hr₁; rfl
  have hframe : r₁.d.frames.getD k {} = { used := r.d.now } := by rw [Run.d, hcur₁]; simp [Tab.getD]
  rw [hframe]
  obtain ⟨⟨m, p, hread⟩, hlines⟩ := r₁.readInvalid_whole k { used := r.d.now } rfl
  generalize r₁.readInvalid k { used := r.d.now } = r₂ at *
  generalize hr₃ : r₂.mod _ = r₃
  have hframes : r₃.cur.dev.frames = [(k, { valid := BitVec.allOnes 256, dirty := BitVec.allOnes 256, used := r.cur.dev.now })] := by
    subst hr₃
    simp only [Run.mod, Run.now, Run.d, hread, hcur₁]
    simp [Tab.set]
  rw [r₃.keepClean_alone k (by rw [Run.d, hframes]; simp)]
  have hbytes : SameBytes r₂.cur r₃.cur := hr₃ ▸ Run.mod_sameBytes ..
  refine ⟨hframes, fun l => ?_, ?_, ?_, ?_⟩
  · rw [hbytes.stored, hlines, hcur₁]
    rfl
  · rw [hbytes.flash, hread, hcur₁]
  · rw [hbytes.fbad, hread, hcur₁]
  · subst hr₃
    simp only [Run.mod, hread, hcur₁]
    rfl

/-- Its lines written over. -/
theorem BlockCached.overwrite {a b c : State} {k : Nat} {x y : Nat → DLine} (h : BlockCached a b k x) (honly : OnlyMem b c)
    (hlines : ∀ l, c.stored .mem l = if l / 256 = k then y l else b.stored .mem l) : BlockCached a c k y := by
  refine ⟨?_, fun l => ?_, ?_, ?_, ?_⟩
  · obtain ⟨m, p, rfl⟩ := honly; exact h.frames
  · rw [hlines, h.lines]
    split <;> rfl
  · obtain ⟨m, p, rfl⟩ := honly; exact h.flash
  · obtain ⟨m, p, rfl⟩ := honly; exact h.fbad
  · obtain ⟨m, p, rfl⟩ := honly; exact h.waiting

theorem BlockCached.setO {a : State} {k : Nat} {x : Nat → DLine} {r : Run s₀} (h : BlockCached a r.cur k x) (i y u v : Nat) :
    BlockCached a (r.setO i y u v).cur k x :=
  ⟨h.frames, fun l => ((r.setO_sameBytes i y u v).stored .mem l).trans (h.lines l), h.flash, h.fbad, h.waiting⟩

/-- A block that could not be read is poisoned as a whole (R407, R409). -/
theorem Run.blockLost_first (r : Run s₀) (k : Nat) (h : r.d.frames = []) : BlockCached r.cur (r.blockLost k).cur k fun _ => bad := by
  have hall : (List.range 256).filter (fun i => !(r.d.frames.getD k {}).valid.getLsbD i) = List.range 256 := by
    rw [h]
    exact List.filter_eq_self.2 (by simp [Tab.getD])
  have cached := r.installBlock_first k h
  obtain ⟨honly, hlines⟩ := (r.installBlock k true).each_setLine (k * 256) (fun _ _ => bad) (fun _ _ _ => rfl) (fun _ _ _ => rfl) (List.range 256)
  unfold Run.blockLost
  dsimp only
  rw [hall]
  refine (cached.overwrite honly fun l => ?_).setO ..
  exact (hlines l).trans (by simp only [mem_block_iff])

/-- The end of a ladder is counted and recorded (R407). -/
structure LadderEnded (a b : State) : Prop where
  bytes : SameBytes a b
  frames : b.dev.frames = a.dev.frames
  now : b.dev.now = a.dev.now
  calm : a.dev.Calm → b.dev.Calm

theorem Run.ladder_ended (r : Run s₀) (block step sev loc : Nat) (patina : Bool) :
    LadderEnded r.cur (r.ladder block step sev loc patina).cur := by
  have hcount : LadderEnded r.cur (r.bump 0 0x9030 (0x10 + step)).cur := ⟨r.setO_sameBytes .., rfl, rfl, fun q => q.of_waiting rfl⟩
  unfold Run.ladder
  dsimp only
  split
  · exact hcount
  · generalize r.bump 0 0x9030 (0x10 + step) = r₁ at *
    have side := r₁.error_side { mkErr 0x07 sev 3 (loc % 32) ((r₁.d.gran.get? (block / 128)).map (·.part)) (block * 16384) step loc with d2 := b2n patina }
    generalize r₁.error _ = r₂ at side
    exact ⟨hcount.bytes.trans side.sameBytes, by rw [side.dev]; exact hcount.frames, side.now.trans hcount.now,
      fun q => side.calm (hcount.calm q)⟩

/-- Flash patina of a block of a T2 granule that is not being read: its ladder, and where that took a step the block in the cache (R415). -/
theorem Run.scrubBlock_flash (r : Run s₀) (k step loc : Nat) {x : GEnt} (hfills : r.d.fills = []) (hdeep : r.d.deep = [])
    (hg : r.d.gran.get? (k / 128) = some x) (ht : x.tier = 2) (hs : x.state ≠ 2) :
    ∃ sev, r.scrubBlock k step loc = (if step = 0 then r.ladder k (min step 6) sev loc true
      else if step ≤ 6 then (r.ladder k (min step 6) sev loc true).installBlock k true
      else (r.ladder k (min step 6) sev loc true).blockLost k) := by
  have hhere : (x.tier != 2 || x.state == 2) = false := by rw [ht, beq_eq_false_iff_ne.2 hs]; rfl
  unfold Run.scrubBlock
  dsimp only
  rw [hfills, hdeep, if_neg (by simp [Tab.has]), hg]
  dsimp only
  rw [hhere, if_neg Bool.false_ne_true]
  simp only [beq_iff_eq]
  exact ⟨_, rfl⟩

end

/-! ### The commands -/

theorem exec_patinaScrub (a : BitVec 64) (fs : List Finding) (s : State) (hr : s.dev.ready = true)
    (hb : s.dev.mayBurst (s.dev.scrubGate (a.toNat / 64 * 64)).key = true) :
    exec (.patinaScrub a fs) s
      = (((Run.start s).burst (s.dev.scrubGate (a.toNat / 64 * 64)).key).scrubLine (a.toNat / 64 * 64) fs).requestDone :=
  if_neg (by simp [hr, hb])

theorem exec_flashPatina (k : BitVec 48) (step : Fin 8) (loc : BitVec 64) (s : State) (hr : s.dev.ready = true) :
    exec (.flashPatina k step loc) s = ((Run.start s).scrubBlock k.toNat step loc.toNat).close := if_neg (by simp [hr])

/-- Scrubbing a sound line counts it in its pass (R414). -/
theorem patinaScrub_sound_answers (a : BitVec 64) (x : GEnt) (s : State) (hidle : s.dev.Idle) (hr : s.dev.ready = true)
    (hg : s.dev.g? (a.toNat / 64 * 64) = some x) (hs : x.state ≠ 2) (ht : x.tier < 2)
    (hb : s.dev.mayBurst (s.dev.scrubGate (a.toNat / 64 * 64)).key = true) :
    Answers (.patinaScrub a []) s fun t => SameBytes s t ∧
      let seen := Marks.add s.dev.patSeen (lineNo a.toNat)
      if seen.length < s.dev.patinaLines then t.dev.patSeen = seen ∧ t.dev.obj = s.dev.obj
      else t.dev.patSeen = [] ∧ t.dev.o 0 0x9010 5 = (s.dev.o 0 0x9010 5 + 1) % 2 ^ oWidth 0x9010 5 := by
  have hexec := exec_patinaScrub a [] s hr hb
  generalize (s.dev.scrubGate (a.toNat / 64 * 64)).key = key at hexec
  rw [((Run.start s).burst key).scrubLine_here _ _ hidle.txns hg hs ht, Run.each_nil, ite_self, lineNo_align] at hexec
  exact Answers.of_requestDone _ hexec (hidle.calm.of_waiting (Run.sawLine_waiting ..))
    ⟨((Run.start s).mod_sameBytes _).trans (Run.sawLine_sameBytes ..), ((Run.start s).burst key).sawLine_counts (lineNo a.toNat)⟩

/-- An error that cannot be corrected poisons the line (R405, R414). -/
theorem patinaScrub_lost_answers (a : BitVec 64) (i : Fin 1024) (n : Nat) (row : BitVec 32) (x : GEnt) (s : State) (hidle : s.dev.Idle)
    (hr : s.dev.ready = true) (_ha : a.toNat < 2 ^ 62) (hg : s.dev.g? (a.toNat / 64 * 64) = some x) (hs : x.state = 0) (ht : x.tier = 1)
    (_hp : x.prot = false) (hgood : (s.lineAt a.toNat).poison = false) (hn : 2 < n)
    (hb : s.dev.mayBurst (s.dev.scrubGate (a.toNat / 64 * 64)).key = true) :
    Answers (.patinaScrub a [.hbmBytes i n row]) s fun t => t.lineAt a.toNat = bad ∧ OnlyLine s t (lineNo a.toNat) := by
  have hexec := exec_patinaScrub a [.hbmBytes i n row] s hr hb
  generalize (s.dev.scrubGate (a.toNat / 64 * 64)).key = key at hexec
  have hbytes : SameBytes s ((Run.start s).burst key).cur := (Run.start s).mod_sameBytes _
  have hhome : (((Run.start s).burst key).home (a.toNat / 64 * 64)).poison = false := by
    rw [← hgood, Run.home, lineNo_align]
    rfl
  have hlost := ((Run.start s).burst key).uncorrectable_lost (a.toNat / 64 * 64) n row.toNat hidle.dir hidle.txns hg hs (by omega)
  rw [((Run.start s).burst key).scrubLine_here _ _ hidle.txns hg (by omega) (by omega), hhome, if_neg Bool.false_ne_true, Run.each_cons,
    Run.each_nil, Run.found_hbm_uncorrectable _ _ _ _ _ hn, lineNo_align] at hexec
  rw [lineNo_align] at hlost
  generalize ((Run.start s).burst key).uncorrectable _ 1 n row.toNat true = r at *
  obtain ⟨hbad, honly, hcalm⟩ := hlost
  have hq : r.d.Calm := hcalm (hidle.calm.of_waiting rfl)
  have hsaw := r.sawLine_sameBytes (lineNo a.toNat)
  exact Answers.of_requestDone _ hexec (hq.of_waiting (Run.sawLine_waiting ..))
    ⟨(hsaw.lineAt _).trans hbad, (hbytes.onlyLine honly).sameBytes hsaw⟩

/-- Flash patina brings a block that needed the ladder into the cache, to be moved, and poisons one that it could not read (R415, R407). -/
theorem flashPatina_answers (k : BitVec 48) (step : Fin 8) (loc : BitVec 64) (x : GEnt) (s : State) (hidle : s.dev.Idle)
    (hr : s.dev.ready = true) (hdeep : s.dev.deep = []) (hframes : s.dev.frames = []) (hg : s.dev.gran.get? (k.toNat / 128) = some x)
    (ht : x.tier = 2) (hs : x.state ≠ 2) :
    Answers (.flashPatina k step loc) s fun t => t.flash = s.flash ∧ t.fbad = s.fbad
      ∧ if step = 0 then SameBytes s t ∧ t.dev.frames = []
        else t.dev.frames = [(k.toNat, { valid := BitVec.allOnes 256, dirty := BitVec.allOnes 256, used := s.dev.now })]
          ∧ ∀ l, t.stored .mem l = if l / 256 = k.toNat then (if step = 7 then bad else s.stored .flash l) else s.stored .mem l := by
  have hexec := exec_flashPatina k step loc s hr
  obtain ⟨sev, hscrub⟩ := (Run.start s).scrubBlock_flash k.toNat step loc.toNat hidle.fills hdeep hg ht hs
  rw [hscrub] at hexec
  have ladder := (Run.start s).ladder_ended k.toNat (min step 6) sev loc.toNat true
  generalize (Run.start s).ladder k.toNat (min step 6) sev loc.toNat true = r at *
  have hframes₁ : r.d.frames = [] := ladder.frames.trans hframes
  have hcalm : r.d.Calm := ladder.calm hidle.calm
  have hcached : ∀ (t : Run s) (f : Nat → DLine), BlockCached r.cur t.cur k.toNat f → (∀ l, f l = if step = 7 then bad else s.stored .flash l) →
      t.d.Calm ∧ t.cur.flash = s.flash ∧ t.cur.fbad = s.fbad
        ∧ t.cur.dev.frames = [(k.toNat, { valid := BitVec.allOnes 256, dirty := BitVec.allOnes 256, used := s.dev.now })]
        ∧ ∀ l, t.cur.stored .mem l = if l / 256 = k.toNat then (if step = 7 then bad else s.stored .flash l) else s.stored .mem l :=
    fun t f cached hf => by
      refine ⟨hcalm.of_waiting cached.waiting, cached.flash.trans ladder.bytes.flash, cached.fbad.trans ladder.bytes.fbad, ?_, fun l => ?_⟩
      · rw [cached.frames, ladder.now]
        rfl
      · rw [cached.lines, hf, ladder.bytes.stored]
        rfl
  by_cases h0 : step = 0
  · have hstep : step.val = 0 := by rw [h0]; rfl
    rw [if_pos hstep] at hexec
    refine Answers.of_close _ hexec hcalm ⟨ladder.bytes.flash, ladder.bytes.fbad, ?_⟩
    rw [if_pos h0]
    exact ⟨ladder.bytes, hframes₁⟩
  · have hstep : step.val ≠ 0 := fun h => h0 (Fin.ext h)
    rw [if_neg hstep] at hexec
    by_cases h7 : step = 7
    · have hlast : ¬ step.val ≤ 6 := by rw [h7]; decide
      rw [if_neg hlast] at hexec
      obtain ⟨q, hflash, hfbad, hlines⟩ := hcached _ _ (r.blockLost_first k.toNat hframes₁) fun l => (if_pos h7).symm
      refine Answers.of_close _ hexec q ⟨hflash, hfbad, ?_⟩
      rwa [if_neg h0]
    · have hread : step.val ≤ 6 := by
        have hne : step.val ≠ 7 := fun h => h7 (Fin.ext h)
        omega
      rw [if_pos hread] at hexec
      obtain ⟨q, hflash, hfbad, hlines⟩ := hcached _ _ (r.installBlock_first k.toNat hframes₁) fun l => by
        rw [if_neg h7, ladder.bytes.stored]
        rfl
      refine Answers.of_close _ hexec q ⟨hflash, hfbad, ?_⟩
      rwa [if_neg h0]

end Sys2Proof.Machine
end

section
/-! PROOFS. Test commands, calibration and adaptation (R432, R434). -/
namespace Sys2Proof.Machine

/-! ### Slots that failed their test -/

/-- `b` is `a` after slots of DRAM were retired and recorded (R49). -/
structure SlotsRetired (a b : State) : Prop where
  bytes : SameBytes a b
  obj : ∀ k, sideKey k = false → b.dev.obj.get? k = a.dev.obj.get? k
  calm : a.dev.Calm → b.dev.Calm
  ses : b.dev.ses = a.dev.ses
  eids : b.dev.eids = a.dev.eids
  count : b.dev.slotCount 1 = a.dev.slotCount 1
  kept : ∀ x ∈ a.dev.badSlots, x ∈ b.dev.badSlots
  used : ∀ k ∈ b.dev.usedSlots 1, k ∈ a.dev.usedSlots 1 ∨ (1, k) ∈ b.dev.badSlots

theorem SlotsRetired.refl (a : State) : SlotsRetired a a :=
  ⟨.refl a, fun _ _ => rfl, id, rfl, rfl, rfl, fun _ h => h, fun _ h => .inl h⟩

theorem SlotsRetired.trans {a b c : State} (h : SlotsRetired a b) (k : SlotsRetired b c) : SlotsRetired a c where
  bytes := h.bytes.trans k.bytes
  obj := fun x hx => (k.obj x hx).trans (h.obj x hx)
  calm := k.calm ∘ h.calm
  ses := k.ses.trans h.ses
  eids := k.eids.trans h.eids
  count := k.count.trans h.count
  kept := fun x hx => k.kept x (h.kept x hx)
  used := fun x hx => (k.used x hx).elim (fun hb => (h.used x hb).imp_right (k.kept _)) .inr

/-- An object that no retirement changes. -/
theorem SlotsRetired.o {a b : State} (h : SlotsRetired a b) {i x u : Nat} (hk : sideKey (okey i x u) = false) : b.dev.o i x u = a.dev.o i x u := by
  unfold Dev.o; rw [h.obj _ hk]

/-- A retired slot is in use, as are those in use before. -/
theorem Dev.mem_usedSlots_retired (d : Dev) (k j : Nat) :
    j ∈ ({ d with badSlots := (1, k) :: d.badSlots } : Dev).usedSlots 1 ↔ j = k ∨ j ∈ d.usedSlots 1 := by
  unfold Dev.usedSlots
  refine List.mem_append.trans (Iff.trans ?_ (or_congr_right List.mem_append.symm))
  rw [List.filter_cons_of_pos (by rfl), List.map_cons, List.mem_cons]
  exact or_left_comm

section
variable {s₀ : State}

/-- A slot is retired where it is one of the tier that nothing uses. -/
theorem Run.retireSlot_retired (r : Run s₀) (k : Nat) :
    SlotsRetired r.cur (r.retireSlot 1 k).cur
      ∧ (k < r.d.slotCount 1 → k ∉ r.d.usedSlots 1 → (1, k) ∈ (r.retireSlot 1 k).cur.dev.badSlots) := by
  unfold Run.retireSlot
  split
  · rename_i h
    refine ⟨.refl _, fun hk hu => ?_⟩
    simp only [Bool.or_eq_true, decide_eq_true_eq, List.contains_iff_mem] at h
    exact absurd h (by rw [not_or, Nat.not_le]; exact ⟨hk, hu⟩)
  · have side := r.error_side (mkErr 0x0C 1 7 0 none 0 (1 + 2 ^ 32 * k) 0)
    generalize r.error _ = r₁ at side
    refine ⟨?_, fun _ _ => List.mem_cons_self⟩
    constructor
    case bytes => exact side.sameBytes.trans (Run.mod_sameBytes ..)
    case obj => exact side.obj
    case calm => exact fun q => (side.calm q).of_waiting rfl
    case ses => exact (congrArg (·.ses) side.dev).trans rfl
    case eids => exact (congrArg (·.eids) side.dev).trans rfl
    case count =>
      have hcache : r₁.cur.dev.o 0 0x4080 1 = r.cur.dev.o 0 0x4080 1 := side.o (by rw [sideKey_okey] <;> decide)
      have hsplit : r₁.cur.dev.split = r.cur.dev.split := by rw [side.dev]
      show r₁.cur.dev.slotCount 1 = _
      simp only [Dev.slotCount, hcache, hsplit]
    case kept =>
      intro x hx
      refine List.mem_cons_of_mem _ ?_
      rw [side.dev]
      exact hx
    case used =>
      intro j hj
      rcases (r₁.cur.dev.mem_usedSlots_retired k j).1 hj with rfl | hj
      · exact .inr List.mem_cons_self
      · rw [side.dev] at hj
        exact .inl hj

/-- Of the slots that failed, each that nothing uses is retired. -/
theorem Run.each_retireSlot (r : Run s₀) (ks : List Nat) :
    SlotsRetired r.cur (r.each ks fun r t => r.retireSlot 1 t).cur
      ∧ ∀ k ∈ ks, k < r.d.slotCount 1 → k ∉ r.d.usedSlots 1 → (1, k) ∈ (r.each ks fun r t => r.retireSlot 1 t).cur.dev.badSlots := by
  induction ks generalizing r with
  | nil => exact ⟨.refl _, by simp⟩
  | cons k ks ih =>
    rw [Run.each_cons]
    obtain ⟨hfirst, hk⟩ := r.retireSlot_retired k
    obtain ⟨hrest, hks⟩ := ih (r.retireSlot 1 k)
    refine ⟨hfirst.trans hrest, fun j hj hlt hfree => ?_⟩
    rcases List.mem_cons.1 hj with rfl | hj
    · exact hrest.kept _ (hk hlt hfree)
    · by_cases hused : j ∈ (r.retireSlot 1 k).cur.dev.usedSlots 1
      · exact hrest.kept _ ((hfirst.used j hused).resolve_left hfree)
      · exact hks j hj (hfirst.count ▸ hlt) hused

end

/-! ### The test command's object -/

/-- A test command that is taken at an idle desk is answered `OK`, and nothing but the desk moves after it (R434). -/
theorem testCommand_answers {c : Instr} {s : State} (ses : Session) (v : Nat) (x : NyX) (h : s.dev.Desk ses (wr 0x1040 2 v))
    (hv : 1 ≤ v ∧ v ≤ 4) (hexec : exec c s = (Run.start s).session ses (wr 0x1040 2 v) x) {r : Run s}
    (htest : (Run.start s).testCommand v x.found x.failed = (.ok, r)) (hses : r.d.ses = s.dev.ses) (heids : r.d.eids = s.dev.eids)
    (hvendor : r.d.o 0 0x1000 2 = s.dev.o 0 0x1000 2) (q : r.d.Calm) :
    Answers c s fun t => Replied s t ses (wr 0x1040 2 v) ∧ AtDesk r.cur t := by
  have hval : ∀ v < 5, 1 ≤ v → (oRow? 0x1040 2).any (·.takes v) = true := by decide +kernel
  have hwrite : (Run.start s).oWrite (sesNum ses) ((Run.start s).d.instOf (sesNum ses) 0x1040) 0x1040 2 v x false = (.done .ok 0 [], r) := by
    show ruled ((Run.start s).testCommand v x.found x.failed) = _
    rw [htest]
    rfl
  have hreq := (Run.start s).nyReq_write ses 0x1040 2 v x h (hval v (by omega) hv.1) (by decide) hwrite rfl hses
  have hdesk := r.nyDone_atDesk (sesNum ses) (wr 0x1040 2 v)
  exact Answers.of_requestDone _ (by rw [hexec, Run.session, hreq]) (hdesk.calm q) ⟨r.nyDone_sends ses _ heids hvendor, hdesk⟩

section
variable {s₀ : State} (r : Run s₀) (found : List (Nat × Finding)) (failed : List Nat) (h : r.d.o 0 0x1040 2 = 0)
include h

/-- `KATNOW` asks every slice that can for a run, where there is one. -/
theorem Run.testCommand_katnow (hfixed : r.d.standbyFixed 0 = false) (hquar : r.d.quar = []) :
    r.testCommand 1 found failed = (.ok, (r.setO 0 0x1040 2 1).mod fun d =>
      { d with bring := { d.bring with katDue := (List.range 256).filter fun k => !r.d.standbyFixed k, katFail := false } }) := by
  have hdue : (List.range 256).filter (fun k => !r.d.standbyFixed k && !r.d.quar.has k) = (List.range 256).filter fun k => !r.d.standbyFixed k := by
    rw [hquar]
    simp [Tab.has]
  have hsome : ((List.range 256).filter fun k => !r.d.standbyFixed k).isEmpty = false :=
    List.isEmpty_eq_false_iff.2 (List.ne_nil_of_mem (List.mem_filter.2 ⟨List.mem_range.2 (by decide : 0 < 256), by rw [hfixed]; rfl⟩))
  show (if _ then _ else if _ then _ else _) = _
  rw [h, if_neg (by decide), hdue, hsome, if_neg Bool.false_ne_true]

/-- `SCRUB` of a range in which nothing was found. -/
theorem Run.testCommand_scrub_nil (hn : r.d.o 0 0x1040 5 ≠ 0) : r.testCommand 2 [] failed = (.ok, r.setO 0 0x1040 3 0) := by
  show (if _ then _ else if _ then _ else _) = _
  rw [h, if_neg (by decide), if_neg (by simpa using hn), List.filter_nil, Run.each_nil]
  rfl

/-- `MEMTEST` of the free slots: those that failed are retired. -/
theorem Run.testCommand_memtest (ha : r.d.o 0 0x1040 4 = 0) :
    r.testCommand 3 found failed = (.ok, (r.each failed fun r t => r.retireSlot 1 t).setO 0 0x1040 3 (if failed = [] then 0 else 5)) := by
  show (if _ then _ else if _ then _ else if _ then _ else _) = _
  rw [h, ha, if_neg (by decide), if_neg (by simp), if_neg (by simp)]
  cases failed <;> rfl

/-- `RETRAIN` is denied. -/
theorem Run.testCommand_retrain : r.testCommand 4 found failed = (.ok, r.setO 0 0x1040 3 10) := by
  show (if _ then _ else _) = _
  rw [h, if_neg (by decide)]
  rfl

end

/-! ### The commands -/

theorem exec_katnow (ses : Session) (s : State) : exec (.katnow ses) s = (Run.start s).session ses (wr 0x1040 2 1) := rfl

theorem exec_scrub_nil (ses : Session) (s : State) : exec (.scrub ses []) s = (Run.start s).session ses (wr 0x1040 2 2) := rfl

theorem exec_memtest (ses : Session) (failed : List (BitVec 32)) (s : State) :
    exec (.memtest ses failed) s = (Run.start s).session ses (wr 0x1040 2 3) { failed := failed.map BitVec.toNat } := rfl

theorem exec_retrain (ses : Session) (s : State) : exec (.retrain ses) s = (Run.start s).session ses (wr 0x1040 2 4) := rfl

/-- `KATNOW` asks every slice that can for a run (R434). -/
theorem katnow_answers (ses : Session) (s : State) (h : s.dev.Desk ses (wr 0x1040 2 1)) (hfree : s.dev.o 0 0x1040 2 = 0)
    (hfixed : s.dev.standbyFixed 0 = false) (hquar : s.dev.quar = []) :
    Answers (.katnow ses) s fun t => Replied s t ses (wr 0x1040 2 1) ∧ t.dev.o 0 0x1040 2 = 1 ∧ SameBytes s t
      ∧ t.dev.bring.katDue = (List.range 256).filter fun k => !s.dev.standbyFixed k := by
  refine (testCommand_answers ses 1 {} h (by decide) (exec_katnow ses s) ((Run.start s).testCommand_katnow _ _ hfree hfixed hquar) rfl rfl
    ((Run.start s).setO_o_ne 0 0x1040 2 1 0 0x1000 2 (by decide)) (h.calm.of_waiting rfl)).mono ?_
  rintro t ⟨hreply, hdesk⟩
  refine ⟨hreply, (hdesk.o ..).trans ((Run.start s).setO_o_self ..),
    (((Run.start s).setO_sameBytes ..).trans (Run.mod_sameBytes ..)).trans hdesk.bytes, ?_⟩
  obtain ⟨_, _, _, _, hdev⟩ := hdesk.dev
  rw [hdev]
  rfl

/-- A test command that only sets its outcome. -/
theorem testCommand_outcome_answers {c : Instr} {s : State} (ses : Session) (v n : Nat) (x : NyX) (h : s.dev.Desk ses (wr 0x1040 2 v))
    (hfree : s.dev.o 0 0x1040 2 = 0) (hv : 1 ≤ v ∧ v ≤ 4) (hexec : exec c s = (Run.start s).session ses (wr 0x1040 2 v) x)
    (htest : (Run.start s).testCommand v x.found x.failed = (.ok, (Run.start s).setO 0 0x1040 3 n)) :
    Answers c s fun t => Replied s t ses (wr 0x1040 2 v) ∧ t.dev.o 0 0x1040 2 = 0 ∧ t.dev.o 0 0x1040 3 = n ∧ SameBytes s t := by
  refine (testCommand_answers ses v x h hv hexec htest rfl rfl ((Run.start s).setO_o_ne 0 0x1040 3 n 0 0x1000 2 (by decide))
    (h.calm.of_waiting rfl)).mono ?_
  rintro t ⟨hreply, hdesk⟩
  exact ⟨hreply, (hdesk.o ..).trans (((Run.start s).setO_o_ne 0 0x1040 3 n 0 0x1040 2 (by decide)).trans hfree),
    (hdesk.o ..).trans ((Run.start s).setO_o_self ..), ((Run.start s).setO_sameBytes ..).trans hdesk.bytes⟩

/-- `SCRUB` in which nothing was found completes (R434). -/
theorem scrub_nil_answers (ses : Session) (s : State) (h : s.dev.Desk ses (wr 0x1040 2 2)) (hfree : s.dev.o 0 0x1040 2 = 0)
    (hn : s.dev.o 0 0x1040 5 ≠ 0) :
    Answers (.scrub ses []) s fun t => Replied s t ses (wr 0x1040 2 2) ∧ t.dev.o 0 0x1040 2 = 0 ∧ t.dev.o 0 0x1040 3 = 0 ∧ SameBytes s t :=
  testCommand_outcome_answers ses 2 0 {} h hfree (by decide) (exec_scrub_nil ses s) ((Run.start s).testCommand_scrub_nil _ hfree hn)

/-- `RETRAIN` is answered, with `DENIED` as its outcome (R434). -/
theorem retrain_answers (ses : Session) (s : State) (h : s.dev.Desk ses (wr 0x1040 2 4)) (hfree : s.dev.o 0 0x1040 2 = 0) :
    Answers (.retrain ses) s fun t => Replied s t ses (wr 0x1040 2 4) ∧ t.dev.o 0 0x1040 2 = 0 ∧ t.dev.o 0 0x1040 3 = 10 ∧ SameBytes s t :=
  testCommand_outcome_answers ses 4 10 {} h hfree (by decide) (exec_retrain ses s) ((Run.start s).testCommand_retrain _ _ hfree)

/-- `MEMTEST` completes, and a free slot that failed is retired (R434, R49). -/
theorem memtest_answers (ses : Session) (failed : List (BitVec 32)) (s : State) (h : s.dev.Desk ses (wr 0x1040 2 3))
    (hfree : s.dev.o 0 0x1040 2 = 0) (ha : s.dev.o 0 0x1040 4 = 0) :
    Answers (.memtest ses failed) s fun t => Replied s t ses (wr 0x1040 2 3) ∧ SameBytes s t
      ∧ t.dev.o 0 0x1040 3 = (if failed = [] then 0 else 5)
      ∧ ∀ k ∈ failed, k.toNat < s.dev.slotCount 1 → k.toNat ∉ s.dev.usedSlots 1 → (1, k.toNat) ∈ t.dev.badSlots := by
  have htest := (Run.start s).testCommand_memtest [] (failed.map BitVec.toNat) hfree ha
  obtain ⟨hretired, hslots⟩ := (Run.start s).each_retireSlot (failed.map BitVec.toNat)
  generalize (Run.start s).each (failed.map BitVec.toNat) (fun r t => r.retireSlot 1 t) = r at *
  have hvendor : r.d.o 0 0x1000 2 = s.dev.o 0 0x1000 2 := hretired.o (by rw [sideKey_okey] <;> decide)
  refine (testCommand_answers ses 3 _ h (by decide) (exec_memtest ses failed s) htest hretired.ses hretired.eids
    ((r.setO_o_ne 0 0x1040 3 _ 0 0x1000 2 (by decide)).trans hvendor) ((r.setO_onlyObjects ..).calm (hretired.calm h.calm))).mono ?_
  rintro t ⟨hreply, hdesk⟩
  refine ⟨hreply, (hretired.bytes.trans (r.setO_sameBytes ..)).trans hdesk.bytes, ?_, fun k hk hlt hunused => ?_⟩
  · rw [hdesk.o, Run.setO_o_self]
    simp only [List.map_eq_nil_iff]
  · obtain ⟨_, _, _, _, hdev⟩ := hdesk.dev
    rw [hdev]
    exact hslots _ (List.mem_map_of_mem hk) hlt hunused

theorem exec_hbm4PeriodicCalibration (ch : Fin 256) (s : State) (hr : s.dev.ready = true) :
    exec (.hbm4PeriodicCalibration ch) s = if s.dev.mayBurst (Gate.hbm ch).key = true then
      (((Run.start s).burst (Gate.hbm ch).key).mod fun d => { d with calAt := d.calAt.set ch d.now }).close else .next s := by
  show (if _ then _ else _) = _
  rw [hr]
  cases s.dev.mayBurst (Gate.hbm ch).key <;> rfl

theorem exec_portLaneAdaptation (p : Fin 16) (s : State) (hr : s.dev.ready = true) :
    exec (.portLaneAdaptation p) s = if s.dev.mayBurst (Gate.portIn p).key = true ∧ s.dev.mayBurst (Gate.portOut p).key = true then
      ((((Run.start s).burst (Gate.portIn p).key).burst (Gate.portOut p).key).updLink p fun l => { l with adaptAt := s.dev.now }).close
      else .next s := by
  show (if _ then _ else _) = _
  rw [hr]
  cases s.dev.mayBurst (Gate.portIn p).key <;> cases s.dev.mayBurst (Gate.portOut p).key <;> rfl

/-- Calibration of a channel changes nothing but when it was last done, and starts no burst within 2 µs of the last one (R432, R94). -/
theorem hbm4PeriodicCalibration_answers (ch : Fin 256) (s : State) (hidle : s.dev.Idle) (hr : s.dev.ready = true) :
    Answers (.hbm4PeriodicCalibration ch) s fun t => if s.dev.mayBurst (Gate.hbm ch).key = true then
        t.dev = { s.dev with calAt := t.dev.calAt, bursts := t.dev.bursts } ∧ t.dev.calAt.get? ch.val = some s.dev.now
          ∧ t.dev.bursts.get? (Gate.hbm ch).key = some s.dev.now ∧ SameBytes s t
      else t = s := by
  have hexec := exec_hbm4PeriodicCalibration ch s hr
  by_cases hburst : s.dev.mayBurst (Gate.hbm ch).key = true
  · rw [if_pos hburst] at hexec
    simp only [if_pos hburst]
    exact Answers.of_close _ hexec (hidle.calm.of_waiting rfl)
      ⟨rfl, Tab.get?_set_self .., Tab.get?_set_self .., ((Run.start s).mod_sameBytes _).trans (Run.mod_sameBytes ..)⟩
  · rw [if_neg hburst] at hexec
    simp only [if_neg hburst]
    exact ⟨s, hexec, rfl⟩

/-- Adaptation of a port's lanes changes nothing but when it was last done, and starts no burst within 2 µs of the last one of either
direction (R432, R94). -/
theorem portLaneAdaptation_answers (p : Fin 16) (s : State) (hidle : s.dev.Idle) (hr : s.dev.ready = true) :
    Answers (.portLaneAdaptation p) s fun t =>
      if s.dev.mayBurst (Gate.portIn p).key = true ∧ s.dev.mayBurst (Gate.portOut p).key = true then
        t.dev = { s.dev with links := t.dev.links, bursts := t.dev.bursts } ∧ (t.dev.link p.val).adaptAt = s.dev.now
          ∧ t.dev.bursts.get? (Gate.portIn p).key = some s.dev.now ∧ t.dev.bursts.get? (Gate.portOut p).key = some s.dev.now ∧ SameBytes s t
      else t = s := by
  have hexec := exec_portLaneAdaptation p s hr
  have hkeys : (Gate.portOut p).key ≠ (Gate.portIn p).key := by simp only [Gate.key]; omega
  by_cases hburst : s.dev.mayBurst (Gate.portIn p).key = true ∧ s.dev.mayBurst (Gate.portOut p).key = true
  · rw [if_pos hburst] at hexec
    simp only [if_pos hburst]
    refine Answers.of_close _ hexec (hidle.calm.of_waiting rfl) ⟨rfl, congrArg Link.adaptAt (Tab.getD_set_self ..),
      (Tab.get?_set_ne _ _ hkeys).trans (Tab.get?_set_self ..), Tab.get?_set_self ..,
      (((Run.start s).mod_sameBytes _).trans (Run.mod_sameBytes ..)).trans (Run.mod_sameBytes ..)⟩
  · rw [if_neg hburst] at hexec
    simp only [if_neg hburst]
    exact ⟨s, hexec, rfl⟩

end Sys2Proof.Machine

open Sys2Proof Sys2Proof.Machine

/-- Settles O55, clause by clause: patina of a sound line and of one that is lost, flash patina, the four test commands, calibration
and adaptation. -/
theorem upkeepCommands : Obligations.UpkeepCommands :=
  ⟨patinaScrub_sound_answers, patinaScrub_lost_answers, flashPatina_answers, katnow_answers, scrub_nil_answers, memtest_answers,
    retrain_answers, hbm4PeriodicCalibration_answers, portLaneAdaptation_answers⟩
end

section
/-! PROOFS. A link that the count of its flits has not caught up with (R184), which the statements on streams and on counters do not shut out. -/
namespace Sys2Proof.Machine

open Sys2Proof.Tests (mkSt prt hS hG)

/-- What a command's next state has sent, newest first. -/
def outsOf (c : Instr) (s : State) : List Out := match exec c s with | .next t => t.out | _ => []

/-- What a command sends stands among what its next state has sent. -/
theorem Answers.mem_outsOf {c : Instr} {s : State} {P : State → Prop} {o : Out} (h : Answers c s P) (hs : ∀ t, P t → Sends s t o) :
    o ∈ outsOf c s := by
  obtain ⟨t, hexec, hP⟩ := h
  obtain ⟨new, hout, hmem⟩ := hs t hP
  have houts : outsOf c s = t.out := by rw [outsOf, hexec]
  rw [houts, hout]
  exact List.mem_append_left _ hmem

/-- A link that came up at a count above 2^64, which no training gives: `Dev.nextOut` is 0 until 0x3040:08 passes 3,000, and again once that
wraps. -/
def aheadLink : Link := { nextOut := 2 ^ 64 + 3000, oldest := 1095 }

/-- Port 3 of role 1 with that link, 0x3040:08 at its last value. -/
def aheadDev : Dev := { prt 1 with obj := (okey 3 0x3040 8, 2 ^ 64 - 1) :: (prt 1).obj, links := [(3, aheadLink)] }

/-- The next flit's number is 1,095, the one the link waits for: 2,047 flits may leave. The number after it is 0, and none may. -/
theorem aheadDev_linkFree : aheadDev.LinkFree 3 := Tests.linkFree_of (by decide +kernel)

theorem aheadDev_quiet : aheadDev.Quiet := Tests.quiet_of (by decide +kernel)

/-- A `WAIT` of the attached device gives its flit credit back, and its answer stays in the queue. -/
theorem aheadDev_wait_outs : outsOf (.syncWait (.port 3 hS)) (mkSt aheadDev) = [.flitCredits 3 0 1] := by decide +kernel

/-- A request of partition 0 for device 9, number 6 of this device. -/
def aheadReq : Req := { code := 2, h := { hG with dstdev := 9, reqid := 6 } }

/-- The stream of agent 5 to device 9, on port 3, with that request unacknowledged. -/
def aheadSend : SendS := { port := 3, unacked := [(1, aheadReq)] }

/-- What the request came from: number 77 of the device attached to port 3. -/
def aheadOrig : Orig := { req := aheadReq, src := .ident 3 0, dst := 9, reply := .port 3 0 0 77, strm := 0 }

/-- Port 3 with that stream. -/
def aheadStream : State := mkSt { aheadDev with sends := [(sKey 5 9 none, aheadSend)], origs := [(6, aheadOrig)] }

theorem aheadStream_quiet : aheadStream.dev.Quiet := Tests.quiet_of (by decide +kernel)

/-- A reset of the stream gives the request's credit back, and its `INDET` stays in the queue. -/
theorem aheadStream_reset_outs : outsOf (.streamReset 3 { dev := 0, agent := 5 } 9) aheadStream = [.reqCredits 3 0 1] := by decide +kernel

end Sys2Proof.Machine

open Sys2Proof Sys2Proof.Machine

/-- Refutes O28: `LinkFree` promises room for the first flit of a command only. On a link whose first flit has a number above 2^64, the count of
flits sent is cut off at 0 and falls when 0x3040:08 wraps; the credit that a stream's reset gives back is that first flit, and the `INDET`
after it waits for room. The clause would need the link's number to be below 2^64, as training leaves it. -/
theorem not_streamsKeepOrder : ¬ Obligations.StreamsKeepOrder := by
  rintro ⟨-, -, -, -, -, -, -, hreset⟩
  have hanswers := hreset 3 { dev := 0, agent := 5 } 9 aheadSend 1 aheadReq aheadOrig 0 0 0 77 aheadStream aheadStream_quiet
    (by decide +kernel) rfl (by decide) rfl (by decide +kernel) rfl (by decide +kernel) (by decide +kernel) rfl rfl rfl rfl
    (Tests.linkFree_of (by decide +kernel))
  have hsent := hanswers.mem_outsOf fun t h => h.1
  rw [aheadStream_reset_outs] at hsent
  simp at hsent

/-- Refutes O30 on the same link: a port's `WAIT` gives a flit credit back before its `FAULT`, and the `FAULT` waits for room. -/
theorem not_portCounters : ¬ Obligations.PortCounters := by
  rintro ⟨-, -, -, -, -, -, hwait⟩
  have hanswers := hwait 3 Tests.hS (Tests.mkSt aheadDev) aheadDev_quiet (by decide +kernel) (by decide +kernel) (by decide +kernel)
    (by decide +kernel) aheadDev_linkFree
  have hsent := hanswers.mem_outsOf fun t h => h.1
  rw [aheadDev_wait_outs] at hsent
  simp [portAnswer] at hsent
end

section
/-! PROOFS. A doorbell counter that a second queue names (R143, R216). -/
namespace Sys2Proof.Machine

/-- Queue 1 of partition 0 runs on counter 5 with a ring of one entry, its next descriptor number 3; the error event of partition 0 adds to
counter 5. -/
def sharedBell : State := Tests.mkSt { Tests.dk [(0, 0x6041, 1, 0x1000), (0, 0x6041, 2, 1), (0, 0x6041, 7, 5), (0, 0x6041, 0x0A, 3),
  (0, 0x6041, 0x0D, 1), (0, 0x6060, 0x13, 3 + 5 * 2 ^ 29)] with ctrs := [(5, { value := 3, mode := 2 })] }

/-- The host may write queue 0's doorbell counter. -/
theorem sharedBell_desk : sharedBell.dev.Desk .pf (wr 0x6040 7 5) := Tests.desk_of (Tests.quiet_of (by decide +kernel)) (by decide +kernel)

/-- Once counter 5 is 0 again, queue 1 has 2^32 − 3 descriptors pending: it overruns, and the event of its record adds 1 to the counter. -/
theorem sharedBell_write_value :
    Tests.next (.doorbellCounterWrite .pf 0 5) sharedBell (fun t => (t.dev.ctr 5).value == 1) = true := by decide +kernel

end Sys2Proof.Machine

open Sys2Proof Sys2Proof.Machine

/-- Refutes O46: a doorbell counter that is set to VALUE 0 need not stay 0 within the command. Where another running queue of the partition names
it, that queue overruns (R216), and the partition's error event may go to the same counter (R349) and add 1 to it. The clause would need
`doorbells` to be empty, as those on counter operations have it. -/
theorem not_partitionObjects : ¬ Obligations.PartitionObjects := by
  rintro ⟨-, -, -, -, -, hdoorbell, -⟩
  obtain ⟨t, hexec, -, -, hzero, -⟩ := hdoorbell .pf 0 5 0 sharedBell sharedBell_desk (by decide +kernel) (by decide +kernel) (by decide)
    (by decide +kernel) (by decide +kernel)
  have hone := sharedBell_write_value
  rw [Tests.next, hexec] at hone
  have hvalue : (t.dev.ctr 5).value = 1 := by simpa using hone
  exact absurd (hvalue.symm.trans hzero) (by decide)
end

section
/-! PROOFS. A round of the one cluster that holds a line changed (R170, Tables 6-5, 6-6). -/
namespace Sys2Proof.Machine

/-- Of two settings of a key the second stays. -/
@[simp] theorem Tab.set_set {α : Type} (t : Tab α) (k : Nat) (v w : α) : (t.set k v).set k w = t.set k w := by
  induction t with
  | nil => simp [Tab.set]
  | cons e t ih =>
    obtain ⟨j, u⟩ := e
    by_cases hj : j = k
    · simp [Tab.set, hj]
    · by_cases hlt : k < j
      · simp [Tab.set, hj, hlt]
      · simp [Tab.set, hj, hlt, ih]

/-- The transaction of such a round: the cluster has answered with its line. -/
def heldTxn (k : TKind) (began : Nat) (pair : Option Nat) (op : Nat) (src : Src) (x : Line) : Txn :=
  { kind := k, wait := [], owner := some (good x), wasM := true, began := began, pair := pair, op := op, src := src }

/-- What `CLEAN` leaves of the copy of cluster `k` that was changed: the same, exclusive. `INV` leaves none (Table 6-5). -/
def cleanedL2 (k l : Nat) (x : Line) (drop : Bool) : Tab L2E := if drop then [] else [(l2Key k l, ⟨.e, x⟩)]

/-- The snoop of a round that cleans a copy, or drops it. -/
def cleanOp (drop : Bool) : Nat := if drop then 0x29 else 0x2A

/-- What a cache-block operation asks of the home slice: the line read, or all of it dropped. -/
def cboOp (drop : Bool) : HOp := if drop then .part 0 bad else .read

section
variable {s₀ : State}

/-- Cluster `k` alone holds line `l`, changed, as the directory's one entry says, and no round is open. -/
structure Dev.HeldBy (d : Dev) (k l : Nat) (x : Line) (e : DirE) : Prop where
  cluster : k < 8
  active : d.agentState k = 1
  dir : d.dir = [(l, e)]
  owner : e.st = .dx
  first : e.p0 = k
  pointers : e.ovf = false ∧ e.p1 = 31 ∧ e.p2 = 31
  copy : d.l2 = [(l2Key k l, ⟨.m, x⟩)]
  txns : d.txns = []

/-- The holder is the one agent to ask. -/
theorem Dev.HeldBy.round {d : Dev} {k l : Nat} {x : Line} {e : DirE} (h : d.HeldBy k l x e) (drop : Bool) :
    d.round e 31 (cleanOp drop) false = [(k, cleanOp drop, false)] := by
  obtain ⟨hovf, hp1, hp2⟩ := h.pointers
  have hne : k ≠ 31 := by have := h.cluster; omega
  cases drop <;> simp [Dev.round, cleanOp, DirE.named, h.first, hovf, hp1, hp2, h.active, hne]

/-- An active holder leaves nothing to settle. -/
theorem Run.settle_held (r : Run s₀) {k l : Nat} {x : Line} {e : DirE} (h : r.d.HeldBy k l x e) : r.settle l = r := by
  have hget : r.d.dir.get? l = some e := by rw [h.dir, Tab.get?_single]
  unfold Run.settle
  rw [hget]
  dsimp only
  rw [h.owner, h.first, if_pos (by decide), if_neg (by simp [h.active])]

/-- The holder's answer closes the round's asking at once. -/
theorem Run.openTxn_held (r : Run s₀) {k l : Nat} {x : Line} {e : DirE} (h : r.d.HeldBy k l x e) (kind : TKind) (drop : Bool)
    (pair : Option Nat) (src : Src) : r.openTxn l kind [(k, cleanOp drop, false)] (cleanOp drop) pair src
      = r.mod fun d => { d with txns := [(l, heldTxn kind r.now pair (cleanOp drop) src x)], l2 := cleanedL2 k l x drop } := by
  refine Run.ext' ?_
  have hdir : r.cur.dev.dir = [(l, e)] := h.dir
  have hl2 : r.cur.dev.l2 = [(l2Key k l, ⟨.m, x⟩)] := h.copy
  have htxns : r.cur.dev.txns = [] := h.txns
  cases drop <;>
    simp [Run.openTxn, Run.clusterSnoop, Run.answer, Run.d, hdir, hl2, htxns, h.pointers.1, h.cluster, cleanOp, snoopStep, h.first, h.owner,
      Tab.set, Tab.upd, heldTxn, cleanedL2, Run.mod, Run.now]

/-- The end of a round for a cache-block operation: the data goes home, and the entry is freed where the copy is dropped (Table 6-6). -/
theorem Run.closeTxn_ready (r : Run s₀) {l began op : Nat} {src : Src} {x : Line} {e : DirE} (drop : Bool)
    (htxns : r.d.txns = [(l, heldTxn (.ready (cboOp drop)) began none op src x)]) (hdir : r.d.dir.get? l = some e) (he : e.st = .dx) :
    r.closeTxn l = if drop then ((r.mod fun d => { d with txns := [] }).putHome (l * 64) (good x)).setDir l none
      else (r.mod fun d => { d with txns := [] }).putHome (l * 64) (good x) := by
  have hget : r.d.txns.get? l = some (heldTxn (.ready (cboOp drop)) began none op src x) := by rw [htxns, Tab.get?_single]
  have hshut : (r.mod fun d => { d with txns := d.txns.del l }) = r.mod fun d => { d with txns := [] } :=
    Run.ext' (by simp [Run.mod, show r.cur.dev.txns = _ from htxns])
  unfold Run.closeTxn
  cases drop <;> simp [hget, heldTxn, cboOp, hdir, he, hshut]

end

end Sys2Proof.Machine
end

section
/-! PROOFS. Cache-block operations of a hart on a line that its own cluster holds changed (R157). -/
namespace Sys2Proof.Machine

/-- The device after the round of a line that cluster `k` held changed, its data home. -/
def Dev.cleaned (d : Dev) (k l : Nat) (x : Line) (drop : Bool) : Dev :=
  { d with txns := [], l2 := cleanedL2 k l x drop, dir := if drop then d.dir.del l else d.dir }

section
variable {s₀ : State}

/-- A line homed here in SRAM or placed DRAM, unprotected and at rest. -/
structure Dev.PlainHome (d : Dev) (l : Nat) (g : GEnt) : Prop where
  line : l < 2 ^ 56
  found : d.g? (l * 64) = some g
  tier : g.tier < 2
  state : g.state = 0
  prot : g.prot = false

/-- Its round brings the holder's data home, and drops the copy where the operation does. -/
theorem Run.roundOf_cbo (r : Run s₀) {k l : Nat} {x : Line} {e : DirE} {g : GEnt} (h : r.d.HeldBy k l x e) (p : r.d.PlainHome l g) (drop : Bool) :
    r.roundOf l (.ready (cboOp drop)) [(k, cleanOp drop, false)] (cleanOp drop) none = (r.mod (·.cleaned k l x drop)).setLine .mem l
      (good x) := by
  have hline : lineNo (l * 64) = l := by rw [Nat.mul_comm]; exact lineNo_line p.line
  have hget : r.d.dir.get? l = some e := by rw [h.dir, Tab.get?_single]
  rw [Run.roundOf, r.openTxn_held h]
  generalize hr₁ : r.mod _ = r₁
  have hg₁ : (r₁.mod fun d => { d with txns := [] }).d.g? (l * 64) = some g := hr₁ ▸ p.found
  have hhome := (r₁.mod fun d => { d with txns := [] }).putHome_plain (l * 64) (good x) hg₁ p.tier p.state p.prot
  have hdrop := ((r₁.mod fun d => { d with txns := [] }).setLine .mem l (good x)).setDir_none_plain l (g := g) hg₁ p.tier
  rw [r₁.closeTxn_ready drop (by rw [← hr₁]; rfl) (by rw [← hr₁]; exact hget) h.owner, hhome, hline, hdrop, ← hr₁]
  cases drop <;> rfl

/-! ### A hart's access -/

/-- The device while hart `h` makes an access. -/
def Dev.accessing (d : Dev) (h : Nat) (y : HAcc) : Dev :=
  { d with apDrain := d.apDrain.filter (· != h), harts := d.harts.set h { d.harts.getD h {} with pend := some y } }

/-- A hart that is free has no access under way. -/
theorem Dev.Quiet.hart_idle {d : Dev} (h : d.Quiet) (n : Nat) : (d.harts.getD n {}).pend = none := by
  rcases Tab.getD_mem d.harts n {} with e | ⟨x, hx, e⟩
  · rw [e]
  · rw [← e]; exact h.harts x hx

/-- A cache-block operation that starts finds its line by the aperture. -/
theorem Run.hartStart_cbo (r : Run s₀) {h part sa : Nat} {y : HAcc} (q : r.d.Quiet) (free : r.d.HartFree h part) (w : r.d.Window h y.pa sa false)
    (hkind : 3 ≤ y.kind) (hsa : y.sa = none) :
    r.hartStart h y = (r.mod (·.accessing h { y with sa := some sa })).hartCbo h { y with sa := some sa } sa := by
  obtain ⟨word, hword, hvalid, -, hsa'⟩ := w.entry
  have hstart : r.hartStart h y = (r.mod (·.accessing h y)).hartTry h := by
    unfold Run.hartStart
    rw [q.hart_idle, free.agent, free.ready, free.work, if_neg (by simp)]
    rfl
  have hown : (r.mod (·.accessing h y)).d.harts.getD h {} = { r.d.harts.getD h {} with pend := some y } := Tab.getD_set_self ..
  have hent : (r.mod (·.accessing h y)).apertEnt (h / 4) (bits y.pa 44 11) = (.word word, r.mod (·.accessing h y)) := by
    unfold Run.apertEnt
    rw [show (r.mod (·.accessing h y)).d.apert.get? (h / 4 * 2048 + bits y.pa 44 11) = some word from hword]
  have hagent : (r.mod (·.accessing h y)).d.agentState (h / 4) = 1 := free.agent
  have hready : (r.mod (·.accessing h y)).d.ready = true := free.ready
  have hwork : (r.mod (·.accessing h y)).d.noAdmit = false := free.work
  have hpart : (r.mod (·.accessing h y)).d.corePart (h / 4) (h % 4) = part := free.owner
  have hactive : (r.mod (·.accessing h y)).d.o part 0x6050 1 = 1 := free.active
  have hupd : ((r.mod (·.accessing h y)).updHart h fun z => { z with pend := some { y with sa := some sa } })
      = r.mod (·.accessing h { y with sa := some sa }) := Run.ext' (by simp [Run.mod, Run.updHart, Dev.accessing])
  rw [hstart]
  unfold Run.hartTry
  dsimp only
  rw [hown]
  dsimp only
  rw [free.credit, hagent, hready, hwork, hpart, hactive, if_neg (by simp), if_neg (by simp), if_neg (by have := w.below; omega), hsa]
  dsimp only
  rw [hent]
  dsimp only
  rw [hvalid, if_neg (by simp [show y.kind ≠ 2 by omega]), if_pos hkind, ← hsa', hupd]

/-- Its hart's cluster holding the line changed, it ends within the command: the round of one cluster, then the hart's answer. -/
theorem Run.hartCbo_held (r : Run s₀) {h sa : Nat} {y : HAcc} {x : Line} {e : DirE} {g : GEnt} {drop : Bool}
    (held : r.d.HeldBy (h / 4) (lineNo sa) x e) (p : r.d.PlainHome (lineNo sa) g) (hproxy : e.proxy = false)
    (hpart : g.part = r.d.corePart (h / 4) (h % 4)) (hcomb : r.d.comb = []) (horigs : r.d.origs = []) (hasked : y.asked = false)
    (hdrop : (y.kind == 3) = !drop) :
    (r.mod (·.accessing h y)).hartCbo h y sa = (((r.mod (·.accessing h { y with asked := true })).mod
      (·.cleaned (h / 4) (lineNo sa) x drop)).setLine .mem (lineNo sa) (good x)).hartEnd h 0 := by
  have hupd : ((r.mod (·.accessing h y)).updHart h fun z => { z with pend := some { y with asked := true } })
      = r.mod (·.accessing h { y with asked := true }) := Run.ext' (by simp [Run.mod, Run.updHart, Dev.accessing])
  have htxns : (r.mod (·.accessing h y)).d.txns.has (lineNo sa) = false := by
    rw [show (r.mod (·.accessing h y)).d.txns = [] from held.txns, Tab.has_nil]
  unfold Run.hartCbo
  dsimp only
  rw [hasked, if_neg (by decide), htxns, if_neg (by decide), hupd]
  have hpend : ((r.mod (·.accessing h { y with asked := true })).d.harts.getD h {}).pend = some { y with asked := true } :=
    congrArg Hart.pend (Tab.getD_set_self ..)
  have held₁ : (r.mod (·.accessing h { y with asked := true })).d.HeldBy (h / 4) (lineNo sa) x e := { held with }
  have p₁ : (r.mod (·.accessing h { y with asked := true })).d.PlainHome (lineNo sa) g := { p with }
  have hpart₁ : g.part = (r.mod (·.accessing h { y with asked := true })).d.corePart (h / 4) (h % 4) := hpart
  have hcomb₁ : (r.mod (·.accessing h { y with asked := true })).d.comb = [] := hcomb
  have horigs₁ : (r.mod (·.accessing h { y with asked := true })).d.origs = [] := horigs
  generalize r.mod (·.accessing h { y with asked := true }) = r₁ at *
  have hmerge : r₁.mergeComb (lineNo sa * 64) = r₁ := by unfold Run.mergeComb; rw [hcomb₁]; rfl
  have hround : r₁.d.opRound e (cboOp drop) = some ([(h / 4, cleanOp drop, false)], cleanOp drop) := by
    have := held₁.round drop
    cases drop <;> simp only [cboOp, cleanOp, Bool.false_eq_true, if_true, if_false] at this ⊢ <;> simp [Dev.opRound, held₁.owner, this]
  have hop : (if (y.kind == 3) = true then HOp.read else HOp.part 0 bad) = cboOp drop := by rw [hdrop, cboOp]; cases drop <;> rfl
  have hget : r₁.d.dir.get? (lineNo sa) = some e := by rw [held₁.dir, Tab.get?_single]
  rw [r₁.settle_held held₁, hmerge]
  simp only [p₁.found, hpart₁, bne_self_eq_false, Bool.false_eq_true, if_false, hget, hproxy, hop, hround, r₁.roundOf_cbo held₁ p₁ drop]
  generalize hr₂ : r₁.mod _ = r₂
  have hends : ((r₂.setLine .mem (lineNo sa) (good x)).d.txns.has (lineNo sa) || (r₂.setLine .mem (lineNo sa) (good x)).d.origs.any
      fun o => o.2.reply == Reply.hart h) = false := by
    rw [show (r₂.setLine .mem (lineNo sa) (good x)).d.txns = [] from hr₂ ▸ rfl,
      show (r₂.setLine .mem (lineNo sa) (good x)).d.origs = [] from hr₂ ▸ horigs₁]
    rfl
  have hstill : ((r₂.setLine .mem (lineNo sa) (good x)).d.harts.getD h {}).pend = some { y with asked := true } := hr₂ ▸ hpend
  rw [hends, hstill, if_neg (by simp)]

theorem Run.hartEnd_sameBytes (r : Run s₀) (h v : Nat) : SameBytes r.cur (r.hartEnd h v).cur := (Run.mod_sameBytes ..).trans (Run.emit_sameBytes ..)

/-- An access that has ended leaves no hart waiting, where none did before. -/
theorem Dev.accessing_ended {d : Dev} (q : d.Quiet) (h : Nat) (y : HAcc) {z : Hart} (hz : z.pend = none) :
    ∀ x ∈ (d.accessing h y).harts.set h z, x.2.pend = none := by
  intro x hx
  rw [Dev.accessing, Tab.set_set] at hx
  rcases Tab.mem_set hx with rfl | hx
  · exact hz
  · exact q.harts x hx

end

/-- Which line stands at an address is the line of its number. -/
theorem State.lineAt_lineNo (s : State) {a : Nat} (h : lineNo a < 2 ^ 56) : s.lineAt (64 * lineNo a) = s.lineAt a := by
  rw [State.lineAt, lineNo_line h, State.lineAt]

/-- What a cache-block operation leaves: the line home, the hart answered, and the copy clean or gone with the directory's entry. -/
structure CboDone (a b : State) (h sa : Nat) (x : Line) (drop : Bool) : Prop where
  answer : Sends a b (.hart h 0)
  line : b.lineAt sa = good x
  only : OnlyLine a b (lineNo sa)
  l2 : b.dev.l2 = cleanedL2 (h / 4) (lineNo sa) x drop
  dir : b.dev.dir = if drop then [] else a.dev.dir

/-- A cache-block operation of a hart whose own cluster holds the line changed. -/
theorem cbo_answers {i : Instr} {h pa sa part : Nat} {x : Line} {s : State} (drop : Bool) (y : HAcc)
    (hexec : exec i s = ((Run.start s).hartStart h y).requestDone) (hpa : y.pa = pa) (hsa : y.sa = none) (hasked : y.asked = false)
    (hkind : 3 ≤ y.kind) (hdrop : (y.kind == 3) = !drop) (hh : h < 32) (idle : ({ s.dev with dir := [] } : Dev).Idle)
    (free : s.dev.HartFree h part) (w : s.dev.Window h pa sa false) (hdir : s.dev.dir = [(lineNo sa, { st := .dx, p0 := h / 4 })])
    (hl2 : s.dev.l2 = [(l2Key (h / 4) (lineNo sa), ⟨.m, x⟩)]) (placed : s.dev.Placed sa part) :
    Answers i s fun t => CboDone s t h sa x drop := by
  obtain ⟨g, hg, htier, hstate, hprot, hpart⟩ := placed
  have quiet : s.dev.Quiet := { idle.toQuiet with }
  have hrange : sa < 2 ^ 62 := by
    obtain ⟨word, -, -, -, hsa⟩ := w.entry
    have : bits word 44 18 < 2 ^ 18 := Nat.mod_lt _ (by decide)
    omega
  have hl : lineNo sa < 2 ^ 56 := by unfold lineNo bits; omega
  have held : (Run.start s).d.HeldBy (h / 4) (lineNo sa) x { st := .dx, p0 := h / 4 } :=
    ⟨by omega, free.agent, hdir, rfl, rfl, ⟨rfl, rfl, rfl⟩, hl2, idle.txns⟩
  have hfound : s.dev.g? (lineNo sa * 64) = some g := by rw [← hg, Dev.g?, Dev.g?, granuleOf_lineNo hrange]
  have plain : (Run.start s).d.PlainHome (lineNo sa) g := ⟨hl, hfound, htier, hstate, hprot⟩
  have hsteps := (Run.start s).hartStart_cbo quiet free (hpa ▸ w) hkind hsa
  rw [(Run.start s).hartCbo_held (y := { y with sa := some sa }) (drop := drop) held plain rfl (hpart.trans free.owner.symm) idle.comb
    idle.origs hasked hdrop] at hsteps
  rw [hsteps] at hexec
  generalize hr : ((Run.start s).mod _).mod _ = r at hexec
  have hbytes : SameBytes s r.cur := hr ▸ ((Run.start s).mod_sameBytes _).trans (Run.mod_sameBytes ..)
  refine Answers.of_requestDone _ hexec ?_ ⟨.emit .., ?_, ?_, ?_, ?_⟩
  · rw [← hr]
    exact ⟨quiet.again, quiet.objWait, s.dev.accessing_ended quiet h _ rfl, quiet.recov, quiet.relief, quiet.lates, quiet.calm.after,
      quiet.castOps, quiet.fences⟩
  · exact (State.lineAt_lineNo _ hl).symm.trans (r.setLine_good_lineAt (lineNo sa) x hl)
  · exact (hbytes.onlyLine (r.setLine_good_onlyLine (lineNo sa) x)).sameBytes (Run.hartEnd_sameBytes ..)
  · rw [← hr]; rfl
  · rw [← hr]
    cases drop
    · rfl
    · show s.dev.dir.del (lineNo sa) = []
      rw [hdir, Tab.del_single]

/-! ### The commands -/

theorem exec_cboClean (h : Fin 32) (pa : BitVec 56) (s : State) :
    exec (.cboClean h pa) s = ((Run.start s).hartStart h { kind := 3, pa := pa.toNat / 64 * 64, width := 0 }).requestDone := rfl

theorem exec_cboFlush (h : Fin 32) (pa : BitVec 56) (s : State) :
    exec (.cboFlush h pa) s = ((Run.start s).hartStart h { kind := 4, pa := pa.toNat / 64 * 64, width := 0 }).requestDone := rfl

theorem exec_cboInval (h : Fin 32) (pa : BitVec 56) (s : State) :
    exec (.cboInval h pa) s = ((Run.start s).hartStart h { kind := 5, pa := pa.toNat / 64 * 64, width := 0 }).requestDone := rfl

end Sys2Proof.Machine

open Sys2Proof Sys2Proof.Machine

/-- Settles O44: the three operations are one access of the hart, which reads the line through its home or drops every copy. The one round asks
the hart's own cluster, whose data goes home before the hart is answered. -/
theorem cacheBlocks : Obligations.CacheBlocks := by
  refine ⟨fun h pa sa part x s idle free w hdir hl2 placed => ?_, fun h pa sa part x s idle free w hdir hl2 placed => ?_,
    fun h pa sa part x s idle free w hdir hl2 placed => ?_⟩
  · exact (cbo_answers false _ (exec_cboClean h pa s) rfl rfl rfl (by simp) rfl h.isLt idle free w hdir hl2 placed).mono fun t d =>
      ⟨⟨0, d.answer⟩, d.line, d.only⟩
  · exact (cbo_answers true _ (exec_cboFlush h pa s) rfl rfl rfl (by simp) rfl h.isLt idle free w hdir hl2 placed).mono fun t d =>
      ⟨⟨0, d.answer⟩, d.line, d.only, d.l2, d.dir⟩
  · exact (cbo_answers true _ (exec_cboInval h pa s) rfl rfl rfl (by simp) rfl h.isLt idle free w hdir hl2 placed).mono fun t d =>
      ⟨⟨0, d.answer⟩, d.line, d.only, d.l2, d.dir⟩
end

section
/-! PROOFS. Counter operations of a chain (R143-R146): how a pair stands when its descriptor begins, and the S lane of a counter's slice. -/
namespace Sys2Proof.Machine

/-- The device when pair `n` has begun the descriptor of its chain. -/
def Dev.starting (d : Dev) (n : Nat) : Dev := { d with
  readied := d.readied.filter fun x => x.1 != n
  pairs := d.pairs.set n { d.pair n with
    chain := (d.pair n).chain.map fun c => { c with stage := .busy, began := d.now }
    got := [], lostLn := [], kept := [], asked := [], jobs := [], sent := 0, worst := none, phase := 0, xl := [], creds := [], passed := [] } }

/-- A pair that stands at a descriptor of the command's operation begins it and runs the command's body: as `Dev.Engine.starts`, with what the
body finds written out. -/
theorem Dev.Engine.begins {s : State} {n code : Nat} {b : List Byte} {c : Chain} (h : s.dev.Engine n code b c)
    (k : Eng → List Byte → Run s → Run s) : (Run.start s).op n code anyKind k
      = k (s.dev.engOf n { c with began := s.dev.now }) b ((Run.start s).mod (·.starting n)) := by
  have hpair : ((Run.start s).d.pair n).chain = some c := h.chain
  have hpos : (c.pos == 255 && dCtl b 0) = false := by simpa using h.inside
  have hcls : (!dFixed code && code != 0x55 && dCls b == 2 && s.dev.o c.part 0x6010 3 == 0) = false := by
    rcases h.cls with hf | hf <;> simp [hf]
  have hgoes : (!(Run.start s).d.ready || !(Run.start s).d.pins.refSys || (c.ended && !(Run.start s).d.tileUnder n) || dOp b != code
      || !anyKind b) = false := by
    simp [show (Run.start s).d.ready = true from h.ready, show (Run.start s).d.pins.refSys = true from h.clock, h.goes, h.op, anyKind]
  unfold Run.op
  dsimp only
  rw [hpair]
  dsimp only
  rw [h.desc, hgoes, h.start, h.header, hpos, if_neg (by simp)]
  dsimp only
  rw [if_neg (by simp)]
  exact if_neg (ne_true_of_eq_false hcls)

section
variable {d : Dev} {n code : Nat} {b : List Byte} {c : Chain} (h : d.Engine n code b c)
include h

/-- Its chain is busy with it. -/
theorem Dev.Engine.starting_chain : ((d.starting n).pair n).chain = some { c with stage := .busy, began := d.now } := by
  rw [Dev.pair, Dev.starting, Tab.getD_set_self, h.chain]
  rfl

/-- Without VIRT, its accesses are to store addresses. -/
theorem Dev.Engine.engOf_plain : (d.engOf n { c with began := d.now }).virt = false := by
  show dSvc c.desc 6 = false
  rw [h.desc]
  exact h.plain

end

/-- The device with a counter set. -/
def Dev.setCtr (d : Dev) (n : Nat) (c : Ctr) : Dev := { d with ctrs := d.ctrs.set n c }

/-! ### The S lane of a slice -/

/-- `b` is `a` but for what the gates have admitted. -/
def OnlyGates (a b : State) : Prop := ∃ ls ev bw, b = { a with dev := { a.dev with lanes := ls, laneEv := ev, bwin := bw } }

section
variable {s₀ : State}

theorem Run.takeAt_onlyGates (r : Run s₀) (part : Nat) (b : Nat × Nat) : OnlyGates r.cur (r.takeAt part b).cur := by
  unfold Run.takeAt
  split
  · exact ⟨_, _, _, rfl⟩
  · dsimp only
    split
    · exact ⟨_, _, _, rfl⟩
    · exact ⟨_, _, _, rfl⟩

/-- Where no hold is set, a request without CRED is a first try. -/
theorem Run.door_first (r : Run s₀) (q : Asked) (tag : Nat) (home : Bool) (loc : Nat) (books : List (Nat × Nat)) (h : r.d.o 0 0x2000 1 = 0) :
    r.door q false tag home loc books = (.first, r) := by
  have hheld : r.d.holdReason q.cls = none := by simp [Dev.holdReason, h, bit]
  unfold Run.door
  simp [hheld]

/-- A free S lane of a slice admits one line (R97). -/
theorem Dev.FreeLanes.fit {d : Dev} {part : Nat} (h : d.FreeLanes part) (slice : Nat) :
    d.fit (.sram slice) 0 part 1 (Gate.allow (.sram slice) 0) = .part (partKey (.sram slice) 0 0) 12500 := by
  have hshare : d.withinShare (laneKey (.sram slice) 0) part = true := by
    simp [Dev.withinShare, Dev.recent, h.events, Tab.getD]
  have hhorizon : d.horizon (partKey (.sram slice) 0 0) = 0 := by simp [Dev.horizon, h.lanes, Tab.getD]
  unfold Dev.fit
  simp [h.share, h.common, hshare, hhorizon, Gate.service, Gate.allow, cdiv, ns]

theorem Run.askS_free (r : Run s₀) (q : Asked) (slice : Nat) (more : List (Nat × Nat)) (h : r.d.FreeLanes q.part) :
    ∃ r' : Run s₀, r.askS q slice more = (none, r') ∧ OnlyGates r.cur r'.cur := by
  refine ⟨_, ?_, r.takeAt_onlyGates q.part (partKey (.sram slice) 0 0, 12500)⟩
  unfold Run.askS
  rw [h.fit slice]

/-- A counter operation's first try is admitted at a slice whose lanes are free. -/
theorem Run.syncGate_free (r : Run s₀) (e : Eng) (b : List Byte) (ctr : Nat) (h : r.d.FreeLanes e.part) (hold : r.d.o 0 0x2000 1 = 0)
    (hcred : dSvc b 5 = false) : ∃ r' : Run s₀, r.syncGate e b ctr = (.go, r') ∧ OnlyGates r.cur r'.cur := by
  obtain ⟨r', hask, hgates⟩ := r.askS_free (r.d.descAsked e.part e.queue b) (ctr / 128) [] h
  refine ⟨r', ?_, hgates⟩
  unfold Run.syncGate
  dsimp only
  rw [hcred, r.door_first _ _ _ _ _ hold]
  dsimp only
  rw [hask]

/-- An addition that no wait, arm or queue follows changes the counter alone (R143). -/
theorem Run.addCtr_plain (r : Run s₀) (n : Nat) (amt : BitVec 64) (hwaits : r.d.waits = []) (harm : (r.d.ctr n).arm = none)
    (hbells : r.d.doorbells n = []) :
    r.addCtr n amt = r.mod (·.setCtr n { r.d.ctr n with value := (r.d.ctr n).value + amt }) := by
  generalize hr₁ : r.mod (·.setCtr n { r.d.ctr n with value := (r.d.ctr n).value + amt }) = r₁
  have hctr : r₁.d.ctr n = { r.d.ctr n with value := (r.d.ctr n).value + amt } := by
    subst hr₁; exact Tab.getD_set_self ..
  have hlook : r₁.look n = ([], r₁) := by
    have : r₁.d.waits = [] := hr₁ ▸ hwaits
    unfold Run.look
    dsimp only
    rw [this, List.filter_nil, Run.each_nil, hctr]
    dsimp only
    rw [harm]
  have hover : r₁.overrun n = ([], r₁) := by
    have : r₁.d.doorbells n = [] := hr₁ ▸ hbells
    unfold Run.overrun
    dsimp only
    rw [this]
    rfl
  have hacts : ∀ f, Run.acts (f + 1) [.add n amt] r = r₁ := fun f => by
    unfold Run.acts
    dsimp only
    rw [show (r.mod fun d => { d with ctrs := d.ctrs.set n { r.d.ctr n with value := (r.d.ctr n).value + amt } }) = r₁ from hr₁, hlook]
    dsimp only
    rw [hover]
    cases f <;> rfl
  exact hacts _

/-! ### The operations -/

/-- What a pair waits for by a `SYNC.WAIT` without a result buffer (R146). -/
def waitOf (b : List Byte) (now part : Nat) : Wait :=
  { ctr := (syncDesc b).ctr, target := (syncDesc b).value, result := 0, part := part
    until_ := if fld b 0x20 4 == 0 then none else some (now + us (fld b 0x20 4)) }

/-- `SYNC.ADD` of a chain to a counter of this device that is its partition's, the S lane of its slice free. -/
theorem Run.syncPair_add (r : Run s₀) (e : Eng) (b : List Byte) (hcode : dOp b = 0x51) (hok : syncDescOk b = true)
    (hdst : (syncDesc b).dev.getD r.d.self = r.d.self) (lanes : r.d.FreeLanes e.part) (hold : r.d.o 0 0x2000 1 = 0) (hcred : dSvc b 5 = false)
    (hown : r.d.ctrOwner (syncDesc b).ctr = e.part) (hwaits : r.d.waits = []) (harm : (r.d.ctr (syncDesc b).ctr).arm = none)
    (hbells : r.d.doorbells (syncDesc b).ctr = []) :
    ∃ r₁ : Run s₀, OnlyGates r.cur r₁.cur ∧ r.syncPair e b = (r₁.mod (·.setCtr (syncDesc b).ctr { r.d.ctr (syncDesc b).ctr with
      value := (r.d.ctr (syncDesc b).ctr).value + (syncDesc b).value })).finish e.n .ok 0 := by
  obtain ⟨r₁, hgate, hgates⟩ := r.syncGate_free e b (syncDesc b).ctr lanes hold hcred
  refine ⟨r₁, hgates, ?_⟩
  obtain ⟨ls, ev, bw, hcur⟩ := hgates
  have hown₁ : r₁.d.ctrOwner (syncDesc b).ctr = e.part := by rw [Run.d, hcur]; exact hown
  have hctr : r₁.d.ctr (syncDesc b).ctr = r.d.ctr (syncDesc b).ctr := by rw [Run.d, hcur]; rfl
  have hadd := r₁.addCtr_plain (syncDesc b).ctr (syncDesc b).value (by rw [Run.d, hcur]; exact hwaits) (by rw [hctr]; exact harm)
    (by rw [Run.d, hcur]; exact hbells)
  have hlocal : r₁.syncLocal e.part 0x51 (syncDesc b) = (Compl.of .ok, none, r₁.addCtr (syncDesc b).ctr (syncDesc b).value) := by
    unfold Run.syncLocal
    simp [hown₁]
  unfold Run.syncPair Run.withResult
  simp only [hok, hdst, hcode, Bool.not_true, Bool.false_eq_true, if_false, beq_self_eq_true, if_true, show ((0x51 : Nat) == 0x52) = false from rfl]
  rw [hgate]
  dsimp only
  rw [hlocal, hadd, hctr]
  rfl

/-- `SYNC.WAIT` of a chain on a counter of its partition, without a result buffer (R146). -/
theorem Run.waitPair_own (r : Run s₀) (e : Eng) (b : List Byte) (hok : syncDescOk b = true) (hres : fld b 0x30 8 = 0) (hwaits : r.d.waits = [])
    (hown : r.d.ctrOwner (syncDesc b).ctr = e.part) :
    r.waitPair e b = if reached (r.d.ctr (syncDesc b).ctr).value (syncDesc b).value then r.finish e.n .ok 0
      else r.mod fun d => { d with waits := [(e.n, waitOf b r.now e.part)] } := by
  unfold Run.waitPair Run.withResult
  simp only [hwaits, Tab.has_nil, hok, hown, hres, Bool.false_eq_true, if_false, Bool.not_true, bne_self_eq_false, beq_self_eq_true, if_true, outAt]
  split
  · rfl
  · exact Run.ext' (by simp [Run.mod, show r.cur.dev.waits = [] from hwaits, Tab.set, waitOf])

end

/-! ### The commands -/

theorem exec_syncAdd_pair (n : Fin 1024) (s : State) :
    exec (.syncAdd (.pair n)) s = ((Run.start s).op n.val 0x51 anyKind fun e b r => r.syncPair e b).requestDone := rfl

theorem exec_syncWait_pair (n : Fin 1024) (s : State) :
    exec (.syncWait (.pair n)) s = ((Run.start s).op n.val 0x54 anyKind fun e b r => r.waitPair e b).requestDone := rfl

theorem exec_syncWaitTimeout (n : Fin 1024) (s : State) : exec (.syncWaitTimeout n) s = ((Run.start s).waitTimeout n.val).requestDone := rfl

/-- `SYNC.ADD` of a chain adds, and the descriptor ends `OK`. -/
theorem syncAdd_pair_answers (n : Fin 1024) (b : List Byte) (c : Chain) (s : State) (idle : s.dev.Idle) (h : s.dev.Engine n.val 0x51 b c)
    (hok : syncDescOk b = true) (hdst : (syncDesc b).dev.getD s.dev.self = s.dev.self) (lanes : s.dev.FreeLanes c.part) (hcred : dSvc b 5 = false)
    (hown : s.dev.ctrOwner (syncDesc b).ctr = c.part) (hbells : s.dev.doorbells (syncDesc b).ctr = [])
    (harm : (s.dev.ctr (syncDesc b).ctr).arm = none) :
    Answers (.syncAdd (.pair n)) s fun t => t.dev.Ended n.val .ok 0 ∧ SameBytes s t
      ∧ t.dev.ctr (syncDesc b).ctr = { s.dev.ctr (syncDesc b).ctr with value := (s.dev.ctr (syncDesc b).ctr).value + (syncDesc b).value } := by
  have hexec := exec_syncAdd_pair n s
  have hchain := h.starting_chain
  rw [h.begins] at hexec
  obtain ⟨r₁, ⟨ls, ev, bw, hcur⟩, hsteps⟩ :=
    ((Run.start s).mod (·.starting n.val)).syncPair_add (s.dev.engOf n.val { c with began := s.dev.now }) b
    h.op hok hdst ⟨lanes.lanes, lanes.events, lanes.share, lanes.common⟩ h.hold hcred hown idle.waits harm hbells
  rw [hsteps] at hexec
  have hpair : r₁.d.pair n.val = (s.dev.starting n.val).pair n.val := by rw [Run.d, hcur]; rfl
  have hbytes : SameBytes s r₁.cur := by rw [hcur]; exact ⟨rfl, rfl, rfl, rfl, rfl, rfl⟩
  have hcalm : r₁.d.Calm := by rw [Run.d, hcur]; exact idle.calm.of_waiting rfl
  exact Answers.of_requestDone _ hexec (hcalm.of_waiting rfl) ⟨Run.finish_ended _ _ _ ((congrArg Pair.chain hpair).trans hchain),
    (hbytes.trans (r₁.mod_sameBytes _)).trans (Run.finish_sameBytes ..), Tab.getD_set_self ..⟩

/-- `SYNC.WAIT` of a chain ends at once where its target is reached, and holds its pair where it is not. -/
theorem syncWait_pair_answers (n : Fin 1024) (b : List Byte) (c : Chain) (s : State) (quiet : s.dev.Quiet) (h : s.dev.Engine n.val 0x54 b c)
    (hok : syncDescOk b = true) (hres : fld b 0x30 8 = 0) (hwaits : s.dev.waits = []) (hown : s.dev.ctrOwner (syncDesc b).ctr = c.part) :
    Answers (.syncWait (.pair n)) s fun t => SameBytes s t ∧ t.dev.ctrs = s.dev.ctrs
      ∧ (reached (s.dev.ctr (syncDesc b).ctr).value (syncDesc b).value = true → t.dev.Ended n.val .ok 0 ∧ t.dev.waits = [])
      ∧ (reached (s.dev.ctr (syncDesc b).ctr).value (syncDesc b).value = false → ∃ w, t.dev.waits = [(n.val, w)]
          ∧ w.target = (syncDesc b).value ∧ w.ctr = (syncDesc b).ctr
          ∧ w.until_ = (if fld b 0x20 4 = 0 then none else some (s.dev.now + us (fld b 0x20 4)))) := by
  have hexec := exec_syncWait_pair n s
  have hsteps := ((Run.start s).mod (·.starting n.val)).waitPair_own (s.dev.engOf n.val { c with began := s.dev.now }) b hok hres hwaits hown
  rw [h.begins, hsteps, show ((Run.start s).mod (·.starting n.val)).d.ctr (syncDesc b).ctr = s.dev.ctr (syncDesc b).ctr from rfl] at hexec
  have hbytes : SameBytes s ((Run.start s).mod (·.starting n.val)).cur := (Run.start s).mod_sameBytes _
  cases hreached : reached (s.dev.ctr (syncDesc b).ctr).value (syncDesc b).value with
  | true =>
    rw [hreached, if_pos rfl] at hexec
    exact Answers.of_requestDone _ hexec (quiet.calm.of_waiting rfl) ⟨hbytes.trans (Run.finish_sameBytes ..), rfl,
      fun _ => ⟨Run.finish_ended _ _ _ h.starting_chain, hwaits⟩, nofun⟩
  | false =>
    rw [hreached, if_neg (by decide)] at hexec
    exact Answers.of_requestDone _ hexec (quiet.calm.of_waiting rfl) ⟨hbytes.trans (Run.mod_sameBytes ..), rfl, nofun,
      fun _ => ⟨waitOf b s.dev.now c.part, rfl, rfl, rfl, by simp [waitOf]⟩⟩

/-- A wait whose TIMEOUT has run out ends `LATE`. -/
theorem syncWaitTimeout_answers (n : Fin 1024) (w : Wait) (c : Chain) (until_ : Nat) (s : State) (quiet : s.dev.Quiet)
    (hwait : s.dev.waits.get? n.val = some w) (huntil : w.until_ = some until_) (hlate : until_ ≤ s.dev.now) (hres : w.result = 0)
    (hchain : (s.dev.pair n.val).chain = some c) :
    Answers (.syncWaitTimeout n) s fun t => t.dev.Ended n.val .late 0 ∧ t.dev.waits.get? n.val = none ∧ t.dev.ctrs = s.dev.ctrs
      ∧ SameBytes s t := by
  have hexec := exec_syncWaitTimeout n s
  have hsteps : (Run.start s).waitTimeout n.val = ((Run.start s).mod fun d => { d with waits := d.waits.del n.val }).finish n.val .late 0 := by
    unfold Run.waitTimeout
    rw [show (Run.start s).d.waits.get? n.val = some w from hwait]
    dsimp only
    rw [huntil]
    dsimp only
    rw [if_neg (show ¬ (Run.start s).now < until_ from Nat.not_lt.2 hlate), hres]
    rfl
  rw [hsteps] at hexec
  exact Answers.of_requestDone _ hexec (quiet.calm.of_waiting rfl) ⟨Run.finish_ended _ _ _ hchain, Tab.get?_del_self .., rfl,
    ((Run.start s).mod_sameBytes _).trans (Run.finish_sameBytes ..)⟩

end Sys2Proof.Machine
end

section
/-! PROOFS. A line that a pair reads for its own descriptor (R489), and `CAST.DEFINE` (R196). -/
namespace Sys2Proof.Machine

/-- A line of SRAM or placed DRAM is not one that a flash cache may miss. -/
theorem Dev.place_plain (d : Dev) {g : GEnt} (a : Nat) (h : g.tier < 2) : (d.place g a == .miss) = false := by
  unfold Dev.place
  rcases (show g.tier = 0 ∨ g.tier = 1 by omega) with h | h <;> simp [h]

/-- Where nothing is under way, a class G read of a line in SRAM or placed DRAM, of the request's partition, is performed at once. -/
theorem Dev.check_read_plain {d : Dev} (idle : d.Idle) (x : Ctx) {g : GEnt} (a : Nat) (hcls : x.q.cls = 3) (hdl : x.dl = none)
    (hpart : g.part = x.q.part) (ht : g.tier < 2) (hs : g.state = 0) : d.check x g a .read = .go := by
  have htier : (g.tier == 2) = false := beq_eq_false_iff_ne.2 (by omega)
  unfold Dev.check
  simp [idle.revokes, idle.revoked, idle.assigned, idle.quar, idle.txns, hcls, hdl, hpart, htier, hs, d.place_plain a ht, HOp.writes, Dev.homeBound]

section
variable {s₀ : State}

/-- An address whose granule is here is of an extent homed here. -/
theorem Dev.homed_of_g? {d : Dev} {a : Nat} {g : GEnt} (h : d.g? a = some g) : d.homed (extentOf a) = true := by
  refine List.any_eq_true.2 ⟨(granuleOf a, g), Tab.mem_of_get? h, ?_⟩
  have : granuleOf a / 512 = extentOf a := by unfold granuleOf extentOf bits; omega
  simpa using this

theorem Dev.route_here {d : Dev} {a : Nat} {g : GEnt} (h : d.g? a = some g) : d.route (extentOf a) = .here := by
  rw [Dev.route, Dev.homed_of_g? h, if_pos rfl]

/-- The line that a pair reads for itself is one of its partition's, in SRAM or placed DRAM and at rest. -/
structure Dev.OwnLine (d : Dev) (e : Eng) (a : Nat) (g : GEnt) : Prop extends Dev.Idle d where
  found : d.g? a = some g
  tier : g.tier < 2
  state : g.state = 0
  part : g.part = e.part
  creds : (d.pair e.n).creds = []

section
variable (r : Run s₀) {e : Eng} {a : Nat} {g : GEnt} (h : r.d.OwnLine e a g)
include h

theorem Run.engRoutes_ownLine : r.engRoutes e.own [a] = (.ok [], r) := by
  unfold Run.engRoutes
  simp [Dev.route_here h.found]

theorem Run.check_ownLine : r.d.check (r.d.engCtx e.own 0x01 a) g a .read = .go :=
  Dev.check_read_plain h.toIdle _ a rfl rfl h.part h.tier h.state

theorem Run.engChecks_ownLine : r.engChecks e.own 0x01 [(a, .read)] = (.ok (), r) := by
  have hchk : r.d.check { r.d.engCtx e.own 0x01 a with dirt := 1 } g a .read = .go :=
    Dev.check_read_plain h.toIdle _ a rfl rfl h.part h.tier h.state
  unfold Run.engChecks
  simp [h.found, hchk, HOp.writes, Run.chkEffects]

theorem Run.ready_ownLine (n : Nat) : r.ready a .read n = (true, r) := by
  have hsettle : r.settle (lineNo a) = r := by unfold Run.settle; rw [h.dir]; rfl
  have hmerge : r.mergeComb a = r := by unfold Run.mergeComb; rw [h.comb]; rfl
  unfold Run.ready
  simp [h.txns, hsettle, hmerge, h.dir]

/-- The line is read as it stands, and nothing changes. -/
theorem Run.engLines_ownLine : r.engLines e.own [a] = (.lines [(lineNo a, r.home a)], r) := by
  have hgone : r.d.lostAmong e.own [a] = [] := by
    unfold Dev.lostAmong
    simp [Dev.route_here h.found, h.found, r.check_ownLine h]
  have hserved : r.engServed e.own.n [a] = r := by
    unfold Run.engServed
    rw [show (r.d.pair e.own.n).creds = [] from h.creds]
    rfl
  unfold Run.engLines
  simp [hgone, r.engRoutes_ownLine h, h.found, r.engChecks_ownLine h, Run.engAsk, r.d.place_plain a h.tier,
    r.ready_ownLine h, hserved, show e.own.cls = 3 from rfl]

/-- Bytes from the start of a line that is not poisoned. -/
theorem Run.engBytes_ownLine (len : Nat) (hv : e.virt = false) (ha : a % 64 = 0) (hrange : a < 2 ^ 62) (hpos : 0 < len) (hlen : len ≤ 64)
    (hgood : (r.home a).poison = false) (hlost : (r.d.pair e.n).lostLn = []) :
    r.engBytes e a len = (.ok ((lineBytes (r.home a).data).take len), r) := by
  have hlines : lineAddrs (a / 64 * 64) ((a % 64 + len + 63) / 64) = [a] := by
    rw [show (a % 64 + len + 63) / 64 = 1 by omega, show a / 64 * 64 = a by omega]
    rfl
  have hxlate := r.engXlate_plain e 0 [a] hv (by simpa using storeAddrOk_of_lt hrange)
  unfold Run.engBytes
  dsimp only
  rw [hlines, hxlate]
  dsimp only
  rw [r.engLines_ownLine h]
  simp [hlost, lineIn, hgood, ha]

end

/-- `CAST.DEFINE` of one to four members, its list in a line of the partition, to a block of the partition in which no cast stream is open. -/
theorem Run.castDefine_ownLine (r : Run s₀) {e : Eng} {b : List Byte} {g : GEnt} {ms : List (Nat × Nat)} (h : r.d.OwnLine e (fld b 0x20 8) g)
    (hv : e.virt = false) (hgroup : fld b 0x10 2 < 4096) (hpos : 1 ≤ fld b 0x12 1) (hcount : fld b 0x12 1 ≤ 4) (hz₁ : zeroed b 0x13 0x18 = true)
    (hz₂ : zeroed b 0x28 0x40 = true) (hsize : fld b 0x18 8 % 64 = 0) (hlist : fld b 0x20 8 % 64 = 0) (hrange : fld b 0x20 8 < 2 ^ 62)
    (howner : r.d.castOwner (fld b 0x10 2) = e.part) (hsends : r.d.sends = []) (hgood : (r.home (fld b 0x20 8)).poison = false)
    (hlost : (r.d.pair e.n).lostLn = [])
    (hms : castMembers ((lineBytes (r.home (fld b 0x20 8)).data).take (16 * fld b 0x12 1)) (fld b 0x12 1) = some ms) :
    r.castDefine e b = (r.mod fun d => { d with
      casts := d.casts.set (fld b 0x10 2) { part := e.part, size := fld b 0x18 8, members := ms } }).finish e.n .ok 0 := by
  have hstream : r.d.castStream (fld b 0x10 2) = false := by rw [Dev.castStream, hsends]; rfl
  have hbytes := r.engBytes_ownLine h (16 * fld b 0x12 1) hv hlist hrange (by omega) (by omega) hgood hlost
  unfold Run.castDefine
  dsimp only
  rw [Nat.mod_eq_of_lt hgroup, howner, hstream, hz₁, hz₂, hsize, hlist, if_neg (by simp; omega), if_neg (by simp), if_neg (by decide),
    if_neg (by simp; omega), hbytes]
  dsimp only
  rw [hms]

end

/-! ### The command -/

theorem exec_castDefine (n : Fin 1024) (s : State) :
    exec (.castDefine n) s = ((Run.start s).op n.val 0x5C anyKind fun e b r => r.castDefine e b).requestDone := rfl

/-- `CAST.DEFINE` stores the members of its list, and the descriptor ends `OK`. -/
theorem castDefine_answers (n : Fin 1024) (b : List Byte) (c : Chain) (ms : List (Nat × Nat)) (s : State) (idle : s.dev.Idle)
    (h : s.dev.Engine n.val 0x5C b c) (hgroup : fld b 0x10 2 < 4096) (hpos : 1 ≤ fld b 0x12 1) (hcount : fld b 0x12 1 ≤ 4)
    (hz₁ : zeroed b 0x13 0x18 = true) (hz₂ : zeroed b 0x28 0x40 = true) (hsize : fld b 0x18 8 % 64 = 0) (hlist : fld b 0x20 8 % 64 = 0)
    (hrange : fld b 0x20 8 < 2 ^ 62) (howner : s.dev.castOwner (fld b 0x10 2) = c.part) (hsends : s.dev.sends = [])
    (hplaced : s.dev.Placed (fld b 0x20 8) c.part) (hgood : (s.lineAt (fld b 0x20 8)).poison = false)
    (hms : castMembers ((lineBytes (s.lineAt (fld b 0x20 8)).data).take (16 * fld b 0x12 1)) (fld b 0x12 1) = some ms) :
    Answers (.castDefine n) s fun t => t.dev.Ended n.val .ok 0 ∧ SameBytes s t
      ∧ t.dev.casts.get? (fld b 0x10 2) = some { part := c.part, size := fld b 0x18 8, members := ms } := by
  obtain ⟨g, hg, htier, hstate, -, hpart⟩ := hplaced
  have hexec := exec_castDefine n s
  have hfresh : ((s.dev.starting n.val).pair n.val).lostLn = [] ∧ ((s.dev.starting n.val).pair n.val).creds = [] := by
    simp [Dev.pair, Dev.starting, Tab.getD_set_self]
  have hown : ((Run.start s).mod (·.starting n.val)).d.OwnLine (s.dev.engOf n.val { c with began := s.dev.now }) (fld b 0x20 8) g :=
    { toIdle := { idle with }, found := hg, tier := htier, state := hstate, part := hpart, creds := hfresh.2 }
  rw [h.begins, Run.castDefine_ownLine _ hown h.engOf_plain hgroup hpos hcount hz₁ hz₂ hsize hlist hrange
    howner hsends hgood hfresh.1 hms] at hexec
  exact Answers.of_requestDone _ hexec (idle.calm.of_waiting rfl) ⟨Run.finish_ended _ _ _ h.starting_chain,
    ((Run.start s).mod_sameBytes _).trans ((Run.mod_sameBytes ..).trans (Run.finish_sameBytes ..)), Tab.get?_set_self ..⟩

end Sys2Proof.Machine
end

section
/-! PROOFS. A request that leaves at once by the one path to its device (R137, R186, R199). -/
namespace Sys2Proof.Machine

section
variable {s₀ : State}

/-! ### The link -/

/-- Leaving keeps what waits at every port. -/
theorem Run.leave_txq (r : Run s₀) (p : Nat) (x : TxItem) (n : Nat) : ((r.leave p x n).d.link p).txq = (r.d.link p).txq := by
  unfold Run.leave
  dsimp only
  rw [Run.bumpBy_link]
  split <;> split <;> simp [Run.updLink, Dev.link, Run.d, Run.mod]

/-- Over a link that takes them, the flits of a request leave at once. -/
theorem Run.wire_takes (r : Run s₀) {p cls part n : Nat} (o : Out) (agent : Option Nat) (h : r.d.LinkTakes p cls part) (hpos : 0 < n)
    (hn : n ≤ 64) : r.wire p o n (some cls) (some part) agent
      = r.leave p { out := o, flits := n, cls := some cls, part := some part, agent := agent } n := by
  have hroom := h.room
  have hflits := h.flits
  have hheads := h.heads
  have hmay : r.d.mayLeave p { out := o, flits := n, cls := some cls, part := some part, agent := agent } = n := by
    unfold Dev.mayLeave
    dsimp only
    rw [if_neg (by simp; omega)]
    omega
  have hzero : (n == 0) = false := beq_eq_false_iff_ne.2 (by omega)
  have hq : ∀ x : TxItem, (((r.leave p x n).d.link p).txq == []) = true := fun x => by rw [r.leave_txq, h.idle]; rfl
  unfold Run.wire
  rw [h.idle, List.nil_append]
  unfold Run.drain
  simp only [List.any_nil, Bool.false_eq_true, if_false, hmay, hzero, beq_self_eq_true, if_true]
  unfold Run.drain
  rw [if_pos (hq _)]

/-- A message whose last flit leaves is sent. -/
theorem Run.leave_sends {s : State} (r : Run s) (p : Nat) (x : TxItem) : Sends s (r.leave p x x.flits).cur x.out := by
  unfold Run.leave
  dsimp only
  rw [beq_self_eq_true, if_pos rfl]
  exact (Sends.emit ..).of_out_eq rfl

/-- A request of up to 63 lines leaves at once, and is sent. -/
theorem Run.flits_takes {s : State} (r : Run s) {p : Nat} (path : Nat) (q : Req) (h : r.d.LinkTakes p q.h.cls q.h.part.toNat)
    (hlines : q.data.length < 64) : Sends s (r.flits p path q).cur (.req p path { q with port := 0 }) := by
  unfold Run.flits
  rw [r.wire_takes _ _ h (by omega) (by omega)]
  exact r.leave_sends p ⟨.req p path { q with port := 0 }, 1 + q.data.length, some q.h.cls, some q.h.part.toNat, some q.h.agent⟩

/-! ### The stream -/

/-- A service word says its class. -/
theorem bits_mkSword (cls : Nat) (dl nofill nopark cred : Bool) (hops budget credit : Nat) :
    bits (mkSword cls dl nofill nopark cred hops budget credit).toNat 0 2 = cls % 4 := by
  unfold mkSword bits
  rw [BitVec.toNat_ofNat]
  omega

section
variable {d : Dev} {dst port : Nat} (h : d.OnePath dst port)
include h

theorem Dev.OnePath.validPaths : d.validPaths dst = [0] := by
  obtain ⟨w, hw, hvalid, -⟩ := h.path
  have hzero : bit 0 6 = false := by decide
  simp [Dev.validPaths, Dev.pathEnt, hw, hvalid, hzero]

/-- A stream that opens is pinned to the path. -/
theorem Dev.OnePath.streamPath (agent : Nat) : d.streamPath agent dst none = some (0, port) := by
  have hlive : d.livePaths dst = [0] := by simp [Dev.livePaths, h.validPaths, h.lost]
  obtain ⟨w, hw, -, hport⟩ := h.path
  simp [Dev.streamPath, h.sends, Dev.pickPath, hlive, Dev.pathPort, Dev.pathEnt, hw, hport]

theorem Dev.OnePath.maySend (agent : Nat) {size : Nat} (hsize : size ≤ 4194304) : d.maySend agent dst size none = none := by
  have hreach : d.unreachable dst = false := by simp [Dev.unreachable, h.validPaths, h.unreach]
  have hused : d.replayUsed port = 0 := by simp [Dev.replayUsed, h.sends]
  unfold Dev.maySend
  simp [hreach, h.sends, Dev.egress, h.streamPath, hused]
  omega

end

/-- A request that opens its stream on the one path to its device leaves at once. -/
theorem Run.sendOrWait_onePath {s : State} (r : Run s) (src : Src) {dst port part : Nat} (q : Req) (reply : Reply) (h : r.d.OnePath dst port)
    (takes : r.d.LinkTakes port q.h.cls part) (hpart : part < 256) (hlines : q.data.length < 64) :
    ∃ q', Sends s (r.sendOrWait src dst q reply part).cur (.req port 0 q') ∧ q'.code = q.code ∧ q'.data = q.data ∧ q'.h.addr = q.h.addr := by
  have hmay : r.d.maySend src.agent dst q.size none = none := h.maySend _ (by unfold Req.size; omega)
  have hcls : q.h.cls % 4 = q.h.cls := Nat.mod_eq_of_lt (by unfold Hdr.cls bits; omega)
  unfold Run.sendOrWait
  rw [hmay]
  dsimp only
  unfold Run.send
  dsimp only
  rw [h.streamPath]
  dsimp only
  rw [if_neg (by simp [Run.d, Run.mod, show r.cur.dev.lost = [] from h.lost, Tab.has])]
  refine ⟨_, Run.flits_takes _ _ _ ?_ hlines, rfl, rfl, rfl⟩
  have hq : part % 256 = part := Nat.mod_eq_of_lt hpart
  show Dev.LinkTakes _ port (bits (mkSword ..).toNat 0 2) (BitVec.ofNat 8 part).toNat
  rw [bits_mkSword, hcls, BitVec.toNat_ofNat, hq]
  exact { takes with }

end

end Sys2Proof.Machine
end

section
/-! PROOFS. `REGION.FLUSHOUT` and `REGION.DISCARDIN` of a remote line that a cluster holds changed (R154, R155). -/
namespace Sys2Proof.Machine

/-- The write-back of a remote line: a class L store of it to its home (R164). -/
def writeBackReq (l : Nat) (x : Line) : Req :=
  { code := 0x02, h := { sword := plainSword 1, addr := BitVec.ofNat 64 (l * 64) }, data := [good x] }

/-- The device after the round of a remote line that cluster `k` held changed, its write-back about to leave in the stream of pair `n`. -/
def Dev.flushed (d : Dev) (n k l : Nat) (x : Line) (e : DirE) (drop : Bool) : Dev := { d with
  txns := [], l2 := cleanedL2 k l x drop, dir := if drop then d.dir.del l else d.dir.set l { e with used := d.now }
  pairs := d.pairs.set n { d.pair n with sent := (d.pair n).sent + 1, jobs := l :: (d.pair n).jobs } }

section
variable {s₀ : State}

/-- Of a line homed elsewhere nothing is noted when its entry changes. -/
theorem Run.setDir_remote (r : Run s₀) (l : Nat) (e : Option DirE) (hg : r.d.g? (l * 64) = none) (hcnt : ∀ e', e = some e' → e'.cnt ≠ 0) :
    r.setDir l e = r.mod fun d => { d with dir := match e with | some e => d.dir.set l { e with used := d.now } | none => d.dir.del l } := by
  have hheld : r.d.heldX l = false := by rw [Dev.heldX, hg]; simp
  unfold Run.setDir
  rw [hheld]
  cases e with
  | none => rfl
  | some e => exact Run.ext' (by simp [Run.mod, hcnt e rfl])

/-- The round of a region operation sends the holder's line home (R154, R155). -/
theorem Run.roundOf_region (r : Run s₀) {n k l dst part : Nat} {x : Line} {e : DirE} (h : r.d.HeldBy k l x e) (hn : n < 1024)
    (hg : r.d.g? (l * 64) = none) (hcnt : e.cnt ≠ 0) (hremote : r.d.remoteOf l = (dst, part)) (drop : Bool) (src : Src) :
    r.roundOf l (.region n drop) [(k, cleanOp drop, false)] (cleanOp drop) none src
      = (r.mod (·.flushed n k l x e drop)).sendOrWait (.pair n) dst (writeBackReq l x) (.writeback n) part := by
  have hget : r.d.dir.get? l = some e := by rw [h.dir, Tab.get?_single]
  rw [Run.roundOf, r.openTxn_held h]
  generalize hr₁ : r.mod _ = r₁
  have htxn : r₁.d.txns.get? l = some (heldTxn (.region n drop) r.now none (cleanOp drop) src x) := by subst hr₁; exact Tab.get?_single ..
  have hdir : r₁.d.dir.get? l = some e := hr₁ ▸ hget
  have hg₁ : (r₁.mod fun d => { d with txns := d.txns.del l }).d.g? (l * 64) = none := hr₁ ▸ hg
  have hset : (r₁.mod fun d => { d with txns := d.txns.del l }).setDir l (if drop then none else some e)
      = (r₁.mod fun d => { d with txns := d.txns.del l }).mod fun d => { d with
        dir := if drop then d.dir.del l else d.dir.set l { e with used := d.now } } := by
    rw [Run.setDir_remote _ l _ hg₁ (by cases drop <;> simp [hcnt])]
    cases drop <;> rfl
  have hremote₁ : ∀ f : Dev → Tab DirE, ((r₁.mod fun d => { d with txns := d.txns.del l }).mod fun d => { d with dir := f d }).d.remoteOf l
      = (dst, part) := fun f => hr₁ ▸ hremote
  unfold Run.closeTxn
  rw [htxn]
  simp only [heldTxn, List.isEmpty_nil, Bool.not_true, Bool.false_eq_true, if_false, if_true, hdir, htxn, Option.getD_some, h.owner, Txn.got,
    show (DState.dx == DState.ds) = false from rfl, show (DState.dx == DState.dO) = false from rfl, hset, hremote₁, hn]
  refine congrArg (fun z : Run s₀ => z.sendOrWait (.pair n) dst (writeBackReq l x) (.writeback n) part) ?_
  rw [← hr₁]
  refine Run.ext' ?_
  simp [Run.mod, Run.updPair, Dev.flushed, Dev.pair, h.owner]

/-- The body of a region descriptor of the one line `l`, without a result buffer. -/
structure RegionOne (b : List Byte) (l : Nat) : Prop where
  line : l < 2 ^ 56
  addr : fld b 0x10 8 = 64 * l
  count : fld b 0x18 4 = 1
  flags : fld b 0x1C 1 = 0
  result : fld b 0x20 8 = 0
  zero₁ : zeroed b 0x1D 0x20 = true
  zero₂ : zeroed b 0x28 0x40 = true

/-- The device when pair `n` has asked for the round of line `l`. -/
def Dev.askedFor (d : Dev) (n l : Nat) : Dev := { d with pairs := d.pairs.set n { d.pair n with asked := l :: (d.pair n).asked } }

/-- The line is the one of its range that is to be asked for. -/
theorem region_todo {d : Dev} {n k l : Nat} (hdir : d.dir = [(l, dx1 k true)]) (hasked : (d.pair n).asked = []) :
    (d.dir.filter fun y => y.2.proxy && ([(64 * l, 64)].any fun z => decide (z.1 ≤ y.1 * 64) && decide (y.1 * 64 < z.1 + z.2))
      && !(d.pair n).asked.contains y.1) = [(l, dx1 k true)] := by
  rw [hdir, hasked]
  simp [dx1, Nat.mul_comm]

/-- Its round, as the operation opens it, sends the line home. -/
theorem Run.regionRound_held (r : Run s₀) {n k l dst part : Nat} {x : Line} {m : MaqC} (held : r.d.HeldBy k l x (dx1 k true)) (hn : n < 1024)
    (hgran : r.d.gran = []) (hmaq : r.d.maq.get? (extentOf (64 * l)) = some m) (hhome : m.entry.home.toNat = dst)
    (hpart : m.entry.part.toNat = part) (drop : Bool) :
    (if (!drop && DState.dx == DState.ds) = true then r else r.roundOf l (.region n drop)
      (r.d.round (dx1 k true) 31 (if drop = true then 0x29 else 0x2A) (DState.dx == DState.dO)) (if drop = true then 0x29 else 0x2A) none
      (.pair n)) = (r.mod (·.flushed n k l x (dx1 k true) drop)).sendOrWait (.pair n) dst (writeBackReq l x) (.writeback n) part := by
  have hg : r.d.g? (l * 64) = none := by rw [Dev.g?, hgran]; rfl
  have hremote : r.d.remoteOf l = (dst, part) := by
    rw [Dev.remoteOf, Nat.mul_comm, hmaq]
    exact Prod.ext hhome hpart
  rw [← r.roundOf_region held hn hg (by simp [dx1]) hremote drop (.pair n), ← held.round drop, if_neg (by cases drop <;> decide)]
  rfl

/-- A region operation of one line, which is remote and which cluster `k` holds changed, waits for the line's write-back. -/
theorem Run.region_held (r : Run s₀) {e : Eng} {b : List Byte} {n k l dst : Nat} {x : Line} {m : MaqC} (held : r.d.HeldBy k l x (dx1 k true))
    (body : RegionOne b l) (he : e.n = n) (hn : n < 1024) (hv : e.virt = false) (hgran : r.d.gran = [])
    (hmaq : r.d.maq.get? (extentOf (64 * l)) = some m) (hhome : m.entry.home.toNat = dst) (hpart : m.entry.part.toNat = e.part)
    (hasked : (r.d.pair n).asked = []) (hwaits : r.d.waits = []) (drop : Bool) : r.region e b drop = ((r.mod (·.askedFor n l)).mod
      (·.flushed n k l x (dx1 k true) drop)).sendOrWait (.pair n) dst (writeBackReq l x) (.writeback n) m.entry.part.toNat := by
  subst he
  have hline := body.line
  have hxlate := r.engXlate_plain e 0 [64 * l, 64 * l] hv (by simpa using storeAddrOk_of_lt (show 64 * l < 2 ^ 62 by omega))
  have hresult : ∀ (r : Run s₀) (f : Nat → Run s₀ → Run s₀), r.withResult e 0 f = f 0 r := fun _ _ => rfl
  have hext : extentOf (64 * l + 64 - 1) = extentOf (64 * l) := by unfold extentOf bits; omega
  have hhomed : ∀ y, r.d.homed y = false := fun y => by rw [Dev.homed, hgran]; rfl
  unfold Run.region
  simp only [body.addr, body.count, body.flags, body.result, body.zero₁, body.zero₂, hv, Nat.sub_self, Nat.mul_zero, Nat.add_zero, Nat.mul_one,
    Bool.false_eq_true, if_false, hxlate, hresult]
  rw [if_neg (by simp [bits]), if_neg (by simp [bit])]
  simp only [List.flatMap_cons, List.flatMap_nil, hext, List.append_nil]
  rw [if_neg (by simp [hhomed, hmaq, hpart]), region_todo held.dir hasked, Run.each_cons, Run.each_nil]
  generalize hr₁ : r.mod (·.askedFor e.n l) = r₁
  have hupd : (r.updPair e.n fun p => { p with asked := l :: p.asked }) = r₁ := hr₁
  have held₁ : r₁.d.HeldBy k l x (dx1 k true) := hr₁ ▸ { held with }
  have hget : r₁.d.dir.get? l = some (dx1 k true) := by rw [held₁.dir, Tab.get?_single]
  have hround := r₁.regionRound_held held₁ hn (hr₁ ▸ hgran) (hr₁ ▸ hmaq) hhome rfl drop
  simp only [held.txns, Tab.has_nil, Bool.false_eq_true, if_false, hupd, r₁.settle_held held₁, hget, show (dx1 k true).st = .dx from rfl, hround]
  have side := (r₁.mod (·.flushed e.n k l x (dx1 k true) drop)).sendOrWait_side (.pair e.n) dst (writeBackReq l x) (.writeback e.n)
    m.entry.part.toNat
  generalize Run.sendOrWait _ _ _ _ _ _ = r₂ at side
  have hsent : 0 < (r₂.d.pair e.n).sent := by
    have hpairs := side.pairs (by rw [← hr₁]; exact hwaits)
    rw [Dev.pair, Run.d, hpairs, Run.mod_dev, Dev.flushed, Tab.getD_set_self]
    exact Nat.succ_pos _
  rw [if_pos (by simp [hsent])]

end

/-! ### The commands -/

theorem exec_regionFlushout (n : Fin 1024) (s : State) :
    exec (.regionFlushout n) s = ((Run.start s).op n.val 0x59 anyKind fun e b r => r.region e b false).requestDone := rfl

theorem exec_regionDiscardin (n : Fin 1024) (s : State) :
    exec (.regionDiscardin n) s = ((Run.start s).op n.val 0x5A anyKind fun e b r => r.region e b true).requestDone := rfl

/-- What a region operation leaves of the one line it names: the copy clean or gone with its entry, and its write-back sent. -/
structure RegionDone (a b : State) (k l port : Nat) (x : Line) (drop : Bool) : Prop where
  l2 : b.dev.l2 = cleanedL2 k l x drop
  dir : drop = true → b.dev.dir = []
  bytes : SameBytes a b
  sent : ∃ q, Sends a b (.req port 0 q) ∧ q.code = 0x02 ∧ q.data = [good x] ∧ q.h.addr = BitVec.ofNat 64 (l * 64)

/-- A region operation of a remote line that a cluster holds changed, its home by one free path. -/
theorem region_answers {i : Instr} {s : State} {n code k l dst port : Nat} {b : List Byte} {c : Chain} {x : Line} {m : MaqC} (drop : Bool)
    (hexec : exec i s = ((Run.start s).op n code anyKind fun e b r => r.region e b drop).requestDone) (hn : n < 1024) (hk : k < 8)
    (idle : ({ s.dev with dir := [] } : Dev).Idle) (h : s.dev.Engine n code b c) (body : RegionOne b l) (hdir : s.dev.dir = [(l, dx1 k true)])
    (hl2 : s.dev.l2 = [(l2Key k l, ⟨.m, x⟩)]) (hagent : s.dev.agentState k = 1) (hgran : s.dev.gran = [])
    (hmaq : s.dev.maq.get? (extentOf (64 * l)) = some m) (hhome : m.entry.home.toNat = dst) (hpart : m.entry.part.toNat = c.part)
    (path : s.dev.OnePath dst port) (takes : s.dev.LinkTakes port 1 c.part) :
    Answers i s fun t => RegionDone s t k l port x drop := by
  have quiet : s.dev.Quiet := { idle.toQuiet with }
  have held : ((Run.start s).mod (·.starting n)).d.HeldBy k l x (dx1 k true) :=
    ⟨hk, hagent, hdir, rfl, rfl, ⟨rfl, rfl, rfl⟩, hl2, idle.txns⟩
  have hasked : (((Run.start s).mod (·.starting n)).d.pair n).asked = [] := congrArg Pair.asked (Tab.getD_set_self ..)
  have hsteps := Run.region_held _ (n := n) (e := s.dev.engOf n { c with began := s.dev.now }) held body rfl hn h.engOf_plain hgran hmaq hhome hpart
    hasked idle.waits drop
  rw [hpart] at hsteps
  rw [h.begins, hsteps] at hexec
  generalize hr : (((Run.start s).mod (·.starting n)).mod _).mod _ = r at hexec
  have hbytes : SameBytes s r.cur := hr ▸ ⟨rfl, rfl, rfl, rfl, rfl, rfl⟩
  have hcalm : r.d.Calm := hr ▸ quiet.calm.of_waiting rfl
  have hpath : r.d.OnePath dst port := hr ▸ { path with }
  have hcls : (writeBackReq l x).h.cls = 1 := bits_mkSword ..
  have htakes : r.d.LinkTakes port (writeBackReq l x).h.cls c.part := by rw [hcls, ← hr]; exact { takes with }
  have hc : c.part < 256 := hpart ▸ m.entry.part.isLt
  have hsent := r.sendOrWait_onePath (.pair n) (writeBackReq l x) (.writeback n) hpath htakes hc (by simp [writeBackReq])
  have side := r.sendOrWait_side (.pair n) dst (writeBackReq l x) (.writeback n) c.part
  refine Answers.of_requestDone _ hexec (side.calm hcalm) ⟨?_, fun hdrop => ?_, hbytes.trans side.sameBytes, hsent⟩
  · rw [side.dev, ← hr]
    rfl
  · rw [side.dev, ← hr, hdrop]
    show s.dev.dir.del l = []
    rw [hdir, Tab.del_single]

end Sys2Proof.Machine

open Sys2Proof Sys2Proof.Machine

/-- Settles O31, clause by clause: an addition at the slice's free S lane, a wait and its TIMEOUT; the two region operations by the one round
of the holder, whose line leaves for its home in the pair's stream; `CAST.DEFINE` by the one line of its list. -/
theorem chainSync : Obligations.ChainSync := by
  refine ⟨syncAdd_pair_answers, syncWait_pair_answers, syncWaitTimeout_answers, ?_, ?_, castDefine_answers⟩
  · intro n b c k l dst port x m s idle h hl hdir hl2 hagent ha hcount hflags hres hz₁ hz₂ hgran hmaq hhome hpart path takes
    exact (region_answers false (exec_regionFlushout n s) n.isLt k.isLt idle h ⟨hl, ha, hcount, hflags, hres, hz₁, hz₂⟩ hdir hl2 hagent hgran hmaq
      hhome hpart path takes).mono fun t d => ⟨d.l2, d.bytes, d.sent⟩
  · intro n b c k l dst port x m s idle h hl hdir hl2 hagent ha hcount hflags hres hz₁ hz₂ hgran hmaq hhome hpart path takes
    exact (region_answers true (exec_regionDiscardin n s) n.isLt k.isLt idle h ⟨hl, ha, hcount, hflags, hres, hz₁, hz₂⟩ hdir hl2 hagent hgran hmaq
      hhome hpart path takes).mono fun t d => ⟨d.l2, d.dir rfl, d.bytes, d.sent⟩
end

section
/-! PROOFS. A request for a copy of a line that no other agent holds, where nothing is under way and every lane is free: it is granted at its
home slice without a round (R168-R171, Table 6-6). -/
namespace Sys2Proof.Machine

/-- What each request leaves its agent in: an exclusive copy, or a changed one (Table 6-6). -/
def grantState : CohOp → LState
  | .rds => .e
  | _ => .m

/-- What it brings of its line, which an upgrade has already. -/
def grantData (op : CohOp) (x : Line) : Option Line :=
  match op with
  | .upg => none
  | _ => some x

/-- No agent but the one that asks holds the line: none at all, or, where it upgrades its copy, that copy alone. -/
def Dev.Unshared (d : Dev) (ag l : Nat) : CohOp → Prop
  | .upg => d.dir = [(l, { st := .ds, p0 := ag })]
  | _ => d.dir = []

/-- The device whose directory names an agent as the one holder of a line. -/
def Dev.granted (d : Dev) (ag l : Nat) : Dev := { d with txns := [], dir := [(l, { dx1 ag false with used := d.now })] }

section
variable {s₀ : State}

/-! ### The checks of the home slice -/

section
variable {d : Dev} {part : Nat} (h : d.FreeLanes part)
include h

theorem Dev.FreeLanes.withinShare (k : Nat) : d.withinShare k part = true := by simp [Dev.withinShare, Dev.recent, h.events, Tab.getD]

theorem Dev.FreeLanes.horizon (k : Nat) : d.horizon k = 0 := by simp [Dev.horizon, h.lanes, Tab.getD]

end

/-- The lane of a free home gate admits one line of class L (R97). -/
theorem Dev.FreeLanes.fit_home {d : Dev} {part : Nat} (h : d.FreeLanes part) {g : GEnt} (a : Nat) (wr : Bool) (ht : g.tier < 2) (hs : g.state = 0)
    (hp : g.prot = false) : ∃ k t, d.fit (d.homeGate (d.place g a) a) 1 part 1 (lAllow g (d.place g a) wr) = .part k t := by
  refine ⟨partKey (d.homeGate (d.place g a) a) 1 0, Gate.service (d.homeGate (d.place g a) a) 1, ?_⟩
  rcases (show g.tier = 0 ∨ g.tier = 1 by omega) with h' | h' <;>
    simp [Dev.fit, h.share, h.common, h.withinShare, h.horizon, Dev.place, h', Dev.homeGate, Gate.service, lAllow, hs, hp, cdiv, ns]

/-- Where nothing is under way, a class L request for a copy of a line of the partition is admitted. -/
theorem Dev.check_copy {d : Dev} (idle : ({ d with dir := [] } : Dev).Idle) (x : Ctx) {g : GEnt} (a : Nat) (op : HOp) (lanes : d.FreeLanes x.q.part)
    (hcls : x.q.cls = 1) (hdl : x.dl = none) (hpart : g.part = x.q.part) (ht : g.tier < 2) (hs : g.state = 0) (hp : g.prot = false) :
    d.check x g a op = .go := by
  have htier : (g.tier == 2) = false := beq_eq_false_iff_ne.2 (by omega)
  have hfinal : d.finalPass (extentOf a) = false := by unfold Dev.finalPass; rw [show d.exts = [] from idle.exts]; rfl
  have hgate : d.lineGate g a op = d.homeGate (d.place g a) a := by simp [Dev.lineGate, show d.comb = [] from idle.comb]
  have hgates : d.homeGates g a op = [(d.homeGate (d.place g a) a, 1, lAllow g (d.place g a) op.writes)] := by
    simp [Dev.homeGates, hgate, Dev.points, hp]
  obtain ⟨k, t, hfit⟩ := lanes.fit_home a op.writes ht hs hp
  unfold Dev.check
  simp [show d.revokes = [] from idle.revokes, show d.revoked = [] from idle.revoked, show d.assigned = [] from idle.assigned,
    show d.quar = [] from idle.quar, show d.txns = [] from idle.txns, show d.moves = [] from idle.moves, hcls, hdl, hpart, htier, hs, hp,
    d.place_plain a ht, hfinal, Dev.dirties, hgates, hfit]

/-! ### What the lanes take -/

theorem OnlyGates.refl (a : State) : OnlyGates a a := ⟨a.dev.lanes, a.dev.laneEv, a.dev.bwin, rfl⟩

theorem OnlyGates.trans {a b c : State} (h : OnlyGates a b) (k : OnlyGates b c) : OnlyGates a c := by
  obtain ⟨_, _, _, rfl⟩ := h
  obtain ⟨ls, ev, bw, rfl⟩ := k
  exact ⟨ls, ev, bw, rfl⟩

theorem OnlyGates.ite {a : State} {p : Prop} [Decidable p] {r t : Run s₀} (h : OnlyGates a r.cur) (k : OnlyGates a t.cur) :
    OnlyGates a (if p then r else t).cur := by split <;> assumption

theorem OnlyGates.sameBytes {a b : State} (h : OnlyGates a b) : SameBytes a b := by
  obtain ⟨_, _, _, rfl⟩ := h
  exact ⟨rfl, rfl, rfl, rfl, rfl, rfl⟩

theorem Run.winAdd_onlyGates (r : Run s₀) (k t : Nat) : OnlyGates r.cur (r.winAdd k t).cur := ⟨_, _, _, rfl⟩

theorem Run.each_onlyGates {α : Type} (r : Run s₀) (xs : List α) (f : Run s₀ → α → Run s₀) (h : ∀ r x, OnlyGates r.cur (f r x).cur) :
    OnlyGates r.cur (r.each xs f).cur :=
  r.each_rel OnlyGates OnlyGates.refl (fun _ _ _ => OnlyGates.trans) _ _ h

/-- An admitted line is charged to lanes and windows alone. -/
theorem Run.chargeLine_onlyGates (r : Run s₀) (x : Ctx) (g : GEnt) (a : Nat) (op : HOp) : OnlyGates r.cur (r.chargeLine x g a op).cur := by
  unfold Run.chargeLine
  extract_lets r₁
  have hlanes : OnlyGates r.cur r₁.cur := by
    refine OnlyGates.ite (r.each_onlyGates _ _ fun r h => ?_) (.refl _)
    split
    · exact r.takeAt_onlyGates ..
    · exact .refl _
  exact OnlyGates.ite (hlanes.trans (r₁.winAdd_onlyGates ..)) hlanes

/-! ### The grant -/

/-- A grant leaves the directory and what is under way as they are. -/
theorem Run.grantTo_directory (r : Run s₀) (ag l : Nat) (st : LState) (reply : Reply) (x : Option Line) :
    (r.grantTo ag l st reply x).d.dir = r.d.dir ∧ (r.grantTo ag l st reply x).d.txns = r.d.txns
      ∧ (r.grantTo ag l st reply x).d.resWay = r.d.resWay := by
  unfold Run.grantTo
  split
  · exact ⟨rfl, rfl, rfl⟩
  · extract_lets code
    cases reply with
    | port p dev path id =>
      have side := r.wire_side p (.grant p id code (l * 64) x) (if x.isSome then 2 else 1) (some 1) none none
      dsimp only
      rw [Run.d, side.dev]
      exact ⟨rfl, rfl, rfl⟩
    | _ => exact ⟨rfl, rfl, rfl⟩

/-- A cluster's grant is its copy. -/
theorem Run.grantTo_cluster (r : Run s₀) {k : Nat} (hk : k < 8) (l : Nat) (st : LState) (reply : Reply) (x : Option Line) :
    r.grantTo k l st reply x
      = r.mod fun d => { d with l2 := d.l2.set (l2Key k l) ⟨st, x.getD (((d.l2.get? (l2Key k l)).map (·.data)).getD 0)⟩ } := by
  unfold Run.grantTo
  exact if_pos hk

/-- Every way of a line's set is free where few entries are in use and no way is reserved. -/
theorem Dev.freeWays_few {d : Dev} (l : Nat) (hdir : d.dir.length < 14) (hways : d.resWay = []) : d.freeWays l = 16 := by
  simp [Dev.freeWays, Dev.setMates, hdir, hways]

/-- Two ways of a set stay free where few entries are in use and no way is reserved (R173). -/
theorem Run.keepWays_few (r : Run s₀) (l : Nat) (hdir : r.d.dir.length < 14) (hways : r.d.resWay = []) : r.keepWays l = r := by
  have hkept : ¬ r.d.freeWays l + r.d.evicting l < 2 := by rw [Dev.freeWays_few l hdir hways]; omega
  unfold Run.keepWays
  simp only [List.range_succ_eq_map, List.range_zero, List.map_cons, List.map_nil, Run.each_cons, Run.each_nil, if_neg hkept]

/-- The transaction of a request that has no agent to ask. -/
def grantTxn (op : CohOp) (ag : Nat) (reply : Reply) (part began code : Nat) (src : Src) : Txn :=
  { kind := .coh op ag reply part, wait := [], began := began, op := code, src := src }

theorem Dev.Unshared.entries {d : Dev} {ag l : Nat} {op : CohOp} (h : d.Unshared ag l op) : d.dir = [] ∨ ∃ e, d.dir = [(l, e)] := by
  cases op
  · exact .inl h
  · exact .inl h
  · exact .inr ⟨_, h⟩

/-- The entry of the one line that may have one names its new holder alone. -/
theorem Run.setDir_granted (r : Run s₀) {ag l : Nat} {g : GEnt} (hg : r.d.g? (l * 64) = some g) (ht : g.tier < 2)
    (hdir : r.d.dir = [] ∨ ∃ e, r.d.dir = [(l, e)]) :
    (r.mod fun d => { d with txns := [] }).setDir l (some (dx1 ag false)) = r.mod (·.granted ag l) := by
  have hheld : (r.mod fun d => { d with txns := [] }).d.heldX l = false := by
    rw [Dev.heldX, show (r.mod fun d => { d with txns := [] }).d.g? (l * 64) = some g from hg]
    dsimp only
    rw [beq_eq_false_iff_ne.2 (by omega), Bool.and_false]
  have hset (x : DirE) : r.cur.dev.dir.set l x = [(l, x)] := by
    rcases hdir with h | ⟨e, h⟩ <;> rw [show r.cur.dev.dir = _ from h] <;> simp [Tab.set]
  rw [Run.setDir, hheld]
  exact Run.ext' (by simp [Run.mod, Dev.granted, hset, dx1])

/-- The round of a request that has no agent to ask ends at once with its grant. -/
theorem Run.closeTxn_grant (r : Run s₀) {ag l part began code : Nat} {op : CohOp} {reply : Reply} {src : Src} {g : GEnt}
    (htxns : r.d.txns = [(l, grantTxn op ag reply part began code src)]) (alone : r.d.Unshared ag l op) (hag : r.d.agentState ag = 1)
    (hg : r.d.g? (l * 64) = some g) (ht : g.tier < 2)
    (hE : op = .rds → (decide (ag < 8) || r.d.egrant.getD (ag - 8) 1 == 1) = true) (hgood : op ≠ .upg → (r.home (l * 64)).poison = false) :
    r.closeTxn l = (r.mod (·.granted ag l)).grantTo ag l (grantState op) reply (grantData op (r.home (l * 64)).data) := by
  have hget : r.d.txns.get? l = some (grantTxn op ag reply part began code src) := by rw [htxns, Tab.get?_single]
  have hshut : (r.mod fun d => { d with txns := d.txns.del l }) = r.mod fun d => { d with txns := [] } :=
    Run.ext' (by simp [Run.mod, show r.cur.dev.txns = _ from htxns])
  have hset : (r.mod fun d => { d with txns := [] }).setDir l (some (dx1 ag false)) = r.mod (·.granted ag l) :=
    Run.setDir_granted _ hg ht alone.entries
  unfold Run.closeTxn
  cases op with
  | rds =>
    have hdir : r.d.dir = [] := alone
    have hE' := hE rfl
    have hgood' := hgood (by decide)
    simp [hget, grantTxn, hshut, hdir, hg, hag, hE', cohRds, Run.txnMem, hgood', hset, grantState, grantData]
  | rdx =>
    have hdir : r.d.dir = [] := alone
    have hgood' := hgood (by decide)
    simp [hget, grantTxn, hshut, hdir, hg, hag, cohRdx, Run.txnMem, hgood', hset, grantState, grantData]
  | upg =>
    have hdir : r.d.dir = [(l, { st := .ds, p0 := ag })] := alone
    simp [hget, grantTxn, hshut, hdir, hag, hset, grantState, grantData]

/-- The round of a request that has no agent to ask opens and ends at once. -/
theorem Run.roundOf_grant (r : Run s₀) {ag l part code : Nat} {op : CohOp} {reply : Reply} {src : Src} {g : GEnt} (htxns : r.d.txns = [])
    (alone : r.d.Unshared ag l op) (hag : r.d.agentState ag = 1) (hg : r.d.g? (l * 64) = some g) (ht : g.tier < 2)
    (hE : op = .rds → (decide (ag < 8) || r.d.egrant.getD (ag - 8) 1 == 1) = true) (hgood : op ≠ .upg → (r.home (l * 64)).poison = false) :
    r.roundOf l (.coh op ag reply part) [] code none src
      = (r.mod (·.granted ag l)).grantTo ag l (grantState op) reply (grantData op (r.home (l * 64)).data) := by
  have hopen : r.openTxn l (.coh op ag reply part) [] code none src
      = r.mod fun d => { d with txns := [(l, grantTxn op ag reply part r.now code src)] } := by
    have hset (t : Txn) : (r.mod fun d => { d with txns := d.txns.set l t }) = r.mod fun d => { d with txns := [(l, t)] } :=
      Run.ext' (by simp [Run.mod, show r.cur.dev.txns = [] from htxns, Tab.set])
    unfold Run.openTxn
    simp only [hset, List.map_nil, List.any_nil, Bool.and_false, Bool.false_eq_true, if_false, Run.each_nil]
    split <;> rfl
  rw [Run.roundOf, hopen]
  exact Run.closeTxn_grant _ rfl (by cases op <;> exact alone) hag hg ht hE hgood

/-- A failed agent left nothing on the line. -/
theorem Run.settle_unshared (r : Run s₀) {ag l : Nat} {op : CohOp} (alone : r.d.Unshared ag l op) (hag : r.d.agentState ag = 1) :
    r.settle l = r := by
  unfold Run.settle
  cases op with
  | rds | rdx => rw [show r.d.dir = [] from alone]; rfl
  | upg =>
    rw [show r.d.dir = [(l, { st := .ds, p0 := ag })] from alone, Tab.get?_single]
    simp [DirE.named, hag]

/-- The request is granted within its command. -/
theorem Run.coh_granted (r : Run s₀) {x : Ctx} {ag l : Nat} {op : CohOp} (reply : Reply) (via : Option (Nat × Nat)) {g : GEnt}
    (idle : ({ r.d with dir := [] } : Dev).Idle) (lanes : r.d.FreeLanes x.q.part) (home : r.d.PlainHome l g) (hpart : g.part = x.q.part)
    (hcls : x.q.cls = 1) (hdl : x.dl = none) (hways : r.d.resWay = []) (alone : r.d.Unshared ag l op) (hlt : ag < 24)
    (hag : r.d.agentState ag = 1) (hE : op = .rds → (decide (ag < 8) || r.d.egrant.getD (ag - 8) 1 == 1) = true)
    (hgood : op ≠ .upg → (r.home (l * 64)).poison = false) :
    ∃ r' : Run s₀, OnlyGates r.cur r'.cur ∧ r.coh x reply ag op (l * 64) via
      = (none, (r'.mod (·.granted ag l)).grantTo ag l (grantState op) reply (grantData op (r.home (l * 64)).data)) := by
  have hline : lineNo (l * 64) = l := by rw [Nat.mul_comm]; exact lineNo_line home.line
  have htxns : r.d.txns = [] := idle.txns
  have hcheck (hop : HOp) : r.d.check { x with coh := true } g (l * 64) hop = .go :=
    Dev.check_copy idle _ _ _ lanes hcls hdl hpart home.tier home.state home.prot
  generalize hr' : r.chargeLine { x with coh := true, plinth := true } g (l * 64) (op.asOp (op == .upg)) = r'
  have gates : OnlyGates r.cur r'.cur := hr' ▸ r.chargeLine_onlyGates ..
  refine ⟨r', gates, ?_⟩
  obtain ⟨ls, ev, bw, hr⟩ := gates
  have hdev : r'.d = { r.d with lanes := ls, laneEv := ev, bwin := bw } := by rw [Run.d, hr]
  have hways' : r'.d.resWay = [] := by rw [hdev]; exact hways
  have hhome : r'.home (l * 64) = r.home (l * 64) := by unfold Run.home Run.line; rw [hr]; rfl
  have hmerge : r'.mergeComb (l * 64) = r' := by unfold Run.mergeComb; rw [hdev, show r.d.comb = [] from idle.comb]; rfl
  have hround (code : Nat) := r'.roundOf_grant (part := x.q.part) (code := code) (reply := reply) (src := x.q.src) (by rw [hdev]; exact htxns)
    (show r'.d.Unshared ag l op by rw [hdev]; cases op <;> exact alone) (by rw [hdev]; exact hag)
    (g := g) (by rw [hdev]; exact home.found) home.tier (by rw [hdev]; exact hE) (by rw [hhome]; exact hgood)
  rw [hhome] at hround
  obtain ⟨hdir₂, htxns₂, hways₂⟩ := (r'.mod (·.granted ag l)).grantTo_directory ag l (grantState op) reply
    (grantData op (r.home (l * 64)).data)
  generalize (r'.mod (·.granted ag l)).grantTo ag l (grantState op) reply (grantData op (r.home (l * 64)).data) = r₂ at *
  have hvia : (r₂.mod fun d => { d with txns := d.txns.upd l fun t => { t with via := via } }) = r₂ := by
    refine r₂.mod_id _ ?_
    have hupd : r₂.cur.dev.txns.upd l (fun t => { t with via := via }) = r₂.cur.dev.txns := by rw [show r₂.cur.dev.txns = [] from htxns₂]; rfl
    rw [hupd]
  have hkeep : r₂.keepWays l = r₂ := r₂.keepWays_few l (by rw [hdir₂]; exact (by decide : 1 < 14))
    (by rw [hways₂]; exact hways')
  have hfree : r'.d.freeWays l = 16 := Dev.freeWays_few l
    (by rcases alone.entries with h | ⟨e, h⟩ <;> simp [hdev, h]) hways'
  have hsettle := r.settle_unshared alone hag
  have hcharge (named : Bool) (hn : named = (op == .upg)) :
      r.chargeLine { x with coh := true, plinth := true } g (l * 64) (op.asOp named) = r' := hn ▸ hr'
  unfold Run.coh
  cases op with
  | rds | rdx =>
    have hdir : r.d.dir = [] := alone
    have hdir' : r'.d.dir = [] := by rw [hdev]; exact hdir
    simp [hline, htxns, hsettle, hdir, hdir', home.found, hcheck, Run.stopLine, Run.chkEffects, hcharge false rfl, hfree, hmerge, Dev.cohRound,
      hround, hvia, hkeep]
  | upg =>
    have hdir : r.d.dir = [(l, { st := .ds, p0 := ag })] := alone
    have hdir' : r'.d.dir = [(l, { st := .ds, p0 := ag })] := by rw [hdev]; exact hdir
    have hne : ag ≠ 31 := by omega
    have hnamed : ag ∈ ({ st := .ds, p0 := ag } : DirE).named := by simp [DirE.named, hne]
    have hasks : r'.d.round { st := .ds, p0 := ag } ag 0x29 false = [] := by simp [Dev.round, DirE.named, hne]
    simp [hline, htxns, hsettle, hdir, hdir', home.found, hcheck, Run.stopLine, Run.chkEffects, hcharge true rfl, hfree, hmerge, Dev.cohRound,
      hround, hvia, hkeep, hnamed, hasks]

end

/-! ### A core cluster's request -/

/-- The copy that cluster `k` has when it makes a request: a shared one where it upgrades it, else none. -/
def Dev.AsksWith (d : Dev) (k l : Nat) (x : Line) : CohOp → Prop
  | .upg => d.l2.get? (l2Key k l) = some ⟨.s, x⟩
  | _ => d.l2.get? (l2Key k l) = none

section
variable {s₀ : State}

/-- A cluster's request of class L is admitted at once, and granted. -/
theorem Run.clusterCoh_granted (r : Run s₀) {k part l : Nat} {op : CohOp} {g : GEnt} (hk : k < 8) (idle : ({ r.d with dir := [] } : Dev).Idle)
    (asks : r.d.CohCluster k part) (home : r.d.PlainHome l g) (hpart : g.part = part) (alone : r.d.Unshared k l op)
    (hgood : op ≠ .upg → (r.home (l * 64)).poison = false) :
    ∃ r' : Run s₀, OnlyGates r.cur r'.cur ∧ r.clusterCoh k part (.cluster k) op (l * 64) none
      = (none, (r'.mod (·.granted k l)).grantTo k l (grantState op) (.cluster k) (grantData op (r.home (l * 64)).data)) := by
  have hE : op = .rds → (decide (k < 8) || r.d.egrant.getD (k - 8) 1 == 1) = true := fun _ => by simp [hk]
  obtain ⟨r', gates, hcoh⟩ := r.coh_granted
    (x := { q := { src := .cluster k, part := part, cls := 1, code := match op with | .rds => 0x20 | .rdx => 0x21 | .upg => 0x22, addr := l * 64 } })
    (.cluster k) none idle asks.toFreeLanes home hpart rfl rfl asks.ways alone (by omega) asks.agent hE hgood
  refine ⟨r', gates, ?_⟩
  unfold Run.clusterCoh
  cases op <;> simp [r.door_first _ _ _ _ _ asks.hold, hcoh]

/-- The command makes the request. -/
theorem Run.clusterOp_granted (r : Run s₀) {k part addr : Nat} {x : Line} {op : CohOp} {g : GEnt} (hk : k < 8)
    (idle : ({ r.d with dir := [] } : Dev).Idle) (asks : r.d.CohCluster k part) (hrange : addr < 2 ^ 62) (home : r.d.PlainHome (lineNo addr) g)
    (hpart : g.part = part) (alone : r.d.Unshared k (lineNo addr) op) (copy : r.d.AsksWith k (lineNo addr) x op)
    (hgood : op ≠ .upg → (r.home (lineNo addr * 64)).poison = false) :
    ∃ r' : Run s₀, OnlyGates r.cur r'.cur ∧ r.clusterOp k op addr
      = (r'.mod (·.granted k (lineNo addr))).grantTo k (lineNo addr) (grantState op) (.cluster k)
        (grantData op (r.home (lineNo addr * 64)).data) := by
  obtain ⟨r', gates, hcoh⟩ := r.clusterCoh_granted hk idle asks home hpart alone hgood
  refine ⟨r', gates, ?_⟩
  have hline : addr / 64 * 64 = lineNo addr * 64 := by unfold lineNo bits; omega
  have hno : lineNo (lineNo addr * 64) = lineNo addr := by rw [← hline, lineNo_align]
  unfold Run.clusterOp
  cases op with
  | rds | rdx =>
    have hnone : r.d.l2.get? (l2Key k (lineNo addr)) = none := copy
    simp [hline, hno, hnone, asks.agent, asks.ready, asks.work, storeAddrOk_of_lt hrange, asks.owner, hcoh]
  | upg =>
    have hshared : r.d.l2.get? (l2Key k (lineNo addr)) = some ⟨.s, x⟩ := copy
    simp [hline, hno, hshared, asks.agent, asks.ready, asks.work, storeAddrOk_of_lt hrange, asks.owner, hcoh]

end

/-- `b` is `a` after cluster `k` was given a line: its copy, the directory's entry, and no transaction left. -/
structure CopyGiven (a b : State) (k l : Nat) (st : LState) (x : Line) : Prop where
  copy : b.dev.l2.get? (l2Key k l) = some ⟨st, x⟩
  owns : b.Owns l k
  bytes : SameBytes a b
  txns : b.dev.txns = []

/-- A cluster's request for a line of its first core's partition, at rest here. -/
theorem clusterOp_answers {i : Instr} {s : State} {k addr part : Nat} {x : Line} (op : CohOp)
    (hexec : exec i s = ((Run.start s).clusterOp k op addr).requestDone) (hk : k < 8) (idle : ({ s.dev with dir := [] } : Dev).Idle)
    (asks : s.dev.CohCluster k part) (hrange : addr < 2 ^ 62) (placed : s.dev.Placed addr part) (alone : s.dev.Unshared k (lineNo addr) op)
    (copy : s.dev.AsksWith k (lineNo addr) x op) (hgood : op ≠ .upg → (s.lineAt addr).poison = false) :
    Answers i s fun t => CopyGiven s t k (lineNo addr) (grantState op) ((grantData op (s.lineAt addr).data).getD x) := by
  obtain ⟨g, hg, htier, hstate, hprot, hpart⟩ := placed
  have quiet : s.dev.Quiet := { idle.toQuiet with }
  have home : (Run.start s).d.PlainHome (lineNo addr) g :=
    ⟨by unfold lineNo bits; omega, by rw [Dev.g?, granuleOf_lineNo hrange]; exact hg, htier, hstate, hprot⟩
  have hat : (Run.start s).home (lineNo addr * 64) = s.lineAt addr := by
    unfold Run.home
    rw [Nat.mul_comm, lineNo_line home.line]
    rfl
  obtain ⟨r', gates, hop⟩ := (Run.start s).clusterOp_granted hk idle asks hrange home hpart alone copy (by rw [hat]; exact hgood)
  rw [hop, hat, Run.grantTo_cluster _ hk] at hexec
  obtain ⟨ls, ev, bw, hr⟩ := gates
  have hdev : r'.d = { s.dev with lanes := ls, laneEv := ev, bwin := bw } := by rw [Run.d, hr]; rfl
  have hown : (r'.d.granted k (lineNo addr)).dir.get? (lineNo addr) = some { dx1 k false with used := r'.d.now } := Tab.get?_single ..
  have hcopy : (grantData op (s.lineAt addr).data).getD (((r'.d.l2.get? (l2Key k (lineNo addr))).map (·.data)).getD 0)
      = (grantData op (s.lineAt addr).data).getD x := by
    cases op with
    | rds | rdx => rfl
    | upg => rw [hdev, show s.dev.l2.get? (l2Key k (lineNo addr)) = some ⟨.s, x⟩ from copy]; rfl
  have calm : r'.d.Calm := by rw [hdev]; exact quiet.calm.of_waiting rfl
  refine Answers.of_requestDone _ hexec (calm.of_waiting rfl) ⟨?_, ?_, ?_, rfl⟩
  · exact (Tab.get?_set_self ..).trans (congrArg (fun y => some (⟨grantState op, y⟩ : L2E)) hcopy)
  · exact congrArg (Option.map fun e => (e.st, e.p0)) hown
  · exact (OnlyGates.sameBytes (b := r'.cur) ⟨ls, ev, bw, hr⟩).trans ((Run.mod_sameBytes ..).trans (Run.mod_sameBytes ..))

/-! ### A copy given up -/

theorem State.Owns.entry {s : State} {l ag : Nat} (h : s.Owns l ag) : ∃ e, s.dev.dir.get? l = some e ∧ e.st = .dx ∧ e.p0 = ag := by
  obtain ⟨e, he, hpair⟩ := Option.map_eq_some_iff.1 h
  obtain ⟨hst, hp0⟩ := Prod.mk.inj hpair
  exact ⟨e, he, hst, hp0⟩

section
variable {s₀ : State}

/-- The clean copy of the one holder of a line is dropped: its entry is freed (Table 6-6). -/
theorem Run.evict_holder (r : Run s₀) {ag l : Nat} {e : DirE} (he : r.d.dir.get? l = some e) (hst : e.st = .dx) (hp0 : e.p0 = ag) :
    ∃ da, r.evict ag l = r.mod fun d => { d with dirtyAt := da, dir := d.dir.del l } := by
  have hevict : r.evict ag l = r.setDir l none := by
    unfold Run.evict
    simp [he, hst, hp0]
  rw [hevict]
  unfold Run.setDir
  split
  · exact ⟨_, rfl⟩
  · exact ⟨r.d.dirtyAt, rfl⟩

end

/-! ### The commands -/

theorem exec_rds_cluster (k : Fin 8) (addr : BitVec 64) (s : State) :
    exec (.rds (.cluster k addr)) s = ((Run.start s).clusterOp k.val .rds addr.toNat).requestDone := rfl

theorem exec_rdx_cluster (k : Fin 8) (addr : BitVec 64) (s : State) :
    exec (.rdx (.cluster k addr)) s = ((Run.start s).clusterOp k.val .rdx addr.toNat).requestDone := rfl

theorem exec_upg_cluster (k : Fin 8) (addr : BitVec 64) (s : State) :
    exec (.upg (.cluster k addr)) s = ((Run.start s).clusterOp k.val .upg addr.toNat).requestDone := rfl

theorem exec_evc_cluster (k : Fin 8) (addr : BitVec 64) (s : State) {y : L2E} (hcopy : s.dev.l2.get? (l2Key k.val (lineNo addr.toNat)) = some y)
    (hst : y.st = .e) : exec (.evc (.cluster k addr)) s
      = (((Run.start s).mod fun d => { d with l2 := d.l2.del (l2Key k.val (lineNo addr.toNat)) }).evict k.val (lineNo addr.toNat)).requestDone := by
  show execEvc (.cluster k addr) s = _
  unfold execEvc
  simp [Run.d, hcopy, hst]

theorem exec_wbd_cluster (k : Fin 8) (addr : BitVec 64) (y : DLine) (s : State) {x : Line}
    (hcopy : s.dev.l2.get? (l2Key k.val (lineNo addr.toNat)) = some ⟨.m, x⟩) : exec (.wbd (.cluster k addr) y) s
      = (((Run.start s).mod fun d => { d with l2 := d.l2.del (l2Key k.val (lineNo addr.toNat)) }).writeBack k.val (.cluster k.val)
          (s.dev.corePart k.val 0) (lineNo addr.toNat * 64) (good x)).requestDone := by
  show execWbd (.cluster k addr) y s = _
  unfold execWbd
  simp [Run.d, hcopy]

/-- `EVC` of an exclusive copy. -/
theorem evc_cluster_answers (k : Fin 8) (addr : BitVec 64) (x : Line) (s : State) (quiet : s.dev.Quiet) (owns : s.Owns (lineNo addr.toNat) k.val)
    (copy : s.dev.l2.get? (l2Key k.val (lineNo addr.toNat)) = some ⟨.e, x⟩) :
    Answers (.evc (.cluster k addr)) s fun t => t.dev.l2.get? (l2Key k.val (lineNo addr.toNat)) = none
      ∧ t.dev.dir.get? (lineNo addr.toNat) = none ∧ SameBytes s t ∧ t.out = s.out := by
  obtain ⟨e, he, hst, hp0⟩ := owns.entry
  have hexec := exec_evc_cluster k addr s copy rfl
  obtain ⟨da, hevict⟩ := Run.evict_holder ((Run.start s).mod fun d => { d with l2 := d.l2.del (l2Key k.val (lineNo addr.toNat)) }) he hst hp0
  rw [hevict] at hexec
  exact Answers.of_requestDone _ hexec (quiet.calm.of_waiting rfl)
    ⟨Tab.get?_del_self .., Tab.get?_del_self .., ⟨rfl, rfl, rfl, rfl, rfl, rfl⟩, rfl⟩

/-- `WBD` of a changed copy. -/
theorem wbd_cluster_answers (k : Fin 8) (addr : BitVec 64) (x : Line) (y : DLine) (s : State) (quiet : s.dev.Quiet) (hrange : addr.toNat < 2 ^ 62)
    (owns : s.Owns (lineNo addr.toNat) k.val) (hproxy : ∀ e, s.dev.dir.get? (lineNo addr.toNat) = some e → e.proxy = false)
    (copy : s.dev.l2.get? (l2Key k.val (lineNo addr.toNat)) = some ⟨.m, x⟩) (placed : s.dev.Placed addr.toNat (s.dev.corePart k.val 0)) :
    Answers (.wbd (.cluster k addr) y) s fun t => t.lineAt addr.toNat = good x ∧ OnlyLine s t (lineNo addr.toNat)
      ∧ t.dev.l2.get? (l2Key k.val (lineNo addr.toNat)) = none ∧ t.dev.dir.get? (lineNo addr.toNat) = none := by
  obtain ⟨e, he, hst, hp0⟩ := owns.entry
  obtain ⟨g, hg, htier, hstate, hprot, hpart⟩ := placed
  have hl : lineNo addr.toNat < 2 ^ 56 := by unfold lineNo bits; omega
  have hfound : s.dev.g? (lineNo addr.toNat * 64) = some g := by rw [Dev.g?, granuleOf_lineNo hrange]; exact hg
  have hexec := exec_wbd_cluster k addr y s copy
  generalize hr : ((Run.start s).mod fun d => { d with l2 := d.l2.del (l2Key k.val (lineNo addr.toNat)) }) = r at hexec
  have hbytes : SameBytes s r.cur := hr ▸ (Run.start s).mod_sameBytes _
  have hback := r.writeBack_holder k.val (.cluster k.val) (lineNo addr.toNat) (good x) hl (hr ▸ he) hst hp0 (hproxy e he) (hr ▸ hfound)
    htier hstate hprot
  rw [hpart] at hback
  rw [hback] at hexec
  refine Answers.of_requestDone _ hexec (quiet.calm.of_waiting (by rw [← hr]; rfl)) ⟨?_, ?_, ?_, ?_⟩
  · exact (State.lineAt_lineNo _ hl).symm.trans (r.setLine_good_lineAt (lineNo addr.toNat) x hl)
  · exact (hbytes.onlyLine (r.setLine_good_onlyLine (lineNo addr.toNat) x)).sameBytes (Run.mod_sameBytes ..)
  · rw [← hr]; exact Tab.get?_del_self ..
  · rw [← hr]; exact Tab.get?_del_self ..

end Sys2Proof.Machine

open Sys2Proof Sys2Proof.Machine

/-- Settles O24: the three requests find nothing under way at the line's home and are granted without a round; a clean copy frees the entry, and
a changed one goes home first. -/
theorem clusterCopies : Obligations.ClusterCopies := by
  refine ⟨?_, ?_, ?_, evc_cluster_answers, wbd_cluster_answers⟩
  · intro k addr s part idle hl2 asks hrange placed hgood
    exact (clusterOp_answers (x := 0) .rds (exec_rds_cluster k addr s) k.isLt { idle with dir := rfl } asks hrange placed idle.dir
      (congrArg (Tab.get? · _) hl2) fun _ => hgood).mono fun t d => ⟨d.copy, d.owns, d.bytes, d.txns⟩
  · intro k addr s part idle hl2 asks hrange placed hgood
    exact (clusterOp_answers (x := 0) .rdx (exec_rdx_cluster k addr s) k.isLt { idle with dir := rfl } asks hrange placed idle.dir
      (congrArg (Tab.get? · _) hl2) fun _ => hgood).mono fun t d => ⟨d.copy, d.owns, d.bytes, d.txns⟩
  · intro k addr x s part idle hdir hl2 asks hrange placed
    have hshared : s.dev.l2.get? (l2Key k.val (lineNo addr.toNat)) = some ⟨.s, x⟩ := by rw [hl2, Tab.get?_single]
    exact (clusterOp_answers .upg (exec_upg_cluster k addr s) k.isLt idle asks hrange placed hdir hshared
      fun h => absurd rfl h).mono fun t d => ⟨d.copy, d.owns, d.bytes, d.txns⟩
end

section
/-! PROOFS. An agent's `RDX` on a port whose link takes the flit credit it gives back and no flit more (R184): its grant waits. -/
namespace Sys2Proof.Machine

/-- A first try of an `RDX` stands at its port in front of the gates: of class L, its partition active and below its cap, no hold
set, its translation resident. -/
structure Dev.RdxAtGates (d : Dev) (a : Arr) (part t : Nat) : Prop where
  code : a.code = 0x21
  new : a.again = false
  two : d.role a.p = 2
  header : headerOk 2 0x21 a.h = true
  ident : d.partOf false a = some part
  active : d.partState part = 1
  work : d.noAdmit = false
  first : a.h.cred = false
  cap : d.outstanding a.p part < d.o part 0x6010 7
  cls : a.h.cls = 1
  one : a.h.n = 1
  hold : d.o 0 0x2000 1 = 0
  asid : d.ownsAsid part a.h.asid.toNat = true
  page : d.lookUp (blkOfPort a.p) a.h.asid.toNat 1 [a.h.a] = .ok [t]

/-- What its gates are asked for it. -/
def Arr.rdxAsked (a : Arr) (part : Nat) : Asked :=
  { src := .ident a.p (bits a.h.stream.toNat 0 7), part := part, cls := 1, code := 0x21, addr := a.h.a, asid := a.h.asid.toNat }

section
variable {s₀ : State}

/-- Its translation noted, it asks the gates of its port, and then its home slice. -/
theorem Run.arrive_rdx (r : Run s₀) {a : Arr} {part t : Nat} (h : r.d.RdxAtGates a part t) :
    let r' := r.useTlb (blkOfPort a.p) a.h.asid.toNat [a.h.a] none
    let q := a.rdxAsked part
    r.arrive a = r'.atGates a q none (a.pass none) (r'.d.homeOf a q [t]) fun x =>
      x.coh (r'.d.homeCtx a q none (r'.d.passBooks q (a.pass none))) a.reply (8 + a.p) .rdx t (some (a.h.asid.toNat, a.h.a)) := by
  have hfabric : r.d.fabric a.p = false := by simp [Dev.fabric, h.two]
  have hvas : a.vas = [a.h.a] := by simp [Arr.vas, h.code, h.one, isAtomic, lineAddrs]
  have hcap : ¬ r.d.o part 0x6010 7 ≤ r.d.outstanding a.p part := not_le.2 h.cap
  have hadmit : r.admitted a (a.rdxAsked part) (.ident a.p (bits a.h.stream.toNat 0 7)) none
      = (r.useTlb (blkOfPort a.p) a.h.asid.toNat [a.h.a] none).routed a (a.rdxAsked part) (.ident a.p (bits a.h.stream.toNat 0 7)) none
        (some (a.h.asid.toNat, a.h.a)) [t] := by
    unfold Run.admitted
    simp [h.code, isSync, hfabric, hvas, accessOf, needsRed, Arr.rdxAsked, h.asid, h.page]
  have hadmitted : r.arrive a = r.admitted a (a.rdxAsked part) (.ident a.p (bits a.h.stream.toNat 0 7)) none := by
    unfold Run.arrive
    simp [h.two, h.code, h.header, hfabric, h.ident, h.active, h.work, h.first, h.new, hcap, h.cls, Arr.src, r.door_first _ _ _ _ _ h.hold,
      Arr.rdxAsked]
  intro r' q
  rw [hadmitted, hadmit]
  unfold Run.routed
  simp [h.code, r', q]

/-- One flit and its answer fit at a port whose lanes are free (R97). -/
theorem Dev.FreeLanes.fit_port {d : Dev} {part : Nat} (h : d.FreeLanes part) (g : Gate) (hg : (∃ p, g = .portIn p) ∨ ∃ p, g = .portOut p) :
    d.fit g 1 part 1 (g.allow 1) = .part (partKey g 1 0) 2000 := by
  rcases hg with ⟨p, rfl⟩ | ⟨p, rfl⟩ <;> simp [Dev.fit, h.share, h.common, h.withinShare, h.horizon, Gate.service, Gate.allow, cdiv, ns]

/-- Where the lanes are free, a first try of class L passes its port, which takes its time once the home slice has not refused it. -/
theorem Run.atGates_free (r : Run s₀) {a : Arr} {q : Asked} {home : List (Nat × Nat)} {k : Run s₀ → Option Compl × Run s₀} {r₂ : Run s₀}
    (hnew : a.again = false) (lanes : r.d.FreeLanes q.part) (hcls : q.cls = 1) (hdata : a.data = []) (hcode : a.code ≠ 1)
    (hk : k r = (none, r₂)) :
    OnlyGates r₂.cur (r.atGates a q none (a.pass none) home k).cur := by
  have hgates : (a.pass none).gates = [(.portIn a.p, 1), (.portOut a.p, 1)] := by simp [Arr.pass, Arr.flitsIn, Arr.flitsOut, hdata, hcode]
  have hask : r.askPass q (a.pass none) home = (.go, r) := by
    unfold Run.askPass Run.askLanes
    simp [hcls, hgates, Dev.fitAll, lanes.fit_port]
  unfold Run.atGates
  simp only [hnew, hask, hk, Option.isSome_none, Bool.or_self, Bool.false_eq_true, if_false]
  unfold Run.takePass Run.takeLanes
  rw [hcls, if_pos (by decide)]
  refine r₂.each_onlyGates _ _ fun r g => ?_
  split
  · exact r.takeAt_onlyGates ..
  · exact .refl _

/-- Where a link has no room, a message waits (R184). -/
theorem Run.wire_full (r : Run s₀) (p : Nat) (o : Out) (n : Nat) (cls part agent : Option Nat) (idle : (r.d.link p).txq = [])
    (full : r.d.lackRoom p = 0) : (r.wire p o n cls part agent).cur.out = r.cur.out := by
  have hleave (x : TxItem) : r.d.mayLeave p x = 0 := by
    unfold Dev.mayLeave
    cases x.cls <;> cases x.part <;> simp [full]
  unfold Run.wire
  rw [idle]
  simp only [List.nil_append, Run.drain, hleave, List.any_nil, Bool.false_eq_true, if_false, beq_self_eq_true, if_true]
  split <;> rfl

end

/-! ### The link that has no room for the grant -/

open Sys2Proof.Tests (mkSt prt hL)

/-- Port 3 of role 2 on the link whose count lags (`aheadLink`), with flit credits of class L for the grant. -/
def aheadAgent : Dev :=
  { prt 2 with obj := (okey 3 0x3040 8, 2 ^ 64 - 1) :: (prt 2).obj, links := [(3, { aheadLink with flitCr := [(1, 64)] })] }

theorem aheadAgent_idle : aheadAgent.Idle := Tests.idle_of (by decide +kernel)

theorem aheadAgent_asks : aheadAgent.CohPort 3 0x21 hL 0 0xA00000 :=
  Tests.cohPort_of (Tests.fromPort_of (by decide +kernel)) (Tests.freeLanes_of (by decide +kernel)) (by decide +kernel)

theorem aheadAgent_placed : aheadAgent.Placed 0xA00000 0 := Tests.placed_of Tests.g5 (by decide +kernel)

/-- Its agent's request for the first line of granule 5. -/
def aheadRdx : Arr := { p := 3, code := 0x21, h := hL }

/-- The request's flit is counted and its credit given back, the one flit that leaves. -/
def aheadHeard : Run (mkSt aheadAgent) :=
  (((Run.start (mkSt aheadAgent)).bumpBy 3 0x3040 9 1).emit (.flitCredits 3 1 1)).bumpBy 3 0x3040 8 1

theorem aheadRdx_receive : (Run.start (mkSt aheadAgent)).receive aheadRdx = aheadHeard.arrive aheadRdx := by
  have hfree : ((Run.start (mkSt aheadAgent)).bumpBy 3 0x3040 9 1).d.LinkFree 3 := Tests.linkFree_of (by decide +kernel)
  have hheard : ((Run.start (mkSt aheadAgent)).bumpBy 3 0x3040 9 1).wire 3 (.flitCredits 3 1 1) = aheadHeard := Run.wire_free _ 3 _ hfree
  unfold Run.receive
  rw [if_neg (by decide +kernel)]
  dsimp only [aheadRdx, List.length_nil]
  rw [show hL.cls = 1 by decide, hheard, if_neg (by decide +kernel), if_pos (by decide +kernel)]
  rfl

theorem aheadHeard_atGates : aheadHeard.d.RdxAtGates aheadRdx 0 0xA00000 := by
  constructor <;> decide +kernel

/-- The request has noted its translation. -/
def aheadAtGates : Run (mkSt aheadAgent) := aheadHeard.useTlb 1 0 [0xA00000] none

theorem aheadAtGates_idle : ({ aheadAtGates.d with dir := [] } : Dev).Idle := Tests.idle_of (by decide +kernel)

theorem aheadAtGates_lanes : aheadAtGates.d.FreeLanes 0 := Tests.freeLanes_of (by decide +kernel)

theorem aheadAtGates_home : aheadAtGates.d.PlainHome 0x28000 Tests.g5 := by constructor <;> decide +kernel

/-- What the home slice is told of it. -/
def aheadCtx : Ctx :=
  aheadAtGates.d.homeCtx aheadRdx (aheadRdx.rdxAsked 0) none (aheadAtGates.d.passBooks (aheadRdx.rdxAsked 0) (aheadRdx.pass none))

/-- Its home slice grants it, and the grant stays in the link's queue. -/
theorem aheadAtGates_coh : ∃ r : Run (mkSt aheadAgent), aheadAtGates.coh aheadCtx aheadRdx.reply 11 .rdx 0xA00000 (some (0, 0xA00000)) = (none, r)
    ∧ r.cur.out = [.flitCredits 3 1 1] ∧ r.d.Calm := by
  obtain ⟨r', ⟨ls, ev, bw, hr⟩, hcoh⟩ := aheadAtGates.coh_granted (x := aheadCtx) (ag := 11) (op := .rdx) aheadRdx.reply (some (0, 0xA00000))
    aheadAtGates_idle aheadAtGates_lanes aheadAtGates_home rfl rfl rfl (by decide +kernel) (show aheadAtGates.d.dir = [] by decide +kernel)
    (by decide) (by decide +kernel) (fun h => nomatch h) (fun _ => by decide +kernel)
  refine ⟨_, hcoh, ?_, ?_⟩
  · have hdev : r'.d = { aheadAtGates.d with lanes := ls, laneEv := ev, bwin := bw } := by rw [Run.d, hr]
    have hidle : (r'.d.link 3).txq = [] := by rw [hdev]; exact (show (aheadAtGates.d.link 3).txq = [] by decide +kernel)
    have hfull : r'.d.lackRoom 3 = 0 := by rw [hdev]; exact (show aheadAtGates.d.lackRoom 3 = 0 by decide +kernel)
    have hout : r'.cur.out = [.flitCredits 3 1 1] := by rw [hr]; exact (show aheadAtGates.cur.out = _ by decide +kernel)
    exact ((r'.mod (·.granted 11 0x28000)).wire_full 3 _ 2 (some 1) none none hidle hfull).trans hout
  · have calm : r'.d.Calm := by
      rw [Run.d, hr]
      exact ((Tests.quiet_of (by decide +kernel) : aheadAtGates.d.Quiet)).calm.of_waiting rfl
    exact ((r'.mod (·.granted 11 0x28000)).wire_side 3 _ 2 (some 1) none none).calm (calm.of_waiting rfl)

/-- It passes the gates on its way there, which take its time. -/
theorem aheadHeard_arrive : ∃ r : Run (mkSt aheadAgent), aheadHeard.arrive aheadRdx = r ∧ r.cur.out = [.flitCredits 3 1 1] ∧ r.d.Calm := by
  obtain ⟨r, hcoh, hout, calm⟩ := aheadAtGates_coh
  have harrive : aheadHeard.arrive aheadRdx = aheadAtGates.atGates aheadRdx (aheadRdx.rdxAsked 0) none (aheadRdx.pass none)
      (aheadAtGates.d.homeOf aheadRdx (aheadRdx.rdxAsked 0) [0xA00000])
      fun x => x.coh aheadCtx aheadRdx.reply 11 .rdx 0xA00000 (some (0, 0xA00000)) := aheadHeard.arrive_rdx aheadHeard_atGates
  have gates := aheadAtGates.atGates_free (a := aheadRdx) (q := aheadRdx.rdxAsked 0)
    (home := aheadAtGates.d.homeOf aheadRdx (aheadRdx.rdxAsked 0) [0xA00000])
    (k := fun x => x.coh aheadCtx aheadRdx.reply 11 .rdx 0xA00000 (some (0, 0xA00000))) rfl aheadAtGates_lanes rfl rfl (by decide) hcoh
  rw [← harrive] at gates
  obtain ⟨ls, ev, bw, hr⟩ := gates
  refine ⟨_, rfl, (congrArg State.out hr).trans hout, ?_⟩
  rw [Run.d, hr]
  exact calm.of_waiting rfl

theorem aheadRdx_outs : outsOf (.rdx (.port 3 hL)) (mkSt aheadAgent) = [.flitCredits 3 1 1] := by
  obtain ⟨r, harrive, hout, calm⟩ := aheadHeard_arrive
  have hexec : exec (.rdx (.port 3 hL)) (mkSt aheadAgent) = r.requestDone := congrArg Run.requestDone (aheadRdx_receive.trans harrive)
  rw [outsOf, hexec, r.requestDone_calm calm]
  exact hout

end Sys2Proof.Machine

open Sys2Proof Sys2Proof.Machine

/-- Refutes O25 on the link that refutes O28 and O30: an `RDX` gives its flit credit back before its grant, and the credit's flit is the last for
which the link has room, so that the grant waits there. `LinkFree` would need the link's number to be below 2^64, as training leaves it. -/
theorem not_portCopies : ¬ Obligations.PortCopies := by
  rintro ⟨-, hrdx, -⟩
  have hanswers := hrdx 3 Tests.hL (Tests.mkSt aheadAgent) 0 0xA00000 aheadAgent_idle aheadAgent_asks (by decide) aheadAgent_placed
    (by decide +kernel)
  have hsent := hanswers.mem_outsOf fun t h => h.1
  rw [aheadRdx_outs] at hsent
  simp at hsent
end

section
/-! PROOFS. A completion record whose ring's base counts the chains that stop (R226). -/
namespace Sys2Proof.Machine

/-- A chain that names 0x5FC0 as its queue, so that its queue objects are those of 0x6040 + 0x5FC0 = 0xC000; its one descriptor ended `FAULT`. -/
def miscountedChain : Chain := { Tests.ch Tests.chainsRunD0 with queue := 0x5FC0, stage := .done .fault 0 }

/-- 0xC000:03, the number of chains that stopped, is 0xA00100: for this chain it is the base of the completion ring too. -/
def miscountedRing : State := Tests.mkSt { Tests.up [(0, 0xC000, 2, 16), (0, 0xC000, 3, 0xA00100)] with
  gran := [(5, Tests.g5)], pairs := [(0, { chain := some miscountedChain })] }

theorem miscountedRing_idle : miscountedRing.dev.Idle := Tests.idle_of (by decide +kernel)

theorem miscountedRing_placed : miscountedRing.dev.Placed 0xA00100 0 := Tests.placed_of Tests.g5 (by decide +kernel)

/-- The stop is counted before the record is written, and the record stands one byte further on: its status is not at byte 4 of 0xA00100. -/
theorem miscountedRing_status :
    Tests.next (.descriptorComplete 0) miscountedRing (fun t => (Mem.read t.mem 0xA00100 16)[4]? == some 0) = true := by decide +kernel

end Sys2Proof.Machine

open Sys2Proof Sys2Proof.Machine

/-- Refutes O34: the clause on completion records bounds neither the chain's queue nor its partition. A chain of partition 0 whose queue number is
0x5FC0 has 0xC000:03 as the base of its completion ring; where it stops, that counter is raised first, and the record is written one byte past
the address that the clause names. The clause would need `c.queue < 16`, which every chain that the dispatcher starts has. -/
theorem not_chainsRun : ¬ Obligations.ChainsRun := by
  rintro ⟨-, -, hcomplete, -⟩
  obtain ⟨t, hexec, -, -, hrecord, -⟩ := hcomplete 0 miscountedChain .fault 0 0xA00100 0 miscountedRing miscountedRing_idle (by decide +kernel)
    rfl rfl rfl rfl rfl rfl (by decide +kernel) (by decide +kernel) rfl rfl (by decide +kernel) (by decide +kernel) (by decide) (by decide)
    miscountedRing_placed (by decide +kernel)
  have hstatus := miscountedRing_status
  rw [Tests.next, hexec] at hstatus
  dsimp only at hstatus
  rw [hrecord] at hstatus
  exact absurd hstatus (by simp [leBytes, Status.code])
end

section
/-! PROOFS. Bytes within a line: what a partial store of a run of them leaves, and reading them back (R6, R191). -/
namespace Sys2Proof.Machine

/-! ### Numbers of bytes -/

theorem leNat_lt (bs : List Byte) : leNat bs < 256 ^ bs.length := by
  induction bs with
  | nil => simp [leNat]
  | cons b t ih =>
    have := b.isLt
    rw [leNat, List.length_cons, Nat.pow_succ]
    omega

/-- The bytes that spell a number are those of the number. -/
theorem leBytes_leNat (bs : List Byte) : leBytes bs.length (leNat bs) = bs := by
  induction bs with
  | nil => rfl
  | cons b t ih =>
    have hb := b.isLt
    have hdiv : (b.toNat + 256 * leNat t) / 256 = leNat t := by omega
    have hmod : BitVec.ofNat 8 (b.toNat + 256 * leNat t) = b := BitVec.eq_of_toNat_eq (by rw [BitVec.toNat_ofNat]; omega)
    rw [List.length_cons, leNat, leBytes, hdiv, ih, hmod]

/-- The number of the bytes from the `k`-th on. -/
theorem leNat_drop (bs : List Byte) (k : Nat) : leNat (bs.drop k) = leNat bs / 256 ^ k := by
  induction k generalizing bs with
  | zero => simp
  | succ k ih =>
    cases bs with
    | nil => simp [leNat]
    | cons b t =>
      have hb := b.isLt
      rw [List.drop_succ_cons, ih, leNat, Nat.pow_succ', ← Nat.div_div_eq_div_mul]
      congr 1
      omega

/-- The number of the first `n` bytes. -/
theorem leNat_take (bs : List Byte) (n : Nat) : leNat (bs.take n) = leNat bs % 256 ^ n := by
  induction n generalizing bs with
  | zero => simp [leNat, Nat.mod_one]
  | succ n ih =>
    cases bs with
    | nil => simp [leNat]
    | cons b t =>
      have hb := b.isLt
      rw [List.take_succ_cons, leNat, leNat, ih, Nat.pow_succ', Nat.mod_mul]
      congr 1
      · omega
      · congr 2
        omega

theorem two_pow_eight (n : Nat) : 2 ^ (8 * n) = 256 ^ n := Nat.pow_mul ..

/-- A field of a number of bytes is that of some of them. -/
theorem bits_leNat (bs : List Byte) (k n : Nat) : bits (leNat bs) (8 * k) (8 * n) = leNat ((bs.drop k).take n) := by
  rw [leNat_take, leNat_drop, bits, two_pow_eight, two_pow_eight]

theorem leBytes_getD {n i : Nat} (v : Nat) (h : i < n) : (leBytes n v).getD i 0 = BitVec.ofNat 8 (v / 256 ^ i) := by
  induction n generalizing v i with
  | zero => omega
  | succ n ih =>
    cases i with
    | zero => simp [leBytes]
    | succ i =>
      rw [leBytes, List.getD_cons_succ, ih _ (by omega), Nat.pow_succ', Nat.div_div_eq_div_mul]

theorem leBytes_eq_map (n v : Nat) : leBytes n v = (List.range n).map fun i => BitVec.ofNat 8 (v / 256 ^ i) := by
  refine List.ext_getElem (by simp) fun i h₁ h₂ => ?_
  rw [List.getElem_map, List.getElem_range, List.getElem_eq_getD 0, leBytes_getD v (by simpa using h₁)]

/-! ### Lines -/

/-- A line of bytes is their number. -/
theorem toNat_lineOf {bs : List Byte} (h : bs.length = 64) : (lineOf bs).toNat = leNat bs := by
  have hlt := leNat_lt bs
  rw [h] at hlt
  rw [lineOf, BitVec.toNat_ofNat, Nat.mod_eq_of_lt (by omega)]

theorem lineBytes_lineOf {bs : List Byte} (h : bs.length = 64) : lineBytes (lineOf bs) = bs := by
  rw [lineBytes, toNat_lineOf h, ← h, leBytes_leNat]

@[simp] theorem Mem.length_read (m : List Host.Cell) (a n : Nat) : (Mem.read m a n).length = n := by simp [Mem.read_eq_map]

/-- Part of a run of bytes. -/
theorem Mem.read_drop_take (m : List Host.Cell) (a : Nat) {k n len : Nat} (h : k + n ≤ len) :
    ((Mem.read m a len).drop k).take n = Mem.read m (a + k) n := by
  rw [Mem.read_eq_map, Mem.read_eq_map]
  refine List.ext_getElem (by simp; omega) fun i h₁ h₂ => ?_
  simp [Nat.add_assoc]

/-- A field of a line of the store is the number of its bytes there. -/
theorem bits_lineOf_read (m : List Host.Cell) {a n : Nat} (h : a % 64 + n ≤ 64) :
    bits (lineOf (Mem.read m (64 * (a / 64)) 64)).toNat (8 * (a % 64)) (8 * n) = leNat (Mem.read m a n) := by
  rw [toNat_lineOf (Mem.length_read ..), bits_leNat, Mem.read_drop_take m _ h, Nat.div_add_mod]

/-! ### A partial store -/

/-- The mask of `n` bytes from the `k`-th on. -/
def runMask (k n : Nat) : Nat := (2 ^ n - 1) * 2 ^ k

theorem runMask_getLsbD {k n i : Nat} (hi : i < 64) : (BitVec.ofNat 64 (runMask k n)).getLsbD i = decide (k ≤ i ∧ i < k + n) := by
  rw [BitVec.getLsbD_ofNat, runMask, Nat.testBit_mul_two_pow, Nat.testBit_two_pow_sub_one, Bool.eq_iff_iff]
  simp only [Bool.and_eq_true, decide_eq_true_eq]
  omega

theorem length_filter_run {k n m : Nat} (h : k + n ≤ m) : ((List.range m).filter fun i => decide (k ≤ i ∧ i < k + n)).length = n := by
  have hcount : ∀ m, ((List.range m).filter fun i => decide (k ≤ i ∧ i < k + n)).length = min m (k + n) - min m k := fun m => by
    induction m with
    | zero => simp
    | succ m ih =>
      rw [List.range_succ, List.filter_append, List.length_append, ih]
      by_cases hm : k ≤ m ∧ m < k + n
      · simp [hm]; omega
      · simp [hm]; omega
  rw [hcount]
  omega

/-- It covers `n` bytes. -/
theorem runMask_count {k n : Nat} (h : k + n ≤ 64) : ((List.range 64).filter fun i => (BitVec.ofNat 64 (runMask k n)).getLsbD i).length = n := by
  rw [List.filter_congr fun i hi => runMask_getLsbD (List.mem_range.1 hi), length_filter_run h]

/-- It is not the mask of a whole line. -/
theorem runMask_ne_all {k n : Nat} (h : k + n ≤ 64) (hn : n < 64) : runMask k n ≠ 2 ^ 64 - 1 := fun he => by
  have hcount := runMask_count h
  rw [he] at hcount
  have hall : ((List.range 64).filter fun i => (BitVec.ofNat 64 (2 ^ 64 - 1)).getLsbD i).length = 64 := by decide
  omega

/-- `n` bytes of a number, as they stand in a line from the `k`-th on. -/
def runData (k v : Nat) : Line := BitVec.ofNat 512 (v * 2 ^ (8 * k))

theorem runData_byte {k n v i : Nat} (h : k + n ≤ 64) (hv : v < 256 ^ n) (hi : k ≤ i ∧ i < k + n) :
    (lineBytes (runData k v)).getD i 0 = BitVec.ofNat 8 (v / 256 ^ (i - k)) := by
  have hlt : v * 256 ^ k < 256 ^ 64 :=
    calc v * 256 ^ k < 256 ^ n * 256 ^ k := Nat.mul_lt_mul_of_pos_right hv (by positivity)
      _ = 256 ^ (n + k) := (Nat.pow_add ..).symm
      _ ≤ 256 ^ 64 := Nat.pow_le_pow_right (by decide) (by omega)
  have hsplit : 256 ^ i = 256 ^ (i - k) * 256 ^ k := by rw [← Nat.pow_add]; congr 1; omega
  rw [lineBytes, leBytes_getD _ (by omega), runData, BitVec.toNat_ofNat, two_pow_eight, Nat.mod_eq_of_lt (by omega), hsplit,
    Nat.mul_div_mul_right _ _ (by positivity)]

section
variable {s₀ : State}

/-- The line at address `a` with `n` bytes from `a` on taken from a number. -/
def State.patched (s : State) (a n v : Nat) : Line :=
  mergeLine (BitVec.ofNat 64 (runMask (a % 64) n)) (s.lineAt a).data (runData (a % 64) v)

/-- Bytes of the store after a partial store of `n` bytes of a number within a good line. -/
theorem Run.setLine_patched_get (r : Run s₀) {a n v : Nat} (h : a % 64 + n ≤ 64) (hv : v < 256 ^ n) (ha : a < 2 ^ 62)
    (hgood : (r.cur.lineAt a).poison = false) (x : Nat) :
    Mem.get (r.setLine .mem (lineNo a) (good (r.cur.patched a n v))).cur.mem x
      = if a ≤ x ∧ x < a + n then BitVec.ofNat 8 (v / 256 ^ (x - a)) else Mem.get r.cur.mem x := by
  have hline : lineNo a = a / 64 := by unfold lineNo bits; omega
  have hcur : (r.cur.lineAt a).data = lineOf (Mem.read r.cur.mem (64 * (a / 64)) 64) := by
    unfold State.lineAt at hgood ⊢
    split
    · rename_i hbad; rw [if_pos hbad] at hgood; cases hgood
    · rw [hline]; rfl
  have hold (i : Nat) (hi : i < 64) : (lineBytes (r.cur.lineAt a).data).getD i 0 = Mem.get r.cur.mem (64 * (a / 64) + i) := by
    rw [hcur, lineBytes_lineOf (Mem.length_read ..), Mem.read_eq_map]
    simp [hi]
  show Mem.get (Mem.write r.cur.mem (64 * lineNo a) (lineBytes (r.cur.patched a n v))) x = _
  rw [hline, State.patched, mergeLine, lineBytes_lineOf (by simp), Mem.get_write, List.length_map, List.length_range]
  by_cases hin : 64 * (a / 64) ≤ x ∧ x < 64 * (a / 64) + 64
  · have hi : x - 64 * (a / 64) < 64 := by omega
    rw [if_pos hin, List.getD_eq_getElem?_getD, List.getElem?_map, List.getElem?_range hi, Option.map_some, Option.getD_some,
      runMask_getLsbD hi]
    by_cases hrun : a ≤ x ∧ x < a + n
    · have hk : a % 64 ≤ x - 64 * (a / 64) ∧ x - 64 * (a / 64) < a % 64 + n := by omega
      rw [if_pos hrun, if_pos (decide_eq_true hk), runData_byte h hv hk]
      congr 3
      omega
    · have hk : ¬ (a % 64 ≤ x - 64 * (a / 64) ∧ x - 64 * (a / 64) < a % 64 + n) := by omega
      rw [if_neg hrun, if_neg (by simpa using hk), hold _ hi]
      congr 1
      omega
  · rw [if_neg hin, if_neg (by omega)]

/-- They are the bytes of the number, and no others have changed. -/
theorem Run.setLine_patched_read (r : Run s₀) {a n v : Nat} (h : a % 64 + n ≤ 64) (hv : v < 256 ^ n) (ha : a < 2 ^ 62)
    (hgood : (r.cur.lineAt a).poison = false) :
    Mem.read (r.setLine .mem (lineNo a) (good (r.cur.patched a n v))).cur.mem a n = leBytes n v := by
  rw [Mem.read_eq_map, leBytes_eq_map]
  refine List.map_congr_left fun i hi => ?_
  have := List.mem_range.1 hi
  rw [r.setLine_patched_get h hv ha hgood, if_pos (by omega), Nat.add_sub_cancel_left]

theorem Run.setLine_patched_onlyBytes (r : Run s₀) {a n v : Nat} (h : a % 64 + n ≤ 64) (hv : v < 256 ^ n) (ha : a < 2 ^ 62)
    (hgood : (r.cur.lineAt a).poison = false) :
    OnlyBytes r.cur (r.setLine .mem (lineNo a) (good (r.cur.patched a n v))).cur a n where
  bytes x hx := by rw [r.setLine_patched_get h hv ha hgood, if_neg (by omega)]
  flash := rfl
  copy := rfl
  bad := by
    have hmark : lineNo a ∉ r.cur.bad := fun hm => by
      unfold State.lineAt at hgood
      rw [if_pos (List.contains_iff_mem.2 hm)] at hgood
      cases hgood
    exact List.filter_eq_self.2 fun k hk => by
      have hne : k ≠ lineNo a := fun he => hmark (he ▸ hk)
      simpa using hne
  fbad := rfl
  cbad := rfl

end

end Sys2Proof.Machine
end

section
/-! PROOFS. Lines that a pair reads and writes at once: of its partition, in class G, where nothing is under way (R211, R234, R248). -/
namespace Sys2Proof.Machine

/-- A pair's accesses to store addresses in class G. -/
structure Eng.Plain (e : Eng) (n part queue : Nat) : Prop where
  pair : e.n = n
  part : e.part = part
  queue : e.queue = queue
  virt : e.virt = false
  cls : e.cls = 3

/-- Where nothing is under way, a class G request for an unprotected line in SRAM or placed DRAM, of the request's partition, is performed at
once, whatever its deadline. -/
theorem Dev.check_plain {d : Dev} (idle : d.Idle) (x : Ctx) {g : GEnt} (a : Nat) (op : HOp) (hcls : x.q.cls = 3) (hpart : g.part = x.q.part)
    (ht : g.tier < 2) (hs : g.state = 0) (hp : g.prot = false) : d.check x g a op = .go := by
  have htier : (g.tier == 2) = false := beq_eq_false_iff_ne.2 (by omega)
  have hfinal : d.finalPass (extentOf a) = false := by unfold Dev.finalPass; rw [idle.exts]; rfl
  unfold Dev.check
  simp [idle.revokes, idle.revoked, idle.assigned, idle.quar, idle.txns, idle.moves, hcls, hpart, htier, hs, hp, d.place_plain a ht, hfinal,
    Dev.homeBound, Dev.dirties]

/-- A line that a pair may read and write: as `Dev.OwnLine`, and unprotected. -/
structure Dev.FreeLine (d : Dev) (e : Eng) (a : Nat) (g : GEnt) : Prop extends Dev.OwnLine d e a g where
  prot : g.prot = false
  cls : e.cls = 3

section
variable {s₀ : State} (r : Run s₀) {e : Eng} {a : Nat} {g : GEnt} (h : r.d.FreeLine e a g)
include h

theorem Run.engRoutes_freeLine : r.engRoutes e [a] = (.ok [], r) := by
  unfold Run.engRoutes
  simp [Dev.route_here h.found]

theorem Run.check_freeLine (x : Ctx) (op : HOp) (hq : x.q.cls = e.cls) (hpart : x.q.part = e.part) : r.d.check x g a op = .go :=
  Dev.check_plain h.toIdle x a op (hq.trans h.cls) (h.part.trans hpart.symm) h.tier h.state h.prot

theorem Run.engChecks_freeLine (code : Nat) (op : HOp) : r.engChecks e code [(a, op)] = (.ok (), r) := by
  unfold Run.engChecks
  simp only [List.zipIdx_cons, List.zipIdx_nil, List.filterMap_cons, h.found, Option.map_some, List.filterMap_nil]
  rw [r.check_freeLine h _ op rfl rfl]
  rfl

/-! ### Reading -/

/-- The line is read as it stands, and nothing changes. -/
theorem Run.engLines_freeLine : r.engLines e [a] = (.lines [(lineNo a, r.home a)], r) := by
  have hgone : r.d.lostAmong e [a] = [] := by
    unfold Dev.lostAmong
    simp [Dev.route_here h.found, h.found, r.check_freeLine h (r.d.engCtx e 0x01 a) .read rfl rfl]
  have hserved : r.engServed e.n [a] = r := by
    unfold Run.engServed
    rw [h.creds]
    rfl
  unfold Run.engLines
  simp [hgone, r.engRoutes_freeLine h, h.found, r.engChecks_freeLine h, Run.engAsk, r.d.place_plain a h.tier, r.ready_ownLine h.toOwnLine,
    hserved, h.cls]

/-! ### Writing -/

/-- A write of it may go out. -/
theorem Run.engMay_freeLine (w : EWr) (hw : w.la = a) : r.engMay e [w] none = (.ok [], r) := by
  subst hw
  have hports : r.engPorts e 0x02 2 [] = (.ok (), r) := by unfold Run.engPorts; simp
  unfold Run.engMay
  simp [r.engRoutes_freeLine h, Dev.ctrCheck, h.found, r.engChecks_freeLine h, hports]

end

/-- The job of a pair's line write without a counter. -/
def EWr.job (w : EWr) (e : Eng) (last : Bool) (now : Nat) : Job :=
  { src := .pair e.n, reply := .pair e.n, part := some e.part, code := w.code, addr := w.la, lines := 1, unit := last, left := 1, began := now
    cls := e.cls, grans := [granuleOf w.la] }

section
variable {s₀ : State}

/-- A pair's line write stands at its home. -/
def Run.storing (r : Run s₀) (e : Eng) (w : EWr) (last : Bool) : Run s₀ :=
  (r.updPair e.n fun p => { p with sent := p.sent + 1 }).mod fun d =>
    { d with jobs := d.jobs.set r.d.jnext (w.job e last r.now), jnext := r.d.jnext + 1 }

/-- The end of a pair's one job, of one line, is its end for the pair, whose chain it leaves. -/
theorem Run.lineDone_pair (r : Run s₀) {id : Nat} {e : Eng} {w : EWr} {last : Bool} {now : Nat} (hjobs : r.d.jobs = [(id, w.job e last now)])
    (hfences : r.d.fences = []) (hrevokes : r.d.revokes = []) (c : Compl) (data : DLine) (bytes : Nat) :
    ∃ f : Pair → Pair, (∀ p, (f p).chain = p.chain)
      ∧ r.lineDone id 0 c data bytes = (r.mod fun d => { d with jobs := [] }).updPair e.n f := by
  have hjobs' : r.cur.dev.jobs = [(id, w.job e last now)] := hjobs
  unfold Run.lineDone Run.finishJob
  simp only [Run.d, Run.mod_dev, hjobs', Tab.upd, Tab.get?_single, Tab.set, if_true, EWr.job, Nat.sub_self, bne_self_eq_false,
    Bool.false_eq_true, if_false, Run.credit, Run.grantReq, srcPort, Run.reply, Run.performed, ite_self]
  refine ⟨_, ?_, congrArg (fun t : Run s₀ => t.updPair e.n _) (Run.ext' ?_)⟩
  · exact fun p => rfl
  · have hfences' : r.cur.dev.fences = [] := hfences
    have hrevokes' : r.cur.dev.revokes = [] := hrevokes
    have hfabric : { r.cur.dev.toFabricSt with fences := [] } = r.cur.dev.toFabricSt := by rw [← hfences']
    have hparts : { r.cur.dev.toPartSt with revokes := [] } = r.cur.dev.toPartSt := by rw [← hrevokes']
    simpa [Run.mod, hjobs', Tab.set, hfences', hrevokes'] using ⟨hfabric, hparts⟩

/-- Nothing holds up a write of a line at its home. -/
structure Dev.Unhindered (d : Dev) (a : Nat) (g : GEnt) : Prop where
  found : d.g? a = some g
  tier : g.tier < 2
  state : g.state = 0
  prot : g.prot = false
  txns : d.txns = []
  dir : d.dir = []
  comb : d.comb = []
  fills : d.fills = []

section
variable (r : Run s₀) {a : Nat} {g : GEnt} (h : r.d.Unhindered a g)
include h

/-- A change of the line is made in its tier, and nothing waits for it. -/
theorem Run.change_unhindered (x : DLine) (cls : Nat) (k : TKind) : r.change a x cls k = (false, r.setLine .mem (lineNo a) x) := by
  have htier : g.tier ≠ 2 := by have := h.tier; omega
  have hput : r.put a x = r.setLine .mem (lineNo a) x := by
    unfold Run.put
    simp [h.found, h.state, Run.putTier, htier]
  unfold Run.change
  simp [h.found, hput, Dev.points, h.prot]

theorem Run.settle_unhindered : r.settle (lineNo a) = r := by unfold Run.settle; rw [h.dir]; rfl

theorem Dev.Unhindered.behind (id : Nat) : r.d.behind id a = false := by unfold Dev.behind; rw [h.fills]; rfl

/-- A partial store to a good line is performed on the line as it stands. -/
theorem Run.serve_part (id : Nat) (m : BitVec 64) (x : Line) (hgood : (r.home a).poison = false) :
    r.serve id 0 a (.part m (good x))
      = (r.setLine .mem (lineNo a) (good (mergeLine m (r.home a).data x))).lineDone id 0 (Compl.of .ok) bad (opBytes (.part m (good x))) := by
  have hmerge : r.mergeComb a = r := by unfold Run.mergeComb; rw [h.comb]; rfl
  have hperform (cls : Nat) : r.performAt id 0 a (.part m (good x)) (r.home a) cls
      = (r.setLine .mem (lineNo a) (good (mergeLine m (r.home a).data x))).lineDone id 0 (Compl.of .ok) bad (opBytes (.part m (good x))) := by
    unfold Run.performAt perform
    simp [hgood, good, r.change_unhindered h]
  unfold Run.serve
  simp [h.txns, h.found, r.settle_unhindered h, hmerge, h.behind, r.d.place_plain a h.tier, h.dir, hperform]

/-- A reduction of a good line stands in the combining cache, read where it has no entry (R203). -/
theorem Run.serve_reduce (id : Nat) (o : ROp) (t : EType) (x : Line) (hgood : (r.home a).poison = false) :
    r.serve id 0 a (.reduce o t (good x))
      = (r.mod fun d => { d with comb := [(lineNo a, ⟨good (reduceLine o t (r.home a).data x), d.now⟩)] }).lineDone id 0
        (Compl.of .ok) bad 64 := by
  have hset : (r.mod fun d => { d with comb := d.comb.set (lineNo a) ⟨good (reduceLine o t (r.home a).data x), d.now⟩ })
      = r.mod fun d => { d with comb := [(lineNo a, ⟨good (reduceLine o t (r.home a).data x), d.now⟩)] } :=
    Run.ext' (by simp [Run.mod, show r.cur.dev.comb = [] from h.comb, Tab.set])
  have hcombine : r.combine id 0 a (.reduce o t (good x))
      = (r.mod fun d => { d with comb := [(lineNo a, ⟨good (reduceLine o t (r.home a).data x), d.now⟩)] }).lineDone id 0
        (Compl.of .ok) bad 64 := by
    unfold Run.combine perform
    simp [h.comb, hgood, good]
    exact congrArg (fun t : Run s₀ => t.lineDone id 0 (Compl.of .ok) bad 64) hset
  unfold Run.serve
  simp [h.txns, h.found, r.settle_unhindered h, h.behind, r.d.place_plain a h.tier, h.dir, h.prot, hcombine]

end

/-- Beside the bytes of the store, a line write of pair `n` that is performed at once leaves what waits inside the device, and its chain. -/
structure PairPut (a b : State) (n : Nat) : Prop where
  waiting : b.dev.waiting = a.dev.waiting
  chain : (b.dev.pair n).chain = (a.dev.pair n).chain

section
variable (r : Run s₀) {e : Eng} {w : EWr} {g : GEnt} (h : r.d.FreeLine e w.la g)
include h

/-- It is served at its home at once. -/
theorem Run.engPut_storing (last : Bool) :
    r.engPut e w none none last = (r.storing e w last).serve r.d.jnext 0 w.la w.op ∧ (r.storing e w last).d.Unhindered w.la g
      ∧ (r.storing e w last).d.jobs = [(r.d.jnext, w.job e last r.now)] := by
  have hcharge (t : Run s₀) (x : Ctx) (op : HOp) (hx : x.q.cls = 3) : t.chargeLine x g w.la op = t := by
    have htier : g.tier ≠ 2 := by have := h.tier; omega
    unfold Run.chargeLine
    simp [hx, Dev.dirties, htier]
  have hserved : (r.storing e w last).engServed e.n [w.la] = r.storing e w last := by
    have hcreds : ((r.storing e w last).d.pair e.n).creds = [] := by
      show (Dev.pair _ _).creds = []
      rw [Run.storing, Run.updPair, Dev.pair]
      simp only [Run.d, Run.mod_dev, Tab.getD_set_self]
      exact h.creds
    unfold Run.engServed
    rw [hcreds]
    rfl
  refine ⟨?_, ⟨h.found, h.tier, h.state, h.prot, h.txns, h.dir, h.comb, h.fills⟩, ?_⟩
  · have hg : (r.storing e w last).d.g? w.la = some g := h.found
    have hput : r.engPut e w none none last = ((match (r.storing e w last).d.g? w.la with
          | some g => (r.storing e w last).chargeLine ((r.storing e w last).d.engCtx e w.code w.la) g w.la w.op
          | none => r.storing e w last).engServed e.n [w.la]).serve r.d.jnext 0 w.la w.op := rfl
    rw [hput, hg]
    dsimp only
    rw [hcharge _ _ _ h.cls, hserved]
  · show r.cur.dev.jobs.set _ _ = _
    rw [show r.cur.dev.jobs = [] from h.jobs]
    rfl

/-- It leaves nothing under way. -/
theorem Run.storing_done (last : Bool) (t : Run s₀) (ht : ∃ cb, t.d = { (r.storing e w last).d with comb := cb })
    (c : Compl) (data : DLine) (bytes : Nat) : SameBytes t.cur (t.lineDone r.d.jnext 0 c data bytes).cur
      ∧ PairPut r.cur (t.lineDone r.d.jnext 0 c data bytes).cur e.n ∧ (t.lineDone r.d.jnext 0 c data bytes).d.comb = t.d.comb := by
  obtain ⟨cb, ht⟩ := ht
  have hjobs : t.d.jobs = [(r.d.jnext, w.job e last r.now)] := by
    rw [ht]
    exact (r.engPut_storing h last).2.2
  obtain ⟨f, hf, hdone⟩ := t.lineDone_pair hjobs (by rw [ht]; exact h.fences) (by rw [ht]; exact h.revokes) c data bytes
  rw [hdone]
  refine ⟨⟨rfl, rfl, rfl, rfl, rfl, rfl⟩, ⟨?_, ?_⟩, rfl⟩
  · show (t.d).waiting = _
    rw [ht]
    rfl
  · rw [Run.updPair, Dev.pair]
    simp only [Run.mod_dev, Tab.getD_set_self, hf]
    show (t.d.pair e.n).chain = _
    rw [ht, Run.storing, Run.updPair]
    simp only [Dev.pair, Run.d, Run.mod_dev, Tab.getD_set_self]

/-- A partial store of a pair to a good line writes the line. -/
theorem Run.engPut_part (last : Bool) {x : Line} (hcode : w.code = 0x03) (hdata : w.data = good x) (hgood : (r.home w.la).poison = false) :
    SameBytes (r.setLine .mem (lineNo w.la) (good (mergeLine w.mask (r.home w.la).data x))).cur (r.engPut e w none none last).cur
      ∧ PairPut r.cur (r.engPut e w none none last).cur e.n := by
  obtain ⟨hput, free, -⟩ := r.engPut_storing h last
  have hop : w.op = .part w.mask (good x) := by unfold EWr.op; simp [hcode, hdata]
  rw [hput, hop, Run.serve_part _ free _ _ _ hgood]
  obtain ⟨hbytes, hput, -⟩ := r.storing_done h last
    ((r.storing e w last).setLine .mem (lineNo w.la) (good (mergeLine w.mask (r.home w.la).data x))) ⟨_, rfl⟩ (Compl.of .ok) bad
    (opBytes (.part w.mask (good x)))
  exact ⟨⟨hbytes.mem, hbytes.flash, hbytes.copy, hbytes.bad, hbytes.fbad, hbytes.cbad⟩, hput⟩

/-- A reduction of a pair into a good line stands in the combining cache, and the store keeps its bytes. -/
theorem Run.engPut_reduce (last : Bool) {t : EType} {x : Line} (hcode : w.code = 0x08 ∨ w.code = 0x09 ∨ w.code = 0x0A)
    (het : EType.of? w.et = some t) (hdata : w.data = good x) (hgood : (r.home w.la).poison = false) :
    SameBytes r.cur (r.engPut e w none none last).cur ∧ PairPut r.cur (r.engPut e w none none last).cur e.n
      ∧ ((r.engPut e w none none last).d.comb.get? (lineNo w.la)).map (·.data)
        = some (good (reduceLine (ropOf w.code) t (r.home w.la).data x)) := by
  obtain ⟨hput, free, -⟩ := r.engPut_storing h last
  have hop : w.op = .reduce (ropOf w.code) t (good x) := by
    unfold EWr.op
    rcases hcode with hc | hc | hc <;> simp [hc, het, hdata]
  rw [hput, hop, Run.serve_reduce _ free _ _ _ _ hgood]
  obtain ⟨hbytes, hput, hcomb⟩ := r.storing_done h last ((r.storing e w last).mod fun d =>
    { d with comb := [(lineNo w.la, ⟨good (reduceLine (ropOf w.code) t (r.home w.la).data x), d.now⟩)] }) ⟨_, rfl⟩ (Compl.of .ok) bad 64
  refine ⟨⟨hbytes.mem, hbytes.flash, hbytes.copy, hbytes.bad, hbytes.fbad, hbytes.cbad⟩, hput, ?_⟩
  have hcomb' := congrArg (fun t => (Tab.get? t (lineNo w.la)).map (·.data)) hcomb
  exact hcomb'.trans (by simp)

end

end

end Sys2Proof.Machine
end

section
/-! PROOFS. Moulds and tiles of one element: its place, its line, its bytes there (R233-R235). -/
namespace Sys2Proof.Machine

/-! ### Element types that are not MX (Table 8-8) -/

/-- An element is a unit of one, two, four or eight bytes. -/
structure Elem.Whole (t : Elem) : Prop where
  per : t.per = 1
  width : t.w = 8 * t.unit
  unit : t.unit = 1 ∨ t.unit = 2 ∨ t.unit = 4 ∨ t.unit = 8

theorem elem?_whole {c : Nat} {t : Elem} (h : elem? c = some t) (hmx : t.isMx = false) : t.Whole := by
  unfold elem? at h
  dsimp only at h
  split at h
  any_goals cases h
  any_goals exact ⟨rfl, rfl, by simp⟩
  all_goals cases hmx

theorem elem?_code {c : Nat} {t : Elem} (h : elem? c = some t) : t.code = c := by
  unfold elem? at h
  dsimp only at h
  split at h <;> cases h <;> rfl

/-- The type of a mould that is not MX. -/
theorem Mould.t_whole (m : Mould) (h : m.t.isMx = false) : m.t.Whole := by
  unfold Mould.t at h ⊢
  cases he : elem? m.code with
  | none => exact ⟨rfl, rfl, by simp⟩
  | some t =>
    rw [he] at h
    exact elem?_whole he h

/-- A mould record that keeps the rules of R233 names a type. -/
theorem mouldOf_t_code {b : List Byte} (h : (mouldOf b).ok = true) : (mouldOf b).t.code = (mouldOf b).code := by
  have hsome : (elem? (mouldOf b).code).isSome = true := by
    simp only [mouldOf, Bool.and_eq_true] at h
    exact h.1.1.1.1.1.1.1.1
  obtain ⟨t, ht⟩ := Option.isSome_iff_exists.1 hsome
  rw [Mould.t, ht]
  exact elem?_code ht

/-! ### A mould of one element -/

theorem Mould.off_zero (m : Mould) : m.off 0 0 0 = 0 := by simp [Mould.off]

theorem Mould.at_zero (m : Mould) (a : Nat) : m.at_ a (0, 0, 0) = a := by simp [Mould.at_, m.off_zero]

section
variable {m : Mould} (h : m.One)
include h

theorem Mould.One.whole : m.t.Whole := m.t_whole h.type

theorem Mould.One.n0 : m.n0 = 1 := by rw [Mould.n0, h.n]; rfl
theorem Mould.One.n1 : m.n1 = 1 := by rw [Mould.n1, h.n]; rfl
theorem Mould.One.n2 : m.n2 = 1 := by rw [Mould.n2, h.n]; rfl
theorem Mould.One.v0 : m.v0 = 1 := by rw [Mould.v0, h.v]; rfl
theorem Mould.One.v1 : m.v1 = 1 := by rw [Mould.v1, h.v]; rfl
theorem Mould.One.v2 : m.v2 = 1 := by rw [Mould.v2, h.v]; rfl
theorem Mould.One.count : m.count = 1 := by rw [Mould.count, h.n0, h.n1, h.n2]

theorem Mould.One.units : m.units = [(0, 0, 0)] := by simp [Mould.units, h.v0, h.v1, h.v2, h.whole.per]

theorem Mould.One.span : m.span = some (0, 0) := by simp [Mould.span, h.v0, h.v1, h.v2, h.whole.per, m.off_zero]

theorem Mould.One.ready_le : m.ready ≤ 65536 := by
  unfold Mould.ready
  dsimp only
  rw [h.type, h.n0, h.n1, h.n2, if_neg (by decide)]
  rcases h.whole.unit with hu | hu | hu | hu <;> rw [hu] <;> decide

/-- It keeps R233 and R235 at an aligned address. -/
theorem Mould.One.fits {a : Nat} (ha : a % m.t.unit = 0) (hrange : a + m.t.unit ≤ 2 ^ 62) : m.fits false a = true := by
  unfold Mould.fits
  simp [h.ready_le, h.plain, ha, h.span]
  omega

/-- An aligned element lies within one line. -/
theorem Mould.One.within {a : Nat} (ha : a % m.t.unit = 0) : a % 64 + m.t.unit ≤ 64 := by
  rcases h.whole.unit with hu | hu | hu | hu <;> rw [hu] at ha ⊢ <;> omega

theorem Mould.One.unit_pos : 0 < m.t.unit := by
  rcases h.whole.unit with hu | hu | hu | hu <;> omega

theorem Mould.One.unit_le : m.t.unit ≤ 8 := by
  rcases h.whole.unit with hu | hu | hu | hu <;> omega

theorem Mould.One.lines {a : Nat} (ha : a % m.t.unit = 0) : m.lines a = [a / 64] := by
  have hwithin := h.within ha
  have hpos := h.unit_pos
  have hend : (a + m.t.unit - 1) / 64 = a / 64 := by omega
  unfold Mould.lines
  simp [h.units, m.at_zero, h.type, hend]

/-! ### Reading it -/

/-- The tile that a line holds is the element at its address. -/
theorem Mould.One.tileOf {a : Nat} (ha : a % m.t.unit = 0) (s : State) (x : DLine) (hx : x = good (lineOf (Mem.read s.mem (64 * (a / 64)) 64))) :
    m.tileOf a [(a / 64, x)] = #[s.elem m a] := by
  have hwithin := h.within ha
  have hpos := h.unit_pos
  have hend : (a + m.t.unit - 1) / 64 = a / 64 := by omega
  have hlt := leNat_lt (Mem.read s.mem a m.t.unit)
  rw [Mem.length_read, ← two_pow_eight, ← h.whole.width] at hlt
  have hbytes : bytesIn [(a / 64, x)] a m.t.unit = (leNat (Mem.read s.mem a m.t.unit), false) := by
    unfold bytesIn lineIn
    simp [hend, hx, good, bits_lineOf_read s.mem hwithin]
  have hbits : bits (leNat (Mem.read s.mem a m.t.unit)) 0 m.t.w = leNat (Mem.read s.mem a m.t.unit) := by
    rw [bits, pow_zero, Nat.div_one, Nat.mod_eq_of_lt hlt]
  unfold Mould.tileOf Mould.fill State.elem
  simp [h.n0, h.n1, h.n2, h.v0, h.v1, h.v2, h.whole.per, m.at_zero, h.type, hbytes, hbits]

/-! ### Writing it -/

/-- One line being built, in which `j` bytes of a number stand from byte `k` on. -/
def lineRun (l k j v : Nat) : Tab LineW := [(l, runMask k j, v % 2 ^ (8 * j) * 2 ^ (8 * k), false)]

omit h in
theorem putByte_lineRun (n : Nat) {a j : Nat} (v : Nat) (hj : a % 64 + j < 64) :
    putByte n (lineRun (a / 64) (a % 64) j v) (a + j) (bits v (8 * j) 8) false = lineRun (a / 64) (a % 64) (j + 1) v := by
  have hline : (a + j) / 64 = a / 64 := by omega
  have hbyte : (a + j) % 64 = a % 64 + j := by omega
  have hfree : bit (runMask (a % 64) j) (a % 64 + j) = false := by
    have hlt : runMask (a % 64) j < 2 ^ (a % 64 + j) := by
      rw [runMask, Nat.pow_add, Nat.mul_comm]
      exact Nat.mul_lt_mul_of_pos_left (Nat.sub_lt (by positivity) Nat.one_pos) (by positivity)
    rw [bit, Nat.div_eq_of_lt hlt]
    rfl
  have hmask : runMask (a % 64) j + 2 ^ (a % 64 + j) = runMask (a % 64) (j + 1) := by
    have := Nat.one_le_two_pow (n := j)
    rw [runMask, runMask, Nat.pow_add, Nat.mul_comm (2 ^ (a % 64)), ← Nat.add_mul, Nat.pow_succ]
    congr 1
    omega
  have hdata : v % 2 ^ (8 * j) * 2 ^ (8 * (a % 64)) + bits v (8 * j) 8 * 2 ^ (8 * (a % 64 + j))
      = v % 2 ^ (8 * (j + 1)) * 2 ^ (8 * (a % 64)) := by
    rw [bits, Nat.mul_add, Nat.mul_add, Nat.pow_add 2 (8 * j), Nat.mod_mul, Nat.pow_add 2 (8 * (a % 64))]
    ring
  unfold putByte lineRun
  simp [hline, hbyte, Tab.getD, Tab.get?_single, hfree, hmask, hdata, Tab.set]

omit h in
theorem putBytes_nil (n : Nat) {a len : Nat} (v : Nat) (hpos : 0 < len) (hlen : a % 64 + len ≤ 64) :
    putBytes n [] a len v false = lineRun (a / 64) (a % 64) len v := by
  induction len with
  | zero => omega
  | succ len ih =>
    unfold putBytes at ih ⊢
    rw [List.range_succ, List.foldl_append, List.foldl_cons, List.foldl_nil]
    rcases Nat.eq_zero_or_pos len with rfl | hlen'
    · simp [putByte, lineRun, runMask, Tab.getD, Tab.set, bit, bits]
    · rw [ih hlen' (by omega), putByte_lineRun n v (by omega)]

/-- The lines of a tile of the element `v`: one line, in which the element's bytes stand. -/
theorem Mould.One.cut {a : Nat} (ha : a % m.t.unit = 0) (n : Nat) (x : TE) (hx : x.bad = false) :
    m.cut n a #[x] = lineRun (a / 64) (a % 64) m.t.unit x.v := by
  have hpack : putBytes n [] a m.t.unit (x.v % 2 ^ m.t.w) false = lineRun (a / 64) (a % 64) m.t.unit x.v := by
    rw [putBytes_nil n _ h.unit_pos (h.within ha), lineRun, lineRun, h.whole.width, Nat.mod_mod]
  unfold Mould.cut
  simp [h.units, m.at_zero, h.n0, h.n1, h.whole.per, h.type, hx, packUnit, hpack]

end

end Sys2Proof.Machine
end

section
/-! PROOFS. A tile operation on tiles of one element up to its results: it starts, reads its moulds, translates its tiles, passes the gate and
reads its tiles (R73, R211, R232-R235, R243). -/
namespace Sys2Proof.Machine

/-- Pair `n` works on the descriptor of chain `c`, begun in state `a`, and has written nothing yet: of the device, the pairs and what they have
had cleaned alone may have changed, and the bytes that it keeps for the descriptor are those of the store. -/
structure Working (a b : State) (n : Nat) (c : Chain) : Prop where
  dev : ∃ pr rd, b.dev = { a.dev with pairs := pr, readied := rd }
  bytes : SameBytes a b
  chain : (b.dev.pair n).chain = some { c with stage := .busy, began := a.dev.now }
  lost : (b.dev.pair n).lostLn = []
  creds : (b.dev.pair n).creds = []
  kept : ∀ k ∈ (b.dev.pair n).kept, k.2.length = 64 → k.2 = a.bytesAt k.1

/-- A command that asks for a kind of descriptor, at one of that kind. -/
theorem Run.op_kind {s₀ : State} (r : Run s₀) {n code : Nat} {kind : List Byte → Bool} {c : Chain} (hc : (r.d.pair n).chain = some c)
    (hkind : kind c.desc = true) (k : Eng → List Byte → Run s₀ → Run s₀) : r.op n code kind k = r.op n code anyKind k := by
  unfold Run.op
  dsimp only
  rw [hc]
  dsimp only
  rw [hkind, show anyKind c.desc = true from rfl]

section
variable {s : State} {n : Nat} {c : Chain}

/-- A pair that stands at a descriptor of a tile operation begins it. -/
theorem Dev.Engine.works {code : Nat} {b : List Byte} (h : s.dev.Engine n code b c) (hfixed : dFixed code = false) {kind : List Byte → Bool}
    (hkind : kind b = true) (k : Eng → List Byte → Run s → Run s) :
    ∃ (r : Run s) (e : Eng), Working s r.cur n c ∧ e.Plain n c.part c.queue ∧ (Run.start s).op n code kind k = k e b r := by
  have hop := (Run.start s).op_kind (code := code) (kind := kind) h.chain (by rw [h.desc]; exact hkind) k
  have hcls : dCls c.desc = 3 := by rw [h.desc]; exact h.cls.resolve_left (by rw [hfixed]; exact Bool.false_ne_true)
  refine ⟨(Run.start s).mod (·.starting n), s.dev.engOf n { c with began := s.dev.now }, ?_, ?_, hop.trans (h.begins k)⟩
  · refine ⟨⟨_, _, rfl⟩, (Run.start s).mod_sameBytes _, h.starting_chain, ?_, ?_, ?_⟩ <;>
      simp [Dev.pair, Dev.starting]
  · exact ⟨rfl, rfl, rfl, h.engOf_plain, hcls⟩

section
variable {r : Run s} (w : Working s r.cur n c)
include w

theorem Working.o (i x u : Nat) : r.d.o i x u = s.dev.o i x u := by
  obtain ⟨_, _, e⟩ := w.dev
  exact Dev.o_congr (by rw [Run.d, e]) i x u

/-- A change of the pair that leaves its chain and what it has read. -/
theorem Working.updPair (f : Pair → Pair) (hchain : (f (r.d.pair n)).chain = (r.d.pair n).chain)
    (hlost : (f (r.d.pair n)).lostLn = (r.d.pair n).lostLn) (hcreds : (f (r.d.pair n)).creds = (r.d.pair n).creds)
    (hkept : ∀ k ∈ (f (r.d.pair n)).kept, k.2.length = 64 → k.2 = s.bytesAt k.1) : Working s (r.updPair n f).cur n c := by
  obtain ⟨dev, bytes, chain, lost, creds, -⟩ := w
  have hpair : (r.updPair n f).cur.dev.pair n = f (r.d.pair n) := by
    rw [Run.updPair, Dev.pair]
    exact Tab.getD_set_self ..
  obtain ⟨pr, rd, e⟩ := dev
  refine ⟨⟨r.d.pairs.set n (f (r.d.pair n)), rd, congrArg (fun d : Dev => { d with pairs := r.d.pairs.set n (f (r.d.pair n)) }) e⟩,
    bytes.trans (r.updPair_sameBytes n f), ?_, ?_, ?_, ?_⟩
  · rw [hpair, hchain, chain]
  · rw [hpair, hlost, lost]
  · rw [hpair, hcreds, creds]
  · rw [hpair]
    exact hkept

theorem Working.draw : Working s r.draw.2.cur n c :=
  ⟨w.dev, ⟨w.bytes.mem, w.bytes.flash, w.bytes.copy, w.bytes.bad, w.bytes.fbad, w.bytes.cbad⟩, w.chain, w.lost, w.creds, w.kept⟩

/-- A line of the store stands as it did. -/
theorem Working.home (a : Nat) : r.home a = s.lineAt a := w.bytes.lineAt a

section
variable (idle : s.dev.Idle) {e : Eng} {q : Nat} (he : e.Plain n c.part q)
include idle he

/-- The pair may read and write the lines of its partition at once. -/
theorem Working.freeLine {a : Nat} (hplaced : s.dev.Placed a c.part) : ∃ g, r.d.FreeLine e a g := by
  obtain ⟨g, hg, htier, hstate, hprot, hpart⟩ := hplaced
  obtain ⟨pr, rd, hdev⟩ := w.dev
  have hcreds : (r.d.pair e.n).creds = [] := by rw [he.pair]; exact w.creds
  have hidle : r.d.Idle := by rw [Run.d, hdev]; exact { idle with }
  exact ⟨g, { toIdle := hidle, found := by rw [Run.d, hdev]; exact hg, tier := htier, state := hstate, part := hpart.trans he.part.symm
              creds := hcreds, prot := hprot, cls := he.cls }⟩

/-- The bytes of a line that it needs for the descriptor, and keeps (R232, R489). -/
theorem Working.engKeep {a : Nat} (hr : s.Readable a c.part) :
    ∃ r' : Run s, Working s r'.cur n c ∧ r.engKeep e a 64 = (.ok (s.bytesAt a), r') := by
  have hkey : a + b2n e.virt * 2 ^ 64 = a := by rw [he.virt]; rfl
  unfold Run.engKeep
  dsimp only
  rw [hkey, he.pair]
  cases hfind : (r.d.pair n).kept.find? fun k => k.1 == a && k.2.length == 64 with
  | some k =>
    have hk := List.find?_some hfind
    simp only [Bool.and_eq_true, beq_iff_eq] at hk
    refine ⟨r, w, ?_⟩
    dsimp only
    rw [w.kept k (List.mem_of_find?_eq_some hfind) hk.2, hk.1]
  | none =>
    obtain ⟨g, free⟩ := w.freeLine idle he hr.placed
    have hhome := w.home a
    have hbytes := r.engBytes_ownLine free.toOwnLine 64 he.virt hr.line hr.range (by decide) (by decide) (by rw [hhome]; exact hr.good)
      (by rw [he.pair]; exact w.lost)
    have htake : (lineBytes (r.home a).data).take 64 = s.bytesAt a := by
      rw [hhome, State.bytesAt]
      exact List.take_of_length_le (by simp)
    rw [htake] at hbytes
    dsimp only
    rw [hbytes]
    refine ⟨_, w.updPair (fun p => { p with kept := (a, s.bytesAt a) :: p.kept }) rfl rfl rfl fun k hk hlen => ?_, rfl⟩
    rcases List.mem_cons.1 hk with rfl | hk
    · rfl
    · exact w.kept k hk hlen

end

end

/-! ### Moulds -/

/-- The moulds of a queue at these indices are those. -/
abbrev State.HasMoulds (s : State) (part q : Nat) : List Nat → List Mould → Prop := List.Forall₂ (s.HasMould part q)

/-- The mould records are read (R232). -/
theorem Working.mouldsIn {r : Run s} (w : Working s r.cur n c) (idle : s.dev.Idle) {e : Eng} (he : e.Plain n c.part c.queue)
    {is : List Nat} {ms : List Mould} (hms : s.HasMoulds c.part c.queue is ms) :
    ∃ r' : Run s, Working s r'.cur n c ∧ r.mouldsIn e is = (.ok ms, r') := by
  have hplain : { e with virt := false } = e := by rw [← he.virt]
  induction hms generalizing r with
  | nil => exact ⟨r, w, rfl⟩
  | @cons i m is ms hm hms ih =>
    have hin : ¬ r.d.o e.part (0x6040 + e.queue) 9 ≤ i := by
      rw [w.o, he.part, he.queue]
      exact not_le.2 hm.inside
    obtain ⟨r₁, w₁, hkeep⟩ := w.engKeep idle he hm.record
    obtain ⟨r₂, w₂, hrest⟩ := ih w₁
    refine ⟨r₂, w₂, ?_⟩
    unfold Run.mouldsIn
    dsimp only
    rw [if_neg hin, hplain, w.o, he.part, he.queue, hkeep]
    dsimp only
    rw [hrest, hm.is]

/-! ### Tiles -/

/-- A tile of the one element at an address, as it is read. -/
def State.tileAt (s : State) (m : Mould) (a : Nat) : Tile := { m := m, el := #[s.elem m a] }

section
variable {part a : Nat} {m : Mould} (h : s.Tile1 part m a)
include h

theorem State.Tile1.line_lt : 64 * (a / 64) < 2 ^ 62 := by
  have := h.range
  have := h.one.unit_pos
  omega

theorem State.Tile1.lineNo_eq : lineNo (64 * (a / 64)) = a / 64 := by
  have := h.line_lt
  unfold lineNo bits
  omega

/-- Its line is placed. -/
theorem State.Tile1.placed_line : s.dev.Placed (64 * (a / 64)) part := by
  have := h.line_lt
  have hgran : granuleOf (64 * (a / 64)) = granuleOf a := by unfold granuleOf bits; omega
  obtain ⟨g, hg, hrest⟩ := h.placed
  exact ⟨g, by rw [Dev.g?, hgran]; exact hg, hrest⟩

omit h in
theorem State.lineAt_line : s.lineAt (64 * (a / 64)) = s.lineAt a := by
  have hno : lineNo (64 * (a / 64)) = lineNo a := by unfold lineNo bits; omega
  rw [State.lineAt, State.lineAt, hno]

/-- Its line stands as a good line of its bytes. -/
theorem State.Tile1.lineAt_eq : s.lineAt a = Machine.good (lineOf (Mem.read s.mem (64 * (a / 64)) 64)) := by
  have hno : lineNo a = a / 64 := by
    have := h.line_lt
    unfold lineNo bits
    omega
  have hgood := h.good
  unfold State.lineAt at hgood ⊢
  split
  · rename_i hbad
    rw [if_pos hbad] at hgood
    cases hgood
  · rw [hno]

theorem State.Tile1.fits : m.fits false a = true := h.one.fits h.aligned h.range

end

/-- The tiles that a descriptor names are translated: without VIRT, their lines stand for themselves (R73, R223). -/
theorem Run.xlateTiles_plain (r : Run s) {e : Eng} (hv : e.virt = false) {part : Nat} (ts : List (Mould × Nat × Nat))
    (hts : ∀ x ∈ ts, s.Tile1 part x.1 x.2.1) (vas : List (Nat × Nat)) (hvas : ∀ v ∈ vas, v.1 < 2 ^ 62) :
    ∃ las, r.xlateTiles e vas ts = (.ok las, r) := by
  induction ts generalizing vas with
  | nil =>
    have hall : (vas.map (·.1)).all storeAddrOk = true := by
      rw [List.all_map, List.all_eq_true]
      exact fun v hv => storeAddrOk_of_lt (hvas v hv)
    refine ⟨vas.map (·.1), ?_⟩
    unfold Run.xlateTiles Run.engXlateAll
    dsimp only
    rw [hv, hall]
    rfl
  | cons x ts ih =>
    obtain ⟨m, a, access⟩ := x
    have ht : s.Tile1 part m a := hts _ List.mem_cons_self
    have hvas' : r.tileVas e m a = (.ok [64 * (a / 64)], r) := by
      unfold Run.tileVas
      rw [ht.one.plain, ht.one.lines ht.aligned]
      rfl
    obtain ⟨las, hlas⟩ := ih (fun y hy => hts y (List.mem_cons_of_mem _ hy)) (vas ++ [(64 * (a / 64), access)]) fun v hv => by
      rcases List.mem_append.1 hv with hv | hv
      · exact hvas v hv
      · obtain rfl := List.mem_singleton.1 hv
        exact ht.line_lt
    refine ⟨las, ?_⟩
    unfold Run.xlateTiles
    rw [hvas']
    exact hlas

section
variable {r : Run s} (w : Working s r.cur n c) {e : Eng} {q : Nat} (he : e.Plain n c.part q)
include w he

/-- Where no hold is set, the gate lets a class G tile through (R103, R120). -/
theorem Working.engGate (hold : s.dev.o 0 0x2000 1 = 0) (bytes : Nat) (las : List Nat) :
    ∃ r' : Run s, Working s r'.cur n c ∧ r.engGate e bytes las = (true, r') := by
  have hdoor (q : Asked) (loc : Nat) (books : List (Nat × Nat)) : r.door q false 0 true loc books = (.first, r) :=
    r.door_first _ _ _ _ _ (by rw [w.o]; exact hold)
  unfold Run.engGate
  split
  · exact ⟨r, w, rfl⟩
  · refine ⟨_, w.updPair (fun p => { p with phase := 1 }) rfl rfl rfl w.kept, ?_⟩
    dsimp only
    rw [hdoor, he.cls, he.pair]
    rfl

/-- The tile is read as its element stands (R211). -/
theorem Working.tileIn (idle : s.dev.Idle) {m : Mould} {a : Nat} (ht : s.Tile1 c.part m a) : r.tileIn e m a = (.ok (s.tileAt m a), r) := by
  obtain ⟨g, free⟩ := w.freeLine idle he ht.placed_line
  have hxlate := r.engXlate_plain e 0 [64 * (a / 64)] he.virt (by simpa using storeAddrOk_of_lt ht.line_lt)
  have hlines := r.engLines_freeLine free
  rw [w.home, s.lineAt_line, ht.lineNo_eq] at hlines
  have hread : r.lineRead e (m.lines a) = (.ok ([(a / 64, s.lineAt a)], false, false), r) := by
    unfold Run.lineRead
    rw [ht.one.lines ht.aligned, List.map_cons, List.map_nil, hxlate]
    dsimp only
    rw [hlines]
    simp [lineIn, ht.lineNo_eq, ht.good, he.pair, w.lost]
  unfold Run.tileIn
  rw [ht.one.plain, if_neg Bool.false_ne_true, hread]
  dsimp only
  rw [ht.one.tileOf ht.aligned s _ ht.lineAt_eq]
  rfl

/-- So are several. -/
theorem Working.tilesIn (idle : s.dev.Idle) (ps : List (Mould × Nat)) (hps : ∀ p ∈ ps, s.Tile1 c.part p.1 p.2) :
    r.tilesIn e ps = (.ok (ps.map fun p => s.tileAt p.1 p.2), r) := by
  induction ps with
  | nil => rfl
  | cons p ps ih =>
    unfold Run.tilesIn
    rw [w.tileIn he idle (hps _ List.mem_cons_self)]
    dsimp only
    rw [ih fun x hx => hps x (List.mem_cons_of_mem _ hx)]
    rfl

end

/-- The common part of a tile operation: it goes on with its moulds and the tiles that it reads (R243). -/
theorem Working.tiles {r : Run s} (w : Working s r.cur n c) (idle : s.dev.Idle) (hold : s.dev.o 0 0x2000 1 = 0) {e : Eng}
    (he : e.Plain n c.part c.queue) {b : List Byte} {tiles reads : List Nat} {ms : List Mould}
    (hms : s.HasMoulds c.part c.queue (tiles.map (tMould b)) ms) (hts : ∀ p ∈ tiles.zip ms, s.Tile1 c.part p.2 (tAddr b p.1))
    (wioOk : Bool) {rule : List Mould → Bool} (hrule : rule ms = true) (k : List Mould → List Tile → Run s → Run s) (kept : List Nat) :
    ∃ r' : Run s, Working s r'.cur n c ∧ r.tiles e b tiles reads wioOk rule k kept
      = k ms (((tiles.zip ms).filter fun p => reads.contains p.1).map fun p => s.tileAt p.2 (tAddr b p.1)) r' := by
  obtain ⟨r₁, w₁, hmoulds⟩ := w.mouldsIn idle he hms
  have hfit : ((tiles.zip ms).all fun p => p.2.ok && p.2.fits e.virt (tAddr b p.1) && (!p.2.wio || (wioOk && reads.contains p.1))) = true := by
    rw [List.all_eq_true]
    intro p hp
    have ht := hts p hp
    rw [he.virt, ht.one.ok, ht.fits, ht.one.plain]
    rfl
  have htouch : ∀ x ∈ (tiles.zip ms).filterMap fun p => if kept.contains p.1 then none
      else some (p.2, tAddr b p.1, if reads.contains p.1 then 0 else if dOp b == 0x62 then 2 else 1), s.Tile1 c.part x.1 x.2.1 := by
    intro x hx
    obtain ⟨p, hp, hx⟩ := List.mem_filterMap.1 hx
    split at hx
    · cases hx
    · cases hx
      exact hts p hp
  obtain ⟨las, hxlate⟩ := r₁.xlateTiles_plain he.virt _ htouch [] (by simp)
  obtain ⟨r₂, w₂, hgate⟩ := w₁.engGate he hold (ms.map Mould.ready).sum las
  have hread := w₂.tilesIn he idle (((tiles.zip ms).filter fun p => reads.contains p.1).map fun p => (p.2, tAddr b p.1)) fun x hx => by
    obtain ⟨p, hp, rfl⟩ := List.mem_map.1 hx
    exact hts p (List.mem_filter.1 hp).1
  refine ⟨r₂, w₂, ?_⟩
  unfold Run.tiles
  rw [hmoulds]
  dsimp only
  rw [he.cls, hfit, hrule, if_neg (by simp), hxlate]
  dsimp only
  rw [hgate, List.map_map] at *
  dsimp only
  rw [if_neg (by decide), hread]
  rfl

end

end Sys2Proof.Machine
end

section
/-! PROOFS. A tile operation on tiles of one element from its results on: it writes them in one line each and ends (R234, R236, R248). -/
namespace Sys2Proof.Machine

/-- A run stands where nothing that waits can go on, in a state of which this holds. -/
structure Run.Settles {s₀ : State} (r : Run s₀) (P : State → Prop) : Prop where
  calm : r.d.Calm
  holds : P r.cur

theorem Run.Settles.mono {s₀ : State} {r : Run s₀} {P Q : State → Prop} (h : r.Settles P) (hPQ : ∀ t, P t → Q t) : r.Settles Q :=
  ⟨h.calm, hPQ _ h.holds⟩

/-- Of a value, the bits of the element count. -/
theorem Wrote.of_mod {s t : State} {n a v : Nat} {m : Mould} (h : Wrote s t n m a (v % 2 ^ m.t.w)) : Wrote s t n m a v :=
  ⟨h.ended, by rw [h.elem, Nat.mod_mod], h.only⟩

/-- No line of a tile was lost, poisoned or decoded wrong when it was read. -/
structure Tile.Clean (x : Tile) : Prop where
  lost : x.lost = false
  poison : x.poison = false
  fx : x.fx = []

theorem State.tileAt_clean (s : State) (m : Mould) (a : Nat) : (s.tileAt m a).Clean := ⟨rfl, rfl, rfl⟩

theorem readEnd_clean {ts : List Tile} (h : ∀ x ∈ ts, x.Clean) : readEnd ts = .ok := by
  have hlost : ts.any (·.lost) = false := List.any_eq_false.2 fun x hx => by simp [(h x hx).lost]
  have hpoison : ts.any (·.poison) = false := List.any_eq_false.2 fun x hx => by simp [(h x hx).poison]
  simp [readEnd, hlost, hpoison]

theorem blockFx_clean {s₀ : State} (r : Run s₀) (e : Eng) {ts : List Tile} (h : ∀ x ∈ ts, x.Clean) :
    r.blockFx e (ts.flatMap (·.fx)) = r := by
  have hfx : ts.flatMap (·.fx) = [] := List.flatMap_eq_nil_iff.2 fun x hx => (h x hx).fx
  rw [hfx]
  rfl

/-- One write is the last of its tile. -/
theorem Run.engStore_single {s₀ : State} (r : Run s₀) (e : Eng) (w : EWr) (ctr : Option Nat) :
    r.engStore e [w] ctr [] = r.engPut e w ctr none true := rfl

theorem lineNo_ofLine (a : Nat) : lineNo (64 * (a / 64)) = lineNo a := by unfold lineNo bits; omega

/-- The write of an element: a partial store of its bytes. -/
def tileWrite (m : Mould) (a v : Nat) : EWr :=
  { la := 64 * (a / 64), code := 0x03, mask := BitVec.ofNat 64 (runMask (a % 64) m.t.unit), data := good (runData (a % 64) (v % 2 ^ m.t.w)) }

theorem tileWrite_bytes {m : Mould} (h : m.One) {a : Nat} (ha : a % m.t.unit = 0) (v : Nat) : (tileWrite m a v).bytes = m.t.unit := by
  show ((List.range 64).filter fun i => (BitVec.ofNat 64 (runMask (a % 64) m.t.unit)).getLsbD i).length = m.t.unit
  exact runMask_count (h.within ha)

theorem SameBytes.onlyBytes {a b d : State} (h : SameBytes a b) {x k : Nat} (o : OnlyBytes b d x k) : OnlyBytes a d x k where
  bytes y hy := by rw [o.bytes y hy, h.mem]
  flash := o.flash.trans h.flash
  copy := o.copy.trans h.copy
  bad := o.bad.trans h.bad
  fbad := o.fbad.trans h.fbad
  cbad := o.cbad.trans h.cbad

theorem OnlyBytes.trans_sameBytes {a b d : State} {x k : Nat} (o : OnlyBytes a b x k) (h : SameBytes b d) : OnlyBytes a d x k where
  bytes y hy := by rw [h.mem, o.bytes y hy]
  flash := h.flash.trans o.flash
  copy := h.copy.trans o.copy
  bad := h.bad.trans o.bad
  fbad := h.fbad.trans o.fbad
  cbad := h.cbad.trans o.cbad

section
variable {s : State} {n : Nat} {c : Chain} {r : Run s} (w : Working s r.cur n c) {e : Eng}
include w

/-- The result of an operation is one write. -/
theorem Working.tilesOut (hv : e.virt = false) {part a : Nat} {m : Mould} (ht : s.Tile1 part m a) {x : TE} (hx : x.bad = false) :
    ∃ r' : Run s, Working s r'.cur n c ∧ r.tilesOut e [(m, a, #[x])] = (.ok [[tileWrite m a x.v]], r') := by
  have hwithin := ht.one.within ht.aligned
  have hsmall := ht.one.unit_le
  have hpart : ¬ runMask (a % 64) m.t.unit = 18446744073709551615 := runMask_ne_all hwithin (by omega)
  have hxlate := r.draw.2.engXlate_plain e 1 [64 * (a / 64)] hv (by simpa using storeAddrOk_of_lt ht.line_lt)
  have hcut := ht.one.cut ht.aligned r.draw.1 x hx
  refine ⟨r.draw.2, w.draw, ?_⟩
  unfold Run.tilesOut Run.tileOut
  dsimp only
  rw [hcut, lineRun, List.map_cons, List.map_nil, hxlate]
  simp [wrOf, Run.tilesOut, hpart, tileWrite, good, runData, ht.one.whole.width]

/-- Nothing that waits can go on. -/
theorem Working.calm (idle : s.dev.Idle) : r.d.Calm := by
  obtain ⟨_, _, hdev⟩ := w.dev
  rw [Run.d, hdev]
  exact idle.calm.of_waiting rfl

variable (idle : s.dev.Idle) {q : Nat} (he : e.Plain n c.part q)
include idle he

/-- Where its write was performed, the operation ends. -/
theorem Working.finish_settles {t u : Run s} (hput : PairPut r.cur t.cur e.n) (hobj : OnlyObjects t.cur u.cur) (word : Nat) :
    (u.finish n .ok word).Settles fun t => t.dev.Ended n .ok word := by
  obtain ⟨obj, hcur⟩ := hobj
  have hpair : u.d.pair n = t.cur.dev.pair n := by rw [Run.d, hcur]; rfl
  have hchain : (u.d.pair n).chain = some { c with stage := .busy, began := s.dev.now } := by
    rw [hpair, ← he.pair, hput.chain, he.pair, w.chain]
  have hcalm : t.cur.dev.Calm := (w.calm idle).of_waiting hput.waiting
  have hcalm' : u.d.Calm := by
    rw [Run.d, hcur]
    exact hcalm.of_waiting rfl
  exact ⟨hcalm'.of_waiting rfl, Run.finish_ended _ _ _ hchain⟩

omit w idle in
/-- Its one write may go out, and does. -/
theorem Run.tileEnd_single {wr : EWr} {g : GEnt} (free : r.d.FreeLine e wr.la g) {ts : List Tile} (hts : ∀ x ∈ ts, x.Clean)
    (k : Run s → Run s) :
    r.tileEnd e none ts [[wr]] k = (k (r.engPut e wr none none true)).finish n .ok wr.bytes := by
  have hmay := r.engMay_freeLine free wr rfl
  unfold Run.tileEnd Run.opEnd
  simp [hmay, readEnd_clean hts, blockFx_clean _ e hts, Run.engStore_single, he.pair]

/-- The element is written, and the operation ends. -/
theorem Working.tileEnd {a : Nat} {m : Mould} (ht : s.Tile1 c.part m a) {ts : List Tile} (hts : ∀ x ∈ ts, x.Clean) (v : Nat)
    {k : Run s → Run s} (hk : ∀ t : Run s, OnlyObjects t.cur (k t).cur) :
    (r.tileEnd e none ts [[tileWrite m a v]] k).Settles fun t => Wrote s t n m a v := by
  obtain ⟨g, free⟩ := w.freeLine idle he ht.placed_line
  have hhome : r.home (64 * (a / 64)) = s.lineAt a := (w.home _).trans s.lineAt_line
  have hcur : r.cur.lineAt a = s.lineAt a := w.bytes.lineAt a
  obtain ⟨hbytes, hput⟩ := r.engPut_part (w := tileWrite m a v) free true rfl rfl (by rw [tileWrite, hhome]; exact ht.good)
  have hline : mergeLine (tileWrite m a v).mask (r.home (tileWrite m a v).la).data (runData (a % 64) (v % 2 ^ m.t.w))
      = r.cur.patched a m.t.unit (v % 2 ^ m.t.w) := by
    rw [State.patched, hcur, tileWrite, hhome]
  rw [hline, tileWrite, lineNo_ofLine, ← tileWrite] at hbytes
  rw [Run.tileEnd_single he free hts, tileWrite_bytes ht.one ht.aligned]
  generalize r.engPut e (tileWrite m a v) none none true = t at hbytes hput ⊢
  obtain ⟨hcalm, hended⟩ := w.finish_settles idle he hput (hk t) m.t.unit
  have hall : SameBytes _ ((k t).finish n .ok m.t.unit).cur := (hbytes.trans (hk t).sameBytes).trans (Run.finish_sameBytes ..)
  have hlt : v % 2 ^ m.t.w < 256 ^ m.t.unit := by
    rw [← two_pow_eight, ← ht.one.whole.width]
    exact Nat.mod_lt _ (by positivity)
  have hrange : a < 2 ^ 62 := by have := ht.range; have := ht.one.unit_pos; omega
  have hgood : (r.cur.lineAt a).poison = false := by rw [hcur]; exact ht.good
  have hread := r.setLine_patched_read (ht.one.within ht.aligned) hlt hrange hgood
  have honly := r.setLine_patched_onlyBytes (ht.one.within ht.aligned) hlt hrange hgood
  refine ⟨hcalm, hended, ?_, (w.bytes.onlyBytes honly).trans_sameBytes hall⟩
  rw [State.elem, hall.mem, hread, leNat_leBytes, Nat.mod_eq_of_lt hlt]

/-- An operation that has one element to write writes it and ends. -/
theorem Working.results {b : List Byte} (hctr : tCtr b = none) {a : Nat} {m : Mould} (ht : s.Tile1 c.part m a) {ts : List Tile}
    (hts : ∀ x ∈ ts, x.Clean) {x : TE} (hx : x.bad = false) :
    (r.results e b ts [(m, a, #[x])]).Settles fun t => Wrote s t n m a x.v := by
  obtain ⟨r', w', hout⟩ := w.tilesOut he.virt ht hx
  unfold Run.results
  rw [hout, hctr]
  exact w'.tileEnd idle he ht hts x.v fun t => .refl _

end

/-- The tiles of a body are of one element each, of these moulds. -/
abbrev State.Tiles (s : State) (part q : Nat) (b : List Byte) : List Nat → List Mould → Prop :=
  List.Forall₂ fun i m => s.HasMould part q (tMould b i) m ∧ s.Tile1 part m (tAddr b i)

/-- A tile operation comes to what it makes of its moulds and of the tiles that it reads. -/
theorem Working.settles_tiles {s : State} {n : Nat} {c : Chain} {r : Run s} (w : Working s r.cur n c) (idle : s.dev.Idle)
    (hold : s.dev.o 0 0x2000 1 = 0) {e : Eng} (he : e.Plain n c.part c.queue) {b : List Byte} {tiles reads : List Nat} {ms : List Mould}
    (hms : s.Tiles c.part c.queue b tiles ms)
    {wioOk : Bool} {rule : List Mould → Bool} (hrule : rule ms = true) {k : List Mould → List Tile → Run s → Run s} {kept : List Nat}
    {P : State → Prop} {ts : List Tile} (hts : (((tiles.zip ms).filter fun p => reads.contains p.1).map fun p => s.tileAt p.2 (tAddr b p.1)) = ts)
    (hk : ∀ r' : Run s, Working s r'.cur n c → (k ms ts r').Settles P) :
    (r.tiles e b tiles reads wioOk rule k kept).Settles P := by
  have hmoulds : s.HasMoulds c.part c.queue (tiles.map (tMould b)) ms := List.forall₂_map_left_iff.2 (hms.imp fun _ _ h => h.1)
  obtain ⟨r', w', htiles⟩ := w.tiles idle hold he hmoulds (fun p hp => (List.forall₂_zip hms hp).2) wioOk hrule k kept
  rw [htiles, hts]
  exact hk r' w'

/-- A command of a tile operation answers what its operation makes of a pair that works on the descriptor. -/
theorem Dev.Engine.answers {s : State} {n code : Nat} {b : List Byte} {c : Chain} (h : s.dev.Engine n code b c)
    (hfixed : dFixed code = false) {kind : List Byte → Bool} (hkind : kind b = true) {k : Eng → List Byte → Run s → Run s} {i : Instr}
    (hexec : exec i s = ((Run.start s).op n code kind k).requestDone) {P : State → Prop}
    (hk : ∀ (r : Run s) (e : Eng), Working s r.cur n c → e.Plain n c.part c.queue → (k e b r).Settles P) : Answers i s P := by
  obtain ⟨r, e, w, he, hop⟩ := h.works hfixed hkind k
  obtain ⟨hcalm, hP⟩ := hk r e w he
  exact Answers.of_requestDone _ (hexec.trans (by rw [hop])) hcalm hP

end Sys2Proof.Machine
end

section
/-! PROOFS. The tile operations on tiles of one element (R243-R246). -/
namespace Sys2Proof.Machine

/-- The type of a mould that a queue holds. -/
theorem State.HasMould.t_code {s : State} {part q i : Nat} {m : Mould} (h : s.HasMould part q i m) (hok : m.ok = true) : m.t.code = m.code := by
  obtain ⟨-, -, rfl⟩ := h
  exact mouldOf_t_code hok

theorem State.elem_lt (s : State) (m : Mould) (a : Nat) : (s.elem m a).v < 2 ^ (8 * m.t.unit) := by
  have := leNat_lt (Mem.read s.mem a m.t.unit)
  rwa [Mem.length_read, ← two_pow_eight] at this

/-- The element of a tile in the type of a mould that is not MX (R244). -/
theorem convert_tileAt {s : State} {mx mz : Mould} (hx : mx.t.code = mx.code) (hz : mz.t.code = mz.code) (hmx : mz.t.isMx = false) (a : Nat) :
    mz.convert (s.tileAt mx a) = #[if mx.code = mz.code then s.elem mx a else convEl mx.t mz.t (s.elem mx a)] := by
  unfold Mould.convert State.tileAt
  dsimp only
  rw [hx, hz, hmx]
  split <;> simp_all

/-! ### The write of a reduction (R245) -/

/-- The operation code of a reduction. -/
def redCode : ROp → Nat
  | .add => 0x08
  | .min => 0x09
  | .max => 0x0A

theorem redCode_cases (op : ROp) : redCode op = 0x08 ∨ redCode op = 0x09 ∨ redCode op = 0x0A := by cases op <;> simp [redCode]

theorem ropOf_redCode (op : ROp) : ropOf (redCode op) = op := by cases op <;> rfl

/-- The element `v` at address `a` in its line, as a reduction takes it. -/
def redPart (m : Mould) (a v : Nat) : LineW := (runMask (a % 64) m.t.unit, v * 2 ^ (8 * (a % 64)), false)

/-- The write of a reduction of the one element `v`. -/
def redWrite (op : ROp) (t : EType) (m : Mould) (a v : Nat) : EWr :=
  { la := 64 * (a / 64), code := redCode op, et := m.code, data := redLine op t (redPart m a v) }

section
variable {s : State} {n : Nat} {c : Chain} {b : List Byte} {r : Run s} (w : Working s r.cur n c) (idle : s.dev.Idle) {e : Eng}
include w idle

/-- The reduction of a line stands in the combining cache, and the operation ends. -/
theorem Working.tileEnd_reduce {q : Nat} (he : e.Plain n c.part q) {a : Nat} {m : Mould} (ht : s.Tile1 c.part m a) {ts : List Tile}
    (hts : ∀ x ∈ ts, x.Clean) (op : ROp) {et : EType} (het : EType.of? m.code = some et) (v : Nat) :
    (r.tileEnd e none ts [[redWrite op et m a v]] id).Settles fun t => (∃ w, t.dev.Ended n .ok w) ∧ SameBytes s t
      ∧ (t.dev.comb.get? (lineNo a)).map (·.data) = some (good (reduceLine op et (s.lineAt a).data (redLine op et (redPart m a v)).data)) := by
  obtain ⟨g, free⟩ := w.freeLine idle he ht.placed_line
  have hhome : r.home (64 * (a / 64)) = s.lineAt a := (w.home _).trans s.lineAt_line
  obtain ⟨hbytes, hput, hcomb⟩ := r.engPut_reduce (w := redWrite op et m a v) free true (redCode_cases op) het
    (show redLine op et (redPart m a v) = good (redLine op et (redPart m a v)).data from rfl) (by rw [redWrite, hhome]; exact ht.good)
  rw [Run.tileEnd_single he free hts]
  generalize r.engPut e (redWrite op et m a v) none none true = t at hbytes hput hcomb ⊢
  obtain ⟨hcalm, hended⟩ := w.finish_settles idle he hput (.refl t.cur) (redWrite op et m a v).bytes
  refine ⟨hcalm, ⟨_, hended⟩, (w.bytes.trans hbytes).trans (Run.finish_sameBytes ..), ?_⟩
  rw [redWrite, lineNo_ofLine, hhome, ropOf_redCode] at hcomb
  exact hcomb

variable (hold : s.dev.o 0 0x2000 1 = 0) (he : e.Plain n c.part c.queue)
include hold he

/-! ### Copy, conversion and fill (R243, R244) -/

theorem Working.tileCopy {mx mz : Mould} (hbody : bodyOk b [0, 2] true false 0 = true) (hopc : tOpc b = 0) (hctr : tCtr b = none)
    (hconv : fld b 0x2F 1 = 1) (hx : s.HasMould c.part c.queue (tMould b 0) mx) (hz : s.HasMould c.part c.queue (tMould b 2) mz)
    (htx : s.Tile1 c.part mx (tAddr b 0)) (htz : s.Tile1 c.part mz (tAddr b 2)) :
    (r.tileCopy e b).Settles fun t => Wrote s t n mz (tAddr b 2)
      (if mx.code = mz.code then (s.elem mx (tAddr b 0)).v else (convEl mx.t mz.t (s.elem mx (tAddr b 0))).v) := by
  have hshape : mx.shape = mz.shape := htx.one.n.trans htz.one.n.symm
  have hel := convert_tileAt (s := s) (hx.t_code htx.one.ok) (hz.t_code htz.one.ok) htz.one.type (tAddr b 0)
  unfold Run.tileCopy
  rw [if_neg (by simp [hbody, hopc])]
  refine w.settles_tiles idle hold he (.cons ⟨hx, htx⟩ (.cons ⟨hz, htz⟩ .nil)) (by simp [hshape, hconv])
    (ts := [s.tileAt mx (tAddr b 0)]) rfl fun r' w' => ?_
  dsimp only
  rw [hel, ← apply_ite TE.v]
  exact w'.results idle he hctr htz (by simp [State.tileAt_clean]) (by split <;> rfl)

theorem Working.tileFill {mz : Mould} (hbody : bodyOk b [2] false false 64 = true) (hopc : tOpc b = 0) (hctr : tCtr b = none)
    (hz : s.HasMould c.part c.queue (tMould b 2) mz) (htz : s.Tile1 c.part mz (tAddr b 2)) :
    (r.tileFill e b).Settles fun t => Wrote s t n mz (tAddr b 2) (fld b 0x38 8) := by
  unfold Run.tileFill
  rw [if_neg (by simp [hbody, hopc])]
  refine w.settles_tiles idle hold he (.cons ⟨hz, htz⟩ .nil) rfl (ts := []) rfl fun r' w' => ?_
  dsimp only
  rw [htz.one.count]
  exact (w'.results idle he hctr htz (ts := []) (by simp) (x := { v := fld b 0x38 8 % 2 ^ mz.t.w, sc := _ }) rfl).mono fun t h => h.of_mod

/-! ### Reduction (R245) -/

theorem Working.tileReduce {mx mz : Mould} (op : ROp) {et : EType} (hbody : bodyOk b [0, 2] false false 0 = true) (hctr : tCtr b = none)
    (hx : s.HasMould c.part c.queue (tMould b 0) mx) (hz : s.HasMould c.part c.queue (tMould b 2) mz) (hcode : mx.code = mz.code)
    (het : EType.of? mz.code = some et) (hred : et.reduces op = true) (htx : s.Tile1 c.part mx (tAddr b 0)) (htz : s.Tile1 c.part mz (tAddr b 2)) :
    (r.tileReduce e b op).Settles fun t => (∃ w, t.dev.Ended n .ok w) ∧ SameBytes s t
      ∧ (t.dev.comb.get? (lineNo (tAddr b 2))).map (·.data) = some (good (reduceLine op et (s.lineAt (tAddr b 2)).data
          (redLine op et (redPart mz (tAddr b 2) (s.elem mx (tAddr b 0)).v)).data)) := by
  have hshape : mx.shape = mz.shape := htx.one.n.trans htz.one.n.symm
  have hlt : (s.elem mx (tAddr b 0)).v < 2 ^ (8 * mz.t.unit) := by
    have := s.elem_lt mx (tAddr b 0)
    rwa [Mould.t, hcode] at this
  unfold Run.tileReduce
  rw [if_neg (by simp [hbody])]
  refine w.settles_tiles idle hold he (.cons ⟨hx, htx⟩ (.cons ⟨hz, htz⟩ .nil)) (by simp [hshape, hcode, het, hred])
    (ts := [s.tileAt mx (tAddr b 0)]) rfl fun r' w' => ?_
  have hcut := htz.one.cut htz.aligned r'.draw.1 (s.elem mx (tAddr b 0)) rfl
  have hxlate := r'.draw.2.engXlate_plain e 2 [64 * (tAddr b 2 / 64)] he.virt (by simpa using storeAddrOk_of_lt htz.line_lt)
  dsimp only
  rw [het]
  dsimp only [State.tileAt]
  rw [hcut, lineRun, Nat.mod_eq_of_lt hlt, List.map_cons, List.map_nil, hxlate, hctr]
  exact w'.draw.tileEnd_reduce idle he htz (ts := [s.tileAt mx (tAddr b 0)]) (by simp [State.tileAt_clean]) op het _

end

end Sys2Proof.Machine
end

section
/-! PROOFS. The matrix product of two tiles of one element each (R239, R246). -/
namespace Sys2Proof.Machine

theorem State.tileAt_get (s : State) (m : Mould) (a : Nat) : (s.tileAt m a).get 0 0 0 = s.elem m a := by simp [Tile.get, State.tileAt]

theorem Mould.One.dims {m : Mould} (h : m.One) : m.n0 = 1 ∧ m.n1 = 1 ∧ m.n2 = 1 := ⟨h.n0, h.n1, h.n2⟩

/-- One product of INT8. -/
theorem intSum_one {t u : Elem} (ht : t.k = .int true) (hu : u.k = .int true) (x y : TE) :
    intSum t u [(x, y)] 0 = (BitVec.ofInt 32 (sval 8 x.v * sval 8 y.v)).toNat := by
  simp [intSum, ht, hu, intVal]

/-- Accumulators that are kept are the pair's, and no byte changes. -/
theorem Working.keep_settles {s : State} {n : Nat} {c : Chain} {r : Run s} (w : Working s r.cur n c) (idle : s.dev.Idle)
    (acc : List Nat) (rows cols steps : Nat) :
    (((r.bumpBy 0 0xC000 5 steps).updPair n fun p => { p with acc := acc, accRows := rows, accCols := cols }).finish n .ok 0).Settles fun t =>
      t.dev.Ended n .ok 0 ∧ SameBytes s t ∧ (t.dev.pair n).acc = acc := by
  have hpair : ((r.bumpBy 0 0xC000 5 steps).updPair n fun p => { p with acc := acc, accRows := rows, accCols := cols }).d.pair n
      = { r.d.pair n with acc := acc, accRows := rows, accCols := cols } := Tab.getD_set_self ..
  refine ⟨?_, Run.finish_ended (c := { c with stage := .busy, began := s.dev.now }) _ _ _ (by rw [hpair]; exact w.chain),
    w.bytes.trans ⟨rfl, rfl, rfl, rfl, rfl, rfl⟩, ?_⟩
  · exact (w.calm idle).of_waiting rfl
  · rw [← Run.d, Run.finish_pair, hpair]

/-- The three tiles of a body. -/
theorem tiles_three {s : State} {part q : Nat} {b : List Byte} {mx my mz : Mould} (h : s.Tiles part q b [0, 1, 2] [mx, my, mz]) :
    s.Tile1 part mx (tAddr b 0) ∧ s.Tile1 part my (tAddr b 1) ∧ s.Tile1 part mz (tAddr b 2) := by
  simp only [State.Tiles, List.forall₂_cons, List.forall₂_nil_left_iff, and_true] at h
  exact ⟨h.1.2, h.2.1.2, h.2.2.2⟩

section
variable {s : State} {n : Nat} {c : Chain} {b : List Byte} {r : Run s} (w : Working s r.cur n c) (idle : s.dev.Idle)
  (hold : s.dev.o 0 0x2000 1 = 0) {e : Eng} (he : e.Plain n c.part c.queue) {mx my mz : Mould}
  (hbody : bodyOk b [0, 1, 2] false true 0 = true)
  (htiles : s.Tiles c.part c.queue b [0, 1, 2] [mx, my, mz])
include w idle hold he hbody htiles

theorem Working.tileMatmul_keep (hopc : tOpc b = 2) (hcx : mx.code = 5) (hcy : my.code = 5) (hcz : mz.code = 1) :
    (r.tileMatmul e b).Settles fun t => t.dev.Ended n .ok 0 ∧ SameBytes s t
      ∧ (t.dev.pair n).acc = [(BitVec.ofInt 32 (sval 8 (s.elem mx (tAddr b 0)).v * sval 8 (s.elem my (tAddr b 1)).v)).toNat] := by
  obtain ⟨htx, hty, htz⟩ := tiles_three htiles
  unfold Run.tileMatmul
  dsimp only
  rw [hopc, if_neg (by simp [hbody])]
  refine w.settles_tiles idle hold he htiles (by simp [htx.one.dims, hty.one.dims, htz.one.dims, hcx, hcy, hcz, matOk, bit, htx.one.type])
    (ts := [s.tileAt mx (tAddr b 0), s.tileAt my (tAddr b 1)]) rfl fun r' w' => ?_
  dsimp only
  rw [htx.one.n0, htx.one.n1, hty.one.n1]
  have hclean : ∀ x ∈ [s.tileAt mx (tAddr b 0), s.tileAt my (tAddr b 1)], x.Clean := by simp [State.tileAt_clean]
  rw [blockFx_clean _ e hclean, readEnd_clean hclean]
  simp only [List.range_one, List.flatMap_cons, List.flatMap_nil, List.map_cons, List.map_nil, List.append_nil, State.tileAt_get, hcx]
  rw [if_pos (by decide)]
  have hint := intSum_one (t := mx.t) (u := my.t) (by rw [Mould.t, hcx]; rfl) (by rw [Mould.t, hcy]; rfl) (s.elem mx (tAddr b 0))
    (s.elem my (tAddr b 1))
  rw [if_neg (by decide : ¬ bit 2 0 = true), if_pos (by decide : (5 == 5 || 5 == 6) = true), hint, he.pair]
  exact w'.keep_settles idle _ 1 1 _
theorem Working.tileMatmul_stored (hopc : tOpc b = 0) (hctr : tCtr b = none) (hcx : mx.code = 8) (hcy : my.code = 8) (hcz : mz.code = 8)
    {p : Nat} (hp : p = accSteps mx.t my.t 1 1 [(s.elem mx (tAddr b 0), s.elem my (tAddr b 1))] 0) :
    (r.tileMatmul e b).Settles fun t => Wrote s t n mz (tAddr b 2)
      (F32.conv F32 (F32.enc false (FV.mul (fld b 0x34 4, p) (F32.dec (fld b 0x34 4)) (F32.dec p)))) := by
  obtain ⟨htx, hty, htz⟩ := tiles_three htiles
  unfold Run.tileMatmul
  dsimp only
  rw [hopc, if_neg (by simp [hbody])]
  refine w.settles_tiles idle hold he htiles (by simp [htx.one.dims, hty.one.dims, htz.one.dims, hcx, hcy, hcz, matOk, bit, htx.one.type])
    (ts := [s.tileAt mx (tAddr b 0), s.tileAt my (tAddr b 1)]) rfl fun r' w' => ?_
  dsimp only
  rw [htx.one.n0, htx.one.n1, hty.one.n1]
  have hclean : ∀ x ∈ [s.tileAt mx (tAddr b 0), s.tileAt my (tAddr b 1)], x.Clean := by simp [State.tileAt_clean]
  obtain ⟨r₂, w₂, hout⟩ := w'.tilesOut he.virt htz (x := {
    v := mz.t.of32 (F32.enc false (FV.mul (fld b 0x34 4, p) (F32.dec (fld b 0x34 4)) (F32.dec p))), bad := false }) rfl
  have hcell : accSteps mx.t my.t (stepK 8) 1 [(s.elem mx (tAddr b 0), s.elem my (tAddr b 1))] 0 = p := hp.symm
  have hbad : ([(s.elem mx (tAddr b 0), s.elem my (tAddr b 1))].any fun y => y.1.bad || y.2.bad) = false := rfl
  have hflt : ((8 : Nat) == 5 || (8 : Nat) == 6) = false := rfl
  simp only [List.range_one, List.flatMap_cons, List.flatMap_nil, List.map_cons, List.map_nil, List.append_nil, State.tileAt_get, hcx, hflt,
    Bool.false_eq_true, if_false, hcell, hbad, show bit 0 0 = false from rfl, show bit 0 1 = false from rfl, hout, hctr]
  have hconv (x : Nat) : mz.t.of32 x = F32.conv F32 x := by rw [Mould.t, hcz]; rfl
  rw [← hconv]
  exact w₂.tileEnd idle he htz hclean _ fun t => t.setO_onlyObjects ..

end

/-- A command of `TILE.REDUCE` reduces one tile into another by its operation (R245). -/
theorem tileReduces_of_exec {i : Fin 1024 → Sys2Proof.Instr} {kind : Nat} {op : ROp}
    (hexec : ∀ n s, exec (i n) s = ((Run.start s).op n 0x62 (opcIs kind) fun e b r => r.tileReduce e b op).requestDone) :
    TileReduces i kind op := by
  intro n b c mx mz et s idle h hopc hbody hctr hx hz hcode het hred htx htz
  exact h.answers rfl (by simp [opcIs, hopc]) (hexec n s) fun r e w he =>
    w.tileReduce idle h.hold he op hbody hctr hx hz hcode het hred htx htz

end Sys2Proof.Machine

open Sys2Proof Sys2Proof.Machine

/-- Settles O35: each operation is followed from its start through the translation, the gate and the reading of its tiles to the one line
that it writes; an element of a type that is not MX stands within one line. -/
theorem tileOperations : Obligations.TileOperations := by
  refine ⟨?copy, ?fill, ?add, ?min, ?max, ?keep, ?stored⟩
  case copy =>
    intro n b c mx mz s idle h hbody hopc hctr hconv hx hz htx htz
    exact h.answers rfl rfl rfl fun r e w he => w.tileCopy idle h.hold he hbody hopc hctr hconv hx hz htx htz
  case fill =>
    intro n b c mz s idle h hbody hopc hctr hz htz
    exact h.answers rfl rfl rfl fun r e w he => w.tileFill idle h.hold he hbody hopc hctr hz htz
  case add => exact tileReduces_of_exec fun _ _ => rfl
  case min => exact tileReduces_of_exec fun _ _ => rfl
  case max => exact tileReduces_of_exec fun _ _ => rfl
  case keep =>
    intro n b c mx my mz s idle h hbody hopc hx hy hz hcx hcy hcz htx hty htz
    exact h.answers rfl rfl rfl fun r e w he =>
      w.tileMatmul_keep idle h.hold he hbody (.cons ⟨hx, htx⟩ (.cons ⟨hy, hty⟩ (.cons ⟨hz, htz⟩ .nil))) hopc hcx hcy hcz
  case stored =>
    intro n b c mx my mz p s idle h hbody hopc hctr hx hy hz hcx hcy hcz htx hty htz hp
    exact h.answers rfl rfl rfl fun r e w he =>
      w.tileMatmul_stored idle h.hold he hbody (.cons ⟨hx, htx⟩ (.cons ⟨hy, hty⟩ (.cons ⟨hz, htz⟩ .nil))) hopc hctr hcx hcy hcz hp
end

section
/-! PROOFS. Elementwise operations on tiles of one element (R240, Table 8-12). -/
namespace Sys2Proof.Machine

theorem State.tileAt_nth (s : State) (m : Mould) (a : Nat) : (s.tileAt m a).nth 0 = s.elem m a := by simp [Tile.nth, State.tileAt]

/-- One result in a type that is not MX. -/
theorem Mould.of32s_one {m : Mould} (h : m.t.isMx = false) (x : Nat) (bad : Bool) : m.of32s [(x, bad)] = #[{ v := m.t.of32 x, bad := bad }] := by
  simp [Mould.of32s, h]

/-- The two tiles of a body without a Y. -/
theorem tiles_two {s : State} {part q : Nat} {b : List Byte} {mx mz : Mould} (h : s.Tiles part q b [0, 2] [mx, mz]) :
    s.Tile1 part mx (tAddr b 0) ∧ s.Tile1 part mz (tAddr b 2) := by
  simp only [State.Tiles, List.forall₂_cons, List.forall₂_nil_left_iff, and_true] at h
  exact ⟨h.1.2, h.2.2⟩

section
variable {s : State} {n : Nat} {c : Chain} {b : List Byte} {r : Run s} (w : Working s r.cur n c) (idle : s.dev.Idle)
  (hold : s.dev.o 0 0x2000 1 = 0) {e : Eng} (he : e.Plain n c.part c.queue) (hctr : tCtr b = none) {mx mz : Mould}
include w idle hold he hctr

theorem Working.ewise2 (f : Nat → Nat → Nat) {my : Mould} (hbody : bodyOk b [0, 1, 2] false false 0 = true)
    (htiles : s.Tiles c.part c.queue b [0, 1, 2] [mx, my, mz]) (hcx : ewOk mx.code = true) (hcy : ewOk my.code = true) (hcz : ewOk mz.code = true) :
    (r.ewise2 e b f).Settles fun t => Wrote s t n mz (tAddr b 2)
      (mz.t.of32 (f (mx.t.f32 (s.elem mx (tAddr b 0))) (my.t.f32 (s.elem my (tAddr b 1))))) := by
  obtain ⟨htx, hty, htz⟩ := tiles_three htiles
  have hshape : mx.shape = mz.shape := htx.one.n.trans htz.one.n.symm
  have hshape' : my.shape = mz.shape := hty.one.n.trans htz.one.n.symm
  unfold Run.ewise2
  rw [if_neg (by simp [hbody])]
  refine w.settles_tiles idle hold he htiles (by simp [hshape, hshape', hcx, hcy, hcz])
    (ts := [s.tileAt mx (tAddr b 0), s.tileAt my (tAddr b 1)]) rfl fun r' w' => ?_
  dsimp only
  rw [htz.one.count, List.range_one, List.map_cons, List.map_nil, State.tileAt_nth, State.tileAt_nth, Mould.of32s_one htz.one.type]
  exact w'.results idle he hctr htz (by simp [State.tileAt_clean]) rfl

variable (htiles : s.Tiles c.part c.queue b [0, 2] [mx, mz]) (hcx : ewOk mx.code = true) (hcz : ewOk mz.code = true)
include htiles hcx hcz

theorem Working.ewise1 {param : Bool} (f : Nat → Nat) (hbody : bodyOk b [0, 2] false param (if param then 32 else 0) = true) :
    (r.ewise1 e b param f).Settles fun t => Wrote s t n mz (tAddr b 2) (mz.t.of32 (f (mx.t.f32 (s.elem mx (tAddr b 0))))) := by
  obtain ⟨htx, htz⟩ := tiles_two htiles
  have hshape : mx.shape = mz.shape := htx.one.n.trans htz.one.n.symm
  unfold Run.ewise1
  rw [if_neg (by simpa using hbody)]
  refine w.settles_tiles idle hold he htiles (by simp [hshape, hcx, hcz]) (ts := [s.tileAt mx (tAddr b 0)]) rfl fun r' w' => ?_
  dsimp only
  rw [htz.one.count, List.range_one, List.map_cons, List.map_nil, State.tileAt_nth, Mould.of32s_one htz.one.type]
  exact w'.results idle he hctr htz (by simp [State.tileAt_clean]) rfl

/-- A row of one element is that element. -/
theorem Working.ewiseRow (f : Nat → Nat → Nat) (hbody : bodyOk b [0, 2] false false 0 = true) :
    (r.ewiseRow e b f).Settles fun t => Wrote s t n mz (tAddr b 2) (mz.t.of32 (mx.t.f32 (s.elem mx (tAddr b 0)))) := by
  obtain ⟨htx, htz⟩ := tiles_two htiles
  unfold Run.ewiseRow
  rw [if_neg (by simp [hbody])]
  refine w.settles_tiles idle hold he htiles (by simp [htx.one.dims, htz.one.dims, hcx, hcz]) (ts := [s.tileAt mx (tAddr b 0)]) rfl
    fun r' w' => ?_
  have hn0 : (s.tileAt mx (tAddr b 0)).m.n0 = 1 := htx.one.n0
  dsimp only
  rw [htz.one.count, hn0]
  simp only [List.range_one, List.map_cons, List.map_nil, State.tileAt_nth, Mould.of32s_one htz.one.type, Nat.zero_mul, Nat.add_zero]
  exact w'.results idle he hctr htz (by simp [State.tileAt_clean]) rfl

end

/-- A command of a binary operation (OPC 0-4). -/
theorem ewiseBinary_of_exec {i : Fin 1024 → Sys2Proof.Instr} {kind : Nat} {f : Nat → Nat → Nat}
    (hexec : ∀ n s, exec (i n) s = ((Run.start s).op n 0x64 (opcIs kind) fun e b r => r.ewise2 e b f).requestDone) : EwiseBinary i kind f := by
  intro n b c mx my mz s idle h hopc hbody hctr hx hy hz hcx hcy hcz htx hty htz
  exact h.answers rfl (by simp [opcIs, hopc]) (hexec n s) fun r e w he =>
    w.ewise2 idle h.hold he hctr f hbody (.cons ⟨hx, htx⟩ (.cons ⟨hy, hty⟩ (.cons ⟨hz, htz⟩ .nil))) hcx hcy hcz

/-- A command of a unary operation (OPC 5-8). -/
theorem ewiseUnary_of_exec {i : Fin 1024 → Sys2Proof.Instr} {kind : Nat} {param : Bool} {f : List Byte → Nat → Nat}
    (hexec : ∀ n s, exec (i n) s = ((Run.start s).op n 0x64 (opcIs kind) fun e b r => r.ewise1 e b param (f b)).requestDone) :
    EwiseUnary i kind param f := by
  intro n b c mx mz s idle h hopc hbody hctr hx hz hcx hcz htx htz
  exact h.answers rfl (by simp [opcIs, hopc]) (hexec n s) fun r e w he =>
    w.ewise1 idle h.hold he hctr (.cons ⟨hx, htx⟩ (.cons ⟨hz, htz⟩ .nil)) hcx hcz (f b) hbody

/-- A command of a row operation (OPC 9, 10). -/
theorem ewiseRow_of_exec {i : Fin 1024 → Sys2Proof.Instr} {kind : Nat} {f : Nat → Nat → Nat}
    (hexec : ∀ n s, exec (i n) s = ((Run.start s).op n 0x64 (opcIs kind) fun e b r => r.ewiseRow e b f).requestDone) :
    EwiseUnary i kind false fun _ x => x := by
  intro n b c mx mz s idle h hopc hbody hctr hx hz hcx hcz htx htz
  exact h.answers rfl (by simp [opcIs, hopc]) (hexec n s) fun r e w he =>
    w.ewiseRow idle h.hold he hctr (.cons ⟨hx, htx⟩ (.cons ⟨hz, htz⟩ .nil)) hcx hcz f hbody

end Sys2Proof.Machine

open Sys2Proof Sys2Proof.Machine

/-- Settles O36: by the operations of two tiles, of one, and of a row, which of one element is the element. -/
theorem elementwise : Obligations.Elementwise := by
  refine ⟨?add, ?sub, ?mul, ?min, ?max, ?axpb, ?exp, ?recip, ?rsqrt, ?rowsum, ?rowmax⟩
  case add => exact ewiseBinary_of_exec fun _ _ => rfl
  case sub => exact ewiseBinary_of_exec fun _ _ => rfl
  case mul => exact ewiseBinary_of_exec fun _ _ => rfl
  case min => exact ewiseBinary_of_exec fun _ _ => rfl
  case max => exact ewiseBinary_of_exec fun _ _ => rfl
  case axpb => exact ewiseUnary_of_exec fun _ _ => rfl
  case exp => exact ewiseUnary_of_exec fun _ _ => rfl
  case recip => exact ewiseUnary_of_exec fun _ _ => rfl
  case rsqrt => exact ewiseUnary_of_exec fun _ _ => rfl
  case rowsum => exact ewiseRow_of_exec fun _ _ => rfl
  case rowmax => exact ewiseRow_of_exec fun _ _ => rfl
end

section
/-! PROOFS. An optimiser step of kind SGD on tiles of one element (R247, Table 8-13). -/
namespace Sys2Proof.Machine

/-- The result of an SGD step of one element. -/
theorem optTiles_sgd {o : Optim} (hkind : o.kind = 0) {s : State} {mw mg : Mould} (hw : mw.One) (aw ag : Nat) :
    optTiles o (s.tileAt mw aw) (s.tileAt mg ag) [] = [[(optSgd o (mw.t.f32 (s.elem mw aw)) (mg.t.f32 (s.elem mg ag)), false)]] := by
  have hcount : (s.tileAt mw aw).m.count = 1 := hw.count
  unfold optTiles
  rw [hkind, hcount]
  simp only [List.range_one, List.map_cons, List.map_nil, State.tileAt_nth]
  rfl

/-- An SGD step reads W and G, and writes W. -/
theorem Working.optStep {s : State} {n : Nat} {c : Chain} {b : List Byte} {r : Run s} (w : Working s r.cur n c) (idle : s.dev.Idle)
    (hold : s.dev.o 0 0x2000 1 = 0) {e : Eng} (he : e.Plain n c.part c.queue) (hctr : tCtr b = none) {mw mg : Mould} {o : Optim}
    (hbody : bodyOk b [0, 1, 2] false false 64 = true) (hopc : tOpc b = 0) (hrec : s.Readable (fld b 0x38 8) c.part)
    (hopt : optimOf (s.bytesAt (fld b 0x38 8)) = some o) (hkind : o.kind = 0) (hw : s.HasMould c.part c.queue (tMould b 0) mw)
    (hg : s.HasMould c.part c.queue (tMould b 1) mg) (hcw : ewOk mw.code = true) (hcg : ewOk mg.code = true)
    (htw : s.Tile1 c.part mw (tAddr b 0)) (htg : s.Tile1 c.part mg (tAddr b 1)) :
    (r.optStep e b).Settles fun t => Wrote s t n mw (tAddr b 0)
      (mw.t.of32 (optSgd o (mw.t.f32 (s.elem mw (tAddr b 0))) (mg.t.f32 (s.elem mg (tAddr b 1))))) := by
  have hshape : mw.shape = mg.shape := htw.one.n.trans htg.one.n.symm
  obtain ⟨r₁, w₁, hkeep⟩ := w.engKeep idle he hrec
  obtain ⟨r₂, w₂, hmoulds⟩ := w₁.mouldsIn idle he (is := [0, 1].map (tMould b)) (ms := [mw, mg]) (.cons hw (.cons hg .nil))
  obtain ⟨las, hxlate⟩ := r₂.xlateTiles_plain he.virt (part := c.part) [(mw, tAddr b 0, 0), (mg, tAddr b 1, 0), (mw, tAddr b 0, 1)]
    (by simp [htw, htg]) [] (by simp)
  obtain ⟨r₃, w₃, hgate⟩ := w₂.engGate he hold ([mw.ready, mg.ready].sum) las.dedup
  have hread : r₃.tilesIn e [(mw, tAddr b 0), (mg, tAddr b 1)] = (.ok [s.tileAt mw (tAddr b 0), s.tileAt mg (tAddr b 1)], r₃) :=
    w₃.tilesIn he idle [(mw, tAddr b 0), (mg, tAddr b 1)] (by simp [htw, htg])
  unfold Run.optStep
  rw [if_neg (by simp [hbody, hopc]), hkeep]
  dsimp only
  rw [hopt]
  dsimp only
  rw [hkind, if_pos (by decide : ((0 : Nat) == 0) = true), hmoulds]
  dsimp only
  rw [if_neg (by simp [hshape, he.cls, he.virt, htw.one.ok, htw.one.plain, htw.fits, htg.one.ok, htg.one.plain, htg.fits, hcw, hcg])]
  simp only [List.map_cons, List.map_nil, List.eraseIdx_cons_succ, List.eraseIdx_cons_zero, List.cons_append, List.nil_append]
  rw [hxlate]
  dsimp only
  rw [hgate]
  dsimp only
  rw [if_neg (by decide), hread]
  dsimp only
  rw [optTiles_sgd hkind htw.one]
  simp only [List.zip_cons_cons, List.zip_nil_right, List.map_cons, List.map_nil, Mould.of32s_one htw.one.type]
  exact w₃.results idle he hctr htw (by simp [State.tileAt_clean]) rfl

end Sys2Proof.Machine

open Sys2Proof Sys2Proof.Machine

/-- Settles O37: with its record read, an SGD step is a tile operation that reads W and G and writes W. -/
theorem optimiserStep : Obligations.OptimiserStep := by
  intro n b c mw mg o s idle h hbody hopc hctr hrec hopt hkind hw hg hcw hcg htw htg
  exact h.answers rfl rfl rfl fun r e w he =>
    w.optStep idle h.hold he hctr hbody hopc hrec hopt hkind hw hg hcw hcg htw htg
end

section
/-! PROOFS. Fields of a structure of bytes, and runs of chunks of one length (R6). -/
namespace Sys2Proof.Machine

theorem fld_append_left {a : List Byte} {off n : Nat} (c : List Byte) (h : off + n ≤ a.length) : fld (a ++ c) off n = fld a off n := by
  rw [fld, fld, List.drop_append_of_le_length (by omega), List.take_append_of_le_length (by rw [List.length_drop]; omega)]

theorem fld_append_right (a c : List Byte) (off n : Nat) : fld (a ++ c) (a.length + off) n = fld c off n := by
  rw [fld, fld, List.drop_append, List.drop_of_length_le (by omega), List.nil_append, Nat.add_sub_cancel_left]

theorem fld_append_skip {a : List Byte} (c : List Byte) {k off n : Nat} (ha : a.length = k) (h : k ≤ off) : fld (a ++ c) off n = fld c (off - k) n := by
  obtain ⟨d, rfl⟩ := Nat.exists_eq_add_of_le h
  rw [← ha, fld_append_right, Nat.add_sub_cancel_left]

theorem fld_lt (bs : List Byte) (off n : Nat) : fld bs off n < 256 ^ n :=
  (leNat_lt _).trans_le (Nat.pow_le_pow_right (by decide) (by simp))

theorem fld_zeros (n off k : Nat) : fld (zeros n) off k = 0 := by
  have hzero : ∀ m, leNat (List.replicate m 0) = 0 := fun m => by
    induction m with
    | zero => rfl
    | succ m ih => rw [List.replicate_succ, leNat, ih]; rfl
  rw [fld, zeros, List.drop_replicate, List.take_replicate, hzero]

theorem fld_one {bs : List Byte} {i : Nat} (h : i < bs.length) : fld bs i 1 = bs[i].toNat := by
  rw [fld, List.drop_eq_getElem_cons h, List.take_succ_cons, List.take_zero, leNat, leNat, Nat.mul_zero, Nat.add_zero]

/-- A field of a structure is one of its number. -/
theorem fld_eq_bits (bs : List Byte) (off n : Nat) : fld bs off n = bits (leNat bs) (8 * off) (8 * n) := by rw [bits_leNat, fld]

theorem bits_mod {w k a n : Nat} (h : a + n ≤ k) : bits (w % 2 ^ k) a n = bits w a n := by
  have hpow : 2 ^ k = 2 ^ a * 2 ^ (k - a) := by rw [← Nat.pow_add]; congr 1; omega
  rw [bits, bits, hpow, Nat.mod_mul_right_div_self, Nat.mod_mod_of_dvd _ (Nat.pow_dvd_pow 2 (by omega))]

/-- A field of a field. -/
theorem bits_bits {w off n a k : Nat} (h : a + k ≤ n) : bits (bits w off n) a k = bits w (off + a) k := by
  rw [show bits w off n = w / 2 ^ off % 2 ^ n from rfl, bits_mod h, bits, bits, Nat.div_div_eq_div_mul, ← Nat.pow_add]

/-- One chunk of many. -/
theorem take_drop_flatten {m : Nat} {xs : List (List Byte)} (h : ∀ x ∈ xs, x.length = m) (rest : List Byte) {k : Nat} (hk : k < xs.length) :
    ((xs.flatten ++ rest).drop (m * k)).take m = xs[k] := by
  induction xs generalizing k with
  | nil => simp at hk
  | cons x xs ih =>
    have hx : x.length = m := h x List.mem_cons_self
    rw [List.flatten_cons, List.append_assoc]
    cases k with
    | zero => rw [Nat.mul_zero, List.drop_zero, ← hx, List.take_left', List.getElem_cons_zero]; rfl
    | succ k =>
      rw [Nat.mul_succ, Nat.add_comm, ← List.drop_drop, ← hx, List.drop_left, hx, List.getElem_cons_succ]
      exact ih (fun y hy => h y (List.mem_cons_of_mem _ hy)) (by simpa using hk)

theorem fld_flatten {m n k : Nat} {f : Nat → List Byte} (h : ∀ i, (f i).length = m) (rest : List Byte) (hk : k < n) :
    fld (((List.range n).map f).flatten ++ rest) (m * k) m = leNat (f k) := by
  rw [fld, take_drop_flatten (by simpa using fun i _ => h i) rest (by simpa using hk)]
  simp

theorem length_flatten_chunks {m n : Nat} {f : Nat → List Byte} (h : ∀ i, (f i).length = m) : ((List.range n).map f).flatten.length = m * n := by
  simp [List.length_flatten, Function.comp_def, h, Nat.mul_comm]

/-- Bytes are the run of their chunks. -/
theorem flatten_chunks (bs : List Byte) (m n : Nat) : ((List.range n).map fun i => (bs.drop (m * i)).take m).flatten = bs.take (m * n) := by
  induction n with
  | zero => simp
  | succ n ih =>
    rw [List.range_succ, List.map_append, List.flatten_append, ih, Nat.mul_succ, List.take_add]
    simp

/-! ### Numbers packed in a number -/

/-- A number in which numbers of `w` bits are packed, from the low end. -/
def packed (w : Nat) (f : Nat → Nat) (n : Nat) : Nat := ((List.range n).map fun i => f i * 2 ^ (w * i)).sum

theorem packed_succ (w : Nat) (f : Nat → Nat) (n : Nat) : packed w f (n + 1) = packed w f n + f n * 2 ^ (w * n) := by
  simp [packed, List.range_succ]

theorem packed_lt {w : Nat} {f : Nat → Nat} (h : ∀ i, f i < 2 ^ w) (n : Nat) : packed w f n < 2 ^ (w * n) := by
  induction n with
  | zero => simp [packed]
  | succ n ih =>
    rw [packed_succ, Nat.mul_succ, Nat.pow_add]
    nlinarith [h n, Nat.two_pow_pos (w * n)]

/-- Each of them is a field of it. -/
theorem bits_packed {w : Nat} {f : Nat → Nat} (h : ∀ i, f i < 2 ^ w) {n i : Nat} (hi : i < n) : bits (packed w f n) (w * i) w = f i := by
  induction n with
  | zero => omega
  | succ n ih =>
    rw [packed_succ, bits]
    rcases Nat.lt_succ_iff_lt_or_eq.1 hi with hi | rfl
    · have hshift : f n * 2 ^ (w * n) = 2 ^ (w * i) * (2 ^ w * (2 ^ (w * (n - i - 1)) * f n)) := by
        obtain ⟨d, rfl⟩ : ∃ d, n = i + 1 + d := ⟨n - i - 1, by omega⟩
        rw [show i + 1 + d - i - 1 = d by omega]
        ring
      rw [hshift, Nat.add_mul_div_left _ _ (by positivity), Nat.add_mul_mod_self_left]
      exact ih hi
    · rw [Nat.add_mul_div_right _ _ (by positivity), Nat.div_eq_of_lt (packed_lt h i), Nat.zero_add, Nat.mod_eq_of_lt (h i)]

end Sys2Proof.Machine
end

section
/-! PROOFS. Where the lengths keep the sum of R256, no code of the canonical code of R255 begins another. -/
namespace Sys2Proof.Machine.Wio

/-! ### The order of R255 -/

theorem insEnt_perm (e : Ent) (l : List Ent) : (insEnt e l).Perm (e :: l) := by
  induction l with
  | nil => rfl
  | cons x t ih =>
    unfold insEnt
    split
    · rfl
    · exact (ih.cons x).trans (.swap e x t)

/-- Entries by rising length. -/
abbrev Rising (l : List Ent) : Prop := l.Pairwise fun x y => x.len ≤ y.len

theorem insEnt_rising (e : Ent) {l : List Ent} (h : Rising l) : Rising (insEnt e l) := by
  induction l with
  | nil => exact List.pairwise_singleton ..
  | cons x t ih =>
    obtain ⟨hx, ht⟩ := List.pairwise_cons.1 h
    unfold insEnt
    split
    · rename_i hlt
      have hle : e.len ≤ x.len := by simp at hlt; omega
      refine List.pairwise_cons.2 ⟨fun y hy => ?_, h⟩
      rcases List.mem_cons.1 hy with rfl | hy
      · exact hle
      · exact hle.trans (hx y hy)
    · rename_i hge
      have hle : x.len ≤ e.len := by simp at hge; omega
      refine List.pairwise_cons.2 ⟨fun y hy => ?_, ih ht⟩
      rcases List.mem_cons.1 ((insEnt_perm e t).mem_iff.1 hy) with rfl | hy
      · exact hle
      · exact hx y hy

theorem foldl_insEnt (es l : List Ent) (h : Rising l) : (es.foldl (fun l e => insEnt e l) l).Perm (es ++ l) ∧ Rising (es.foldl (fun l e => insEnt e l) l) := by
  induction es generalizing l with
  | nil => exact ⟨.refl _, h⟩
  | cons e es ih =>
    obtain ⟨hperm, hrising⟩ := ih (insEnt e l) (insEnt_rising e h)
    exact ⟨hperm.trans (((insEnt_perm e l).append_left es).trans List.perm_middle), hrising⟩

/-! ### The running code -/

theorem map_assign (es : List Ent) (len code : Nat) : (assign es len code).map (·.1) = es := by
  induction es generalizing len code with
  | nil => rfl
  | cons e t ih => rw [assign, List.map_cons, ih]

/-- An entry has a code of its length. -/
def Fits (c : Ent × Nat) : Prop := c.2 < 2 ^ c.1.len

/-- The code of an entry is less than the first bits of the code of another that is not shorter. -/
def Before (x y : Ent × Nat) : Prop := x.1.len ≤ y.1.len ∧ x.2 < y.2 / 2 ^ (y.1.len - x.1.len)

/-- What a running code of `len` bits leaves of the sum of R256 is room for the entries that follow. -/
theorem assign_unambiguous {es : List Ent} {len code : Nat} (hrising : Rising es) (hlen : ∀ e ∈ es, len ≤ e.len) (hmax : ∀ e ∈ es, e.len ≤ 12)
    (hroom : code * 2 ^ (12 - len) + (es.map fun e => 2 ^ (12 - e.len)).sum ≤ 2 ^ 12) :
    (∀ c ∈ assign es len code, Fits c ∧ len ≤ c.1.len ∧ code ≤ c.2 / 2 ^ (c.1.len - len)) ∧ (assign es len code).Pairwise Before := by
  induction es generalizing len code with
  | nil => simp [assign]
  | cons e t ih =>
    obtain ⟨hrise, hrising⟩ := List.pairwise_cons.1 hrising
    have hle := hlen e List.mem_cons_self
    have hle' := hmax e List.mem_cons_self
    have hsplit : code * 2 ^ (12 - len) = code * 2 ^ (e.len - len) * 2 ^ (12 - e.len) := by
      rw [Nat.mul_assoc, ← Nat.pow_add]
      congr 2
      omega
    have hroom' : (code * 2 ^ (e.len - len) + 1) * 2 ^ (12 - e.len) + (t.map fun e => 2 ^ (12 - e.len)).sum ≤ 2 ^ 12 := by
      rw [Nat.add_mul, Nat.one_mul, ← hsplit]
      simpa [Nat.add_assoc] using hroom
    obtain ⟨hcodes, hpair⟩ := ih hrising hrise (fun y hy => hmax y (List.mem_cons_of_mem _ hy)) hroom'
    have hfits : Fits (e, code * 2 ^ (e.len - len)) := by
      have hpow : 2 ^ 12 = 2 ^ e.len * 2 ^ (12 - e.len) := by rw [← Nat.pow_add]; congr 1; omega
      have hbound : (code * 2 ^ (e.len - len) + 1) * 2 ^ (12 - e.len) ≤ 2 ^ e.len * 2 ^ (12 - e.len) := by omega
      exact Nat.le_of_mul_le_mul_right hbound (by positivity)
    rw [assign]
    refine ⟨fun c hc => ?_, List.pairwise_cons.2 ⟨fun c hc => ⟨(hcodes c hc).2.1, (hcodes c hc).2.2⟩, hpair⟩⟩
    rcases List.mem_cons.1 hc with rfl | hc
    · exact ⟨hfits, hle, (Nat.mul_div_cancel _ (by positivity)).ge⟩
    · obtain ⟨hc₁, hc₂, hc₃⟩ := hcodes c hc
      refine ⟨hc₁, hle.trans hc₂, ?_⟩
      have hpow : 2 ^ (c.1.len - len) = 2 ^ (c.1.len - e.len) * 2 ^ (e.len - len) := by rw [← Nat.pow_add]; congr 1; omega
      rw [hpow, ← Nat.div_div_eq_div_mul]
      exact (Nat.le_div_iff_mul_le (by positivity)).2 (by omega)

/-- The codes of a block: they fit their lengths, and no one begins another. -/
structure Unambiguous (cs : List (Ent × Nat)) : Prop where
  fits : ∀ c ∈ cs, Fits c
  before : cs.Pairwise Before

theorem codes_unambiguous {es : List Ent} (hmax : ∀ e ∈ es, e.len ≤ 12) (hsum : (es.map fun e => 2 ^ (12 - e.len)).sum = 4096) :
    Unambiguous (codes es) := by
  obtain ⟨hperm, hrising⟩ := foldl_insEnt es [] .nil
  rw [List.append_nil] at hperm
  obtain ⟨hcodes, hpair⟩ := assign_unambiguous (len := 0) (code := 0) hrising (by simp) (fun e he => hmax e (hperm.mem_iff.1 he))
    (by rw [(hperm.map _).sum_eq, hsum]; decide)
  exact ⟨fun c hc => (hcodes c hc).1, hpair⟩

theorem mem_codes {es : List Ent} {e : Ent} : (∃ c, (e, c) ∈ codes es) ↔ e ∈ es := by
  have hperm := (foldl_insEnt es [] .nil).1
  rw [List.append_nil] at hperm
  rw [← hperm.mem_iff, ← map_assign (es.foldl (fun l e => insEnt e l) []) 0 0, codes]
  simp

/-! ### Bits from the top of a substream -/

section
variable {w total pos k n : Nat} (h : pos + n ≤ total)
include h

/-- The first of some bits. -/
theorem topBits_first (hk : k ≤ n) : topBits w total pos k = topBits w total pos n / 2 ^ (n - k) := by
  have hpow : 2 ^ n = 2 ^ (n - k) * 2 ^ k := by rw [← Nat.pow_add]; congr 1; omega
  have hpow' : 2 ^ (total - pos - k) = 2 ^ (total - pos - n) * 2 ^ (n - k) := by rw [← Nat.pow_add]; congr 1; omega
  rw [topBits, topBits, hpow, Nat.mod_mul_right_div_self, Nat.div_div_eq_div_mul, hpow']

/-- The last of some bits. -/
theorem topBits_last (hk : k ≤ n) : topBits w total (pos + k) (n - k) = topBits w total pos n % 2 ^ (n - k) := by
  rw [topBits, topBits, Nat.mod_mod_of_dvd _ (Nat.pow_dvd_pow 2 (by omega : n - k ≤ n))]
  congr 3
  omega

end

/-- The entry whose code stands at a position. -/
def Stands (w total pos : Nat) (c : Ent × Nat) : Prop := pos + c.1.len ≤ total ∧ topBits w total pos c.1.len = c.2

/-- At most one code stands at a position. -/
theorem Before.not_stands {w total pos : Nat} {x y : Ent × Nat} (h : Before x y) (hx : Stands w total pos x) (hy : Stands w total pos y) : False := by
  have hfirst := topBits_first (w := w) hy.1 h.1
  have hlt := h.2
  rw [hx.2, hy.2] at hfirst
  omega

theorem Unambiguous.unique {cs : List (Ent × Nat)} (h : Unambiguous cs) {w total pos : Nat} {x y : Ent × Nat} (hx : x ∈ cs) (hy : y ∈ cs)
    (hsx : Stands w total pos x) (hsy : Stands w total pos y) : x = y := by
  by_contra hne
  have hsymm : cs.Pairwise fun x y => ¬ (Stands w total pos x ∧ Stands w total pos y) :=
    h.before.imp fun hb hs => hb.not_stands hs.1 hs.2
  have : Std.Symm fun x y => ¬ (Stands w total pos x ∧ Stands w total pos y) := ⟨fun _ _ hn hs => hn hs.symm⟩
  exact (hsymm.forall hx hy hne) ⟨hsx, hsy⟩

/-- What is found is the one element that is looked for. -/
theorem find?_eq_of_unique {α : Type} {l : List α} {p : α → Bool} {x : α} (hx : x ∈ l) (hp : p x = true) (h : ∀ y ∈ l, p y = true → y = x) :
    l.find? p = some x := by
  cases hf : l.find? p with
  | none => exact absurd hp (List.find?_eq_none.1 hf x hx)
  | some y => rw [h y (List.mem_of_find?_eq_some hf) (List.find?_some hf)]

/-- A reader finds the entry whose code stands at its position. -/
theorem Unambiguous.find? {cs : List (Ent × Nat)} (h : Unambiguous cs) {w total pos : Nat} {c : Ent × Nat} (hc : c ∈ cs) (hs : Stands w total pos c) :
    (cs.find? fun c => pos + c.1.len ≤ total && topBits w total pos c.1.len == c.2) = some c :=
  find?_eq_of_unique hc (by simpa [Stands] using hs) fun y hy hp => h.unique hy hc (by simpa [Stands] using hp) hs

/-! ### One exponent -/

/-- The bits of an exponent, and how many (R254). -/
def word (cs : List (Ent × Nat)) (eb x : Nat) : Nat × Nat :=
  match cs.find? fun c => c.1.j != 15 && c.1.sym == x with
  | some (e, c) => (c, e.len)
  | none =>
    match cs.find? fun c => c.1.j == 15 with
    | some (e, c) => (c * 2 ^ eb + x, e.len + eb)
    | none => (0, 0)

theorem putExp_eq (cs : List (Ent × Nat)) (eb : Nat) (a : Nat × Nat) (x : Nat) :
    putExp cs eb a x = (a.1 * 2 ^ (word cs eb x).2 + (word cs eb x).1, a.2 + (word cs eb x).2) := by
  unfold putExp word
  cases cs.find? fun c => c.1.j != 15 && c.1.sym == x with
  | some c => rfl
  | none =>
    cases cs.find? fun c => c.1.j == 15 with
    | some c =>
      dsimp only
      rw [Nat.add_mul, Nat.mul_assoc, ← Nat.pow_add, Nat.add_assoc, Nat.add_assoc]
    | none => simp

section
variable {cs : List (Ent × Nat)} (hesc : ∃ c ∈ cs, c.1.j = 15) {eb x : Nat}
include hesc

/-- The bits of an exponent are an entry's code, or the escape's and the exponent's own. -/
theorem word_cases : (∃ c ∈ cs, c.1.j ≠ 15 ∧ c.1.sym = x ∧ word cs eb x = (c.2, c.1.len))
    ∨ ∃ c ∈ cs, c.1.j = 15 ∧ word cs eb x = (c.2 * 2 ^ eb + x, c.1.len + eb) := by
  unfold word
  cases hf : cs.find? fun c => c.1.j != 15 && c.1.sym == x with
  | some c =>
    have hp := List.find?_some hf
    simp only [Bool.and_eq_true, bne_iff_ne, beq_iff_eq] at hp
    exact .inl ⟨c, List.mem_of_find?_eq_some hf, hp.1, hp.2, rfl⟩
  | none =>
    obtain ⟨c, hc, hj⟩ := hesc
    cases hf : cs.find? fun c => c.1.j == 15 with
    | some c => exact .inr ⟨c, List.mem_of_find?_eq_some hf, by simpa using List.find?_some hf, rfl⟩
    | none => exact absurd (beq_iff_eq.2 hj) (List.find?_eq_none.1 hf c hc)

variable (h : Unambiguous cs) (hx : x < 2 ^ eb)
include h hx

theorem word_lt : (word cs eb x).1 < 2 ^ (word cs eb x).2 := by
  rcases word_cases hesc (eb := eb) (x := x) with ⟨c, hc, -, -, hw⟩ | ⟨c, hc, -, hw⟩
  · rw [hw]
    exact h.fits c hc
  · have hfits : c.2 < 2 ^ c.1.len := h.fits c hc
    rw [hw, Nat.pow_add]
    nlinarith

/-- Where they stand, the exponent is read. -/
theorem readOne_word {w total pos : Nat} (hpos : pos + (word cs eb x).2 ≤ total) (hbits : topBits w total pos (word cs eb x).2 = (word cs eb x).1) :
    readOne cs eb w total pos = some (x, pos + (word cs eb x).2) := by
  rcases word_cases hesc (eb := eb) (x := x) with ⟨c, hc, hj, hsym, hw⟩ | ⟨c, hc, hj, hw⟩
  · rw [hw] at hpos hbits ⊢
    unfold readOne
    rw [h.find? hc ⟨hpos, hbits⟩]
    simp [hj, hsym]
  · rw [hw] at hpos hbits ⊢
    dsimp only at hpos hbits ⊢
    have hfirst := topBits_first (w := w) hpos (Nat.le_add_right c.1.len eb)
    have hlast := topBits_last (w := w) hpos (Nat.le_add_right c.1.len eb)
    rw [hbits, Nat.add_sub_cancel_left] at hfirst hlast
    rw [Nat.add_comm (c.2 * 2 ^ eb), Nat.add_mul_div_right _ _ (by positivity), Nat.div_eq_of_lt hx, Nat.zero_add] at hfirst
    rw [Nat.add_comm (c.2 * 2 ^ eb), Nat.add_mul_mod_self_right, Nat.mod_eq_of_lt hx] at hlast
    unfold readOne
    rw [h.find? hc ⟨by omega, hfirst⟩]
    simp only [hj, beq_self_eq_true, if_true]
    rw [if_pos (by omega), hlast, Nat.add_assoc]

end

/-! ### A substream -/

/-- The bits of some exponents, after others. -/
abbrev putAll (cs : List (Ent × Nat)) (eb : Nat) (a : Nat × Nat) (xs : List Nat) : Nat × Nat := xs.foldl (putExp cs eb) a

section
variable {cs : List (Ent × Nat)} (hesc : ∃ c ∈ cs, c.1.j = 15) (h : Unambiguous cs) {eb : Nat}
include hesc h

/-- The bits that are appended leave those that stand. -/
theorem putAll_first {xs : List Nat} (hxs : ∀ x ∈ xs, x < 2 ^ eb) (a : Nat × Nat) :
    a.2 ≤ (putAll cs eb a xs).2 ∧ (putAll cs eb a xs).1 / 2 ^ ((putAll cs eb a xs).2 - a.2) = a.1 := by
  induction xs generalizing a with
  | nil => simp [putAll]
  | cons x xs ih =>
    have hlt := word_lt hesc h (hxs x List.mem_cons_self)
    obtain ⟨hle, hdiv⟩ := ih (fun y hy => hxs y (List.mem_cons_of_mem _ hy)) (putExp cs eb a x)
    rw [putAll, List.foldl_cons, ← putAll]
    generalize putAll cs eb (putExp cs eb a x) xs = z at hle hdiv ⊢
    rw [putExp_eq] at hle hdiv
    dsimp only at hle hdiv
    refine ⟨by omega, ?_⟩
    have hpow : 2 ^ (z.2 - a.2) = 2 ^ (z.2 - (a.2 + (word cs eb x).2)) * 2 ^ (word cs eb x).2 := by rw [← Nat.pow_add]; congr 1; omega
    rw [hpow, ← Nat.div_div_eq_div_mul, hdiv, Nat.add_comm, Nat.add_mul_div_right _ _ (by positivity), Nat.div_eq_of_lt hlt, Nat.zero_add]

/-- From the end of what stands on, the exponents that are appended are read back, and then at most 31 zero bits (R253, R256). -/
theorem readSub_putAll {xs : List Nat} (hxs : ∀ x ∈ xs, x < 2 ^ eb) (a : Nat × Nat) {total : Nat} (hle : (putAll cs eb a xs).2 ≤ total)
    (hpad : total - (putAll cs eb a xs).2 ≤ 31) :
    readSub cs eb ((putAll cs eb a xs).1 * 2 ^ (total - (putAll cs eb a xs).2)) total xs.length a.2 = some xs := by
  induction xs generalizing a with
  | nil => simpa [putAll, readSub] using hpad
  | cons x xs ih =>
    have hx := hxs x List.mem_cons_self
    have hxs' := fun y hy => hxs y (List.mem_cons_of_mem _ hy)
    obtain ⟨hfirst, hdiv⟩ := putAll_first hesc h hxs' (putExp cs eb a x)
    have hrest := ih hxs' (putExp cs eb a x) hle hpad
    rw [putAll, List.foldl_cons, ← putAll] at hle ⊢
    generalize putAll cs eb (putExp cs eb a x) xs = z at hle hfirst hdiv hrest ⊢
    rw [putExp_eq] at hfirst hdiv hrest
    dsimp only at hfirst hdiv hrest
    have hpow : 2 ^ (total - a.2 - (word cs eb x).2) = 2 ^ (total - z.2) * 2 ^ (z.2 - (a.2 + (word cs eb x).2)) := by
      rw [← Nat.pow_add]; congr 1; omega
    have hbits : topBits (z.1 * 2 ^ (total - z.2)) total a.2 (word cs eb x).2 = (word cs eb x).1 := by
      rw [topBits, hpow, ← Nat.div_div_eq_div_mul, Nat.mul_div_cancel _ (by positivity), hdiv, Nat.add_comm, Nat.add_mul_mod_self_right,
        Nat.mod_eq_of_lt (word_lt hesc h hx)]
    rw [List.length_cons, readSub, readOne_word hesc h hx (by omega) hbits]
    dsimp only
    rw [hrest]
    rfl

end

end Sys2Proof.Machine.Wio
end

section
/-! PROOFS. The words of a substream (R253), and the substreams of a block read in order (R256). -/
namespace Sys2Proof.Machine.Wio

/-- The words of a substream of `n` words, from the top. -/
theorem foldl_words (w n j : Nat) (h : j ≤ n) (d : Nat → Nat) (hd : ∀ k, k < n → d k = w / 2 ^ (32 * (n - 1 - k)) % 2 ^ 32) (hw : w < 2 ^ (32 * n)) :
    (List.range j).foldl (fun a k => a * 2 ^ 32 + d k) 0 = w / 2 ^ (32 * (n - j)) := by
  induction j with
  | zero => rw [Nat.sub_zero, Nat.div_eq_of_lt hw]; rfl
  | succ j ih =>
    have hpow : 2 ^ (32 * (n - j)) = 2 ^ (32 * (n - 1 - j)) * 2 ^ 32 := by rw [← Nat.pow_add]; congr 1; omega
    have hsub : n - (j + 1) = n - 1 - j := by omega
    rw [List.range_succ, List.foldl_append, ih (by omega), List.foldl_cons, List.foldl_nil, hd j (by omega), hpow, hsub, ← Nat.div_div_eq_div_mul]
    omega

/-- The bits of a substream, zero-filled to whole words, as one number. -/
def subWord (a : Nat × Nat) : Nat := a.1 * 2 ^ (32 * (subBytes a).1 - a.2)

theorem subBytes_words (a : Nat × Nat) : a.2 ≤ 32 * (subBytes a).1 ∧ 32 * (subBytes a).1 - a.2 ≤ 31 := by
  show a.2 ≤ 32 * ((a.2 + 31) / 32) ∧ 32 * ((a.2 + 31) / 32) - a.2 ≤ 31
  omega

theorem length_subBytes (a : Nat × Nat) : (subBytes a).2.length = 4 * (subBytes a).1 :=
  length_flatten_chunks fun _ => length_leBytes 4 _

/-- The number of the words that it stands in. -/
theorem subNat_subBytes {a : Nat × Nat} (h : a.1 < 2 ^ a.2) (rest : List Byte) : subNat (subBytes a).1 ((subBytes a).2 ++ rest) = subWord a := by
  obtain ⟨hle, -⟩ := subBytes_words a
  have hlt : subWord a < 2 ^ (32 * (subBytes a).1) := by
    have hpow : 2 ^ (32 * (subBytes a).1) = 2 ^ a.2 * 2 ^ (32 * (subBytes a).1 - a.2) := by rw [← Nat.pow_add]; congr 1; omega
    rw [hpow, subWord]
    exact Nat.mul_lt_mul_of_pos_right h (by positivity)
  rw [subNat, foldl_words (subWord a) (subBytes a).1 (subBytes a).1 le_rfl _ (fun k hk => ?_) hlt, Nat.sub_self, Nat.mul_zero, Nat.pow_zero,
    Nat.div_one]
  exact (fld_flatten (fun _ => length_leBytes 4 _) rest hk).trans (leNat_leBytes 4 _)

section
variable {cs : List (Ent × Nat)} (hesc : ∃ c ∈ cs, c.1.j = 15) (h : Unambiguous cs) {eb : Nat}
include hesc h

/-- The bytes of a substream (R253). -/
abbrev subOf (cs : List (Ent × Nat)) (eb : Nat) (xs : List Nat) : Nat × List Byte := subBytes (putAll cs eb (0, 0) xs)

theorem readSub_subOf {xs : List Nat} (hxs : ∀ x ∈ xs, x < 2 ^ eb) (rest : List Byte) :
    readSub cs eb (subNat (subOf cs eb xs).1 ((subOf cs eb xs).2 ++ rest)) (32 * (subOf cs eb xs).1) xs.length 0 = some xs := by
  obtain ⟨hle, hpad⟩ := subBytes_words (putAll cs eb (0, 0) xs)
  have hlt : (putAll cs eb (0, 0) xs).1 < 2 ^ (putAll cs eb (0, 0) xs).2 := by
    obtain ⟨-, hdiv⟩ := putAll_first hesc h hxs (0, 0)
    exact ((Nat.div_eq_zero_iff_lt (by positivity)).1 hdiv)
  rw [subNat_subBytes hlt]
  exact readSub_putAll hesc h hxs (0, 0) hle hpad

/-- The substreams of a block are read back (R256). -/
theorem readSubs_flatMap {n : Nat} {hd : List Byte} (exps : Nat → List Nat) {ss : List Nat} (hwords : ∀ s ∈ ss, fld hd (0x10 + s) 1 = (subOf cs eb (exps s)).1)
    (hcount : ∀ s ∈ ss, (exps s).length = subCount n s) (hexps : ∀ s ∈ ss, ∀ x ∈ exps s, x < 2 ^ eb) (rest : List Byte) :
    readSubs cs eb n hd ss ((ss.map fun s => (subOf cs eb (exps s)).2).flatten ++ rest) = some (ss.map exps) := by
  induction ss with
  | nil => rfl
  | cons s ss ih =>
    have hread := readSub_subOf hesc h (hexps s List.mem_cons_self) ((ss.map fun s => (subOf cs eb (exps s)).2).flatten ++ rest)
    have hdrop : ((subOf cs eb (exps s)).2 ++ ((ss.map fun s => (subOf cs eb (exps s)).2).flatten ++ rest)).drop (4 * (subOf cs eb (exps s)).1)
        = (ss.map fun s => (subOf cs eb (exps s)).2).flatten ++ rest := by
      rw [← length_subBytes, List.drop_left]
    rw [hcount s List.mem_cons_self] at hread
    rw [List.map_cons, List.flatten_cons, List.append_assoc, readSubs]
    rw [hwords s List.mem_cons_self, hread, hdrop, ih (fun s hs => hwords s (List.mem_cons_of_mem _ hs)) (fun s hs => hcount s (List.mem_cons_of_mem _ hs))
      fun s hs => hexps s (List.mem_cons_of_mem _ hs)]
    rfl

end

end Sys2Proof.Machine.Wio
end

section
/-! PROOFS. The used entries that a block's header states are those of the code that it was encoded under (R254). -/
namespace Sys2Proof.Machine.Wio

/-- Entry `j` of the header under a code, used or not: unused, its symbol and its length are 0. -/
def slot (c : List (Nat × Nat) × Nat) (j : Nat) : Ent := if j = 15 then ⟨15, 256, c.2⟩ else ⟨j, (c.1.getD j (0, 0)).1, (c.1.getD j (0, 0)).2⟩

/-- The symbol byte of entry `j` in the header. -/
def symByte (c : List (Nat × Nat) × Nat) (j : Nat) : Byte :=
  match (entsOf c).find? (fun e => e.j == j) with
  | some e => BitVec.ofNat 8 e.sym
  | none => 0

@[simp] theorem slot_j (c : List (Nat × Nat) × Nat) (j : Nat) : (slot c j).j = j := by
  unfold slot
  split <;> simp_all

theorem slot_unused {c : List (Nat × Nat) × Nat} {j : Nat} (hj : c.1.length ≤ j) (hj' : j < 15) : slot c j = ⟨j, 0, 0⟩ := by
  unfold slot
  rw [if_neg (by omega), List.getD_eq_default _ _ hj]

section
variable {c : List (Nat × Nat) × Nat} (hlen : c.1.length ≤ 15) (hpos : ∀ e ∈ c.1, 1 ≤ e.2) (hpos' : 1 ≤ c.2)
include hlen hpos hpos'

/-- The used entries are those of a length. -/
theorem entsOf_eq : entsOf c = ((List.range 16).map (slot c)).filter fun e => e.len != 0 := by
  have hrange : List.range 16 = List.range c.1.length ++ (List.range' c.1.length (15 - c.1.length) ++ [15]) := by
    have hsplit := List.range'_append_1 (s := 0) (m := c.1.length) (n := 15 - c.1.length)
    rw [Nat.zero_add, Nat.add_sub_cancel' hlen] at hsplit
    rw [← List.append_assoc, List.range_eq_range' (n := c.1.length), hsplit]
    rfl
  have hused : (List.range c.1.length).map (slot c) = c.1.zipIdx.map fun e => (⟨e.2, e.1.1, e.1.2⟩ : Ent) := by
    refine List.ext_getElem (by simp) fun j h₁ h₂ => ?_
    have hj : j < c.1.length := by simpa using h₁
    simp [slot, hj, show j ≠ 15 by omega]
  rw [entsOf, hrange, List.map_append, List.filter_append, hused, List.map_append, List.filter_append]
  rw [List.filter_eq_self.2, List.filter_eq_nil_iff.2, List.nil_append]
  · have : c.2 ≠ 0 := by omega
    simp [slot, this]
  · intro e he
    obtain ⟨j, hj, rfl⟩ := List.mem_map.1 he
    have := List.mem_range'_1.1 hj
    rw [slot_unused (by omega) (by omega)]
    exact Bool.false_ne_true
  · intro e he
    obtain ⟨x, hx, rfl⟩ := List.mem_map.1 he
    have := hpos _ (List.fst_mem_of_mem_zipIdx hx)
    simp only [bne_iff_ne, ne_eq]
    omega

theorem mem_entsOf {e : Ent} : e ∈ entsOf c ↔ ∃ j, j < 16 ∧ slot c j = e ∧ e.len ≠ 0 := by
  rw [entsOf_eq hlen hpos hpos', List.mem_filter, List.mem_map, ← exists_and_right]
  simp [and_assoc]

theorem symByte_eq {j : Nat} (hj : j < 15) : symByte c j = BitVec.ofNat 8 (slot c j).sym := by
  unfold symByte
  by_cases hlen' : (slot c j).len = 0
  · have hsym : (slot c j).sym = 0 := by
      by_cases hin : j < c.1.length
      · have := hpos _ (List.getElem_mem hin)
        rw [slot, if_neg (by omega), List.getD_eq_getElem _ _ hin] at hlen'
        dsimp only at hlen'
        omega
      · rw [slot_unused (by omega) hj]
    have hnone : (entsOf c).find? (fun e => e.j == j) = none := List.find?_eq_none.2 fun e he => by
      obtain ⟨i, -, rfl, hne⟩ := (mem_entsOf hlen hpos hpos').1 he
      rw [slot_j]
      intro hij
      exact hne (by rw [beq_iff_eq.1 hij]; exact hlen')
    rw [hnone, hsym]
    rfl
  · have hsome : (entsOf c).find? (fun e => e.j == j) = some (slot c j) :=
      find?_eq_of_unique ((mem_entsOf hlen hpos hpos').2 ⟨j, by omega, rfl, hlen'⟩) (by simp) fun e he hj => by
        obtain ⟨i, -, rfl, -⟩ := (mem_entsOf hlen hpos hpos').1 he
        rw [slot_j, beq_iff_eq] at hj
        rw [hj]
    rw [hsome]

/-- The lengths packed in the header (CLEN). -/
theorem clen_eq : ((entsOf c).map fun e => e.len * 2 ^ (4 * e.j)).sum = packed 4 (fun j => (slot c j).len) 16 := by
  have hfilter : ∀ l : List Ent, ((l.filter fun e => e.len != 0).map fun e => e.len * 2 ^ (4 * e.j)).sum = (l.map fun e => e.len * 2 ^ (4 * e.j)).sum :=
    fun l => by
      induction l with
      | nil => rfl
      | cons e l ih =>
        rw [List.filter_cons]
        split
        · rw [List.map_cons, List.sum_cons, ih, List.map_cons, List.sum_cons]
        · rename_i he
          have : e.len = 0 := by simpa using he
          rw [ih, List.map_cons, List.sum_cons, this, Nat.zero_mul, Nat.zero_add]
  rw [entsOf_eq hlen hpos hpos', hfilter, List.map_map, packed]
  exact congrArg List.sum (List.map_congr_left fun j _ => by simp)

/-- A header that states the lengths and symbols of a code states its used entries. -/
theorem usedOf_eq {hd : List Byte} (hclen : fld hd 0x20 8 = ((entsOf c).map fun e => e.len * 2 ^ (4 * e.j)).sum) (hmax : ∀ j, (slot c j).len < 16)
    (hsyms : ∀ j, j < 15 → fld hd (0x28 + j) 1 = (slot c j).sym) : usedOf hd = entsOf c := by
  have hslot : ∀ j ∈ List.range 16, (⟨j, if j == 15 then 256 else fld hd (0x28 + j) 1, bits (fld hd 0x20 8) (4 * j) 4⟩ : Ent) = slot c j := fun j hj => by
    have hj := List.mem_range.1 hj
    rw [hclen, clen_eq hlen hpos hpos', bits_packed hmax hj]
    by_cases hesc : j = 15
    · subst hesc
      rfl
    · rw [if_neg (by simpa using hesc), hsyms j (by omega), slot, if_neg hesc]
  rw [entsOf_eq hlen hpos hpos', usedOf, List.map_congr_left hslot]

end

end Sys2Proof.Machine.Wio
end

section
/-! PROOFS. Elements cut into exponent and sign-mantissa field, and put together again (R252). -/
namespace Sys2Proof.Machine.Wio

/-- The element types that a block may compress. -/
theorem ty?_float {etype : Nat} {t : Ty} (h : ty? etype = some t) (h0 : etype ≠ 0) :
    etype < 256 ∧ (t = ⟨2, 8, 7⟩ ∨ t = ⟨2, 5, 10⟩ ∨ t = ⟨4, 8, 23⟩) := by
  unfold ty? at h
  split at h <;> cases h <;> simp_all

theorem ty?_lt {etype : Nat} {t : Ty} (h : ty? etype = some t) : etype < 256 ∧ 0 < t.bytes := by
  unfold ty? at h
  split at h <;> cases h <;> simp

/-- An element is a sign, an exponent and a mantissa. -/
structure Ty.Float (t : Ty) : Prop where
  bits : 8 * t.bytes = t.mb + t.eb + 1
  eb : t.eb ≤ 8
  bytes : 2 ≤ t.bytes
  mb : t.mb = 7 ∨ t.mb = 23 ∨ t.mb = 10

theorem ty?_isFloat {etype : Nat} {t : Ty} (h : ty? etype = some t) (h0 : etype ≠ 0) : t.Float := by
  rcases (ty?_float h h0).2 with rfl | rfl | rfl <;> exact ⟨rfl, by decide, by decide, by decide⟩

theorem expOf_lt (t : Ty) (raw : List Byte) (i : Nat) : expOf t raw i < 2 ^ t.eb := Nat.mod_lt _ (by positivity)

section
variable {t : Ty} (ht : t.Float) (raw : List Byte)
include ht

theorem Ty.Float.elem_lt (i : Nat) : fld raw (t.bytes * i) t.bytes < 2 ^ (t.mb + t.eb + 1) := by
  have := fld_lt raw (t.bytes * i) t.bytes
  rwa [← two_pow_eight, ht.bits] at this

theorem Ty.Float.smRaw_lt (i : Nat) : smRaw t raw i < 2 ^ (t.mb + 1) := by
  have hlt := ht.elem_lt raw i
  have hsign : fld raw (t.bytes * i) t.bytes / 2 ^ (t.mb + t.eb) < 2 := by
    rw [Nat.pow_succ] at hlt
    exact Nat.div_lt_of_lt_mul hlt
  have hman := Nat.mod_lt (fld raw (t.bytes * i) t.bytes) (show 0 < 2 ^ t.mb by positivity)
  have hmul : fld raw (t.bytes * i) t.bytes / 2 ^ (t.mb + t.eb) * 2 ^ t.mb ≤ 1 * 2 ^ t.mb := Nat.mul_le_mul_right _ (by omega)
  rw [smRaw, Nat.pow_succ]
  omega

omit ht in
/-- Put together, they are the element. -/
theorem join_parts (t : Ty) (raw : List Byte) (i : Nat) : join t (expOf t raw i) (smRaw t raw i) = leBytes t.bytes (fld raw (t.bytes * i) t.bytes) := by
  unfold join expOf smRaw Machine.bits
  dsimp only
  generalize fld raw (t.bytes * i) t.bytes = w
  have hman : w % 2 ^ t.mb < 2 ^ t.mb := Nat.mod_lt _ (by positivity)
  have hmod : (w % 2 ^ t.mb + w / 2 ^ (t.mb + t.eb) * 2 ^ t.mb) % 2 ^ t.mb = w % 2 ^ t.mb := by
    rw [Nat.add_mul_mod_self_right, Nat.mod_mod]
  have hdiv : (w % 2 ^ t.mb + w / 2 ^ (t.mb + t.eb) * 2 ^ t.mb) / 2 ^ t.mb = w / 2 ^ (t.mb + t.eb) := by
    rw [Nat.add_mul_div_right _ _ (by positivity), Nat.div_eq_of_lt hman, Nat.zero_add]
  have hw : w % 2 ^ t.mb + w / 2 ^ t.mb % 2 ^ t.eb * 2 ^ t.mb + w / 2 ^ (t.mb + t.eb) * 2 ^ (t.mb + t.eb) = w := by
    conv_rhs => rw [← Nat.mod_add_div w (2 ^ (t.mb + t.eb)), Nat.pow_add, Nat.mod_mul]
    rw [Nat.pow_add]
    ring
  rw [hmod, hdiv, hw]

omit ht in
/-- So are those of all of them the raw bytes. -/
theorem flatten_join {n : Nat} (hn : raw.length = t.bytes * n) {ex sm : Nat → Nat} (hex : ∀ i, i < n → ex i = expOf t raw i)
    (hsm : ∀ i, i < n → sm i = smRaw t raw i) : ((List.range n).map fun i => join t (ex i) (sm i)).flatten = raw := by
  have hchunk : ∀ i ∈ List.range n, join t (ex i) (sm i) = (raw.drop (t.bytes * i)).take t.bytes := fun i hi => by
    have hi := List.mem_range.1 hi
    have hlen : ((raw.drop (t.bytes * i)).take t.bytes).length = t.bytes := by
      have : t.bytes * i + t.bytes ≤ t.bytes * n := by rw [← Nat.mul_succ]; exact Nat.mul_le_mul_left _ hi
      rw [List.length_take, List.length_drop]
      omega
    rw [hex i hi, hsm i hi, join_parts t raw i, fld]
    have hspell := leBytes_leNat ((raw.drop (t.bytes * i)).take t.bytes)
    rwa [hlen] at hspell
  rw [List.map_congr_left hchunk, flatten_chunks, ← hn, List.take_length]

/-! ### The sign-mantissa area -/

omit ht in
theorem Ty.smLen_bf16 (h : t.mb = 7) (n : Nat) : smLen t n = n := by simp [smLen, h]
omit ht in
theorem Ty.smLen_fp32 (h : t.mb = 23) (n : Nat) : smLen t n = 3 * n := by simp [smLen, h]
omit ht in
theorem Ty.smLen_fp16 (h : t.mb = 10) (n : Nat) : smLen t n = (11 * n + 7) / 8 := by simp [smLen, h]

theorem Ty.Float.length_smArea (n : Nat) : (smArea t raw n).length = smLen t n := by
  unfold smArea
  rcases ht.mb with h | h | h
  · simp [h, smLen]
  · simp [h, smLen, Function.comp_def, Nat.mul_comm]
  · simp [h]

/-- The field of an element is read back. -/
theorem Ty.Float.smOf_smArea {n i : Nat} (hi : i < n) (rest : List Byte) : smOf t (smArea t raw n ++ rest) i = smRaw t raw i := by
  have hlt := ht.smRaw_lt raw
  unfold smOf smArea
  rcases ht.mb with h | h | h
  · rw [h] at hlt
    have hbyte : i < ((List.range n).map fun i => (BitVec.ofNat 8 (smRaw t raw i) : Byte)).length := by simpa using hi
    simp only [h, beq_self_eq_true, if_true]
    rw [fld_append_left _ (by omega), fld_one hbyte, List.getElem_map, List.getElem_range, BitVec.toNat_ofNat]
    exact Nat.mod_eq_of_lt (hlt i)
  · rw [h] at hlt
    simp only [h, show ((23 : Nat) == 7) = false from rfl, Bool.false_eq_true, if_false, beq_self_eq_true, if_true]
    rw [fld_flatten (fun _ => length_leBytes 3 _) rest hi, leNat_leBytes]
    exact Nat.mod_eq_of_lt (hlt i)
  · rw [h] at hlt
    simp only [h, show ((10 : Nat) == 7) = false from rfl, show ((10 : Nat) == 23) = false from rfl, Bool.false_eq_true, if_false]
    have hroom : 11 * n ≤ 8 * smLen t n := by rw [t.smLen_fp16 h]; omega
    have hnum : leNat (leBytes (smLen t n) (packed 11 (smRaw t raw) n) ++ rest) % 2 ^ (8 * smLen t n) = packed 11 (smRaw t raw) n := by
      rw [two_pow_eight, ← leNat_take, List.take_left' (length_leBytes ..), leNat_leBytes, ← two_pow_eight, Nat.mod_eq_of_lt]
      exact (packed_lt hlt n).trans_le (Nat.pow_le_pow_right (by decide) hroom)
    rw [← packed, fld_eq_bits, bits_bits (by omega), show 8 * (11 * i / 8) + 11 * i % 8 = 11 * i by omega,
      ← bits_mod (k := 8 * smLen t n) (by omega), hnum, bits_packed hlt hi]

end

end Sys2Proof.Machine.Wio
end

section
/-! PROOFS. The first 16 bytes of a block and its check (R251, R256): what a decoder reads of them. -/
namespace Sys2Proof.Machine

theorem crcBit_lt {c : Nat} (h : c < 2 ^ 32) : crcBit c < 2 ^ 32 := by
  unfold crcBit
  split
  · exact Nat.xor_lt_two_pow (by omega) (by decide)
  · omega

theorem crcByte_lt {c : Nat} (h : c < 2 ^ 32) (b : Byte) : crcByte c b < 2 ^ 32 := by
  have hstart : c ^^^ b.toNat < 2 ^ 32 := Nat.xor_lt_two_pow h (b.isLt.trans (by decide))
  exact crcBit_lt (crcBit_lt (crcBit_lt (crcBit_lt (crcBit_lt (crcBit_lt (crcBit_lt (crcBit_lt hstart)))))))

theorem crc32c_lt (bs : List Byte) : crc32c bs < 2 ^ 32 := by
  have hfold : ∀ c, c < 2 ^ 32 → bs.foldl crcByte c < 2 ^ 32 := fun c hc => by
    induction bs generalizing c with
    | nil => exact hc
    | cons b bs ih => exact ih _ (crcByte_lt hc b)
  exact Nat.xor_lt_two_pow (hfold _ (by decide)) (by decide)

namespace Wio

/-- The first 16 bytes of a block. -/
def head (etype flags rawLen len crc : Nat) : List Byte :=
  leBytes 2 0x5749 ++ [1] ++ leBytes 1 etype ++ leBytes 1 flags ++ [0] ++ leBytes 2 rawLen ++ leBytes 2 len ++ [0, 0] ++ leBytes 4 crc

/-- A block of these 16 bytes and the bytes that follow, with its check. -/
def sealed (etype flags rawLen len : Nat) (rest : List Byte) : List Byte :=
  head etype flags rawLen len (crc32c (head etype flags rawLen len 0 ++ rest)) ++ rest

theorem length_head (etype flags rawLen len crc : Nat) : (head etype flags rawLen len crc).length = 16 := rfl

theorem length_sealed (etype flags rawLen len : Nat) (rest : List Byte) : (sealed etype flags rawLen len rest).length = 16 + rest.length := by
  rw [sealed, List.length_append, length_head]

theorem putFld_crc (etype flags rawLen len crc v : Nat) (rest : List Byte) :
    putFld (head etype flags rawLen len crc ++ rest) 0x0C 4 v = head etype flags rawLen len v ++ rest := by
  rw [putFld, List.take_append_of_le_length (by rw [length_head]; decide), List.drop_append_of_le_length (by rw [length_head])]
  rfl

theorem putFld_len (etype flags rawLen len crc v : Nat) (rest : List Byte) :
    putFld (head etype flags rawLen len crc ++ rest) 0x08 2 v = head etype flags rawLen v crc ++ rest := by
  rw [putFld, List.take_append_of_le_length (by rw [length_head]; decide), List.drop_append_of_le_length (by rw [length_head]; decide),
    ← List.append_assoc]
  rfl

theorem fld_sealed (etype flags rawLen len : Nat) (rest : List Byte) (off n : Nat) :
    fld (sealed etype flags rawLen len rest) (16 + off) n = fld rest off n := fld_append_right (head ..) rest off n

/-- What a decoder reads first of a block that is what it states. -/
structure Framed (b : List Byte) (etype flags rawLen : Nat) : Prop where
  magic : fld b 0 2 = 0x5749
  version : fld b 2 1 = 1
  etype : fld b 3 1 = etype
  flags : fld b 4 1 = flags
  rsv5 : fld b 5 1 = 0
  rawLen : fld b 6 2 = rawLen
  len : fld b 8 2 = b.length
  rsvA : fld b 0x0A 2 = 0
  crc : fld b 0x0C 4 = crc32c (putFld (b.take b.length) 0x0C 4 0)

theorem sealed_framed {etype flags rawLen len : Nat} {rest : List Byte} (he : etype < 256) (hf : flags < 256) (hr : rawLen < 65536)
    (hlen : 16 + rest.length = len) (hl : len < 65536) : Framed (sealed etype flags rawLen len rest) etype flags rawLen := by
  have hfield (off n v : Nat) (hv : v < 256 ^ n) (hin : off + n ≤ 16)
      (h : ((head etype flags rawLen len (crc32c (head etype flags rawLen len 0 ++ rest))).drop off).take n = leBytes n v) :
      fld (sealed etype flags rawLen len rest) off n = v := by
    rw [sealed, fld_append_left _ (by rwa [length_head]), fld, h, leNat_leBytes, Nat.mod_eq_of_lt hv]
  refine ⟨hfield 0 2 _ (by decide) (by decide) rfl, hfield 2 1 _ (by decide) (by decide) rfl, hfield 3 1 _ he (by decide) rfl,
    hfield 4 1 _ hf (by decide) rfl, hfield 5 1 _ (by decide) (by decide) rfl, hfield 6 2 _ hr (by decide) rfl, ?_,
    hfield 0x0A 2 _ (by decide) (by decide) rfl, ?_⟩
  · rw [hfield 8 2 len hl (by decide) rfl, length_sealed, hlen]
  · rw [hfield 0x0C 4 _ (crc32c_lt _) (by decide) rfl, List.take_length, sealed, putFld_crc]

/-! ### Decoding -/

section
variable {b : List Byte} {etype rawLen : Nat} {t : Ty} (ht : ty? etype = some t) (hpos : 0 < rawLen) (hmax : rawLen ≤ 4096)
  (hmod : rawLen % t.bytes = 0) (hz : fld b 0x37 9 = 0)
include ht hpos hmax hmod hz

/-- A block in raw mode decodes to the bytes after its header (R250). -/
theorem Framed.decode_raw (h : Framed b etype 1 rawLen) (hlen : b.length = blkLen t true rawLen b)
    (hz₁ : fld b 0x10 16 = 0) (hz₂ : fld b 0x20 8 = 0) (hz₃ : fld b 0x28 15 = 0) : decode b = .raw ((b.drop 64).take rawLen) := by
  have hbounds : (rawLen == 0 || decide (4096 < rawLen) || rawLen % t.bytes != 0 || b.length != blkLen t true rawLen b || decide (b.length < b.length))
      = false := by
    simp [← hlen, hmod]
    omega
  unfold decode
  rw [h.etype, ht]
  dsimp only
  rw [h.magic, h.version, h.flags, h.rsv5, h.rsvA, h.rawLen, h.len, hz, hz₁, hz₂, hz₃, show bit 1 0 = true from rfl, hbounds, ← h.crc]
  simp

/-- A block in compressed mode decodes to its elements, put together (R251-R256). -/
theorem Framed.decode_packed (h : Framed b etype 0 rawLen) (h0 : etype ≠ 0) (hlen : b.length = blkLen t false rawLen b)
    (hcode : codeOk t (usedOf b) = true) {xs : List (List Nat)}
    (hsubs : readSubs (codes (usedOf b)) t.eb (rawLen / t.bytes) b (List.range 16) (b.drop (0x40 + up (smLen t (rawLen / t.bytes)) 4)) = some xs) :
    decode b = .raw (((List.range (rawLen / t.bytes)).map fun i =>
      join t ((xs.getD (i % 16) []).getD (i / 16) 0) (smOf t (b.drop 0x40) i)).flatten) := by
  have hbounds : (rawLen == 0 || decide (4096 < rawLen) || rawLen % t.bytes != 0 || b.length != blkLen t false rawLen b || decide (b.length < b.length))
      = false := by
    simp [← hlen, hmod]
    omega
  unfold decode
  rw [h.etype, ht]
  dsimp only
  rw [h.magic, h.version, h.flags, h.rsv5, h.rsvA, h.rawLen, h.len, hz, show bit 0 0 = false from rfl, hbounds, hcode, hsubs, ← h.crc]
  simp [h0]

end

end Wio

end Sys2Proof.Machine
end

section
/-! PROOFS. Blocks as they are encoded (R258), and their decoding. -/
namespace Sys2Proof.Machine.Wio

theorem le_up (n k : Nat) (hk : 0 < k) : n ≤ up n k := by
  have := Nat.div_add_mod (n + k - 1) k
  have := Nat.mod_lt (n + k - 1) hk
  rw [up, Nat.mul_comm]
  omega

theorem up_lt (n k : Nat) (hk : 0 < k) : up n k < n + k := by
  have := Nat.div_mul_le_self (n + k - 1) k
  rw [up]
  omega

/-! ### Raw mode -/

theorem rawBlock_eq (etype : Nat) (raw : List Byte) :
    rawBlock etype raw = sealed etype 1 raw.length (64 + up raw.length 64) (zeros 48 ++ (raw ++ zeros (up raw.length 64 - raw.length))) := by
  have hpad : 64 + up raw.length 64 - (64 + raw.length) = up raw.length 64 - raw.length := by omega
  have hbytes : padTo (leBytes 2 0x5749 ++ [1] ++ leBytes 1 etype ++ [1, 0] ++ leBytes 2 raw.length ++ leBytes 2 (64 + up raw.length 64) ++ zeros 54
      ++ raw) (64 + up raw.length 64)
      = head etype 1 raw.length (64 + up raw.length 64) 0 ++ (zeros 48 ++ (raw ++ zeros (up raw.length 64 - raw.length))) := by
    rw [padTo, List.length_append, ← hpad]
    simp only [← List.append_assoc]
    rfl
  rw [rawBlock, sealed, ← putFld_crc _ _ _ _ 0, hbytes]

/-- A block in raw mode decodes to the bytes it was made of. -/
theorem decode_rawBlock {etype : Nat} {t : Ty} {raw : List Byte} (ht : ty? etype = some t) (hpos : 0 < raw.length) (hmax : raw.length ≤ 4096)
    (hmod : raw.length % t.bytes = 0) : decode (rawBlock etype raw) = .raw raw := by
  have hle := le_up raw.length 64 (by decide)
  have hlt := up_lt raw.length 64 (by decide)
  have hlen : 16 + (zeros 48 ++ (raw ++ zeros (up raw.length 64 - raw.length))).length = 64 + up raw.length 64 := by
    simp [zeros]
    omega
  have hframe := sealed_framed (flags := 1) (ty?_lt ht).1 (by decide) (by omega : raw.length < 65536) hlen (by omega)
  have hzero (off n : Nat) (h : off + n ≤ 48) : fld (rawBlock etype raw) (16 + off) n = 0 := by
    rw [rawBlock_eq, fld_sealed, fld_append_left _ (by simpa [zeros] using h), fld_zeros]
  have hdrop : (rawBlock etype raw).drop 64 = raw ++ zeros (up raw.length 64 - raw.length) := by
    rw [rawBlock_eq, sealed, ← List.append_assoc]
    exact List.drop_left' (by rw [List.length_append, length_head]; rfl)
  rw [← rawBlock_eq] at hframe
  rw [hframe.decode_raw ht hpos hmax hmod (hzero 0x27 9 (by decide)) (by rw [rawBlock_eq, length_sealed, hlen]; rfl) (hzero 0 16 (by decide))
    (hzero 0x10 8 (by decide)) (hzero 0x18 15 (by decide)), hdrop, List.take_left]

/-! ### Compressed mode -/

/-- The exponents of a substream (R253). -/
def expsOf (t : Ty) (raw : List Byte) (s : Nat) : List Nat :=
  (List.range (subCount (raw.length / t.bytes) s)).map fun k => expOf t raw (s + 16 * k)

/-- A substream under a code: its words and its bytes. -/
def subAt (t : Ty) (raw : List Byte) (c : List (Nat × Nat) × Nat) (s : Nat) : Nat × List Byte :=
  subOf (codes (entsOf c)) t.eb (expsOf t raw s)

/-- The substreams of a block. -/
def subsAt (t : Ty) (raw : List Byte) (c : List (Nat × Nat) × Nat) : List (Nat × List Byte) := (List.range 16).map (subAt t raw c)

/-- The symbol bytes of a header. -/
def symsOf (c : List (Nat × Nat) × Nat) : List Byte := (List.range 15).map (symByte c)

/-- The words of the substreams, a byte each. -/
def wordsOf (t : Ty) (raw : List Byte) (c : List (Nat × Nat) × Nat) : List Byte := (subsAt t raw c).map fun s => BitVec.ofNat 8 s.1

/-- The lengths of the entries, four bits each. -/
def clenOf (c : List (Nat × Nat) × Nat) : Nat := ((entsOf c).map fun e => e.len * 2 ^ (4 * e.j)).sum

/-- The rest of a header: the words of the substreams, the lengths and the symbols of the code. -/
def tables (t : Ty) (raw : List Byte) (c : List (Nat × Nat) × Nat) : List Byte := wordsOf t raw c ++ (leBytes 8 (clenOf c) ++ (symsOf c ++ zeros 9))

/-- What follows the header: the sign-mantissa area and the substreams. -/
def body (t : Ty) (raw : List Byte) (c : List (Nat × Nat) × Nat) : List Byte :=
  padTo (smArea t raw (raw.length / t.bytes)) (up (smLen t (raw.length / t.bytes)) 4) ++ ((subsAt t raw c).map (·.2)).flatten

/-- Bytes after a header, filled to whole lines. -/
def filled (bs : List Byte) : List Byte := bs ++ zeros (up (64 + bs.length) 64 - (64 + bs.length))

theorem length_filled (bs : List Byte) : 64 + (filled bs).length = up (64 + bs.length) 64 := by
  have := le_up (64 + bs.length) 64 (by decide)
  simp [filled, zeros]
  omega

/-- A block in compressed mode: its header, its tables and its body. -/
def packedBlock (etype : Nat) (t : Ty) (raw : List Byte) (c : List (Nat × Nat) × Nat) : List Byte :=
  sealed etype 0 raw.length (up (64 + (body t raw c).length) 64) (tables t raw c ++ filled (body t raw c))

section
variable {etype : Nat} {t : Ty} {raw b : List Byte} {c : List (Nat × Nat) × Nat}

theorem length_tables : (tables t raw c).length = 48 := by simp [tables, wordsOf, subsAt, symsOf, zeros]

/-- That is the block that the encoder makes, where its substreams fit. -/
theorem blockWith_some (h : blockWith etype t raw c = some b) : (∀ s, s < 16 → (subAt t raw c s).1 ≤ 255) ∧ b = packedBlock etype t raw c := by
  have hhead : leBytes 2 0x5749 ++ [1] ++ leBytes 1 etype ++ [0, 0] ++ leBytes 2 raw.length ++ zeros 8 ++ wordsOf t raw c ++ leBytes 8 (clenOf c)
      ++ symsOf c ++ zeros 9 = head etype 0 raw.length 0 0 ++ tables t raw c := by
    simp only [tables, ← List.append_assoc]
    rfl
  have hstart (hd : List Byte) (hhd : hd = head etype 0 raw.length 0 0 ++ tables t raw c) :
      padTo (hd ++ body t raw c) (up (64 + (body t raw c).length) 64)
        = head etype 0 raw.length 0 0 ++ (tables t raw c ++ filled (body t raw c)) := by
    have hlen : (hd ++ body t raw c).length = 64 + (body t raw c).length := by
      rw [hhd, List.length_append, List.length_append, length_head, length_tables]
    rw [padTo, hlen, hhd, filled]
    simp only [List.append_assoc]
  have hblock : blockWith etype t raw c = if (subsAt t raw c).any (fun s => 255 < s.1) then none
      else some (packedBlock etype t raw c) := by
    rw [packedBlock, sealed, ← putFld_crc _ _ _ _ 0, ← putFld_len _ _ _ 0, ← hstart _ hhead]
    rfl
  rw [hblock] at h
  split at h
  · cases h
  · rename_i hany
    refine ⟨fun s hs => ?_, (Option.some.inj h).symm⟩
    have hfits := List.any_eq_false.1 (Bool.eq_false_iff.2 hany) _ (List.mem_map_of_mem (List.mem_range.2 hs))
    simpa using hfits

end

end Sys2Proof.Machine.Wio
end

section
/-! PROOFS. A block in compressed mode under a complete code decodes to the bytes it was encoded from (R250-R256, R258). -/
namespace Sys2Proof.Machine.Wio

/-- In a complete code no code begins another, and none is longer than 12 bits. -/
theorem codeOk_unambiguous {t : Ty} {es : List Ent} (h : codeOk t es = true) : (∀ e ∈ es, e.len ≤ 12) ∧ Unambiguous (codes es) := by
  simp only [codeOk, Bool.and_eq_true, List.all_eq_true, decide_eq_true_eq, beq_iff_eq] at h
  obtain ⟨⟨⟨⟨hmax, -⟩, -⟩, -⟩, hsum⟩ := h
  exact ⟨hmax, codes_unambiguous hmax hsum⟩

theorem escape_mem (c : List (Nat × Nat) × Nat) : ∃ x ∈ codes (entsOf c), x.1.j = 15 := by
  obtain ⟨k, hk⟩ := mem_codes.2 (show (⟨15, 256, c.2⟩ : Ent) ∈ entsOf c by simp [entsOf])
  exact ⟨_, hk, rfl⟩

/-! ### The body -/

theorem length_padTo {bs : List Byte} {n : Nat} (h : bs.length ≤ n) : (padTo bs n).length = n := by
  simp [padTo, zeros]
  omega

section
variable {t : Ty} (ht : t.Float) (raw : List Byte) (c : List (Nat × Nat) × Nat)
include ht

theorem Ty.Float.length_area (n : Nat) : (padTo (smArea t raw n) (up (smLen t n) 4)).length = up (smLen t n) 4 :=
  length_padTo (by rw [ht.length_smArea]; exact le_up _ 4 (by decide))

theorem Ty.Float.length_body : (body t raw c).length
    = up (smLen t (raw.length / t.bytes)) 4 + 4 * ((List.range 16).map fun s => (subAt t raw c s).1).sum := by
  have hsubs : ∀ ss : List Nat, (((ss.map (subAt t raw c)).map (·.2)).flatten).length = 4 * (ss.map fun s => (subAt t raw c s).1).sum := fun ss => by
    induction ss with
    | nil => rfl
    | cons s ss ih =>
      rw [List.map_cons, List.map_cons, List.flatten_cons, List.length_append, ih, List.map_cons, List.sum_cons, Nat.mul_add]
      exact congrArg (· + _) (length_subBytes _)
  rw [body, List.length_append, ht.length_area, subsAt, hsubs]

theorem Ty.Float.smLen_le (n : Nat) : smLen t n ≤ 3 * n + 1 := by
  rcases ht.mb with h | h | h
  · rw [t.smLen_bf16 h]; omega
  · rw [t.smLen_fp32 h]; omega
  · rw [t.smLen_fp16 h]; omega

/-- The length of a block that keeps its limits fits its field. -/
theorem Ty.Float.len_lt (hmax : raw.length ≤ 4096) (hwords : ∀ s, s < 16 → (subAt t raw c s).1 ≤ 255) : up (64 + (body t raw c).length) 64 < 65536 := by
  have hsum : ((List.range 16).map fun s => (subAt t raw c s).1).sum ≤ 16 * 255 := by
    have := List.sum_le_card_nsmul ((List.range 16).map fun s => (subAt t raw c s).1) 255 (by simpa using hwords)
    simpa using this
  have hn : raw.length / t.bytes ≤ 2048 := (Nat.div_le_div_left ht.bytes (by decide)).trans (by omega)
  have hsm := ht.smLen_le (raw.length / t.bytes)
  have harea := up_lt (smLen t (raw.length / t.bytes)) 4 (by decide)
  have hup := up_lt (64 + (body t raw c).length) 64 (by decide)
  have hbody := ht.length_body raw c
  omega

/-- The substreams after the area are read back. -/
theorem Ty.Float.readSubs_body (h : Unambiguous (codes (entsOf c))) {hd : List Byte} (hwords : ∀ s, s < 16 → fld hd (0x10 + s) 1 = (subAt t raw c s).1) :
    readSubs (codes (entsOf c)) t.eb (raw.length / t.bytes) hd (List.range 16)
      ((filled (body t raw c)).drop (up (smLen t (raw.length / t.bytes)) 4)) = some ((List.range 16).map (expsOf t raw)) := by
  have hdrop : (filled (body t raw c)).drop (up (smLen t (raw.length / t.bytes)) 4) = ((List.range 16).map fun s => (subAt t raw c s).2).flatten
      ++ zeros (up (64 + (body t raw c).length) 64 - (64 + (body t raw c).length)) := by
    rw [filled, body, List.append_assoc, List.drop_left' (ht.length_area raw _), subsAt, List.map_map]
    rfl
  rw [hdrop]
  refine readSubs_flatMap (escape_mem c) h (expsOf t raw) (fun s hs => hwords s (List.mem_range.1 hs)) (fun s _ => by simp [expsOf]) (fun s _ x hx => ?_) _
  obtain ⟨k, -, rfl⟩ := List.mem_map.1 hx
  exact expOf_lt ..

theorem Ty.Float.smOf_body {i : Nat} (hi : i < raw.length / t.bytes) : smOf t (filled (body t raw c)) i = smRaw t raw i := by
  rw [filled, body, padTo, List.append_assoc, List.append_assoc, ht.smOf_smArea raw hi]

omit ht in
/-- Element `i` is the `i / 16`-th of substream `i % 16`. -/
theorem expsOf_getD {i : Nat} (hi : i < raw.length / t.bytes) :
    (((List.range 16).map (expsOf t raw)).getD (i % 16) []).getD (i / 16) 0 = expOf t raw i := by
  have hcount : i / 16 < subCount (raw.length / t.bytes) (i % 16) := by unfold subCount; omega
  have hi16 : i % 16 < 16 := Nat.mod_lt _ (by decide)
  simp [List.getD_eq_getElem?_getD, hi16, expsOf, hcount, Nat.mod_add_div]

end

/-! ### The tables -/

section
variable {t : Ty} {raw : List Byte} {c : List (Nat × Nat) × Nat} (rest : List Byte)

theorem length_wordsOf : (wordsOf t raw c).length = 16 := by simp [wordsOf, subsAt]

theorem length_symsOf : (symsOf c).length = 15 := by simp [symsOf]

theorem fld_words {s : Nat} (hs : s < 16) (hwords : (subAt t raw c s).1 ≤ 255) : fld (tables t raw c ++ rest) s 1 = (subAt t raw c s).1 := by
  have hlen := length_wordsOf (t := t) (raw := raw) (c := c)
  rw [tables, List.append_assoc, fld_append_left _ (by omega), fld_one (by omega)]
  simp [wordsOf, subsAt]
  omega

theorem fld_clen (h : clenOf c < 256 ^ 8) : fld (tables t raw c ++ rest) 0x10 8 = clenOf c := by
  rw [tables, List.append_assoc, fld_append_skip _ length_wordsOf (by decide), List.append_assoc, fld_append_left _ (by simp)]
  exact (leNat_leBytes 8 _).trans (Nat.mod_eq_of_lt h)

theorem fld_syms {j : Nat} (hj : j < 15) : fld (tables t raw c ++ rest) (0x18 + j) 1 = ((symsOf c)[j]'(by rw [length_symsOf]; exact hj)).toNat := by
  have hlen := length_symsOf (c := c)
  rw [tables, List.append_assoc, fld_append_skip _ length_wordsOf (by omega), List.append_assoc, fld_append_skip _ (length_leBytes ..) (by omega),
    List.append_assoc, fld_append_left _ (by omega), fld_one (by omega)]
  congr 2
  omega

theorem fld_rsv : fld (tables t raw c ++ rest) 0x27 9 = 0 := by
  rw [tables, List.append_assoc, fld_append_skip _ length_wordsOf (by decide), List.append_assoc, fld_append_skip _ (length_leBytes ..) (by decide),
    List.append_assoc, fld_append_skip _ length_symsOf (by decide), fld_append_left _ (by simp [zeros]), fld_zeros]

end

/-! ### The block -/

section
variable {etype : Nat} {t : Ty} {raw : List Byte} {c : List (Nat × Nat) × Nat}

theorem fld_packedBlock (off n : Nat) : fld (packedBlock etype t raw c) (16 + off) n = fld (tables t raw c ++ filled (body t raw c)) off n :=
  fld_sealed ..

theorem fld_packedBlock_words {s : Nat} (hs : s < 16) (hwords : (subAt t raw c s).1 ≤ 255) :
    fld (packedBlock etype t raw c) (0x10 + s) 1 = (subAt t raw c s).1 := by
  rw [fld_packedBlock, fld_words _ hs hwords]

theorem drop_packedBlock : (packedBlock etype t raw c).drop 0x40 = filled (body t raw c) := by
  rw [packedBlock, sealed, ← List.append_assoc]
  exact List.drop_left' (by rw [List.length_append, length_head, length_tables])

theorem length_tables_filled : 16 + (tables t raw c ++ filled (body t raw c)).length = up (64 + (body t raw c).length) 64 := by
  rw [List.length_append, length_tables, ← length_filled]
  omega

variable (ht : t.Float) (hwords : ∀ s, s < 16 → (subAt t raw c s).1 ≤ 255)
include ht hwords

theorem Ty.Float.packedBlock_framed (he : etype < 256) (hmax : raw.length ≤ 4096) : Framed (packedBlock etype t raw c) etype 0 raw.length :=
  sealed_framed he (by decide) (by omega) length_tables_filled (ht.len_lt raw c hmax hwords)

/-- Its length is the one that its fields call for (R251). -/
theorem Ty.Float.length_eq_blkLen : (packedBlock etype t raw c).length = blkLen t false raw.length (packedBlock etype t raw c) := by
  have hfields := List.map_congr_left (l := List.range 16) fun s hs =>
    fld_packedBlock_words (etype := etype) (List.mem_range.1 hs) (hwords s (List.mem_range.1 hs))
  rw [blkLen, if_neg Bool.false_ne_true, hfields, packedBlock, length_sealed, length_tables_filled, ht.length_body, Nat.add_assoc]

end

section
variable {t : Ty} {c : List (Nat × Nat) × Nat} (hlen : c.1.length ≤ 15) (hent : ∀ e ∈ c.1, 1 ≤ e.2 ∧ e.1 < 2 ^ t.eb) (hesc : 1 ≤ c.2)
include hlen hent hesc

theorem slot_len_lt (hmax : ∀ e ∈ entsOf c, e.len ≤ 12) (j : Nat) : (slot c j).len < 16 := by
  by_cases h0 : (slot c j).len = 0
  · omega
  · by_cases hj : j < 16
    · have := hmax _ ((mem_entsOf hlen (fun e he => (hent e he).1) hesc).2 ⟨j, hj, rfl, h0⟩)
      omega
    · rw [slot, if_neg (by omega), List.getD_eq_default _ _ (by omega)] at h0
      exact absurd rfl h0

omit hlen hesc in
theorem slot_sym_lt (heb : t.eb ≤ 8) {j : Nat} (hj : j < 15) : (slot c j).sym < 256 := by
  by_cases hin : j < c.1.length
  · rw [slot, if_neg (by omega), List.getD_eq_getElem _ _ hin]
    exact (hent _ (List.getElem_mem hin)).2.trans_le (Nat.pow_le_pow_right (by decide) heb)
  · rw [slot_unused (by omega) hj]
    exact Nat.zero_lt_succ _

/-- The header of a block states the code that it is under. -/
theorem usedOf_packedBlock (heb : t.eb ≤ 8) (hmax : ∀ e ∈ entsOf c, e.len ≤ 12) (etype : Nat) (raw : List Byte) :
    usedOf (packedBlock etype t raw c) = entsOf c := by
  have hpos := fun e he => (hent e he).1
  have hslot := slot_len_lt hlen hent hesc hmax
  have hclen : clenOf c < 256 ^ 8 := by
    rw [clenOf, clen_eq hlen hpos hesc]
    exact packed_lt (w := 4) hslot 16
  refine usedOf_eq hlen hpos hesc ?_ hslot fun j hj => ?_
  · exact (fld_packedBlock 0x10 8).trans (fld_clen _ hclen)
  · rw [show 0x28 + j = 16 + (0x18 + j) by omega, fld_packedBlock, fld_syms _ hj]
    simp only [symsOf, List.getElem_map, List.getElem_range]
    rw [symByte_eq hlen hpos hesc hj, BitVec.toNat_ofNat, Nat.mod_eq_of_lt (slot_sym_lt hent heb hj)]

/-- A block in compressed mode decodes to the bytes it was made of. -/
theorem decode_blockWith {etype : Nat} {raw b : List Byte} (hty : ty? etype = some t) (h0 : etype ≠ 0) (hpos : 0 < raw.length)
    (hmax : raw.length ≤ 4096) (hmod : raw.length % t.bytes = 0) (hcode : codeOk t (entsOf c) = true) (hb : blockWith etype t raw c = some b) :
    decode b = .raw raw := by
  obtain ⟨hwords, rfl⟩ := blockWith_some hb
  have ht := ty?_isFloat hty h0
  obtain ⟨hmax', hcodes⟩ := codeOk_unambiguous hcode
  have hused := usedOf_packedBlock hlen hent hesc ht.eb hmax' etype raw
  have hframe := ht.packedBlock_framed hwords (ty?_lt hty).1 hmax
  have hsubs : readSubs (codes (usedOf (packedBlock etype t raw c))) t.eb (raw.length / t.bytes) (packedBlock etype t raw c) (List.range 16)
      ((packedBlock etype t raw c).drop (0x40 + up (smLen t (raw.length / t.bytes)) 4)) = some ((List.range 16).map (expsOf t raw)) := by
    rw [hused, ← List.drop_drop, drop_packedBlock]
    exact ht.readSubs_body raw c hcodes fun s hs => fld_packedBlock_words hs (hwords s hs)
  have hraw : raw.length = t.bytes * (raw.length / t.bytes) := (Nat.mul_div_cancel' (Nat.dvd_of_mod_eq_zero hmod)).symm
  rw [hframe.decode_packed hty hpos hmax hmod ((fld_packedBlock 0x27 9).trans (fld_rsv _)) h0 (ht.length_eq_blkLen hwords)
    (by rw [hused]; exact hcode) hsubs, drop_packedBlock, flatten_join raw hraw (fun i hi => expsOf_getD raw hi) fun i hi => ht.smOf_body raw c hi]

end

end Sys2Proof.Machine.Wio

open Sys2Proof Sys2Proof.Machine

/-- Settles O38: a decoder finds the header that the encoder wrote; under a code whose lengths keep the sum of R256 no code begins another, so each
exponent is read back as it was put, and with its sign-mantissa field it is the element. -/
theorem blocksAreLossless : Obligations.BlocksAreLossless :=
  ⟨fun _ _ _ ht hpos hmax hmod => Wio.decode_rawBlock ht hpos hmax hmod,
   fun _ _ _ _ _ ht h0 hpos hmax hmod hlen hent hesc hcode hb => Wio.decode_blockWith hlen hent hesc ht h0 hpos hmax hmod hcode hb⟩
end

section
/-! PROOFS. The last step of a `CKPT.WRITE` whose pair has noted the line of its region table as lost (R248, R266). -/
namespace Sys2Proof.Machine

/-- A `CKPT.WRITE` of one region, under way. -/
def lateChain : Chain := { Tests.ch Tests.wiotteOperationsD2 with stage := .busy }

/-- Its pair has only the write-back of the manifest left. -/
def latePair : Pair := { chain := some lateChain, phase := 20, kept := [(kNext, leBytes 8 9)], lostLn := [lineNo 0xA00000] }

/-- The region table, one region of 4 bytes at address 0, is the line at 0xA00000, which the pair has noted. -/
def lateWrite : State := { Tests.mkSt { Tests.up [] with
  gran := [(5, Tests.g5), (6, { tier := 2, part := 0, slot := 1 })], pairs := [(0, latePair)] } with mem := Tests.memOf [(0xA00008, 8, 4)] }

theorem lateWrite_idle : lateWrite.dev.Idle := Tests.idle_of (by decide +kernel)

theorem lateWrite_goesOn : lateWrite.dev.GoesOn 0 0xA4 Tests.wiotteOperationsD2 lateChain := Tests.goesOn_of (by decide +kernel)

theorem lateWrite_readable : lateWrite.Readable 0xA00000 0 := Tests.readable_of Tests.g5 (by decide +kernel)

/-- The table is read again, and its line counts as lost. -/
theorem lateWrite_lost : Tests.next (.ckptWrite 0) lateWrite
    (fun t => (t.dev.pair 0).chain.map (·.stage) == some (.done .lost 0)) = true := by decide +kernel

end Sys2Proof.Machine

open Sys2Proof Sys2Proof.Machine

/-- Refutes O39: the clauses on `CKPT.WRITE` and `CKPT.RESTORE` under way leave open which lines the pair has noted as lost. Where it has noted the
line of the region table, which it does not keep, the last step of `CKPT.WRITE` reads that line again and ends the descriptor `LOST`. The clauses
would need `(s.dev.pair n.val).lostLn = []`. -/
theorem not_wiotteOperations : ¬ Obligations.WiotteOperations := by
  rintro ⟨-, -, hwrite, -⟩
  obtain ⟨t, hexec, hended, -⟩ := hwrite 0 Tests.wiotteOperationsD2 lateChain ⟨0, 4, 0⟩ { tier := 2, part := 0, slot := 1 } 9 lateWrite
    lateWrite_idle lateWrite_goesOn (by decide +kernel) (by decide +kernel) (by decide +kernel) (by decide +kernel) rfl rfl rfl (by decide) rfl rfl
    lateWrite_readable (by decide +kernel) (by decide +kernel) rfl rfl (by decide +kernel) (by decide +kernel)
  have hlost := lateWrite_lost
  rw [Tests.next, hexec] at hlost
  dsimp only at hlost
  rw [show (t.dev.pair 0).chain.map (·.stage) = some (.done .ok 9) from hended] at hlost
  exact absurd hlost (by decide)
end
